-- ==== Sys2Proof/Word.lean ====
section
/-! DEFINITION. The word types of the Mirovon model and its one container type. -/

namespace Sys2Proof

/-- One byte (the manual is little-endian throughout, 00_scope.md "Bit ranges and maps"). -/
abbrev Byte := BitVec 8

/-- A 64-bit word: a sequencer register (07_sequencer.md), an instruction word (R141), a counter (R227). -/
abbrev Word := BitVec 64

/-- A map from numbers to values in one canonical form: keys strictly rising, no entry equal to the
value an unlisted key reads as. The operations and the form stand in Machine/Sparse.lean. -/
abbrev Sparse (α : Type) := List (Nat × α)

end Sys2Proof
end

