-- ==== Sys2Proof/Syntax.lean ====
section
/-! DEFINITION. The commands of the block: one constructor for each row of the table of operations and events, with what
the environment supplies (where the event happens, what a read returned, what a sensor showed). -/

namespace Sys2Proof

/-- What a descriptor fetch returned (R254): the 64-byte descriptor, or a failed PCIe completion. -/
inductive Fetch where
  | data (d : BitVec 512)
  | ur
  | ca
  | poison
deriving DecidableEq, Repr

/-- What a read of host memory returned (R254). -/
inductive ReadRes where
  | data (bytes : List Byte)
  | ur
  | ca
  | poison
deriving DecidableEq, Repr

/-- A memory error met while granules are read or written (R213 to R215). -/
inductive Ecc where
  /-- single-bit data error in LPDDR5X granule `g` -/
  | single (g : Nat)
  /-- double-bit error, or a mismatch with the address, in LPDDR5X granule `g` -/
  | double (g : Nat)
  /-- single-bit link error on the transfer of granule `g` -/
  | linkSingle (g : Nat)
  /-- `fails` attempts of the transfer of granule `g` failed uncorrectably -/
  | linkFail (g fails : Nat)
  /-- single-bit error in an SRAM word -/
  | sramSingle
  /-- double-bit error in the SRAM granule at slot-window granule `g` -/
  | sramDouble (g : Nat)
  /-- double-bit error in the cached copy of the blob granule at LPDDR5X granule `g` -/
  | cacheDouble (g : Nat)
  /-- double-bit error in granule `g` of the shared tables -/
  | sharedDouble (g : Nat)
  /-- double-bit error in the copy of STREAM granule `g` in the working buffer -/
  | tensorDouble (g : Nat)
  /-- double-bit error in the slot's emit stage -/
  | emitDouble
  /-- double-bit error in the oldest message waiting at exchange port `p` -/
  | portDouble (p : Nat)
  /-- double-bit error in spill record `n` -/
  | spillDouble (n : Nat)
  /-- double-bit error in the cached record of context slot `n` (R215, R218) -/
  | recordDouble (n : Nat)
deriving DecidableEq, Repr

/-- One conversion whose reading departs from the ideal current (R51, R399): physical column, segment, bit-step, half and the departure in I_u. -/
structure ConvErr where
  col : Nat
  seg : Nat
  step : Nat
  half : Nat
  delta : Int
deriving DecidableEq, Repr

/-- What the survey's reference MVM measured of a facet block: the gain less the offset reference lane (R169, R176). -/
structure SurveyReading where
  ch : Nat
  tile : Nat
  facet : Nat
  block : Nat
  m : Int
deriving DecidableEq, Repr

/-- One step of an engine lane in a residue check pass (R290): the exact integer or significand products, those of a floating-point format
aligned to the step's largest exponent, and the sum that the lane gave before rounding. -/
structure ResidueStep where
  products : List Int
  sum : Int
deriving DecidableEq, Repr

/-- Conversions of a check MVM of the in-field test that departed from the ideal (R305, R288): tile, logical facet, vector, whether it is the retry. -/
structure TestErr where
  tile : Nat
  lfacet : Nat
  vector : Nat
  retry : Bool
  errs : List ConvErr
deriving DecidableEq, Repr

/-- A DAC code stepped to in the in-field test and what was read back (R305): tile, DAC in the order of R65. -/
structure DacStep where
  tile : Nat
  dac : Nat
  code : BitVec 12
  read : BitVec 12
deriving DecidableEq, Repr

/-- What the later phases of an in-field test found (R305): whether the scan patterns and the SRAM march passed, the DAC steps, the departures
of the check MVMs. -/
structure TestFound where
  scan : Bool
  march : Bool
  dacs : List DacStep
  errs : List TestErr
deriving DecidableEq, Repr

/-- What an SPDM requester offers at a port (R327): ExtAsym entries (registry, vendor, algorithm) and the bit masks of hashes, DHE groups and AEAD suites. -/
structure AlgOffer where
  port : Nat
  extAsym : List (Nat × Nat × Nat)
  hash : Nat
  dhe : Nat
  aead : Nat
deriving DecidableEq, Repr

/-- The 64 words of a function's doorbell block as its read returned them (R248). -/
structure Doorbell where
  fn : Nat
  words : List (BitVec 32)
deriving DecidableEq, Repr

/-- What the fetch of an INFER descriptor returned (R254) and the memory errors that its prefetch meets (R210, R214). -/
structure InferFetch where
  fetch : Fetch
  ecc : List Ecc
deriving DecidableEq, Repr

/-- What the intake reads: the doorbell blocks that came back (R248) and the memory errors, each in its channel, that prefetches meet (R210, R214). -/
structure Intake where
  doorbells : List Doorbell
  ecc : List (Nat × Ecc)
deriving DecidableEq, Repr

/-- What KEY_EXCHANGE carries (R327): the requester's session number and its ECDHE share. -/
structure KeyOffer where
  session : Nat
  share : List Byte
deriving DecidableEq, Repr

/-- The mode in which the link trained (R243): generation and width. -/
structure LinkMode where
  gen : Nat
  width : Nat
deriving DecidableEq, Repr

/-- One program of a program package: where it goes and its image of R129 as bytes. -/
structure ProgFill where
  ch : Nat
  number : Nat
  image : List Byte
deriving DecidableEq, Repr

/-- The space a register access addresses (R369, R372, R393). -/
inductive RegSpace where
  | bar0
  | fnPage
  | bar2
deriving DecidableEq, Repr

/-- A mailbox request: HUB_FN_MBX_CMD's fields and the data bytes (R385, R387). -/
structure MbxReq where
  ver : Nat
  tag : Nat
  data : List Byte
deriving DecidableEq, Repr

/-- Where a barrier message comes from: the channel's own queue of messages in flight, or a peer (R279). -/
inductive BarSource where
  | own
  | peer (n : Nat) (hdr : BitVec 256) (body : List Byte)
deriving DecidableEq, Repr

/-- What a calibration found for one facet block (R174, R288): FP16 gains, and the residual and threshold for each of the four vectors. -/
structure BlockCal where
  c : BitVec 16
  r : BitVec 16
  rho : List (BitVec 16)
  tau : List (BitVec 16)
deriving DecidableEq, Repr

/-- What a facet's programming and calibration met: the failed columns (R192), whether each was stuck at erase, and the departures of
conversions in the 64 calibration MVMs, each with the MVM's number (R174). -/
structure ProgOutcome where
  failed : List (Nat × Bool)
  errs : List (Nat × ConvErr)
deriving DecidableEq, Repr

/-- The commands. Rows of spec/opcode_table.json in its order; LAWS.json maps each constructor to its row. -/
inductive Instr where
  | powerUp
  | powerGood (seeds : List Word)
  | apexRelease (gcmOk : Bool) (survey : List SurveyReading)
  | bootComplete
  | bootTimeout
  | linkTrained (mode : LinkMode)
  | enterService
  | powerLoss
  | overvoltageShutdown
  | supplyLowEntry
  | supplyHighEntry
  | supplyBandMs
  | perstAssert
  | perstGlitch
  | warmReset (seeds : List Word)
  | perstRelease (survey : List SurveyReading)
  | tickInEdge
  | holdoverTimeout
  | internalTick
  | tick
  | intakeClose (x : Intake)
  | yieldMark
  | endOfCompute
  | checkSlot
  | emissionClose (refused : Bool)
  | lateCompletionWrite
  | infer (fn sq : Nat) (f : InferFetch)
  | inputReadDone (ch id : Nat) (r : ReadRes)
  | slotBind (ch slot : Nat)
  | ctxOpen (fn sq : Nat) (f : Fetch)
  | ctxReset (fn sq : Nat) (f : Fetch)
  | ctxRelease (fn sq : Nat) (f : Fetch)
  | ctxReleaseComplete (ctx : Nat)
  | stateGet (fn sq : Nat) (f : Fetch)
  | statePut (fn sq : Nat) (f : Fetch)
  | ctxQuery (fn sq : Nat) (f : Fetch)
  | loadWeights (fn sq : Nat) (f : Fetch) (pkg : ReadRes) (sigOk : Bool)
  | loadProgram (fn sq : Nat) (f : Fetch) (progs : List ProgFill) (sigOk : Bool)
  | sample (fn sq : Nat) (f : Fetch)
  | sampleRunEnd (ch : Nat)
  | add (ch slot : Nat)
  | sub (ch slot : Nat)
  | and (ch slot : Nat)
  | or (ch slot : Nat)
  | xor (ch slot : Nat)
  | shl (ch slot : Nat)
  | shr (ch slot : Nat)
  | sra (ch slot : Nat)
  | mul (ch slot : Nat)
  | slt (ch slot : Nat)
  | sltu (ch slot : Nat)
  | li (ch slot : Nat)
  | ldS (ch slot : Nat)
  | stS (ch slot : Nat)
  | bdSet (ch slot : Nat)
  | rdSys (ch slot : Nat)
  | beq (ch slot : Nat)
  | bne (ch slot : Nat)
  | blt (ch slot : Nat)
  | bge (ch slot : Nat)
  | jmp (ch slot : Nat)
  | mvmA (ch slot : Nat)
  | mvmD (ch slot : Nat)
  | quantRow (ch slot : Nat)
  | deq (ch slot : Nat)
  | redTopk (ch slot : Nat)
  | redMm (ch slot : Nat)
  | normRow (ch slot : Nat)
  | actTab (ch slot : Nat)
  | vecOp (ch slot : Nat)
  | ctxLd (ch slot : Nat) (ecc : List Ecc)
  | ctxSt (ch slot : Nat) (ecc : List Ecc)
  | emit (ch slot : Nat)
  | xchSnd (ch slot : Nat)
  | xchRcv (ch slot : Nat)
  | spill (ch slot : Nat)
  | resume (ch slot : Nat)
  | sig (ch slot : Nat)
  | wait (ch slot : Nat)
  | bar (ch slot : Nat)
  | yield (ch slot : Nat)
  | halt (ch slot : Nat)
  | inferenceCommit (ch slot : Nat)
  | unitStart (ch slot seq : Nat) (ecc : List Ecc)
  | instructionComplete (ch slot seq : Nat)
  | tileGrant (ch tile : Nat)
  | facetSwitchDone (ch tile : Nat)
  | mvmComplete (ch tile : Nat) (err : List ConvErr) (dacFault : Bool)
  | bankDrain (ch tile bank : Nat)
  | autoSpill (ch slot handle : Nat)
  | groupGrant (ch : Nat)
  | lookbackVerdict (ch slot seq : Nat)
  | requantDone (ch slot seq : Nat)
  | weightStreamStart (ch : Nat)
  | weightBlockArrival (ch base : Nat) (ecc : List Ecc)
  | cacheSetWaitEnd (ch slot seq : Nat)
  | patrolScrub (ch granule : Nat) (ecc : List Ecc)
  | xchMessageDelivered (ch slot seq : Nat)
  | expertRequestArrival (ch id : Nat)
  | expertReplyArrival (ch id : Nat)
  | linkedVertexSignal (ch : Nat)
  | barrierArrival (ch : Nat) (src : BarSource)
  | barrierRelease (ch : Nat) (src : BarSource)
  | heldReleaseWake (ch b : Nat)
  | arantHello (n : Nat) (hdr : BitVec 256)
  | arantExchange (n : Nat) (hdr : BitVec 256) (body : List Byte)
  | arantExpertRequest (n : Nat) (hdr : BitVec 256) (body : List Byte)
  | arantExpertReply (n : Nat) (hdr : BitVec 256) (body : List Byte)
  | arantCredit (n : Nat) (hdr : BitVec 256) (body : List Byte)
  | arantRetraction (n : Nat) (hdr : BitVec 256) (body : List Byte)
  | peerApertureRead
  | ideIntegrityFail (stream : Nat)
  | functionLevelReset (fn : Nat)
  | functionOpen (fn : Nat) (v : BitVec 64)
  | functionClose (fn : Nat)
  | functionClosed (fn : Nat)
  | ringEnable (fn : Nat) (isCq : Bool) (n : Nat) (v : BitVec 128)
  | ringDisable (fn : Nat) (isCq : Bool) (n : Nat)
  | ringFreed (fn : Nat) (isCq : Bool) (n : Nat)
  | protCommit (fn : Nat)
  | protDiscard (fn : Nat)
  | protOwnWrite (fn : Nat) (v : BitVec 64)
  | setupDone (fn : Nat)
  | smbInstallerClear (fn : Nat)
  | tickCfgWrite (fn : Nat) (v : BitVec 32)
  | checkCfgWrite (fn : Nat) (v : BitVec 32)
  | pwrCfgWrite (fn : Nat) (v : BitVec 32)
  | testPeriodWrite (fn : Nat) (v : BitVec 64)
  | testRunNow (fn : Nat) (v : BitVec 64)
  | schedCfgWrite (fn ch : Nat) (v : BitVec 32)
  | syncCfgWrite (fn ch : Nat) (v : BitVec 32)
  | vtxLinkWrite (fn ch i : Nat) (v : BitVec 32)
  | barCfgWrite (fn ch b : Nat) (v : BitVec 64)
  | cntSelWrite (fn ch n : Nat) (v : BitVec 64)
  | cntWrite (fn ch n : Nat) (v : BitVec 64)
  | rngSeedWrite (fn ch : Nat) (v : BitVec 64)
  | mapReadbackGo (fn ch : Nat) (v : BitVec 64)
  | mapReadbackDone (ch : Nat) (readings : List (Nat × Int))
  | registerWrite (fn : Nat) (space : RegSpace) (off width : Nat) (v : BitVec 64)
  | mailboxOpen (fn : Nat) (v : BitVec 64)
  | openMailbox (port : Nat) (r : MbxReq)
  | getChallenge (port : Nat) (r : MbxReq)
  | assumeRole (port : Nat) (r : MbxReq) (sigOk : Bool)
  | releaseRole (port : Nat) (r : MbxReq)
  | readEvents (port : Nat) (r : MbxReq)
  | readAudit (port : Nat) (r : MbxReq)
  | readErrlog (port : Nat) (r : MbxReq)
  | flushStore (port : Nat) (r : MbxReq)
  | setModuleId (port : Nat) (r : MbxReq)
  | authSlot (port : Nat) (r : MbxReq)
  | unmapFacet (port : Nat) (r : MbxReq)
  | readModuleId (port : Nat) (r : MbxReq)
  | firmwareStage (port : Nat) (r : MbxReq) (hdr : BitVec 256) (sigOk : Bool)
  | firmwareActivate (port : Nat) (r : MbxReq)
  | calibrate (port : Nat) (r : MbxReq)
  | provision (port : Nat) (r : MbxReq)
  | clearReplacementFlag (port : Nat) (r : MbxReq)
  | openDebugWindow (port : Nat) (r : MbxReq)
  | getVersion (port : Nat)
  | getCapabilities (port ver : Nat)
  | negotiateAlgorithms (offer : AlgOffer)
  | getDigests (port : Nat)
  | getCertificate (port slot off len : Nat)
  | challenge (port slot : Nat)
  | getMeasurements (port index : Nat) (signedReq : Bool)
  | keyExchange (port : Nat) (x : KeyOffer)
  | finish (port session : Nat) (macOk : Bool)
  | heartbeat (port session : Nat)
  | keyUpdate (port session : Nat)
  | endSession (port session : Nat)
  | challengeExpire (port : Nat)
  | configRecordWriteStart
  | configRecordWriteDone (readBackOk : Bool)
  | packageStagingStart
  | pvCycleEnd (ch tile : Nat) (dacFault : Bool)
  | facetProgramDone (ch tile : Nat) (o : ProgOutcome)
  | facetFreed (ch tile facet : Nat)
  | ageAccrue
  | refreshOverdue (ch tile facet : Nat)
  | refreshReadbackDone (ch tile facet : Nat) (readings : List (Nat × Int)) (stuck : List Nat)
  | facetCheckResult (ch tile : Nat)
  | residueCheckPass (ch fmt : Nat) (steps : List ResidueStep)
  | taintScanDone
  | quiescence
  | testDue (ch : Nat)
  | testShed (ch : Nat)
  | testHeatingEnd (ch : Nat)
  | testVerdict (ch : Nat) (found : TestFound)
  | sensorSample (n : Nat) (reading : Int)
  | thermalLevelStep (ch : Nat)
  | powerMeterSample (centiwatts : Nat)
  | controlStep
  | supplyReturnToRange
  | supplyBelow1V
  | ideKmKeyProgram (stream session : Nat)
  | stateTransferEnd (ch id : Nat) (data : ReadRes)
  | sharedTablesCopyEnd (ch : Nat)
deriving DecidableEq, Repr

end Sys2Proof
end

