-- ==== Sys2Proof/Machine/Bits.lean ====
section
/-! DEFINITION. Bit fields (high:low, 00_scope.md "Bit ranges and maps"), little-endian bytes, and small arithmetic helpers. -/

namespace Sys2Proof.Machine

/-- Bits `hi:lo` of a natural number. -/
def nfld (w hi lo : Nat) : Nat := (w >>> lo) % 2 ^ (hi + 1 - lo)

/-- Field `hi:lo` of a register or structure. -/
def fld {n : Nat} (w : BitVec n) (hi lo : Nat) : Nat := nfld w.toNat hi lo

/-- Bit `i` of a register or structure. -/
def bit {n : Nat} (w : BitVec n) (i : Nat) : Bool := fld w i i == 1

/-- Write `v` into field `hi:lo`; the other bits are kept. -/
def setFld {n : Nat} (w : BitVec n) (hi lo v : Nat) : BitVec n :=
  BitVec.ofNat n (w.toNat - (fld w hi lo) * 2 ^ lo + (v % 2 ^ (hi + 1 - lo)) * 2 ^ lo)

/-- 1 or 0. -/
def bnat (b : Bool) : Nat := if b then 1 else 0

/-- The two's complement value of the low `n` bits of `v`. -/
def signed (n v : Nat) : Int :=
  let u := v % 2 ^ n
  if 2 ^ n ≤ 2 * u then (u : Int) - (2 ^ n : Nat) else (u : Int)

/-- The `n`-bit two's complement code of an integer. -/
def code (n : Nat) (i : Int) : Nat := (i % ((2 ^ n : Nat) : Int)).toNat

/-- The number that little-endian bytes spell. -/
def leNat : List Byte → Nat
  | [] => 0
  | b :: bs => b.toNat + 256 * leNat bs

/-- `n` little-endian bytes of a number. -/
def leBytes : Nat → Nat → List Byte
  | 0, _ => []
  | n + 1, v => BitVec.ofNat 8 v :: leBytes n (v / 256)

/-- Add, staying at `m` once it is reached. -/
def satAdd (m a b : Nat) : Nat := min m (a + b)

/-- `a < b` on 32-bit counts, compared modulo 2^32 as a signed difference (R255, R276). -/
def before32 (a b : BitVec 32) : Bool := decide ((a - b).toInt < 0)

/-- Round up to a multiple of `k`. -/
def upTo (k n : Nat) : Nat := (n + k - 1) / k * k

/-- The least element of a list, `d` if it is empty. -/
def minOf (d : Nat) : List Nat → Nat
  | [] => d
  | [a] => a
  | a :: as => min a (minOf d as)

/-- Insert by a key into a list sorted by that key, after its equals. -/
def insertBy {α : Type} (le : α → α → Bool) (a : α) : List α → List α
  | [] => [a]
  | b :: bs => if le b a then b :: insertBy le a bs else a :: b :: bs

/-- Stable sort by a key order. -/
def sortBy {α : Type} (le : α → α → Bool) : List α → List α
  | [] => []
  | a :: as => insertFirst le a (sortBy le as)
where
  /-- Insert before its equals, so that equal elements keep their order. -/
  insertFirst (le : α → α → Bool) (a : α) : List α → List α
    | [] => [a]
    | b :: bs => if le a b then a :: b :: bs else b :: insertFirst le a bs

/-- Replace element `i` of a list by `f` of it. -/
def lmod {α : Type} (l : List α) (i : Nat) (f : α → α) : List α :=
  l.mapIdx (fun j a => if j = i then f a else a)

end Sys2Proof.Machine
end

