-- ==== Sys2Proof/Config.lean ====
section
/-! DEFINITION. The free values: what the manual leaves open and the machine goes on with. Each is a constant with no
body, so nothing can be proved of it; the assumption log names each one (notes/assumptions/12 to 22, 124, 128). -/

namespace Sys2Proof

/-- Which neighbour a faithfully rounded exponential takes (R93, R153): true for the one above. -/
opaque Config.expUp : BitVec 32 → Bool

/-- Which neighbour a faithfully rounded root takes (R155): true for the one above. -/
opaque Config.sqrtUp : BitVec 32 → Bool

/-- What the apex writes, above zero, into a generator whose SRAM noise reads 0 (R85 forces it non-zero and does not say how). -/
opaque Config.nonZeroSeed : Nat → BitVec 64

/-- The n-th value drawn from the apex generator (R311 nonces, R325 keys). -/
opaque Config.apexRandom : Nat → BitVec 128

/-- SHAKE256 as an uninterpreted function: 32 bytes of output (R317, R325, R328). -/
opaque Config.shake256 : List Byte → BitVec 256

/-- SHA3-512 as an uninterpreted function (R327, R328). -/
opaque Config.sha3 : List Byte → BitVec 512

/-- The set of the context cache a line address maps to; R207 gives the 7,168 sets and no function. -/
opaque Config.cacheSet : Nat → Nat

/-- The data gain of a block whose ideal results are all 0, so that it has no slope (R174 states none), by tile, facet and block. -/
opaque Config.blankGain : Nat → BitVec 16

/-- What the bytes of a resident-expert section say of an expert and a part: tile, logical facet and column-scale
vector, or nothing. R147 and R181 name the content and give no layout. -/
opaque Config.resident : List Byte → Nat → Nat → Option (Nat × Nat × List (BitVec 16))

/-- A value the manual does not state, by the count of free values drawn so far (the detail of a weight load refused before any record is judged; the values other entries of the log name). -/
opaque Config.unstated : Nat → Nat

/-- What an all-integer vec.op gives where the exact result lies outside INT32 (R155 states none), by the exact result. -/
opaque Config.int32Over : Int → BitVec 32

/-- Which operand max and min take where the two compare equal and differ in encoding (R155 states none): true for the first. -/
opaque Config.pickFirst : BitVec 32 → BitVec 32 → Bool

/-- PUF helper data that provisioning makes, by count (R325). -/
opaque Config.pufHelper : Nat → List Byte

/-- The 256-bit secret that this unit's PUF SRAM and helper data reconstruct (R325, R326). -/
opaque Config.pufSecret : List Byte → BitVec 256

/-- AES-256-GCM under a wrapping key: the wrapped private key (R325). -/
opaque Config.gcmWrap : BitVec 256 → List Byte → List Byte

/-- What unwrapping under a wrapping key gives where the GCM tag holds (R326). -/
opaque Config.gcmUnwrap : BitVec 256 → List Byte → List Byte

/-- The Falcon-1024 public key of a private key (R325). -/
opaque Config.falconPublic : List Byte → List Byte

/-- The module's ECDHE secp384r1 share, by count (R327). -/
opaque Config.dheShare : Nat → List Byte

/-- The shared secret of a key exchange, by the module's count and the requester's share (R327). -/
opaque Config.dheSecret : Nat → List Byte → List Byte

/-- Grirdano's PCI vendor ID (R327, R387), which the manual names and does not give. -/
opaque Config.vendorId : BitVec 16

/-- Signature or key material the module generates, by count (R325, R327). -/
opaque Config.signature : Nat → List Byte

/-- Whether a signature in the data of a mailbox command verifies, for a command started by a plain write of HUB_FN_MBX_CMD (R312, R324). -/
opaque Config.signed : List Byte → Bool

/-- The firmware header that the data of command 0x10 carries; R386 leaves the body to the maker's tools. -/
opaque Config.imageHeader : List Byte → BitVec 256

/-- Silicon revision of the unit (R377); the variant capability table shows the values at revision 2. -/
opaque Config.revision : BitVec 8

/-- The digest of the boot ROM (R328). -/
opaque Config.romDigest : BitVec 256

end Sys2Proof
end

