-- ==== Sys2Proof/Machine/Float.lean ====
section
/-! DEFINITION. Number formats and conversions (02_number_formats.md), exact values, FP32 arithmetic, the exponential and the root. -/

namespace Sys2Proof.Machine

/-- The twelve format codes of R20. -/
inductive Fmt where
  | fp32 | bf16 | fp16 | e4m3 | e5m2 | e2m1 | int16 | int8 | int4 | cb16 | cb256 | aw5
deriving DecidableEq, Repr

/-- Format code of a descriptor field (R20); codes 0xC to 0xF are reserved (R8). -/
def Fmt.ofCode : Nat → Option Fmt
  | 0 => some .fp32 | 1 => some .bf16 | 2 => some .fp16 | 3 => some .e4m3 | 4 => some .e5m2 | 5 => some .e2m1
  | 6 => some .int16 | 7 => some .int8 | 8 => some .int4 | 9 => some .cb16 | 10 => some .cb256 | 11 => some .aw5
  | _ => none

/-- Element width in bits (R20). -/
def Fmt.width : Fmt → Nat
  | .fp32 => 32 | .bf16 | .fp16 | .int16 => 16 | .e4m3 | .e5m2 | .int8 | .cb256 => 8
  | .e2m1 | .int4 | .cb16 => 4 | .aw5 => 5

/-- Floating-point formats (R20). -/
def Fmt.isFloat : Fmt → Bool
  | .fp32 | .bf16 | .fp16 | .e4m3 | .e5m2 | .e2m1 => true
  | _ => false

/-- Integer formats (R20). -/
def Fmt.isInt : Fmt → Bool
  | .int16 | .int8 | .int4 => true
  | _ => false

/-- Codebook formats (R26). -/
def Fmt.isCodebook : Fmt → Bool
  | .cb16 | .cb256 => true
  | _ => false

/-- Fraction bits of a floating-point format (R20). -/
def Fmt.frac : Fmt → Nat
  | .fp32 => 23 | .bf16 => 7 | .fp16 => 10 | .e4m3 => 3 | .e5m2 => 2 | .e2m1 => 1 | _ => 0

/-- Exponent bias (R20). -/
def Fmt.bias : Fmt → Nat
  | .fp32 | .bf16 => 127 | .fp16 | .e5m2 => 15 | .e4m3 => 7 | .e2m1 => 1 | _ => 0

/-- Exponent field width (R20). -/
def Fmt.expBits (f : Fmt) : Nat := f.width - 1 - f.frac

/-- Does an all-ones exponent encode infinity and NaN (R23)? -/
def Fmt.ieee : Fmt → Bool
  | .fp32 | .bf16 | .fp16 | .e5m2 => true
  | _ => false

/-- Magnitude bits of the largest finite value (R20). -/
def Fmt.maxBits : Fmt → Nat
  | .fp32 => 0x7F7FFFFF | .bf16 => 0x7F7F | .fp16 => 0x7BFF | .e4m3 => 0x7E | .e5m2 => 0x7B | .e2m1 => 0x7 | _ => 0

/-- The canonical NaN (R23, R24). -/
def Fmt.nanBits : Fmt → Nat
  | .fp32 => 0x7FC00000 | .bf16 => 0x7FC0 | .fp16 => 0x7E00 | .e4m3 => 0x7F | .e5m2 => 0x7E | _ => 0

/-- Magnitude bits of infinity (R23). -/
def Fmt.infBits : Fmt → Nat
  | .fp32 => 0x7F800000 | .bf16 => 0x7F80 | .fp16 => 0x7C00 | .e5m2 => 0x7C | _ => 0

/-- Range of an integer format (R20). -/
def Fmt.intMax : Fmt → Nat
  | .int16 => 32767 | .int8 => 127 | .int4 => 7 | _ => 0

/-- An exact value: NaN, an infinity, or a signed fraction `num / den` (`den` above 0), the sign kept for zero (R25). -/
inductive Val where
  | nan
  | inf (neg : Bool)
  | fin (neg : Bool) (num den : Nat)
deriving DecidableEq, Repr

/-- +0. -/
def Val.zero : Val := .fin false 0 1

/-- An integer as a value. -/
def Val.ofInt (i : Int) : Val := .fin (decide (i < 0)) i.natAbs 1

/-- `n * 2^e`. -/
def Val.scaled (neg : Bool) (n : Nat) (e : Int) : Val :=
  if 0 ≤ e then .fin neg (n * 2 ^ e.toNat) 1 else .fin neg n (2 ^ (-e).toNat)

/-- The value a floating-point encoding holds, with gradual underflow (R20, R21, R23). -/
def decodeFloat (f : Fmt) (b : Nat) : Val :=
  let m := f.frac
  let neg := nfld b (f.width - 1) (f.width - 1) == 1
  let e := nfld b (f.width - 2) m
  let x := b % 2 ^ m
  if f.ieee && e == 2 ^ f.expBits - 1 then (if x = 0 then .inf neg else .nan)
  else if f == .e4m3 && b % 128 == 127 then .nan
  else if e = 0 then .scaled neg x (1 - (f.bias : Int) - m)
  else .scaled neg (2 ^ m + x) ((e : Int) - f.bias - m)

/-- The value of an element of a format other than a codebook (R20, R22 two's complement). -/
def decodeVal (f : Fmt) (b : Nat) : Val :=
  if f.isFloat then decodeFloat f b else .ofInt (signed f.width b)

/-- Round a quotient to nearest, ties to even (R32). -/
def rneDiv (num den : Nat) : Nat :=
  let q := num / den
  let r := num % den
  if 2 * r > den ∨ (2 * r = den ∧ q % 2 = 1) then q + 1 else q

/-- Binary exponent of a positive fraction: 2^e is at most num/den and 2^(e+1) is more. -/
def binExp (num den : Nat) : Int :=
  let e : Int := (Nat.log2 num : Int) - Nat.log2 den
  let ok : Bool := if 0 ≤ e then decide (den * 2 ^ e.toNat ≤ num) else decide (den ≤ num * 2 ^ (-e).toNat)
  if ok then e else e - 1

/-- Divide by 2^e with the given integer rounding of a quotient. -/
def quoPow (rnd : Nat → Nat → Nat) (num den : Nat) (e : Int) : Nat :=
  if 0 ≤ e then rnd num (den * 2 ^ e.toNat) else rnd (num * 2 ^ (-e).toNat) den

/-- Magnitude bits of a fraction in a format whose exponent has no upper limit (R34), by an integer rounding. -/
def roundBits (rnd : Nat → Nat → Nat) (f : Fmt) (num den : Nat) : Nat :=
  if num = 0 then 0 else
    let emin : Int := 1 - (f.bias : Int)
    let e := max (binExp num den) emin
    let k := quoPow rnd num den (e - f.frac)
    -- the fields are consecutive, so a carry out of the fraction moves into the exponent
    if k < 2 ^ f.frac then k else ((e + f.bias).toNat - 1) * 2 ^ f.frac + k

/-- The four sticky format exception flags (R36). -/
structure Flags where
  invalid : Bool := false
  overflow : Bool := false
  underflow : Bool := false
  nanLost : Bool := false
deriving DecidableEq, Repr

/-- Flags stay set once set (R36). -/
def Flags.or (a b : Flags) : Flags :=
  { invalid := a.invalid || b.invalid, overflow := a.overflow || b.overflow,
    underflow := a.underflow || b.underflow, nanLost := a.nanLost || b.nanLost }

/-- Put a sign on magnitude bits. -/
def withSign (f : Fmt) (neg : Bool) (b : Nat) : Nat := b + bnat neg * 2 ^ (f.width - 1)

/-- Conversion of an exact value to a floating-point format: rules Ni, Ns and Nz, and E where nothing rounds (R34). -/
def toFloat (f : Fmt) : Val → Nat × Flags
  | .nan => if f == .e2m1 then (0, { nanLost := true }) else (f.nanBits, {})
  | .inf neg =>
    match f with
    | .e4m3 => (f.nanBits, { invalid := true })
    | .e2m1 => (withSign f neg f.maxBits, { invalid := true })
    | _ => (withSign f neg f.infBits, {})
  | .fin neg num den =>
    let b := roundBits rneDiv f num den
    if b > f.maxBits then
      (withSign f neg (if f.ieee then f.infBits else f.maxBits), { overflow := true })
    else (withSign f neg b, { underflow := decide (b = 0 ∧ num ≠ 0) })

/-- Conversion of an integer to a floating-point format: rule Ir, and E where nothing rounds (R34). -/
def intToFloat (f : Fmt) (i : Int) : Nat × Flags :=
  let neg := decide (i < 0)
  let b := roundBits rneDiv f i.natAbs 1
  if b > f.maxBits then (withSign f neg f.maxBits, { overflow := true }) else (withSign f neg b, {})

/-- Limit an integer to a range, saying whether it was outside. -/
def clampInt (lo hi i : Int) : Int × Bool := if i < lo then (lo, true) else if hi < i then (hi, true) else (i, false)

/-- Rule Fi on a range (R34, R35). -/
def toRange (lo hi : Int) : Val → Int × Flags
  | .nan => (0, { invalid := true })
  | .inf neg => (if neg then lo else hi, { invalid := true })
  | .fin neg num den =>
    let q : Int := (rneDiv num den : Nat)
    let r := clampInt lo hi (if neg then -q else q)
    (r.1, { overflow := r.2 })

/-- Rule Fi (R34): a floating-point value to an integer format. -/
def toInt (f : Fmt) (v : Val) : Nat × Flags :=
  let r := toRange (-(f.intMax : Int) - 1) f.intMax v
  (code f.width r.1, r.2)

/-- Rules Iw and In (R34): an integer to an integer format. -/
def intToInt (f : Fmt) (i : Int) : Nat × Flags :=
  let r := clampInt (-(f.intMax : Int) - 1) f.intMax i
  (code f.width r.1, { overflow := r.2 })

/-- The conversion matrix of R34 for sources that carry their own value (rule C is `decodeIndex` first). -/
def convert (src dst : Fmt) (b : Nat) : Nat × Flags :=
  if src = dst then (b, {})
  else if src.isFloat then (if dst.isFloat then toFloat dst (decodeFloat src b) else toInt dst (decodeFloat src b))
  else if dst.isFloat then intToFloat dst (signed src.width b) else intToInt dst (signed src.width b)

/-- Round an exact value to FP32, to nearest with ties to even. -/
def f32 (v : Val) : BitVec 32 := BitVec.ofNat 32 (toFloat .fp32 v).1

/-- The value of an FP32 encoding. -/
def v32 (b : BitVec 32) : Val := decodeFloat .fp32 b.toNat

/-- Sign change. -/
def Val.neg : Val → Val
  | .nan => .nan | .inf n => .inf (!n) | .fin n a b => .fin (!n) a b

/-- Absolute value. -/
def Val.abs : Val → Val
  | .nan => .nan | .inf _ => .inf false | .fin _ a b => .fin false a b

/-- Exact sum; +0 for an exact sum of +0 and −0 (R25), NaN for opposite infinities (R88). -/
def Val.add : Val → Val → Val
  | .nan, _ | _, .nan => .nan
  | .inf a, .inf b => if a = b then .inf a else .nan
  | .inf a, _ => .inf a
  | _, .inf b => .inf b
  | .fin n a b, .fin m c d =>
    if n = m then .fin n (a * d + c * b) (b * d)
    else
      let x : Int := (if n then -1 else 1) * ((a * d : Nat) : Int) + (if m then -1 else 1) * ((c * b : Nat) : Int)
      .fin (decide (x < 0)) x.natAbs (b * d)

/-- Exact difference. -/
def Val.sub (x y : Val) : Val := x.add y.neg

/-- Exact product; NaN for infinity times zero (R109, R116). -/
def Val.mul : Val → Val → Val
  | .nan, _ | _, .nan => .nan
  | .inf a, .inf b => .inf (a != b)
  | .inf a, .fin m c _ => if c = 0 then .nan else .inf (a != m)
  | .fin n a _, .inf b => if a = 0 then .nan else .inf (n != b)
  | .fin n a b, .fin m c d => .fin (n != m) (a * c) (b * d)

/-- Exact quotient, as IEEE 754 gives its special cases. -/
def Val.div : Val → Val → Val
  | .nan, _ | _, .nan => .nan
  | .inf _, .inf _ => .nan
  | .inf a, .fin m _ _ => .inf (a != m)
  | .fin n _ _, .inf b => .fin (n != b) 0 1
  | .fin n a b, .fin m c d =>
    if c = 0 then (if a = 0 then .nan else .inf (n != m)) else .fin (n != m) (a * d) (b * c)

/-- The value as a comparable integer fraction: -1, 0 or +1 of the difference; NaN compares as nothing. -/
def Val.lt : Val → Val → Bool
  | .nan, _ | _, .nan => false
  | .inf a, .inf b => a && !b
  | .inf a, _ => a
  | _, .inf b => !b
  | .fin n a b, .fin m c d =>
    decide ((if n then -((a * d : Nat) : Int) else ((a * d : Nat) : Int)) <
      (if m then -((c * b : Nat) : Int) else ((c * b : Nat) : Int)))

/-- At most. -/
def Val.le (x y : Val) : Bool := x != .nan && y != .nan && !(y.lt x)

/-- FP32 addition, rounded once. -/
def fadd (a b : BitVec 32) : BitVec 32 := f32 ((v32 a).add (v32 b))
/-- FP32 subtraction, rounded once. -/
def fsub (a b : BitVec 32) : BitVec 32 := f32 ((v32 a).sub (v32 b))
/-- FP32 multiplication, rounded once. -/
def fmul (a b : BitVec 32) : BitVec 32 := f32 ((v32 a).mul (v32 b))
/-- FP32 division, rounded once. -/
def fdiv (a b : BitVec 32) : BitVec 32 := f32 ((v32 a).div (v32 b))

/-- FP32 one. -/
def fone : BitVec 32 := 0x3F800000#32
/-- The canonical FP32 NaN (R24). -/
def fnan : BitVec 32 := 0x7FC00000#32
/-- FP32 minus infinity. -/
def fninf : BitVec 32 := 0xFF800000#32
/-- Is this FP32 encoding a NaN? -/
def isNaN (b : BitVec 32) : Bool := v32 b == .nan

/-! ### The exponential (R93, R153): faithfully rounded, so one of the two FP32 neighbours of the exact value -/

/-- Working precision of the bracket, in fraction bits. -/
def expPrec : Nat := 256

/-- Taylor sum of exp on a fixed-point argument: `n` more terms after the term `t` of index `i`. -/
def expTaylor : Nat → Nat → Nat → Nat → Nat
  | 0, _, _, t => t
  | n + 1, i, y, t => t + expTaylor n (i + 1) y (t * y / (2 ^ expPrec * i))

/-- Square `n` times in fixed point. -/
def expSquare : Nat → Nat → Nat
  | 0, e => e
  | n + 1, e => expSquare n (e * e / 2 ^ expPrec)

/-- exp of a non-negative fraction below 2^7, in fixed point: argument halved eight times, then squared back. -/
def expPos (num den : Nat) : Nat :=
  expSquare 8 (expTaylor 48 1 (num * 2 ^ expPrec / (den * 256)) (2 ^ expPrec))

/-- The FP32 neighbour at or below exp of a finite non-zero value. -/
def expBelow (neg : Bool) (num den : Nat) : Nat :=
  if neg then
    if num ≥ 104 * den then 0
    else roundBits (· / ·) .fp32 (2 ^ expPrec) (expPos num den)
  else if num ≥ 89 * den then Fmt.maxBits .fp32
  else min (roundBits (· / ·) .fp32 (expPos num den) (2 ^ expPrec)) (Fmt.maxBits .fp32)

/-- exp in FP32: exactly 1 at 0, and otherwise the neighbour below or above as the free choice says (R93). -/
def fexp (x : Val) : BitVec 32 :=
  match x with
  | .nan => fnan
  | .inf neg => if neg then 0#32 else BitVec.ofNat 32 (Fmt.infBits .fp32)
  | .fin neg num den =>
    if num = 0 then fone
    else BitVec.ofNat 32 (expBelow neg num den + bnat (Config.expUp (f32 x)))

/-- exp(a − b), with exp(0) taken as exactly 1 also for equal infinities (R93). DESIGN CHOICE (notes/assumptions/104): the exponential is that of
the exact difference, which is not first rounded to FP32. -/
def fexpDiff (a b : BitVec 32) : BitVec 32 :=
  if v32 a == v32 b && !isNaN a then fone else fexp ((v32 a).sub (v32 b))

/-! ### The root (R155): faithfully rounded -/

/-- Integer square root by bits, from bit `k` down. -/
def isqrtFrom : Nat → Nat → Nat → Nat
  | 0, n, r => if (r + 1) * (r + 1) ≤ n then r + 1 else r
  | k + 1, n, r =>
    let t := r + 2 ^ (k + 1)
    isqrtFrom k n (if t * t ≤ n then t else r)

/-- The root of an FP32 value: exact where exact, else the neighbour below or above as the free choice says. -/
def fsqrt (b : BitVec 32) : BitVec 32 :=
  match v32 b with
  | .nan => fnan
  | .inf neg => if neg then fnan else BitVec.ofNat 32 (Fmt.infBits .fp32)
  | .fin neg num den =>
    if num = 0 then b
    else if neg then fnan
    else
      -- scale by an even power of two so that the root carries 100 bits and more
      let n := num * den * 2 ^ 400
      let r := isqrtFrom 400 n 0
      let lo := roundBits (· / ·) .fp32 r (den * 2 ^ 200)
      let v := decodeFloat .fp32 lo
      if v.mul v == .nan then fnan
      else if (v.mul v).le (v32 b) && (v32 b).le (v.mul v) then BitVec.ofNat 32 lo
      else BitVec.ofNat 32 (lo + bnat (Config.sqrtUp b))

/-! ### Reading tensors (R29) -/

/-- Element `i` of a packed row given by its bytes, as raw bits. -/
def elemBits (f : Fmt) (row : List Byte) (i : Nat) : Nat :=
  let lo := i * f.width
  nfld (leNat ((row.drop (lo / 8)).take ((lo % 8 + f.width + 7) / 8))) (lo % 8 + f.width - 1) (lo % 8)

/-- Bytes of a row of `n` elements (R29). -/
def rowBytes (f : Fmt) (n : Nat) : Nat := (n * f.width + 7) / 8

/-- Number spelled by elements of width `w`, element 0 lowest. -/
def packNat (w : Nat) : List Nat → Nat
  | [] => 0
  | x :: xs => x % 2 ^ w + 2 ^ w * packNat w xs

/-- Pack elements into the bytes of a row; padding is zero (R29). -/
def packRow (f : Fmt) (xs : List Nat) : List Byte := leBytes (rowBytes f xs.length) (packNat f.width xs)

end Sys2Proof.Machine
end

