-- ==== Sys2Proof/Machine/Sparse.lean ====
section
/-! DEFINITION. Reading and writing a `Sparse` map, and its canonical form. -/

namespace Sys2Proof.Machine

/-- Read key `k`; an unlisted key reads as `d`. -/
def sget {α : Type} (d : α) : Sparse α → Nat → α
  | [], _ => d
  | (j, v) :: m, k => if k = j then v else sget d m k

/-- Insert `v` at `k` in a list sorted by key, whatever `v` is. -/
def sinsert {α : Type} (k : Nat) (v : α) : Sparse α → Sparse α
  | [] => [(k, v)]
  | (j, w) :: m =>
    if k < j then (k, v) :: (j, w) :: m
    else if k = j then (k, v) :: m
    else (j, w) :: sinsert k v m

/-- Remove key `k`. -/
def serase {α : Type} (k : Nat) (m : Sparse α) : Sparse α :=
  m.filter (fun e => decide (e.1 ≠ k))

/-- Write `v` at `k`, keeping the canonical form: writing the default removes the entry. -/
def sput {α : Type} [DecidableEq α] (d : α) (m : Sparse α) (k : Nat) (v : α) : Sparse α :=
  if v = d then serase k m else sinsert k v m

/-- Change the value at `k` by `f`. -/
def smod {α : Type} [DecidableEq α] (d : α) (m : Sparse α) (k : Nat) (f : α → α) : Sparse α :=
  sput d m k (f (sget d m k))

/-- Write consecutive values from key `k` on. -/
def sputList {α : Type} [DecidableEq α] (d : α) : Sparse α → Nat → List α → Sparse α
  | m, _, [] => m
  | m, k, v :: vs => sputList d (sput d m k v) (k + 1) vs

/-- Read `n` consecutive values from key `k` on. -/
def sgetList {α : Type} (d : α) (m : Sparse α) (k n : Nat) : List α :=
  (List.range n).map (fun i => sget d m (k + i))

/-- Every key of `m` is at least `k`, and keys rise strictly. -/
def sortedFrom {α : Type} : Nat → Sparse α → Bool
  | _, [] => true
  | k, (j, _) :: m => decide (k ≤ j) && sortedFrom (j + 1) m

/-- The canonical form: keys strictly rising, no entry equal to the default. -/
def Sparse.wf {α : Type} [DecidableEq α] (d : α) (m : Sparse α) : Bool :=
  sortedFrom 0 m && m.all (fun e => decide (e.2 ≠ d))

end Sys2Proof.Machine
end

