-- ==== Sys2Proof/Machine/Types.lean ====
section
/-! DEFINITION. The parts of the state: programs, slots, tiles, memories, rings, protection, synchronisation objects,
integrity, security, power and debug. Each field names the rule that gives it. -/

namespace Sys2Proof.Machine

/-- Module variants (R1). -/
inductive Variant where
  | mvn8A | mvn4A | mvn4L
deriving DecidableEq, Repr

/-! ### The program store (R128 to R131) -/

/-- A loaded program image: header, templates, instruction words (R129). -/
structure Prog where
  number : Nat := 0
  hdr : BitVec 128 := 0
  templates : List (BitVec 128) := []
  words : List Word := []
deriving DecidableEq, Repr

/-- A program's three estimates, FP32 (R232), and whether the traffic estimate has its initial value. -/
structure Est where
  tile : BitVec 32 := 0
  eng : BitVec 32 := 0
  bytes : BitVec 32 := 0
  bytesSet : Bool := false
deriving DecidableEq, Repr

/-! ### Descriptors taken from rings -/

/-- Where a taken descriptor stands (R18, R233 to R239). -/
inductive Stage where
  /-- carried: taken or deferred, waiting for admission -/
  | carried
  /-- admitted, not bound -/
  | admitted
  /-- bound and running in a slot -/
  | bound (slot : Nat)
  /-- yielded, keeping its slot, waiting to be resumed -/
  | yielded (slot : Nat)
  /-- waiting for its place in the context's sequence (reset, get, put, release) -/
  | ordered
  /-- a state get or put whose copy is under way -/
  | moving
deriving DecidableEq, Repr

/-- Tile time in ns, engine time in ns, bytes of context traffic (R231, R232). -/
structure Use where
  tile : Nat := 0
  eng : Nat := 0
  bytes : Nat := 0
deriving DecidableEq, Repr

/-- A descriptor taken and not completed. -/
structure Job where
  id : Nat := 0
  fn : Nat := 0
  sq : Nat := 0
  /-- the descriptor's count in its ring, modulo 2^32 -/
  pos : Nat := 0
  desc : BitVec 512 := 0
  stage : Stage := .carried
  /-- frame in which it was taken -/
  taken : Nat := 0
  deferrals : Nat := 0
  /-- carried into the frame now being admitted (R239) -/
  carriedIn : Bool := false
  /-- the charges taken for it in this frame (R234) -/
  charge : Use := {}
  /-- order of admission within the frame -/
  admitNo : Nat := 0
  /-- bytes its prefetch moved (R210, R232) -/
  prefetched : Nat := 0
  /-- input bytes once read (R254); for a state put, the host's bytes -/
  input : Option (List Byte) := none
  /-- the fetch or run found it must complete so (status, cause), in its R18 order -/
  verdict : Option (Nat × Nat) := none
  /-- the scheduler asks it for a yield from its binding (R237) -/
  askYield : Bool := false
deriving DecidableEq, Repr

/-! ### Contexts (R199 to R220) -/

/-- Life of a context (R199). -/
inductive Life where
  | free | open | releasing
deriving DecidableEq, Repr

/-- A page-list entry (R205), and whether the entry itself is poisoned (R218). -/
structure Page where
  valid : Bool := false
  zero : Bool := false
  page : Nat := 0
  poisoned : Bool := false
deriving DecidableEq, Repr

/-- A context record (R204) without owned, owner and prot_gen, which mirror the protection set-up; and its page list. -/
structure Ctx where
  life : Life := .free
  poisoned : Bool := false
  tainted : Bool := false
  prio : Nat := 0
  program : Nat := 0
  blobPages : Nat := 0
  hotPages : Nat := 0
  routingBase : Nat := 0
  cadence : Nat := 0
  clipped : Nat := 0
  inferences : Nat := 0
  lastFrame : Nat := 0
  checkEpoch : Nat := 0
  peerMask : BitVec 64 := 0
  peerEpoch : Nat := 0
  poisonGranule : Nat := 0
  lastStatus : Nat := 0
  lastCause : Nat := 0
  userTag : BitVec 64 := 0
  /-- 0 none, 1 blob granule, 2 outside, 3 record or page-list entry lost -/
  poisonSrc : Nat := 0
  /-- prot_gen reads 0 after the record was rebuilt (R218) -/
  genLost : Bool := false
  /-- the cache copy of the record is uncorrectable (R218) -/
  cacheBad : Bool := false
  /-- poisoned granules of the record's copy in the system area, one bit for each of its two (R218) -/
  sysBad : Nat := 0
  /-- poisoned granules of its page list, one bit for each of its four (R214, R218) -/
  listBad : Nat := 0
  pages : List Page := []
deriving DecidableEq, Repr

/-- Where a poisoned granule of a window came from (R157). -/
inductive PSrc where
  | none
  | blob (granule : Nat)
  | outside
deriving DecidableEq, Repr

/-- The contents of a cached line: dirty mark, 256 bytes, poison of its four granules, and whether that poison arose in the cache itself (R207, R215). -/
structure LineData where
  dirty : Bool := false
  bytes : List Byte := []
  poison : List Bool := []
  sram : List Bool := []
deriving DecidableEq, Repr

/-- A context-cache line: committed contents, staged contents with the holder (slots 0 to 15, or 16 plus a job for a put), filling mark, order of use (R207 to R209). -/
structure Line where
  data : Option LineData := none
  staged : Option (Nat × LineData) := none
  filling : Bool := false
  stamp : Nat := 0
deriving DecidableEq, Repr

/-! ### Handles, groups, outstanding instructions, slots -/

/-- What a handle names (R79, R146 to R149, R153). -/
inductive HKind where
  | closed
  /-- the bank of one mvm.a with grp = 0 -/
  | bank
  /-- an accumulation group -/
  | group
  /-- a held mvm.d output -/
  | engine
  /-- an expert part or set whose result has its scales applied -/
  | expert
deriving DecidableEq, Repr

/-- One of the four group handles of a slot. -/
structure Handle where
  kind : HKind := .closed
  /-- physical group now held, if any (R79) -/
  phys : Option Nat := none
  /-- the group's sums came back from a poisoned spill record (R215) -/
  poisoned : Bool := false
  /-- spill record now holding the group, if any (R82) -/
  record : Option Nat := none
  /-- the record was made by an implicit spill, so the slot resumes it (R83) -/
  implicit : Bool := false
  precise : Bool := false
  fallback : Bool := false
  /-- contributions named since open or resume, and contributions drained since then (R81) -/
  named : Nat := 0
  drained : Nat := 0
  /-- contributions of the handle still to arrive -/
  waiting : Nat := 0
  /-- FP32 rows delivered by a bank, or by a remote expert (BF16 widened) -/
  rows : Option (List (List (BitVec 32))) := none
  /-- exact integers of an INT32 engine output -/
  ints : Option (List (List Int)) := none
  /-- the retained vector of R153 -/
  retained : Option (List (List (BitVec 32))) := none
  /-- statistics descriptor of the last mvm.a with stats (R94) -/
  bstat : Option (BitVec 128) := none
  /-- that mvm.a, in issue order -/
  bstatSeq : Nat := 0
  /-- the mvm.a that opened it -/
  setSeq : Nat := 0
  /-- the sums of an expert form's bank or group before its scales, for statistics -/
  raw : List (BitVec 32) := []
  /-- expert form: directory entry, whether a part flagged last has issued, its column scale and row scale -/
  entry : Nat := 0
  grp : Bool := false
  lastSeen : Bool := false
  colScale : List (BitVec 16) := []
  rowScale : BitVec 16 := 0
  /-- remote expert set: destination channel or module, parts sent -/
  remote : Bool := false
  /-- the pending lookback row whose contributions the group takes (R106) -/
  pendingRow : Option Nat := none
  /-- a contribution came from another than the pending row -/
  fromOther : Bool := false
  /-- peer outputs absorbed through this handle -/
  inUse : Bool := false
deriving DecidableEq, Repr

/-- A physical accumulation group: its lanes' sums and compensation terms (R79). -/
structure Group where
  /-- slot and handle that hold it -/
  holder : Option (Nat × Nat) := none
  /-- holds a compensated unit (R87) -/
  comp : Bool := false
  sums : List (BitVec 32) := []
  comps : List (BitVec 32) := []
deriving DecidableEq, Repr

/-- A spill record with its tag's fields (R82). -/
structure SpillRec where
  valid : Bool := false
  ctx : Nat := 0
  slot : Nat := 0
  handle : Nat := 0
  lanes : Nat := 0
  contributions : Nat := 0
  precise : Bool := false
  fallback : Bool := false
  saturated : Bool := false
  implicit : Bool := false
  frameLo : Nat := 0
  /-- instruction that spilled it: records of one handle are resumed oldest first -/
  seq : Nat := 0
  poisoned : Bool := false
  sums : List (BitVec 32) := []
  comps : List (BitVec 32) := []
  /-- the handle's state to restore -/
  keep : Handle := {}
deriving DecidableEq, Repr

/-- A handle that waits for a physical group, and since when its slot waits (R79). -/
structure GWait where
  slot : Nat := 0
  handle : Nat := 0
  since : Nat := 0
deriving DecidableEq, Repr

/-- A message in an exchange port: bytes, and the unconfirmed peer output it carries (R158, R293). -/
structure Msg where
  bytes : List Byte := []
  poisoned : Bool := false
  peer : Option (Nat × Nat) := none
deriving DecidableEq, Repr

/-- An outstanding instruction: what it read at issue (R136) and how far it is. -/
structure Outst where
  seq : Nat := 0
  idx : Nat := 0
  word : Word := 0
  /-- the descriptors as they stood at issue -/
  bds : List (BitVec 128) := []
  /-- the scalar operand as it stood at issue -/
  x : Word := 0
  started : Bool := false
  /-- waiting for a physical group, a free port, a cache set, a stream -/
  setWait : Bool := false
  /-- tile requests (mvm.a and its replicas) still to deliver -/
  pending : Nat := 0
  /-- the message or reply has arrived -/
  ready : Bool := false
  /-- the first mvm.d of the merged pass it runs in (R139) -/
  pass : Nat := 0
  issuedAt : Nat := 0
  startedAt : Nat := 0
  /-- SRAM or LPDDR5X errors met at start -/
  ecc : List Ecc := []
  /-- the window address of ld.s and st.s (R143) -/
  addr : Nat := 0
  /-- the table-store generation in force at start (R187) -/
  gen : Nat := 0
  /-- the message an xch.rcv took (R158) -/
  msg : Option Msg := none
deriving DecidableEq, Repr

/-- Why an MVM runs. -/
inductive Why where
  /-- an mvm.a of a slot: slot, instruction seq, handle -/
  | work (slot seq handle : Nat)
  /-- an expert part for another channel or module: request id -/
  | expert (id : Nat)
  /-- a reference MVM (R169) -/
  | ref
  /-- a facet check with vector `k`; on a retry `failed` has a bit for each block that failed before (R288) -/
  | check (k failed : Nat)
deriving DecidableEq, Repr

/-- A request at a tile's arbiter (R60). -/
structure Req where
  id : Nat := 0
  why : Why := .ref
  lfacet : Nat := 0
  /-- the instruction word's analogue parameters -/
  word : Word := 0
  /-- input codes, one for each row -/
  codes : List Int := []
  /-- replication factor of the layer (R64) -/
  r : Nat := 1
  /-- key of the pending lookback row read, if any -/
  row : Option Nat := none
  /-- when it reached the tile, ns; and issue slot and channel of origin, for requests of one cycle (R60). A facet check keeps its physical facet there -/
  asked : Nat := 0
  origin : Nat := 0
  /-- granted on codes since replaced: its drain is discarded (R105) -/
  discard : Bool := false
deriving DecidableEq, Repr

/-- A lookback row (R104 to R106), kept after its verdict as the identity of the row a group took. -/
structure PRow where
  key : Nat := 0
  seq : Nat := 0
  /-- the lookback scale it was coded with -/
  scale : BitVec 16 := 0
  /-- the codes, clipped count and largest magnitude of the lookback pass -/
  codes : List Int := []
  clipped : Nat := 0
  largest : Nat := 0
  nans : Nat := 0
  /-- flags of the lookback pass -/
  flags : Flags := {}
  /-- the measured scale the pass found, and what coding at it gives -/
  meas : BitVec 16 := 0
  alt : List Int := []
  altClipped : Nat := 0
  altFlags : Flags := {}
  /-- the verdict was a replay and re-quantisation is under way -/
  replaying : Bool := false
  /-- tile requests granted on the lookback codes, to be discarded and issued anew: tile and request -/
  granted : List (Nat × Req) := []
  /-- window bytes that hold the row's codes -/
  lo : Nat := 0
  hi : Nat := 0
  /-- the threshold set read when the row started (R103) -/
  thr : Nat := 0
  /-- the row's scale is final and every replay MVM issued -/
  done : Bool := false
deriving DecidableEq, Repr

/-- What blocks a slot (R137). -/
inductive Block where
  | none
  | wait (vertex thr : Nat) (consume : Bool)
  | bar (b tag : Nat)
  | xrcv (port : Nat)
  | yield
  | halt
  /-- an opening mvm.a waits for a physical group (R79) -/
  | group (handle : Nat)
  /-- woken: implicit spills are to be resumed before the next instruction (R83) -/
  | resuming
deriving DecidableEq, Repr

/-- A row produced in parts with statistics: where its output and its statistics lie, and the columns produced so far (R94). -/
structure RowParts where
  out : Nat := 0
  stat : Nat := 0
  done : List (Nat × Nat) := []
deriving DecidableEq, Repr

/-- An issue slot (R132). -/
structure Slot where
  /-- the job bound, if any -/
  job : Option Nat := none
  /-- image in the program store -/
  image : Nat := 0
  regs : Sparse Word := []
  bds : List (BitVec 128) := []
  handles : Sparse Handle := []
  pc : Nat := 0
  outs : List Outst := []
  /-- emit stage: descriptor of the destination and the packed rows -/
  emit : List (BitVec 128 × List Byte) := []
  emitPoison : Bool := false
  win : Sparse Byte := []
  winPoison : Sparse PSrc := []
  block : Block := .none
  blockedSince : Nat := 0
  blockedFrames : Nat := 0
  /-- instructions since the last yield (R160) -/
  sinceYield : Nat := 0
  recIssued : Bool := false
  recDone : Bool := false
  flags : Flags := {}
  saturated : Bool := false
  clipped : Nat := 0
  replays : Nat := 0
  fallbacks : Nat := 0
  overdue : Bool := false
  switched : Bool := false
  /-- unconfirmed outputs consumed: peer and newest epoch (R293) -/
  absorbed : List (Nat × Nat) := []
  /-- a retraction reached an output it consumed: it commits tainted (R302) -/
  taint : Bool := false
  use : Use := {}
  /-- use already counted by earlier frames, for carrying (R238) -/
  useAtEnd : Use := {}
  /-- counted as frame_overrun; and its use is being carried, since it runs on past an end of compute -/
  overran : Bool := false
  carrying : Bool := false
  prows : List PRow := []
  nextRow : Nat := 0
  /-- the rows under production whose statistics are combined -/
  parts : List RowParts := []
  haltCode : Nat := 0
  /-- bound before the last switch of its channel -/
  boundAt : Nat := 0
deriving DecidableEq, Repr

/-! ### Tiles -/

/-- A granted MVM. -/
structure Run where
  req : Req := {}
  facet : Nat := 0
  bank : Nat := 0
  gains : List (BitVec 32) := []
deriving DecidableEq, Repr

/-- An accumulator bank: free, filling, or full with its 1,024 sums (R78). -/
inductive BankSt where
  | free | filling
  | full (req : Req) (sat : Bool)
deriving DecidableEq, Repr

/-- States of a tile (R58). A tile whose DACs do not hold their trimmed codes yet is in none of the five: it has not entered idle (R68). -/
inductive TState where
  | untrimmed
  | idle | computing
  | switching (facet : Nat)
  | programming | testing
deriving DecidableEq, Repr

/-- What is programmed into, or read back from, a facet (R190, R196, R395). -/
inductive PvWhy where
  /-- facet record `rec` of the package being staged -/
  | package (rec : Nat)
  /-- a refresh of logical facet `l`: programming after read-back -/
  | refresh (l : Nat)
  /-- a refresh's read-back of logical facet `l` -/
  | readback (l : Nat)
  /-- a debug read-back of CH_MAP_CMD -/
  | debug
deriving DecidableEq, Repr

/-- Programming or read-back in progress on a tile. -/
structure Pv where
  why : PvWhy := .debug
  facet : Nat := 0
  cycle : Nat := 0
  second : Bool := false
  /-- its erase has started and is in the facet's programming count (R195) -/
  erasing : Bool := false
deriving DecidableEq, Repr

/-- A DAC code register (R65) with its parity bit and its shadow copy (R70). -/
structure Dac where
  code : BitVec 12 := 0
  parity : Bool := false
  shadow : BitVec 12 := 0
deriving DecidableEq, Repr

/-- A tile: its state, held facet, request queue, banks, DAC codes and programming. -/
structure Tile where
  st : TState := .untrimmed
  /-- the state it had when a test took it, which the test preserves (R306) -/
  was : TState := .untrimmed
  held : Nat := 0
  queue : List Req := []
  /-- MVMs served in a row on the held facet while another facet waits (R60) -/
  served : Nat := 0
  /-- the bank filled last (R78) -/
  lastBank : Nat := 1
  bank0 : BankSt := .free
  bank1 : BankSt := .free
  sums0 : List (BitVec 32) := []
  sums1 : List (BitVec 32) := []
  /-- when each bank presented its sums, ns -/
  since0 : Nat := 0
  since1 : Nat := 0
  run : Option Run := none
  /-- DAC code registers (R65): read bias, reference bias, program/verify -/
  dacRead : Dac := {}
  dacRef : Dac := {}
  dacPv : Dac := {}
  /-- the cluster reading that the reference bias was last corrected for, since its base code was loaded (R166) -/
  refT : Option Int := none
  pv : Option Pv := none
  /-- a reference MVM is wanted before any waiting request (R169) -/
  wantRef : Bool := false
  /-- facet checks wanted: vector, plus 4 for each unit of the mask of blocks that failed before; logical facet (R288) -/
  wantCheck : List (Nat × Nat) := []
deriving DecidableEq, Repr

/-- Live correction state of a facet block (R165 to R168, R177). -/
structure Block8 where
  /-- age factor A_fb, FP32 -/
  a : BitVec 32 := 0x3F800000
  /-- M and I of the frame, in 1/1 lane units -/
  m : Int := 0
  i : Nat := 0
  /-- frames of its excursions (R177) -/
  exc : List Nat := []
deriving DecidableEq, Repr

/-! ### Persistent facet data (R330 extension areas) -/

/-- State of a physical facet (R185). -/
inductive FState where
  | free | staging | mapped | retired | worn
deriving DecidableEq, Repr

/-- What the store keeps for a physical facet: state, programming count, equivalent age in units of 2^-32 s, calibration of its eight blocks, envelope codes. -/
structure Facet where
  st : FState := .free
  count : Nat := 0
  age : Nat := 0
  /-- refresh due, with the frame it fell due; reported; overdue -/
  due : Bool := false
  overdue : Bool := false
  needsPackage : Bool := false
  /-- its drift alarm has been raised and counted since it was programmed (R172) -/
  drift : Bool := false
  /-- physical columns that a refresh's read-back found with a pair stuck at another code, to be mapped once the facet is freed (R196) -/
  stuck : List Nat := []
  cal : List BlockCal := []
  env : List Nat := []
deriving DecidableEq, Repr

/-- A facet-map entry: valid bit, physical facet, replication factor and group: its number, above it the digest of the package that gave it (R185, R181). -/
structure FMap where
  valid : Bool := false
  phys : Nat := 0
  r : Nat := 1
  group : Nat := 0
deriving DecidableEq, Repr

/-- A trim record (R67): valid digest, 16 read-bias codes, reference-bias base, idle code, the gain and offset of each DAC in the order of
R65 (words of the calibration, which nothing in the manual reads); the tile's κ and β coefficients (R165, R166). -/
structure Trim where
  valid : Bool := true
  read : List (BitVec 12) := []
  refBase : BitVec 12 := 0
  idle : BitVec 12 := 0
  dacCal : List (BitVec 32 × BitVec 32) := []
  a1 : BitVec 32 := 0
  a2 : BitVec 32 := 0
  beta : BitVec 32 := 0
deriving DecidableEq, Repr

/-- The extension data of one channel. -/
structure ChanStore where
  /-- facet map, keyed tile * 16 + logical facet -/
  map : Sparse FMap := []
  /-- physical facets, keyed tile * 16 + facet -/
  facets : Sparse Facet := []
  trims : Sparse Trim := []
  /-- remap table entries (R193), in write order -/
  remap : List (BitVec 32) := []
  /-- physical columns that nothing in their block may use: failed spares, and the spares that failed reference and checksum columns take, keyed
  (16 × tile + facet) × 1080 + column (R192) -/
  badCols : List Nat := []
  /-- active table-store generation (R182) -/
  gen : Nat := 0
deriving DecidableEq, Repr

/-- The table sections of one generation of a channel's table store (R181, R182). -/
structure Tables where
  /-- the shared tables region: expert directory at 0, codebooks and act.tab tables above it -/
  shared : Sparse Byte := []
  /-- its sections as loaded: offset in the region and length -/
  parts : List (Nat × Nat) := []
  /-- the resident-expert section's bytes, as loaded -/
  residents : List Byte := []
  /-- STREAM space -/
  stream : Sparse Byte := []
  /-- the streamed tensors: offset and length -/
  tensors : List (Nat × Nat) := []
deriving DecidableEq, Repr

/-- One audit entry (R317) and whether it is stored. -/
structure Audit where
  seq : Nat := 0
  bits : BitVec 512 := 0
deriving DecidableEq, Repr

/-- An authority slot (R316). -/
structure AuthSlot where
  key : Option (List Byte) := none
  epoch : Nat := 0
deriving DecidableEq, Repr

/-- A firmware slot (R321): header and whether its signature holds. -/
structure FwSlot where
  hdr : BitVec 256 := 0
  valid : Bool := false
deriving DecidableEq, Repr

/-- The body of a configuration record (R330). -/
structure Persist where
  serial : BitVec 64 := 0
  publicKey : List Byte := []
  chain : List Byte := []
  wrappedKey : List Byte := []
  /-- PUF helper data, with which the secret is reconstructed (R325, R326) -/
  helper : List Byte := []
  makerEpoch : Nat := 0
  /-- the maker signing key's certificate verifies against the root digest (R322) -/
  makerCert : Bool := true
  auth : Sparse AuthSlot := []
  moduleId : Nat := 0
  capW : Nat := 75
  tickCfg : BitVec 32 := 0x800003E8
  checkFrac : Nat := 1
  periodH : Nat := 168
  fwActive : Nat := 0
  svnFloor : Nat := 0
  boots : Nat := 0
  replacement : Bool := false
  thermal : Bool := false
  drainCause : Nat := 0
  drainChannel : Nat := 0
  drainFrame : Nat := 0
  /-- stored audit entries, oldest first, and the next sequence number -/
  audit : List Audit := []
  auditNext : Nat := 0
  chans : Sparse ChanStore := []
deriving DecidableEq, Repr

/-- A record in a bank: sequence number, body, whether its digest and extension digests hold (R331). -/
structure Record where
  seq : Nat := 0
  valid : Bool := false
  body : Persist := {}
deriving DecidableEq, Repr

/-- Role of a port (R310). -/
inductive Role where
  | operator | installer | maker
deriving DecidableEq, Repr

/-- The role a port holds and the token's fields that go with it (R315). -/
structure RoleState where
  role : Role := .operator
  rights : Nat := 0
  signer : Nat := 0
  epoch : Nat := 0
  tokenId : BitVec 64 := 0
  /-- bytes 0 to 31 of the token's SHAKE256 digest (R317) -/
  digest : BitVec 256 := 0
deriving DecidableEq, Repr

/-- A mailbox port: function mailbox or SMBus (R384, R385). -/
structure Port where
  roleNow : RoleState := {}
  /-- role taken at the next tick -/
  roleNext : Option RoleState := none
  challenge : Option (BitVec 128) := none
  mbxOpen : Bool := false
  /-- a function mailbox opens at the next tick (R384, R245) -/
  mbxNext : Bool := false
  mbxVer : Nat := 0
  drvMin : Nat := 0
  drvMax : Nat := 0
  busy : Bool := false
  cmd : BitVec 64 := 0
  status : BitVec 64 := 0
  data : List Byte := []
deriving DecidableEq, Repr

/-! ### Functions and rings -/

/-- State of a function (R245). -/
inductive FnState where
  | closed | open | closing | held
deriving DecidableEq, Repr

/-- State of a ring (R248). -/
inductive RingState where
  | free | active | stopping | stopped
deriving DecidableEq, Repr

/-- A submission or completion ring: the register's written bits, its state, and the counts. -/
structure Ring where
  cfg : BitVec 128 := 0
  st : RingState := .free
  /-- enable = 1 written, activation due at the next tick -/
  want : Bool := false
  /-- SQ: the module's head. CQ: the module's tail. Modulo 2^32 -/
  count : Nat := 0
  /-- SQ: tail last read. CQ: host's head last read -/
  host : Nat := 0
  /-- SQ: descriptors taken and not completed. CQ: entries reserved for descriptors -/
  held : Nat := 0
  /-- CQ: reserved entries used for notices and retraction entries not yet read by the host -/
  wrote : Bool := false
deriving DecidableEq, Repr

/-- A function (R244 to R248, R264, R265). -/
structure Fn where
  drvMin : Nat := 0
  drvMax : Nat := 0
  ver : Nat := 0
  st : FnState := .closed
  /-- opens at the next tick -/
  openNext : Bool := false
  /-- frame of an open write that had to wait -/
  waitFrom : Option Nat := none
  /-- ENABLE_WAITED notice owed: frames waited -/
  notice : Option Nat := none
  /-- a function-level reset has still to report itself done (R264) -/
  flr : Bool := false
  dbell : BitVec 128 := 0
  sqs : Sparse Ring := []
  cqs : Sparse Ring := []
deriving DecidableEq, Repr

/-- A range of contexts given to a function, or to none, at a generation (R262). -/
structure Own where
  first : Nat := 0
  last : Nat := 0
  owner : Option Nat := none
  gen : Nat := 0
deriving DecidableEq, Repr

/-- One set of protection rules (R259 to R267). -/
structure Rules where
  /-- HUB_PROT_WIN, keyed 16 f + w -/
  wins : Sparse (BitVec 128) := []
  /-- HUB_PROT_RINGS, keyed f -/
  rings : Sparse (BitVec 64) := []
  /-- HUB_PROT_PEER, keyed n -/
  peers : Sparse (BitVec 128) := []
deriving DecidableEq, Repr

/-- State of a peer window (R267). -/
inductive PeerState where
  | closed | helloSent | open | noVersion
deriving DecidableEq, Repr

/-- A peer window's run-time state (R266 to R268, R293, R301). -/
structure Peer where
  st : PeerState := .closed
  ver : Nat := 0
  helloIn : Option (Nat × Nat) := none
  credits : Nat := 32
  seqOut : Nat := 0
  seqIn : Nat := 0
  /-- messages whose credits are owed: the channel they were for, their sequence number, and whether they return marked undelivered -/
  owed : List (Nat × Nat × Bool) := []
  /-- replies and releases that wait for a credit: header without sequence number, and body -/
  outQ : List (BitVec 256 × List Byte) := []
  heard : Nat := 0
  /-- newest epoch sent in an exchange or expert reply since the window opened; kept after it closes -/
  sentEpoch : Option Nat := none
deriving DecidableEq, Repr

/-- A message written to a peer's aperture (R268): its parts, and the writes that it made in order, each with its bus address (R267). -/
structure PeerMsg where
  peer : Nat := 0
  hdr : BitVec 256 := 0
  body : List Byte := []
  writes : List (Nat × List Byte) := []
deriving DecidableEq, Repr

/-! ### Exchange, experts, vertices, barriers -/

/-- An exchange port: messages in arrival order, messages from peers that wait for a place, slots blocked on it in waiting order. -/
structure XPort where
  msgs : List Msg := []
  inbound : List Msg := []
  waiters : List Nat := []
deriving DecidableEq, Repr

/-- A message under way to an exchange port of channel `dst`, or to a peer (R158). -/
structure Sending where
  slot : Nat := 0
  seq : Nat := 0
  remote : Option Nat := none
  dst : Nat := 0
  port : Nat := 0
  bytes : List Byte := []
  /-- to a peer: the message's sequence number; and that its credit came back marked undelivered -/
  msgSeq : Nat := 0
  undelivered : Bool := false
  /-- flits that have still to cross the chord (R14) -/
  flits : Nat := 0
deriving DecidableEq, Repr

/-- An expert request at its holding channel, or on its way there or back (R126, R147). -/
structure ExpReq where
  id : Nat := 0
  /-- home channel, slot, seq, handle; or the peer and tag it came from -/
  home : Nat := 0
  slot : Nat := 0
  seq : Nat := 0
  handle : Nat := 0
  peer : Option Nat := none
  tag : Nat := 0
  dst : Nat := 0
  expert : Nat := 0
  part : Nat := 0
  grp : Bool := false
  last : Bool := false
  word : Word := 0
  codes : List Int := []
  rowScale : BitVec 16 := 0
  /-- arrived at the holding channel -/
  arrived : Bool := false
  /-- bank sums of the part, once its MVM completed -/
  sums : Option (List (BitVec 32)) := none
  /-- the BF16 reply on its way home, with the peer and epoch it carries -/
  reply : Option (List (BitVec 16)) := none
  colScale : List (BitVec 16) := []
  /-- contributions of the part still to drain -/
  left : Nat := 0
  /-- format flags of the reply's rounding, and whether a lane saturated -/
  flags : Flags := {}
  saturated : Bool := false
  /-- flits of the request, then of its reply, that have still to cross the chord (R14) -/
  flits : Nat := 0
deriving DecidableEq, Repr

/-- A waiter of a vertex: slot, threshold, consume (R272). -/
structure VWait where
  slot : Nat := 0
  thr : Nat := 0
  consume : Bool := false
deriving DecidableEq, Repr

/-- A vertex (R270, R283). -/
structure Vtx where
  value : Nat := 0
  lastCtx : Nat := 0
  lastSlot : Nat := 0
  lastChan : Nat := 0
  lastFrame : Nat := 0
  signalled : Bool := false
  waiters : List VWait := []
deriving DecidableEq, Repr

/-- A forwarded vertex signal under way (R274). -/
structure Signal where
  src : Nat := 0
  slot : Nat := 0
  seq : Nat := 0
  ctx : Nat := 0
  vertex : Nat := 0
  amount : Nat := 0
  /-- flits that have still to cross the chord (R14) -/
  flits : Nat := 1
deriving DecidableEq, Repr

/-- Where an arrival came from: a channel of this module or of a peer. -/
structure BSrc where
  peer : Option Nat := none
  chan : Nat := 0
deriving DecidableEq, Repr

/-- A barrier message under way (R279). -/
structure BMsg where
  release : Bool := false
  b : Nat := 0
  gen : BitVec 32 := 0
  ctx : Nat := 0
  src : BSrc := {}
  /-- flits that have still to cross the chord; none from a peer or the channel itself (R14, R279) -/
  flits : Nat := 0
deriving DecidableEq, Repr

/-- A waiter of a barrier copy: slot, tag, context (R276). -/
structure BWait where
  slot : Nat := 0
  tag : BitVec 32 := 0
  ctx : Nat := 0
deriving DecidableEq, Repr

/-- A barrier copy (R275 to R277, R281, R284). -/
structure Bar where
  /-- CH_BAR_CFG bits 63:32 in force -/
  cfg : BitVec 64 := 0
  gen : BitVec 32 := 0
  arrived : Nat := 0
  sources : List BSrc := []
  waiters : List BWait := []
  /-- woken slots that have not left their generation -/
  leaving : List BWait := []
  heldRel : Option (BitVec 32) := none
  orphans : Nat := 0
  orphanCtx : Nat := 0
  orphaned : Bool := false
deriving DecidableEq, Repr

/-! ### Streams, sampling, counters -/

/-- A streamed tensor in the working buffer (R118, R119). -/
structure Resident where
  base : Nat := 0
  bytes : Nat := 0
  fmt : Nat := 0
  rows : Nat := 0
  elems : Nat := 0
  stride : Nat := 0
  /-- bits of an element; whether its rows are weight columns (R148); and m of the format that the engine reads it in (R113) -/
  width : Nat := 8
  wt : Bool := false
  m : Nat := 1
  /-- weight blocks arrived so far, in the order of R115 -/
  arrived : Nat := 0
  lastUse : Nat := 0
  /-- frame in which it was last named -/
  usedFrame : Nat := 0
  /-- waiting for space -/
  waiting : Bool := false
  poison : List Nat := []
deriving DecidableEq, Repr

/-- A sampling run (R396, R397). -/
structure Sampling where
  job : Nat := 0
  started : Bool := false
  startFrame : Nat := 0
  phase : Nat := 0
  seq : Nat := 0
  dropped : Nat := 0
  /-- records in the die buffer, each with the instruction whose run time is still open; and the count written to the ring -/
  die : List (Option Nat × BitVec 512) := []
  written : Nat := 0
deriving DecidableEq, Repr

/-! ### A channel -/

/-- The frame scheduler's state in a channel (R231 to R241). -/
structure Sched where
  /-- budgets left in this frame -/
  left : Use := {}
  /-- use carried over into the next frame's budgets -/
  carry : Use := {}
  /-- facet-switch time charged to the next frame, ns -/
  switchNs : Nat := 0
  /-- least class number from which arrivals are deferred in this frame (3: none) -/
  blockedFrom : Nat := 3
  /-- least class deferred in this frame (3: none) -/
  deferredMin : Nat := 3
  admitNo : Nat := 0
  /-- the channel's yield mark has passed in this frame (R229, R240) -/
  marked : Bool := false
  cfg : BitVec 32 := 0x40100420
  cfgNext : Option (BitVec 32) := none
  /-- estimates per program number -/
  est : Sparse Est := []
deriving DecidableEq, Repr

/-- In-field test of a channel (R303 to R307). -/
inductive TestPhase where
  | notDue | due | running | cooling | passed
deriving DecidableEq, Repr

structure Test where
  phase : TestPhase := .notDue
  waited : Nat := 0
  lastPass : Nat := 0
  shedding : Bool := false
  /-- heating ended with every sensor at 85 °C or more; and the lowest reading then, in 1/16 °C -/
  hot : Bool := false
  temp : Int := 0
  runNext : Bool := false
  /-- when its latest test started, ns since power-good; and when its heating ended (R304, R305) -/
  began : Option Nat := none
  heated : Nat := 0
deriving DecidableEq, Repr

/-- Checking state of a channel (R287 to R293). -/
structure Check where
  /-- rotation frame index i -/
  i : Nat := 0
  /-- the latest rotation frames, oldest first -/
  list : List Nat := []
  ownMark : Nat := 0
  failed : Bool := false
  isRotation : Bool := false
  /-- formats of the residue check passes that this rotation frame has still to run, in order (R290) -/
  residue : List Nat := []
  /-- bank sums of replicas not yet compared: slot, instruction, tile, sums (R289) -/
  copies : List (Nat × Nat × Nat × List (BitVec 32)) := []
  /-- replica disagreements: tiles, column, frame (R289) -/
  disagree : List (Nat × Nat × Nat × Nat) := []
  /-- pairs (local frame, epoch) for each peer (R293) -/
  pairs : Sparse (List (Nat × Nat)) := []
  /-- contexts tainted by the scan not yet reported -/
  taintedCount : Nat := 0
  firstRetracted : Nat := 0
deriving DecidableEq, Repr

/-- Memory of a channel: LPDDR5X bytes and poison, page pool, cache (R205 to R216). -/
structure Mem where
  lpddr : Sparse Byte := []
  /-- poisoned granules of LPDDR5X, by address / 64 -/
  poison : Sparse Bool := []
  /-- blob-pool pages in use or lost, by page number -/
  usedPages : Sparse Bool := []
  cache : Sparse Line := []
  stamp : Nat := 0
  ctxs : Sparse Ctx := []
deriving DecidableEq, Repr

/-- The sequencer of a channel (R128 to R161). -/
structure Seqr where
  slots : Sparse Slot := []
  images : Sparse Prog := []
  /-- program number to image number plus one -/
  current : Sparse Nat := []
  nextImage : Nat := 1
  /-- number of the next instruction issued in the channel -/
  nextSeq : Nat := 0
  lastIssued : Nat := 15
  groups : Sparse Group := []
  spill : Sparse SpillRec := []
  /-- handles waiting for a physical group, the longest-waiting slot first (R79) -/
  groupQ : List GWait := []
  ports : Sparse XPort := []
  sending : List Sending := []
  experts : List ExpReq := []
  streams : List Resident := []
  useStamp : Nat := 0
  /-- generator state X (R85) -/
  rng : Word := 1
  /-- a debug seed taken at the next word (R395) -/
  rngNext : Option Word := none
  quantThresh : BitVec 64 := 0x0000D008_8810_4420
deriving DecidableEq, Repr

/-- The analogue side of a channel. -/
structure Array where
  tiles : Sparse Tile := []
  /-- AW5 codes, keyed ((tile * 16 + facet) * 1024 + row) * 1080 + column, as 5-bit encodings -/
  codes : Sparse Nat := []
  /-- live correction state, keyed (tile * 16 + facet) * 8 + block -/
  blocks : Sparse Block8 := []
  /-- facet map in force (R187), keyed tile * 16 + logical facet -/
  map : Sparse FMap := []
  /-- clusters in the cold regime (R169) -/
  cold : List Nat := []
  nextReq : Nat := 0
  /-- instructions that read SHARED may not start: the tables copy runs (R187) -/
  copying : Bool := false
  /-- frame of the last switch -/
  switchedAt : Nat := 0
deriving DecidableEq, Repr

/-- Debug and counting registers of a channel (R391 to R397). -/
structure Dbg where
  cycles : Word := 0
  cyclePhase : Nat := 0
  cntSel : Sparse (BitVec 64) := []
  /-- selections written and not yet in force -/
  cntSelNext : Sparse (BitVec 64) := []
  cnt : Sparse (BitVec 64) := []
  busyNs : Nat := 0
  weightNs : Nat := 0
  tableNs : Nat := 0
  mapCmd : BitVec 64 := 0
  mapRunning : Bool := false
  mapBuf : List Byte := []
  sample : Option Sampling := none
deriving DecidableEq, Repr

/-- Synchronisation objects of a channel (R270 to R284). -/
structure Sync where
  vtx : Sparse Vtx := []
  link : Sparse (BitVec 32) := []
  linkNext : Sparse (BitVec 32) := []
  bars : Sparse Bar := []
  barNext : Sparse (BitVec 64) := []
  /-- forwarded signals and barrier messages on their way here, in order -/
  sigIn : List Signal := []
  barIn : List BMsg := []
  cfg : BitVec 32 := 0x04000000
  cfgNext : Option (BitVec 32) := none
deriving DecidableEq, Repr

/-- The chord's arbiter at a channel's output port (R14): the inputs that it served last with a control message and with exchange, and whether
the last bulk cycle went to host DMA. -/
structure Chord where
  ctl : Nat := 0
  bulk : Nat := 0
  dmaLast : Bool := false
deriving DecidableEq, Repr

/-- One channel. -/
structure Chan where
  jobs : List Job := []
  sched : Sched := {}
  seqr : Seqr := {}
  arr : Array := {}
  mem : Mem := {}
  sync : Sync := {}
  check : Check := {}
  test : Test := {}
  chord : Chord := {}
  dbg : Dbg := {}
  thermal : Nat := 0
  /-- the table sections in force: shared tables region, STREAM space, resident experts (R133, R182) -/
  tables : Tables := {}
  /-- poisoned granules of the two STREAM copies -/
  copy1Poison : Sparse Bool := []
  copy2Poison : Sparse Bool := []
  sharedPoison : Sparse Bool := []
  /-- facet counts of CH_CAP_FACETS and CH_FACET_STATUS (R378) -/
  capFacets : BitVec 64 := 0
  facetStatus : BitVec 64 := 0
deriving DecidableEq, Repr

/-! ### Weight packages under way (R180 to R187) -/

/-- Where one facet record of a package stands. -/
inductive RecSt where
  | waiting | programming | done
deriving DecidableEq, Repr

/-- A facet record of a package: header and codes. -/
structure PkgRec where
  hdr : BitVec 128 := 0
  /-- AW5 codes, keyed row * 1080 + column -/
  codes : Sparse Nat := []
  forced : List Nat := []
  st : RecSt := .waiting
  /-- physical facet chosen -/
  facet : Nat := 0
  /-- it waits for its second programming on that facet (R194) -/
  again : Bool := false
  /-- of a refresh: the facet read back -/
  src : Nat := 0
deriving DecidableEq, Repr

/-- A table section of a package. -/
structure PkgSec where
  hdr : BitVec 128 := 0
  bytes : List Byte := []
deriving DecidableEq, Repr

/-- A load request accepted: its job and package. -/
structure Pkg where
  job : Nat := 0
  fn : Nat := 0
  mask : Nat := 0
  digest : BitVec 256 := 0
  recs : List PkgRec := []
  secs : List PkgSec := []
  /-- programmed, waiting for its record -/
  staged : Bool := false
  /-- carried by the record under way -/
  inRecord : Bool := false
  /-- the record is written, switch due at the next tick -/
  recorded : Bool := false
  refresh : Bool := false
deriving DecidableEq, Repr

/-! ### The apex -/

/-- Where P12V has left the supply (R360, R361). -/
inductive Supply where
  | off | rising | on
  /-- switched off after overvoltage until P12V falls below 1.0 V -/
  | latched
deriving DecidableEq, Repr

/-- Supply bands (R360). -/
inductive Band where
  | normal | low | high
deriving DecidableEq, Repr

/-- How far power-up or warm reset is (R361 to R365). -/
inductive Boot where
  | off
  /-- power-good to apex release -/
  | verifying
  /-- no firmware or no valid record: maker commands only (R322, R331) -/
  | romOnly
  /-- apex released, boot complete awaited -/
  | started
  | booted
  /-- boot timed out (R323) -/
  | failed
  /-- warm reset table done, PERST_N still low -/
  | warm
deriving DecidableEq, Repr

structure Power where
  supply : Supply := .off
  band : Band := .normal
  boot : Boot := .off
  perstLow : Bool := true
  /-- the 10 µs recognition window is open (R364) -/
  window : Bool := false
  failedBoots : Nat := 0
  /-- firmware slot running, and whether the ROM chose it in place of the active one (R322 to R324) -/
  fwRunning : Nat := 0
  fwOther : Bool := false
  link : Option LinkMode := none
  recordOk : Bool := false
  keyOk : Bool := false
  trimsOk : Bool := false
  surveyOk : Bool := false
deriving DecidableEq, Repr

/-- Parts of a frame (R229). -/
inductive Phase where
  | intake | compute | yieldMark | endOfCompute | checkDone | guard
deriving DecidableEq, Repr

/-- Counters and tick logic (R223 to R227). -/
structure Clock where
  nanos : Word := 0
  frame : Word := 0
  running : Bool := false
  cfg : BitVec 32 := 0x800003E8
  cfgNext : Option (BitVec 32) := none
  holdover : Bool := false
  locked : Bool := false
  noEdge : Nat := 0
  offset : Int := 0
  /-- nanosecond of the previous tick, or of apex release -/
  lastTick : Nat := 0
  first : Bool := true
  lastEdge : Option Nat := none
  good : Nat := 0
  /-- a holdover tick fell within 100 ns of an edge: the next frame opens on the next edge -/
  rejoin : Bool := false
  /-- a tick is due: its timestamp -/
  due : Option Nat := none
  phase : Phase := .guard
deriving DecidableEq, Repr

/-- HUB registers and logs of the apex. -/
structure Hub where
  smbInstaller : Bool := true
  smbClearNext : Bool := false
  setupDone : Bool := false
  /-- checking fraction code, cap, test period in force; and values waiting -/
  frac : Nat := 1
  fracNext : Option Nat := none
  cap : Nat := 75
  capNext : Option Nat := none
  period : Nat := 168
  periodNext : Option Nat := none
  moduleId : Nat := 0
  errlog : Sparse (BitVec 256) := []
  errHead : Nat := 0
  /-- mailbox events (R389): queue, number, events lost since the queue filled -/
  events : List (BitVec 256) := []
  evSeq : Nat := 0
  evLost : Nat := 0
  debug : Bool := false
  debugNext : Option Bool := none
  debugSince : Nat := 0
  /-- the port whose maker role opened debug mode -/
  debugPort : Nat := 0
deriving DecidableEq, Repr

/-- A completion waiting to be written (R255). -/
structure Cpl where
  fn : Nat := 0
  /-- completion ring -/
  cq : Nat := 0
  /-- the channel of the work, for counting -/
  chan : Nat := 0
  ver : Nat := 0
  kind : Nat := 0
  status : Nat := 0
  cause : Nat := 0
  context : Nat := 0
  user : Nat := 0
  frame : Nat := 0
  detail : Nat := 0
  deferrals : Nat := 0
  clipped : Nat := 0
  replays : Nat := 0
  fallback : Nat := 0
  flags : Flags := {}
  saturated : Bool := false
  switched : Bool := false
  overdue : Bool := false
  sq : Nat := 0
  pos : Nat := 0
  /-- the entry uses the place its descriptor reserved; otherwise one of the 16 kept entries -/
  reserved : Bool := true
  /-- retraction entries carry their own watermark field (R300) -/
  wm : Option Nat := none
  late : Bool := false
deriving DecidableEq, Repr

/-- Functions, ports, protection, peers, intake. -/
structure HostSide where
  fns : Sparse Fn := []
  /-- ports 0 to 31, and 63 for SMBus -/
  ports : Sparse Port := []
  rules : Rules := {}
  staged : Rules := {}
  /-- offsets of the staged writes, in write order -/
  order : List Nat := []
  ownQueue : List (BitVec 64) := []
  own : List Own := []
  gen : Nat := 0
  peers : Sparse Peer := []
  /-- descriptor fetches issued and not returned: function, ring, count -/
  fetchQ : List (Nat × Nat × Nat) := []
  /-- load and sample descriptors taken and not completed -/
  jobs : List Job := []
  nextJob : Nat := 1
  /-- completions that wait for their time in the frame -/
  cpls : List Cpl := []
  /-- host writes that wait for the end of a frame's guard (R229) -/
  heldWrites : List (Nat × List Byte) := []
  /-- held lower halves of register writes, keyed by space and offset -/
  halves : Sparse (BitVec 64) := []
  /-- packages accepted, the one staged first (R184) -/
  pkgs : List Pkg := []
  staging : Bool := false
  /-- unmap requests accepted: port, channel, tile, logical facet, record written (R388) -/
  unmaps : List (Nat × Nat × Nat × Nat × Bool) := []
  /-- authority-slot changes accepted: slot, new content, record written (R316) -/
  auths : List (Nat × AuthSlot × Bool) := []
deriving DecidableEq, Repr

/-- Numbers of waiting items that the record under way carries, from the front of each list. -/
structure Carried where
  audit : Nat := 0
  unmaps : Nat := 0
  auths : Nat := 0
  flush : Nat := 0
  /-- the record began during the drain in progress -/
  drain : Bool := false
deriving DecidableEq, Repr

/-- The configuration store (R330 to R334). -/
structure Store where
  bankA : Record := { seq := 1, valid := true }
  bankB : Record := {}
  writesA : Nat := 1
  writesB : Nat := 0
  /-- contents being worked on: in SRAM, stored by the next record -/
  live : Persist := {}
  /-- bank of the latest valid record: true for B -/
  bankIsB : Bool := false
  seq : Nat := 0
  /-- a write under way: contents, second attempt -/
  writing : Option (Persist × Bool) := none
  lastStart : Nat := 0
  coalesced : Bool := false
  urgent : Bool := false
  fault : Bool := false
  /-- entries waiting to be stored, oldest first (R318) -/
  waiting : List Audit := []
  dropped : Nat := 0
  /-- ports whose FLUSH_STORE waits for the record -/
  flush : List Nat := []
  /-- what the record under way carries: waiting audit entries, unmap requests, authority changes, flush requests -/
  carried : Carried := {}
  /-- firmware slots (R321) -/
  fw0 : FwSlot := { hdr := BitVec.ofNat 256 (2 ^ 248), valid := true }
  fw1 : FwSlot := {}
  fwStaged : Bool := false
  /-- digest of each firmware slot's image -/
  fwDig0 : BitVec 256 := 0
  fwDig1 : BitVec 256 := 0
  /-- table-store generations by channel (R182) -/
  tab0 : Sparse Tables := []
  tab1 : Sparse Tables := []
deriving DecidableEq, Repr

/-- An SPDM session (R327). -/
inductive Spdm where
  | handshake | established
deriving DecidableEq, Repr

/-- SPDM connection of a port: version agreed, capabilities given, algorithms agreed. -/
structure SpdmConn where
  version : Nat := 0
  caps : Bool := false
  algs : Bool := false
deriving DecidableEq, Repr

structure Sec where
  /-- the identity private key is in the apex register (R326) -/
  key : Bool := false
  /-- its value, which no port can read -/
  keyBytes : List Byte := []
  conns : Sparse SpdmConn := []
  /-- sessions: port, number, state, key updates -/
  sessions : List (Nat × Nat × Spdm × Nat) := []
  /-- the secret that the key exchange of each session gave: port, number, secret -/
  secrets : List (Nat × Nat × List Byte) := []
  /-- insecure IDE streams: 0 the link stream, n + 1 the selective stream of peer n, the module's own number + 1 that of the root port (R329) -/
  insecure : List Nat := []
  /-- streams keyed through a session -/
  keyed : List Nat := []
  /-- measurement chains by index (R328) -/
  chains : Sparse (BitVec 512) := []
deriving DecidableEq, Repr

/-- Service states (R297). -/
inductive Svc where
  | starting | inService | draining | drained
deriving DecidableEq, Repr

/-- Service state, watermark, drain (R292 to R302). -/
structure Integ where
  svc : Svc := .starting
  /-- the replacement flag in force: latched by a drain, read from the store at power-up and warm reset (R297) -/
  replacement : Bool := false
  thermal : Bool := false
  cause : Nat := 0
  channel : Nat := 0
  frame : Nat := 0
  /-- HUB_CHECK_WM -/
  wm : Nat := 0
  held : Bool := false
  scanDone : Bool := false
  recordDone : Bool := false
  /-- retraction entries owed: function, entry -/
  retract : List Cpl := []
  /-- functions open at the drain or at the receipt of a retraction -/
  told : List Nat := []
  /-- channel index under test -/
  tested : Option Nat := none
deriving DecidableEq, Repr

/-- A temperature sensor (R342 to R344). -/
structure Sensor where
  broken : Bool := false
  rate : Nat := 0
  reading : Int := 0
  below : Nat := 0
  sampled : Bool := false
deriving DecidableEq, Repr

/-- Sensors, power meter and throttle (R336 to R348). -/
structure Therm where
  sensors : Sparse Sensor := []
  level : Nat := 0
  /-- P_10ms was low at the last hundredth step; a rise since then -/
  prevLow : Bool := false
  rose : Bool := false
  /-- consecutive steps above the cap at level 11, and at or below it -/
  above11 : Nat := 0
  under : Nat := 0
  capNotHeld : Bool := false
  step : Nat := 0
  /-- samples of the latest 10 ms in 0.01 W, newest first -/
  samples : List Nat := []
deriving DecidableEq, Repr

/-- What has left the module, oldest first: completion entries (function, ring, position, entry), host writes (address, bytes), interrupts (function, vector), messages to peers, ticks driven on TICK_OUT, SPDM answers (port, code, bytes), reads answered with Unsupported Request, functions whose function-level reset reported itself done (R264). -/
structure Output where
  cpl : List (Nat × Nat × Nat × BitVec 256) := []
  writes : List (Nat × List Byte) := []
  msix : List (Nat × Nat) := []
  peer : List PeerMsg := []
  ticks : Nat := 0
  spdm : List (Nat × Nat × List Byte) := []
  ur : Nat := 0
  flrDone : List Nat := []
deriving DecidableEq, Repr

end Sys2Proof.Machine
end

