-- ==== Sys2Proof/Machine/Flags.lean ====
section
/-! DEFINITION. Flag computations: format exception flags over many conversions (R36), the quantisation unit's clipping
table (R99), and the flags a slot gathers. -/

namespace Sys2Proof.Machine

/-- The flags of a list of conversions together (R36). -/
def flagsOf (l : List (Nat × Flags)) : Flags := l.foldl (fun a e => a.or e.2) {}

/-- A slot keeps every flag a conversion of its inference sets (R36). -/
def Slot.flag (s : Slot) (f : Flags) : Slot := { s with flags := s.flags.or f }

/-- Largest code magnitude of quant.row (R97); `signedCodes` and INT4 as the code range table gives. -/
def qmaxOf (int4 signedCodes : Bool) (w : Nat) : Nat :=
  match int4, signedCodes with
  | false, true => min 127 (2 ^ w - 1)
  | false, false => 2 ^ w - 1
  | true, true => min 7 (2 ^ w - 1)
  | true, false => min 15 (2 ^ w - 1)

/-- What one element's coding gives: code, flags, clipped, NaN (R99). -/
structure Coded where
  code : Int := 0
  flags : Flags := {}
  clipped : Bool := false
  isNan : Bool := false
deriving DecidableEq, Repr

/-- Code one element at scale `s` (R35, R99). A negative element with unsigned codes gives 0 and is not clipped (R99); where its rounded
quotient is below 0, R35's rule Fi finds it out of range and sets overflow (R34, R36). -/
def codeElem (signedCodes : Bool) (qmax : Nat) (s : Val) (x : Val) : Coded :=
  let lo : Int := if signedCodes then -(qmax : Int) else 0
  match x with
  | .nan => { flags := { invalid := true }, isNan := true }
  | .inf neg => { code := if neg then lo else qmax, flags := { invalid := true }, clipped := true }
  | .fin _ _ _ =>
    match s with
    | .fin _ 0 _ => {}
    | _ =>
      match x.div s with
      | .fin neg num den =>
        let q : Int := (rneDiv num den : Nat)
        let i := if neg then -q else q
        if i < 0 ∧ !signedCodes then { flags := { overflow := true } }
        else
          let r := clampInt lo qmax i
          { code := r.1, flags := { overflow := r.2 }, clipped := r.2 }
      | _ => {}

/-- The smallest value of a scale format not less than a non-negative fraction; above the largest finite value, that value and overflow (R98). -/
def scaleUp (f : Fmt) (num den : Nat) : Nat × Flags :=
  let up (a b : Nat) : Nat := (a + b - 1) / b
  let b := roundBits up f num den
  if b > f.maxBits then (f.maxBits, { overflow := true }) else (b, {})

/-- The measured scale of a row (R98): the absolute maximum over finite elements, or the largest positive one for unsigned codes. -/
def measuredScale (f : Fmt) (signedCodes : Bool) (qmax : Nat) (row : List Val) : Nat × Flags :=
  let mx := row.foldl (fun (m : Nat × Nat) v =>
    match v with
    | .fin neg n d => if (signedCodes || !neg) && decide (m.1 * d < n * m.2) then (n, d) else m
    | _ => m) (0, 1)
  if mx.1 = 0 then (0, {}) else scaleUp f mx.1 (mx.2 * qmax)

/-- The lookback scale (R102): the smallest scale-format value not less than e × h, capped at the largest finite one. -/
def lookbackScale (f : Fmt) (e : Val) (headroom : Nat) : Option Nat :=
  -- headroom in quarters: 4, 5, 6, 8
  match e with
  | .fin false n d => if n = 0 then none else some (scaleUp f (n * headroom) (d * 4)).1
  | _ => none

/-- Headroom code in quarters (R103). -/
def headroomOf (codeBits : Nat) : Nat := match codeBits with | 0 => 4 | 1 => 5 | 2 => 6 | _ => 8

/-- Verdict of a lookback row (R104): 0 stands, 1 clip replay, 2 range replay. -/
def lookbackVerdict (thr : Nat) (clipped largest qmax len : Nat) : Nat :=
  let c := nfld thr 13 8
  let r := nfld thr 7 0
  if c ≠ 63 ∧ clipped * 1024 > c * len then 1
  else if r ≠ 0 ∧ largest * 256 < r * qmax then 2
  else 0

end Sys2Proof.Machine
end

