-- ==== Sys2Proof/Machine/State.lean ====
section
/-! DEFINITION. The state of the module with its queue of waiting commands, the reasons a step can stop, and the state after reset. -/

namespace Sys2Proof.Machine

/-- The module. Its parts are in Types.lean; reset values are the field defaults, which INVENTORY.md lists. -/
structure State where
  /-- commands waiting, first in first out (the model's own field) -/
  pending : List Instr := []
  variant : Variant := .mvn8A
  pwr : Power := {}
  clk : Clock := {}
  hub : Hub := {}
  host : HostSide := {}
  store : Store := {}
  sec : Sec := {}
  integ : Integ := {}
  therm : Therm := {}
  out : Output := {}
  /-- channels by number -/
  chans : Sparse Chan := []
  /-- counts the free values drawn (the model's own field) -/
  fresh : Nat := 0
deriving DecidableEq, Repr

/-- Reasons a step faults. -/
inductive Fault where
  /-- raised by REGISTER_WRITE for an address beyond the register space it names (R244: no such byte exists in the BAR). Safe: the hardware never receives such an access. -/
  | outsideBar
deriving DecidableEq, Repr

/-- Reasons a command has no meaning. -/
inductive Refusal where
  /-- a command the model has no meaning for yet, by its mnemonic. Safe. -/
  | notModelled (mnemonic : String)
deriving DecidableEq, Repr

/-- The module without power, as the maker delivers it: factory settings in bank A (R297, R223, R286, R303, R330, R336), every
register at its power-good value, no command waiting. -/
def State.reset : State := {}

end Sys2Proof.Machine
end

