-- ==== Sys2Proof/Machine/Ops.lean ====
section
/-! DEFINITION. Named operations shared by the commands: access to channels, functions, ports and slots; counters, mailbox
events, error log and audit log; DMA windows; completion entries. -/

namespace Sys2Proof.Machine

/-! ### Variant (R1, R3) -/

/-- Number of channels fitted. -/
def State.channels (s : State) : Nat := match s.variant with | .mvn8A => 8 | _ => 4

/-- Is channel `c` fitted (R3)? -/
def State.fitted (s : State) (c : Nat) : Bool := decide (c < s.channels)

/-- MVN-4L: the optional units are absent (R1, R6). -/
def State.light (s : State) : Bool := s.variant == .mvn4L

/-- The frame that an event of this nanosecond belongs to: one at or after a tick that has come due belongs to the frame the tick opens (R228). -/
def State.frameNow (s : State) : Word :=
  match s.clk.due with
  | some ts => if ts ≤ s.clk.nanos.toNat then s.clk.frame + 1 else s.clk.frame
  | none => s.clk.frame

/-- That frame as a number. -/
def State.frameN (s : State) : Nat := s.frameNow.toNat

/-- Nanosecond counter as a number. -/
def State.nowNs (s : State) : Nat := s.clk.nanos.toNat

/-- In service (R297). -/
def State.inService (s : State) : Bool := s.integ.svc == .inService

/-- The apex runs and answers: from apex release onwards (R361, R374). -/
def State.apexUp (s : State) : Bool :=
  s.pwr.supply == .on && (s.pwr.boot == .started || s.pwr.boot == .booted || s.pwr.boot == .failed || s.pwr.boot == .warm)

/-- The apex answers maker commands at least (R322, R331). -/
def State.answers (s : State) : Bool := s.apexUp || (s.pwr.supply == .on && s.pwr.boot == .romOnly)

/-- The link is up, so host traffic reaches the module (R362). -/
def State.linkUp (s : State) : Bool := s.apexUp && s.pwr.link.isSome

/-! ### PCIe IDE streams (R329) -/

/-- The stream that carries TLPs from the agent of selective stream `n`: that stream once keyed, else the Link stream 0; they are discarded while it is insecure. -/
def State.ideOpen (s : State) (n : Nat) : Bool := !(s.sec.insecure.contains (if s.sec.keyed.contains n then n else 0))

/-- Do TLPs from the root port reach the module? Its selective stream is one above the module's own number. -/
def State.hostSecure (s : State) : Bool := s.ideOpen (s.hub.moduleId + 1)

/-- Do TLPs from peer `n` reach the module? -/
def State.peerSecure (s : State) (n : Nat) : Bool := s.ideOpen (n + 1)

/-! ### Channels, slots, tiles -/

/-- Channel `c`. -/
def State.chan (s : State) (c : Nat) : Chan := sget {} s.chans c

/-- Replace channel `c`. -/
def State.setChan (s : State) (c : Nat) (x : Chan) : State := { s with chans := sput {} s.chans c x }

/-- Change channel `c`. -/
def State.modChan (s : State) (c : Nat) (f : Chan → Chan) : State := s.setChan c (f (s.chan c))

/-- Change every fitted channel. -/
def State.allChans (s : State) (f : Nat → Chan → Chan) : State :=
  (List.range s.channels).foldl (fun t c => t.modChan c (f c)) s

/-- Does an in-field test hold the channel, so that its own work waits, work from elsewhere is refused and signals are held (R306)? -/
def Chan.held (k : Chan) : Bool :=
  match k.test.phase with
  | .running | .cooling | .passed => true
  | _ => false

/-- Slot `n` of a channel. -/
def Chan.slot (k : Chan) (n : Nat) : Slot := sget {} k.seqr.slots n

/-- Replace slot `n`. -/
def Chan.setSlot (k : Chan) (n : Nat) (x : Slot) : Chan :=
  { k with seqr := { k.seqr with slots := sput {} k.seqr.slots n x } }

/-- Tile `t` of a channel. -/
def Chan.tile (k : Chan) (t : Nat) : Tile := sget {} k.arr.tiles t

/-- Replace tile `t`. -/
def Chan.setTile (k : Chan) (t : Nat) (x : Tile) : Chan :=
  { k with arr := { k.arr with tiles := sput {} k.arr.tiles t x } }

/-- Slot `n` of channel `c`. -/
def State.slot (s : State) (c n : Nat) : Slot := (s.chan c).slot n

/-- Replace slot `n` of channel `c`. -/
def State.setSlot (s : State) (c n : Nat) (x : Slot) : State := s.modChan c (fun k => k.setSlot n x)

/-- Change slot `n` of channel `c`. -/
def State.modSlot (s : State) (c n : Nat) (f : Slot → Slot) : State := s.setSlot c n (f (s.slot c n))

/-- Tile `t` of channel `c`. -/
def State.tile (s : State) (c t : Nat) : Tile := (s.chan c).tile t

/-- Change tile `t` of channel `c`. -/
def State.modTile (s : State) (c t : Nat) (f : Tile → Tile) : State :=
  s.modChan c (fun k => k.setTile t (f (k.tile t)))

/-- Context record of a raw context number. -/
def State.ctx (s : State) (raw : Nat) : Ctx := sget {} (s.chan (raw / 32768)).mem.ctxs (raw % 32768)

/-- Replace a context record. -/
def State.setCtx (s : State) (raw : Nat) (x : Ctx) : State :=
  s.modChan (raw / 32768) (fun k => { k with mem := { k.mem with ctxs := sput {} k.mem.ctxs (raw % 32768) x } })

/-- Change a context record: it is written through to the system area whole, which clears poison there (R207, R214). -/
def State.modCtx (s : State) (raw : Nat) (f : Ctx → Ctx) : State := s.setCtx raw { f (s.ctx raw) with sysBad := 0 }

/-! ### Functions and ports -/

/-- Function `f`. -/
def State.fn (s : State) (f : Nat) : Fn := sget {} s.host.fns f

/-- Change function `f`. -/
def State.modFn (s : State) (f : Nat) (g : Fn → Fn) : State :=
  { s with host := { s.host with fns := sput {} s.host.fns f (g (s.fn f)) } }

/-- Port `p`: a function 0 to 31, or 63 for SMBus. -/
def State.port (s : State) (p : Nat) : Port := sget {} s.host.ports p

/-- Change port `p`. -/
def State.modPort (s : State) (p : Nat) (g : Port → Port) : State :=
  { s with host := { s.host with ports := sput {} s.host.ports p (g (s.port p)) } }

/-- The SMBus port's number (R317, R380). -/
def smbPort : Nat := 63

/-- Submission ring `n` of a function. -/
def Fn.sqRing (f : Fn) (n : Nat) : Ring := sget {} f.sqs n

/-- Completion ring `n` of a function. -/
def Fn.cqRing (f : Fn) (n : Nat) : Ring := sget {} f.cqs n

/-- Change submission ring `n` of function `f`. -/
def State.modSq (s : State) (f n : Nat) (g : Ring → Ring) : State :=
  s.modFn f (fun x => { x with sqs := sput {} x.sqs n (g (x.sqRing n)) })

/-- Change completion ring `n` of function `f`. -/
def State.modCq (s : State) (f n : Nat) (g : Ring → Ring) : State :=
  s.modFn f (fun x => { x with cqs := sput {} x.cqs n (g (x.cqRing n)) })

/-- Entries of a ring (R248). -/
def Ring.size (r : Ring) : Nat := 2 ^ (6 + fld r.cfg 75 72)

/-- Completion ring that a submission ring names (R248). -/
def Ring.cq (r : Ring) : Nat := fld r.cfg 68 64

/-- Peer window `n`. -/
def State.peer (s : State) (n : Nat) : Peer := sget {} s.host.peers n

/-- Change peer window `n`. -/
def State.modPeer (s : State) (n : Nat) (g : Peer → Peer) : State :=
  { s with host := { s.host with peers := sput {} s.host.peers n (g (s.peer n)) } }

/-! ### Fields put together -/

/-- A number made of fields `(hi, lo, value)`. -/
def pack (l : List (Nat × Nat × Nat)) : Nat :=
  l.foldl (fun a e => a + e.2.2 % 2 ^ (e.1 + 1 - e.2.1) * 2 ^ e.2.1) 0

/-! ### Counters (R390 to R392) -/

/-- Counters a channel has (R1). -/
def State.counters (s : State) : Nat := if s.light then 4 else 8

/-- Does counter selection `sel` count event `code` of context `ctx` (R392)? -/
def selects (sel : BitVec 64) (code : Nat) (ctx : Option Nat) : Bool :=
  bit sel 63 && fld sel 7 0 == code && (!bit sel 62 || ctx == some (fld sel 61 44))

/-- Add `n` to every counter of a channel that selects the event, saturating (R392). -/
def Chan.count (k : Chan) (counters code n : Nat) (ctx : Option Nat) : Chan :=
  (List.range counters).foldl (fun k j =>
    if selects (sget 0 k.dbg.cntSel j) code ctx then
      { k with dbg := { k.dbg with cnt := smod 0 k.dbg.cnt j (fun v => BitVec.ofNat 64 (satAdd (2 ^ 64 - 1) v.toNat n)) } }
    else k) k

/-- Count `n` occurrences of a channel-scope event. -/
def State.countN (s : State) (c code n : Nat) (ctx : Option Nat) : State :=
  if n = 0 then s else s.modChan c (fun k => k.count s.counters code n ctx)

/-- Count one occurrence of a channel-scope event. -/
def State.count (s : State) (c code : Nat) (ctx : Option Nat := none) : State := s.countN c code 1 ctx

/-- Count one occurrence of a module-scope event in every channel that selects it (R392). -/
def State.countAll (s : State) (code : Nat) : State :=
  s.allChans (fun _ k => k.count s.counters code 1 none)

/-! ### Mailbox events (R389) -/

/-- The fields of an event record. -/
def eventBits (seq frame cls sub chan : Nat) (arg arg2 : Nat) : BitVec 256 :=
  BitVec.ofNat 256 (pack [(255, 224, seq), (223, 176, frame), (175, 168, cls), (167, 160, sub), (159, 157, chan),
    (127, 64, arg), (63, 0, arg2)])

/-- Put one record into the queue, or count it as lost when 1,024 are waiting. -/
def State.pushEvent (s : State) (cls sub chan arg arg2 : Nat) : State :=
  if s.hub.events.length < 1024 then
    { s with hub := { s.hub with
        events := s.hub.events ++ [eventBits s.hub.evSeq s.frameN cls sub chan arg arg2]
        evSeq := (s.hub.evSeq + 1) % 2 ^ 32 } }
  else { s with hub := { s.hub with evLost := s.hub.evLost + 1 } }

/-- Report an event: the first to enter after a loss follows a LOST record with the count. -/
def State.event (s : State) (cls sub chan : Nat) (arg : Nat := 0) (arg2 : Nat := 0) : State :=
  if s.hub.evLost ≠ 0 ∧ s.hub.events.length < 1024 then
    let t := s.pushEvent 0x0F 1 0 s.hub.evLost 0
    ({ t with hub := { t.hub with evLost := 0 } }).pushEvent cls sub chan arg arg2
  else s.pushEvent cls sub chan arg arg2

/-- A weight location as an event argument (R389). -/
def locArg (chan tile facet column : Nat) : Nat := pack [(63, 61, chan), (60, 52, tile), (51, 48, facet), (47, 37, column)]

/-- ALERT_N is low while an event waits unread (R356); true means asserted. -/
def State.alert (s : State) : Bool := s.answers && !s.hub.events.isEmpty

/-- The three levels of SVC_OK (R355). -/
inductive SvcPin where
  | high | low | highImpedance
deriving DecidableEq, Repr

/-- SVC_OK: high only in service, driven low otherwise while powered, high impedance without power (R355). -/
def State.svcOk (s : State) : SvcPin :=
  if s.pwr.supply != .on then .highImpedance else if s.inService then .high else .low

/-! ### Error log (R380) -/

/-- Enter a refused register write. No entry is 0, its reason being none, so inserting keeps the log's canonical form. -/
def State.errlog (s : State) (port reason off detail : Nat) (value : BitVec 64) : State :=
  let k := s.hub.errHead
  let e : BitVec 256 := BitVec.ofNat 256 (pack [(255, 224, k), (223, 176, s.frameN), (175, 170, port), (169, 162, reason),
    (161, 138, off), (137, 128, detail), (127, 64, value.toNat)])
  { s with hub := { s.hub with errlog := sinsert (k % 256) e s.hub.errlog, errHead := (k + 1) % 2 ^ 32 } }

/-! ### Audit log (R317 to R319) -/

/-- Audit entries that fit while waiting. -/
def auditRoom : Nat := 256

/-- A role action that needs an entry is refused now (R319). -/
def State.auditFull (s : State) : Bool := decide (auditRoom ≤ s.store.waiting.length)

/-- Role code in registers and entries. -/
def Role.code : Role → Nat | .operator => 0 | .installer => 1 | .maker => 2

/-- Append an entry to those waiting, without looking at room. -/
def State.auditPush (s : State) (action port result object : Nat) : State :=
  let seq := s.store.live.auditNext + s.store.waiting.length
  let r := (s.port port).roleNow
  let bits : BitVec 512 := BitVec.ofNat 512 (pack [(511, 448, seq), (447, 400, s.frameN), (399, 368, s.store.live.boots),
    (367, 360, action), (359, 358, r.role.code), (357, 352, port), (351, 344, result),
    (343, 280, if r.role == .operator then 0 else r.tokenId.toNat), (279, 24, object)])
  let w := s.store.waiting ++ [{ seq := seq, bits := bits : Audit }]
  { s with store := { s.store with waiting := w, coalesced := true, urgent := s.store.urgent || decide (192 ≤ w.length) } }

/-- Where there is space, the count of the denials that were not entered is entered as one action 0x41 (R319). -/
def State.enterDropped (s : State) : State :=
  if s.auditFull || s.store.dropped == 0 then s
  else
    let t := s.auditPush 0x41 0x3E 0 (pack [(255, 232, s.store.dropped)])
    { t with store := { t.store with dropped := 0 } }

/-- Enter a role action, or count it as dropped while 256 wait (R318, R319). -/
def State.audit (s : State) (action port result object : Nat) : State :=
  if s.auditFull then { s with store := { s.store with dropped := s.store.dropped + 1 } }
  else
    let t := s.enterDropped
    if t.auditFull then { t with store := { t.store with dropped := 1 } } else t.auditPush action port result object

/-- Draw a value the manual does not state. -/
def State.draw (s : State) : Nat × State := (Config.unstated s.fresh, { s with fresh := s.fresh + 1 })

/-- The object of a register write (R317): offset in bits 279:256 of the entry, value in bits 255:192. -/
def regObject (off : Nat) (value : BitVec 64) : Nat := pack [(255, 232, off), (231, 168, value.toNat)]

/-- The object of a digest (R317). -/
def digestObject (d : BitVec 256) : Nat := d.toNat

/-! ### Roles (R310 to R314) -/

/-- Result code of a role action by a port: 0 allowed, 1 no role with the right's role, 2 role without the right. -/
def State.rightResult (s : State) (p : Nat) (r : Role) (bitNo : Nat) : Nat :=
  let h := (s.port p).roleNow
  if h.role ≠ r then 1 else if nfld h.rights bitNo bitNo = 1 then 0 else 2

/-- Does the port hold the role and the right now? -/
def State.hasRight (s : State) (p : Nat) (r : Role) (bitNo : Nat) : Bool := s.rightResult p r bitNo == 0

/-! ### DMA windows (R260) -/

/-- Does window `w` permit `len` bytes at `addr`? -/
def windowOk (w : BitVec 128) (addr len : Nat) (write : Bool) : Bool :=
  bit w 0 && (if write then bit w 1 else bit w 2) &&
  decide (fld w 127 76 * 4096 ≤ addr ∧ addr + len ≤ fld w 127 76 * 4096 + fld w 75 52 * 4096)

/-- Is an access on behalf of function `f` allowed by the rules in force? -/
def State.dmaOk (s : State) (f addr len : Nat) (write : Bool) : Bool :=
  (List.range 16).any (fun w => windowOk (sget 0 s.host.rules.wins (16 * f + w)) addr len write)

/-- A host write that was allowed: none starts in the guard of a frame, where it waits for the end of the next intake window (R229, R295). -/
def State.hostWrite (s : State) (addr : Nat) (bytes : List Byte) : State :=
  let hold := s.clk.phase == .guard || !s.host.heldWrites.isEmpty
  { s with host := if hold then { s.host with heldWrites := s.host.heldWrites ++ [(addr, bytes)] } else s.host
           out := if hold then s.out else { s.out with writes := s.out.writes ++ [(addr, bytes)] } }

/-- The host writes that waited for the end of the intake window. -/
def State.freeWrites (s : State) : State :=
  { s with out := { s.out with writes := s.out.writes ++ s.host.heldWrites }, host := { s.host with heldWrites := [] } }

/-! ### Ownership (R262) -/

/-- The newest range naming a context. -/
def State.ownOf (s : State) (raw : Nat) : Own :=
  (s.host.own.find? (fun o => decide (o.first ≤ raw ∧ raw ≤ o.last))).getD {}

/-- Does function `f` own the context under the rules in force (R212, R254)? -/
def State.owns (s : State) (f raw : Nat) : Bool := (s.ownOf raw).owner == some f

/-! ### Completion entries (R251, R252, R255) -/

/-- Statuses (R257). -/
def stOK : Nat := 0
/-- R257 -/
def stDeferred : Nat := 1
/-- R257 -/
def stDroppedLate : Nat := 2
/-- R257 -/
def stPoisoned : Nat := 3
/-- R257 -/
def stProtection : Nat := 4
/-- R257 -/
def stUnsupported : Nat := 5
/-- R257 -/
def stProgramFault : Nat := 6
/-- R257 -/
def stPeer : Nat := 7
/-- R257 -/
def stNoContext : Nat := 8
/-- R257 -/
def stNoSpace : Nat := 9
/-- R257 -/
def stWeightFailed : Nat := 10
/-- R257 -/
def stEnableWaited : Nat := 11
/-- R257 -/
def stRetracted : Nat := 12

/-- The kinds that have no context (R253): their entries carry watermark 0 (R255). -/
def noContextKind (k : Nat) : Bool := k == 0 || decide (8 ≤ k ∧ k ≤ 14)

/-- Bits of a completion entry (R255), with its phase and the watermark current when it is written. An entry of a version before 1.3 has no late
mark (R247). -/
def Cpl.bits (e : Cpl) (phase : Nat) (wm : Nat) : BitVec 256 :=
  BitVec.ofNat 256 (pack [(255, 255, phase), (254, 247, e.ver), (246, 243, e.kind), (242, 235, e.status), (234, 227, e.cause),
    (226, 209, e.context), (208, 177, e.user), (176, 145, e.frame),
    (144, 113, match e.wm with | some w => w | none => if noContextKind e.kind then 0 else wm),
    (112, 81, e.detail), (80, 73, e.deferrals), (72, 57, min e.clipped 65535), (56, 49, min e.replays 255),
    (48, 45, min e.fallback 15), (44, 44, bnat e.flags.invalid), (43, 43, bnat e.flags.overflow),
    (42, 42, bnat e.flags.underflow), (41, 41, bnat e.flags.nanLost), (40, 40, bnat e.saturated),
    (39, 39, bnat e.switched), (38, 38, bnat e.overdue), (37, 37, bnat (e.late && decide (0x13 ≤ e.ver))), (36, 32, e.sq), (31, 16, e.pos)])

/-- Free entries of a completion ring, those reserved for descriptors taken off (R251). -/
def Ring.freeEntries (r : Ring) : Nat := r.size - (r.count + 2 ^ 32 - r.host) % 2 ^ 32 - r.held

/-- Phase of the entry at the ring's tail: 1 on the first pass, then alternating (R252). -/
def Ring.phase (r : Ring) : Nat := 1 - (r.count / r.size) % 2

/-- Bus address of the entry at a completion ring's tail. -/
def Ring.tailAddr (r : Ring) : Nat := fld r.cfg 127 76 * 4096 + 32 * (r.count % r.size)

/-- Write a completion entry, or lose it to a denial (R252, R261). -/
def State.writeCpl (s : State) (e : Cpl) : State :=
  let r := (s.fn e.fn).cqRing e.cq
  let unreserve (r : Ring) : Ring := if e.reserved then { r with held := r.held - 1 } else r
  if s.dmaOk e.fn r.tailAddr 32 true then
    let t := { s with out := { s.out with cpl := s.out.cpl ++ [(e.fn, e.cq, r.count % r.size, e.bits r.phase s.integ.wm)] } }
    t.modCq e.fn e.cq (fun r => { unreserve r with count := (r.count + 1) % 2 ^ 32, wrote := true })
  else
    -- the entry is lost, counted and reported with the ring, the context, status and user word (R261)
    ((s.modCq e.fn e.cq unreserve).countAll 0x89).event 0x02 3 0
      (pack [(17, 0, e.context), (25, 18, e.status), (30, 26, e.cq), (35, 31, e.fn)]) e.user

/-- Is there a place for the entry now (R251, R300)? -/
def State.cplRoom (s : State) (e : Cpl) : Bool :=
  e.reserved || decide (0 < ((s.fn e.fn).cqRing e.cq).freeEntries)

/-- May the module write completions at once: from 2.0 µs to the check slot (R229), not before a drain's retraction entries (R295), nor before
the entries that the host port held up in an earlier frame (R230)? -/
def State.writesNow (s : State) : Bool :=
  (s.clk.phase == .compute || s.clk.phase == .yieldMark || s.clk.phase == .endOfCompute) &&
  (s.integ.svc != .draining || s.integ.scanDone) && s.host.cpls.all (fun e => !(e.late && s.cplRoom e))

/-- Write a completion now where the frame allows it, else keep it for its time (R229, R230, R295). -/
def State.complete (s : State) (e : Cpl) : State :=
  if s.writesNow && s.cplRoom e then s.writeCpl e
  else { s with host := { s.host with cpls := s.host.cpls ++ [e] } }

/-- Write the completions that the host port held up, those with room, in order: each is counted emit_late (R230). -/
def State.writeLate (s : State) : State :=
  s.host.cpls.foldl (fun t e => if e.late && t.cplRoom e then (t.count e.chan 0x58).writeCpl e
    else { t with host := { t.host with cpls := t.host.cpls ++ [e] } }) { s with host := { s.host with cpls := [] } }

/-- Write the waiting completions for which there is room, in order. -/
def State.flushCpls (s : State) : State :=
  s.host.cpls.foldl (fun t e => if t.cplRoom e then t.writeCpl e
    else { t with host := { t.host with cpls := t.host.cpls ++ [e] } }) { s with host := { s.host with cpls := [] } }

/-! ### Descriptors (R253) -/

/-- Kind of a descriptor. -/
def Job.kind (j : Job) : Nat := fld j.desc 503 500
/-- Version of a descriptor. -/
def Job.ver (j : Job) : Nat := fld j.desc 511 504
/-- Raw context of a descriptor. -/
def Job.ctx (j : Job) : Nat := fld j.desc 495 478
/-- User word of a descriptor. -/
def Job.user (j : Job) : Nat := fld j.desc 447 416
/-- Address of the input, host buffer or package. -/
def Job.addr (j : Job) : Nat := fld j.desc 415 352
/-- Blob offset of a state get or put. -/
def Job.blobOff (j : Job) : Nat := fld j.desc 351 330
/-- Length of a state get or put. -/
def Job.length (j : Job) : Nat := fld j.desc 329 307

/-- The completion entry of a job with a status and cause, the rest zero. -/
def State.jobCpl (s : State) (j : Job) (chan status cause : Nat) : Cpl :=
  { fn := j.fn, cq := ((s.fn j.fn).sqRing j.sq).cq, chan := chan, ver := j.ver, kind := j.kind, status := status,
    cause := cause, context := j.ctx, user := j.user, frame := s.frameN,
    deferrals := j.deferrals, sq := j.sq, pos := j.pos }

/-- One descriptor of the ring has completed (R241, R248). -/
def State.sqDone (s : State) (f q : Nat) : State := s.modSq f q (fun r => { r with held := r.held - 1 })

/-- Remove a job from its channel. -/
def State.dropJob (s : State) (c id : Nat) : State :=
  s.modChan c (fun k => { k with jobs := k.jobs.filter (fun j => j.id ≠ id) })

/-- Find a job of a channel. -/
def Chan.job? (k : Chan) (id : Nat) : Option Job := k.jobs.find? (fun j => j.id == id)

/-- Change a job of a channel. -/
def State.modJob (s : State) (c id : Nat) (f : Job → Job) : State :=
  s.modChan c (fun k => { k with jobs := k.jobs.map (fun j => if j.id = id then f j else j) })

/-- Complete a job of channel `c`: its entry is written or kept, its ring position and order are given back. -/
def State.finishWith (s : State) (c : Nat) (j : Job) (e : Cpl) : State :=
  let t := ((s.dropJob c j.id).sqDone j.fn j.sq).complete e
  if j.kind = 1 then
    let t := t.count c 0x91 (some j.ctx)
    if e.status = stDroppedLate then t.count c 0x56 (some j.ctx) else t
  else t

/-- Complete a job with a status and cause. -/
def State.finish (s : State) (c : Nat) (j : Job) (status cause : Nat) (detail : Nat := 0) : State :=
  s.finishWith c j { s.jobCpl j c status cause with detail := detail }

/-! ### Outcomes -/

/-- The result type of every command. -/
abbrev Out := Host.Outcome State Fault Refusal

/-- The command happens and the module goes on. -/
def go (s : State) : Out := .next s

/-- The command happens only where its conditions hold; elsewhere it is no event of the module, which goes on unchanged. -/
def onlyIf (c : Bool) (s : State) (f : State) : Out := .next (if c then f else s)

end Sys2Proof.Machine
end

