-- ==== Sys2Proof/Machine/Operands.lean ====
section
/-! DEFINITION. Operand forms: the fields of the instruction words (R141 to R159), of buffer descriptors (R134, R135) and of
scale tensors (R100), and reading and writing the rows they name. -/

namespace Sys2Proof.Machine

/-! ### Instruction words -/

/-- Opcode (R141). -/
def opOf (w : Word) : Nat := fld w 63 56
/-- Destination register of the scalar form (R142). -/
def rdOf (w : Word) : Nat := fld w 47 43
/-- First source of the scalar form. -/
def rs1Of (w : Word) : Nat := fld w 42 38
/-- Second source of the scalar form. -/
def rs2Of (w : Word) : Nat := fld w 37 33
/-- Signed 24-bit immediate of the scalar form. -/
def imm24 (w : Word) : Int := signed 24 (fld w 23 0)
/-- Four-bit descriptor number whose low bit is `lo`. -/
def bnum (w : Word) (lo : Nat) : Nat := fld w (lo + 3) lo

/-- Read a register; x0 reads zero (R132). -/
def Slot.reg (s : Slot) (n : Nat) : Word := if n = 0 then 0 else sget 0 s.regs n

/-- Write a register; writes to x0 are discarded (R132). -/
def Slot.setReg (s : Slot) (n : Nat) (v : Word) : Slot := if n = 0 then s else { s with regs := sput 0 s.regs n v }

/-- Descriptor `n` of a slot. -/
def Slot.bd (s : Slot) (n : Nat) : BitVec 128 := s.bds.getD n 0

/-- Handle `n` of a slot. -/
def Slot.handle (s : Slot) (n : Nat) : Handle := sget {} s.handles n

/-- Replace handle `n`. -/
def Slot.setHandle (s : Slot) (n : Nat) (h : Handle) : Slot := { s with handles := sput {} s.handles n h }

/-- Second operand of opcodes 0x01 to 0x0B (R142). -/
def Slot.opnd2 (s : Slot) (w : Word) : Word := if bit w 48 then BitVec.ofInt 64 (imm24 w) else s.reg (rs2Of w)

/-! ### Buffer descriptors (R134, R135) -/

/-- Kinds of space (R135). -/
inductive Kind where
  | work | shared | state | stream | host
deriving DecidableEq, Repr

/-- Kind of a descriptor; 0x5 to 0xF are reserved. -/
def bdKind? (d : BitVec 128) : Option Kind :=
  match fld d 127 124 with
  | 0 => some .work | 1 => some .shared | 2 => some .state | 3 => some .stream | 4 => some .host | _ => none

/-- Kind, reserved ones taken as WORK (no loaded program holds one, R130). -/
def bdKind (d : BitVec 128) : Kind := (bdKind? d).getD .work
/-- Format code. -/
def bdFmtCode (d : BitVec 128) : Nat := fld d 123 120
/-- Format. -/
def bdFmt (d : BitVec 128) : Fmt := (Fmt.ofCode (bdFmtCode d)).getD .fp32
/-- Rows. -/
def bdRows (d : BitVec 128) : Nat := fld d 107 96 + 1
/-- Elements per row. -/
def bdElems (d : BitVec 128) : Nat := fld d 95 81 + 1
/-- Bytes of one row. -/
def bdRowBytes (d : BitVec 128) : Nat := rowBytes (bdFmt d) (bdElems d)
/-- Bytes from one row's start to the next: 0 packs rows (R134). -/
def bdStride (d : BitVec 128) : Nat := if fld d 80 61 = 0 then bdRowBytes d else fld d 80 61
/-- Byte address of element 0. -/
def bdBase (d : BitVec 128) : Nat := fld d 39 0
/-- Codebook base in the shared tables region. -/
def bdCb (d : BitVec 128) : Nat := fld d 60 45 * 64
/-- Bytes from the base to the end of the last row. -/
def bdExtent (d : BitVec 128) : Nat := (bdRows d - 1) * bdStride d + bdRowBytes d
/-- First byte after the operand. -/
def bdEnd (d : BitVec 128) : Nat := bdBase d + bdExtent d

/-- A descriptor with the given RW fields, for b14 and b15 (R132). -/
def mkBd (kind fmt rowsM1 elemsM1 stride base : Nat) : BitVec 128 :=
  BitVec.ofNat 128 (pack [(127, 124, kind), (123, 120, fmt), (107, 96, rowsM1), (95, 81, elemsM1), (80, 61, stride), (39, 0, base)])

/-- Size of a slot window (R133). -/
def windowBytes : Nat := 262144

/-- End of the space a descriptor names (R135): the window, the shared region, the blob, the tensor. -/
def spaceEnd (k : Chan) (blobPages : Nat) (d : BitVec 128) : Nat :=
  match bdKind d with
  | .work => windowBytes
  | .shared => 524288
  | .state => blobPages * 65536
  | .stream =>
    match k.tables.tensors.find? (fun t => decide (t.1 ≤ bdBase d ∧ bdBase d < t.1 + t.2)) with
    | some t => t.1 + t.2
    | none => 0
  | .host => 2 ^ 64

/-- Does the operand lie within its space? -/
def inSpace (k : Chan) (blobPages : Nat) (d : BitVec 128) : Bool := decide (bdEnd d ≤ spaceEnd k blobPages d)

/-! ### Rows -/

/-- The raw elements of a row given by its bytes (R29). -/
def unpackRow (f : Fmt) (n : Nat) (bytes : List Byte) : List Nat :=
  let v := leNat bytes
  (List.range n).map (fun i => nfld v (i * f.width + f.width - 1) (i * f.width))

/-- The raw elements of every row of an operand in a byte map. -/
def rowsIn (m : Sparse Byte) (d : BitVec 128) : List (List Nat) :=
  (List.range (bdRows d)).map (fun i => unpackRow (bdFmt d) (bdElems d) (sgetList 0 m (bdBase d + i * bdStride d) (bdRowBytes d)))

/-- Raw elements of an operand in WORK or SHARED. -/
def readRows (k : Chan) (sl : Slot) (d : BitVec 128) : List (List Nat) :=
  match bdKind d with
  | .shared => rowsIn k.tables.shared d
  | .stream => rowsIn k.tables.stream d
  | _ => rowsIn sl.win d

/-- Values of raw elements; codebook formats decode through the codebook bytes at `cb` (R27). -/
def valsOf (k : Chan) (f : Fmt) (cb : Nat) (l : List Nat) : List Val :=
  if f.isCodebook then l.map (fun i => decodeFloat .bf16 (leNat (sgetList 0 k.tables.shared (cb + 2 * i) 2)))
  else l.map (decodeVal f)

/-- Values of an operand that is not codebook-coded. -/
def readVals (k : Chan) (sl : Slot) (d : BitVec 128) : List (List Val) :=
  (readRows k sl d).map (fun r => r.map (decodeVal (bdFmt d)))

/-- Clear the poison of granules that a write of `n` bytes from `a` covers whole (R214). -/
def clearWhole (m : Sparse PSrc) (a n : Nat) : Sparse PSrc :=
  (List.range ((a + n) / 64 - (a + 63) / 64)).foldl (fun m i => sput .none m ((a + 63) / 64 + i) .none) m

/-- Write bytes into the slot window. A finished lookback row whose codes they overwrite is no longer there to be read (R106). -/
def Slot.writeBytes (sl : Slot) (a : Nat) (bytes : List Byte) : Slot :=
  { sl with win := sputList 0 sl.win a bytes, winPoison := clearWhole sl.winPoison a bytes.length
            prows := sl.prows.filter (fun r => !(r.done && decide (r.lo < a + bytes.length ∧ a < r.hi))) }

/-- Write rows of raw elements to a WORK operand, starting at element offset `off` of each row (byte-aligned or 128-element blocks). -/
def Slot.writeRows (sl : Slot) (d : BitVec 128) (off : Nat) (rows : List (List Nat)) : Slot :=
  let f := bdFmt d
  (rows.zipIdx).foldl (fun sl (e : List Nat × Nat) =>
    sl.writeBytes (bdBase d + e.2 * bdStride d + off * f.width / 8) (packRow f e.1)) sl

/-- The first poisoned granule's source among the bytes from `a` to `a + n`. -/
def Slot.poisonIn (sl : Slot) (a n : Nat) : PSrc :=
  if n = 0 then .none
  else
    match sl.winPoison.find? (fun e => decide (a / 64 ≤ e.1 ∧ e.1 ≤ (a + n - 1) / 64)) with
    | some e => e.2
    | none => .none

/-- Is any shared-table granule of a range poisoned? -/
def sharedPoisoned (k : Chan) (a n : Nat) : Bool :=
  n != 0 && k.sharedPoison.any (fun e => decide (a / 64 ≤ e.1 ∧ e.1 ≤ (a + n - 1) / 64))

/-- Poison met when an operand is read (R157, R217). -/
def operandPoison (k : Chan) (sl : Slot) (d : BitVec 128) : PSrc :=
  match bdKind d with
  | .work => (List.range (bdRows d)).foldl (fun p i =>
      if p == .none then sl.poisonIn (bdBase d + i * bdStride d) (bdRowBytes d) else p) .none
  | .shared => if sharedPoisoned k (bdBase d) (bdExtent d) then .outside else .none
  | _ => .none

/-! ### Scale tensors (R100, R101) -/

/-- Header bytes of a scale tensor as a 128-bit value. -/
def scaleHdr (sl : Slot) (d : BitVec 128) : BitVec 128 := BitVec.ofNat 128 (leNat (sgetList 0 sl.win (bdBase d) 16))

/-- Does a header satisfy the scale tensor header map (R101)? -/
def scaleHdrOk (h : BitVec 128) : Bool :=
  let w := fld h 15 12
  let cf := fld h 7 4
  let sf := fld h 3 0
  fld h 95 80 == 0 && fld h 63 24 == 0 && fld h 10 8 == 0 &&
  decide (1 ≤ fld h 79 64 ∧ fld h 79 64 ≤ 4096) && decide (1 ≤ w ∧ w ≤ 8) &&
  (cf == 7 || cf == 8) && (sf == 1 || sf == 2) &&
  fld h 23 16 == qmaxOf (cf == 8) (bit h 11) w

/-- Scale format of a header. -/
def scaleFmt (h : BitVec 128) : Fmt := if fld h 3 0 = 2 then .fp16 else .bf16

/-- Entry `i` of a scale tensor, as a value. -/
def scaleEntry (sl : Slot) (d : BitVec 128) (i : Nat) : Val :=
  decodeFloat (scaleFmt (scaleHdr sl d)) (leNat (sgetList 0 sl.win (bdBase d + 16 + 2 * i) 2))

/-- A header as quant.row writes it. -/
def mkScaleHdr (clipped replays rows qmax w : Nat) (signedCodes int4 fp16 : Bool) : Nat :=
  pack [(127, 112, min clipped 65535), (111, 96, min replays 65535), (79, 64, rows), (23, 16, qmax), (15, 12, w),
    (11, 11, bnat signedCodes), (7, 4, if int4 then 8 else 7), (3, 0, if fp16 then 2 else 1)]

end Sys2Proof.Machine
end

