-- ==== Sys2Proof/Machine/Memory.lean ====
section
/-! DEFINITION. A channel's LPDDR5X, context cache and state blobs: poison, fills, evictions, staged lines, commit, flush
(R205 to R219). -/

namespace Sys2Proof.Machine

/-! ### LPDDR5X -/

/-- The canonical form of a channel's LPDDR5X: bytes and poison with rising addresses, no entry equal to what an unlisted address reads as. -/
def Mem.wf (m : Mem) : Bool := Sparse.wf 0 m.lpddr && Sparse.wf false m.poison

/-- A 256-byte line as LPDDR5X holds it, with the poison of its granules. -/
def Mem.lpddrLine (m : Mem) (n : Nat) : LineData :=
  { dirty := false, bytes := sgetList 0 m.lpddr (256 * n) 256, poison := (List.range 4).map (fun i => sget false m.poison (4 * n + i)) }

/-- Write a line back to LPDDR5X with its poison (R207, R215). -/
def Mem.writeLine (m : Mem) (n : Nat) (d : LineData) : Mem :=
  { m with lpddr := sputList 0 m.lpddr (256 * n) d.bytes
           poison := (d.poison.zipIdx).foldl (fun p e => sput false p (4 * n + e.2) e.1) m.poison }

/-- Zero a 64 KiB page (R205). -/
def Mem.zeroPage (m : Mem) (page : Nat) : Mem :=
  { m with lpddr := m.lpddr.filter (fun e => e.1 / 65536 ≠ page), poison := m.poison.filter (fun e => e.1 / 1024 ≠ page)
           cache := m.cache.filter (fun e => e.1 / 256 ≠ page) }

/-! ### Sets and eviction (R207, R209) -/

/-- Sets of the line area: 7,168 of 16 ways hold its 114,688 lines (R207). -/
def cacheSets : Nat := 7168

/-- Ways of a set. -/
def cacheWays : Nat := 16

/-- The set a line belongs to. -/
def setOf (n : Nat) : Nat := Config.cacheSet n % cacheSets

/-- The other cached lines of a line's set. -/
def Mem.setLines (m : Mem) (n : Nat) : Sparse Line := m.cache.filter (fun e => e.1 ≠ n && setOf e.1 == setOf n)

/-- Can the line find a way: fewer than 16 of its set in use, or one that is neither staged nor filling. -/
def Mem.hasWay (m : Mem) (n : Nat) : Bool :=
  decide (m.cache.length < cacheWays) || decide ((m.setLines n).length < cacheWays) || (m.setLines n).any (fun e => e.2.staged.isNone && !e.2.filling)

/-- Is a line of the set being filled? -/
def Mem.setFilling (m : Mem) (n : Nat) : Bool := (m.setLines n).any (fun e => e.2.filling)

/-- Make room for a line: evict the least recently used line of a full set that is neither staged nor filling, writing it back if dirty. Answers the bytes written back. -/
def Mem.makeRoom (m : Mem) (n : Nat) : Mem × Nat :=
  if m.cache.length < cacheWays then (m, 0)
  else
    let l := m.setLines n
    if l.length < cacheWays then (m, 0)
    else
      let free := l.filter (fun e => e.2.staged.isNone && !e.2.filling)
      match free.find? (fun e => e.2.stamp == minOf 0 (free.map (fun e => e.2.stamp))) with
      | none => (m, 0)
      | some e =>
        let m' := { m with cache := serase e.1 m.cache }
        match e.2.data with
        | some d => if d.dirty then (m'.writeLine e.1 d, 256) else (m', 0)
        | none => (m', 0)

/-- What an access to a line finds: the memory after it, the contents it sees, whether it hit, bytes moved at LPDDR5X. -/
structure Access where
  mem : Mem
  data : LineData
  hit : Bool
  bytes : Nat

/-- Read a line as holder `h` sees it: its own staged contents, else the committed ones, filling from LPDDR5X on a miss;
past the cache where the set has no way (R208, R209). -/
def Mem.readLine (m : Mem) (h n : Nat) : Access :=
  let l := sget {} m.cache n
  let touched : Mem := { m with cache := sput {} m.cache n { l with stamp := m.stamp + 1 }, stamp := m.stamp + 1 }
  match l.staged with
  | some (h', d) =>
    if h' = h then ⟨touched, d, true, 0⟩
    else match l.data with
      | some d' => ⟨touched, d', true, 0⟩
      | none => ⟨m, m.lpddrLine n, false, 256⟩
  | none =>
    match l.data with
    | some d => ⟨touched, d, true, 0⟩
    | none =>
      let d := m.lpddrLine n
      if m.hasWay n then
        let r := m.makeRoom n
        ⟨{ r.1 with cache := sput {} r.1.cache n { data := some d, stamp := m.stamp + 1 }, stamp := m.stamp + 1 }, d, false, 256 + r.2⟩
      else ⟨m, d, false, 256⟩

/-- Stage new contents of a line for holder `h`; answers the bytes that an eviction for it writes back (R207, R208). -/
def Mem.stageLine (m : Mem) (h n : Nat) (d : LineData) : Mem × Nat :=
  let r := m.makeRoom n
  let l := sget {} r.1.cache n
  ({ r.1 with cache := sput {} r.1.cache n { l with staged := some (h, d), stamp := r.1.stamp + 1 }, stamp := r.1.stamp + 1 }, r.2)

/-- A committed line that stands in a set beyond its 16 ways goes to LPDDR5X at once. -/
def Mem.fitLine (m : Mem) (n : Nat) : Mem :=
  if (m.setLines n).length < cacheWays then m
  else
    let l := sget {} m.cache n
    let m' := { m with cache := serase n m.cache }
    match l.staged, l.data with
    | none, some d => if d.dirty then m'.writeLine n d else m'
    | _, _ => m

/-- Lines that holder `h` has staged. -/
def Mem.stagedBy (m : Mem) (h : Nat) : Nat :=
  (m.cache.filter (fun e => match e.2.staged with | some (h', _) => h' == h | none => false)).length

/-- Drop a line entry that holds nothing. -/
def dropEmpty (c : Sparse Line) : Sparse Line := c.filter (fun e => e.2.data.isSome || e.2.staged.isSome || e.2.filling)

/-- No line of these pages is being filled any more. -/
def Mem.endFills (m : Mem) (ps : List Page) : Mem :=
  { m with cache := m.cache.map (fun e => if ps.any (fun p => p.valid && p.page == e.1 / 256) then (e.1, { e.2 with filling := false }) else e) }

/-- Commit: every line staged by `h` becomes committed and dirty in one step (R208). -/
def Mem.commitStaged (m : Mem) (h : Nat) : Mem :=
  { m with cache := m.cache.map (fun e => match e.2.staged with
      | some (h', d) => if h' = h then (e.1, { e.2 with data := some { d with dirty := true }, staged := none }) else e
      | none => e) }

/-- End without commit: the lines staged by `h` return to their earlier contents (R208). -/
def Mem.discardStaged (m : Mem) (h : Nat) : Mem :=
  { m with cache := dropEmpty (m.cache.map (fun e => match e.2.staged with
      | some (h', _) => if h' = h then (e.1, { e.2 with staged := none }) else e
      | none => e)) }

/-- Write every committed dirty line back (R219); lines stay cached clean. -/
def Mem.flush (m : Mem) : Mem :=
  m.cache.foldl (fun m e => match e.2.data with
    | some d => if d.dirty then { m.writeLine e.1 d with cache := sput {} m.cache e.1 { e.2 with data := some { d with dirty := false } } } else m
    | none => m) m

/-! ### Blob pages (R205, R206) -/

/-- Number of blob-pool pages (R206) and the pool's two parts as page numbers. -/
def poolPage (light : Bool) (i : Nat) : Nat :=
  if light then (if i < 57344 then 0x2000 + i else 0x12000 + (i - 57344))
  else (if i < 122880 then 0x2000 + i else 0x22000 + (i - 122880))

/-- Pages of the pool (R206). -/
def poolSize (light : Bool) : Nat := if light then 237312 else 491264

/-- The first `n` free pool pages from index `i` on, lowest first. -/
def freePages (light : Bool) (used : Sparse Bool) : Nat → Nat → Nat → List Nat
  | 0, _, _ => []
  | _ + 1, _, 0 => []
  | fuel + 1, i, n + 1 =>
    if poolSize light ≤ i then []
    else if sget false used (poolPage light i) then freePages light used fuel (i + 1) (n + 1)
    else poolPage light i :: freePages light used fuel (i + 1) n

/-- Take `n` pages, or nothing where the pool is short (R200). -/
def Mem.allocPages (m : Mem) (light : Bool) (n : Nat) : Option (List Nat) :=
  let l := freePages light m.usedPages (m.usedPages.length + n) 0 n
  if l.length = n then some l else none

/-- The line number of a blob offset in a context, if the page is listed. -/
def Ctx.lineOf (x : Ctx) (off : Nat) : Option (Page × Nat) :=
  match x.pages[off / 65536]? with
  | some p => if p.valid then some (p, (p.page * 65536 + off % 65536) / 256) else none
  | none => none

/-- What reading a blob gives: memory after, bytes, poison of each granule by blob index, hits, misses, LPDDR5X bytes. -/
structure BlobRead where
  mem : Mem
  bytes : List Byte := []
  poison : List Nat := []
  /-- those whose poison arose in the cache (R157, R215) -/
  sram : List Nat := []
  hits : Nat := 0
  misses : Nat := 0
  moved : Nat := 0

/-- Read `n` whole lines of the blob from line-aligned offset `off` as holder `h`. A zero page gives zeros without reading LPDDR5X (R205). -/
def Mem.readBlobLines (x : Ctx) (h : Nat) : Nat → Nat → BlobRead → BlobRead
  | 0, _, r => r
  | n + 1, off, r =>
    match x.lineOf off with
    | none => readBlobLines x h n (off + 256) { r with bytes := r.bytes ++ List.replicate 256 0 }
    | some (p, ln) =>
      let l := sget {} r.mem.cache ln
      if p.zero && l.data.isNone && l.staged.isNone then
        readBlobLines x h n (off + 256) { r with bytes := r.bytes ++ List.replicate 256 0 }
      else
        let a := r.mem.readLine h ln
        let ps := (a.data.poison.zipIdx).filterMap (fun e => if e.1 then some (off / 64 + e.2) else none)
        readBlobLines x h n (off + 256)
          { mem := a.mem, bytes := r.bytes ++ a.data.bytes, poison := r.poison ++ ps,
            sram := r.sram ++ ps.filter (fun g => a.data.sram.getD (g % 4) false),
            hits := r.hits + bnat a.hit, misses := r.misses + bnat (!a.hit), moved := r.moved + a.bytes }

/-- Read `n` bytes of the blob from `off`. -/
def Mem.readBlob (m : Mem) (x : Ctx) (h off n : Nat) : BlobRead :=
  let lo := off / 256
  let hi := (off + n + 255) / 256
  let r := Mem.readBlobLines x h (hi - lo) (lo * 256) { mem := m }
  { r with bytes := (r.bytes.drop (off - lo * 256)).take n
           poison := r.poison.filter (fun g => decide (off / 64 ≤ g ∧ g ≤ (off + n - 1) / 64)) }

/-- Replace the bytes of a list from position `a` on. -/
def overwrite (l : List Byte) (a : Nat) (v : List Byte) : List Byte := l.take a ++ v ++ l.drop (a + v.length)

/-- What staging a write gives. -/
structure BlobWrite where
  mem : Mem
  ctx : Ctx
  hits : Nat := 0
  misses : Nat := 0
  moved : Nat := 0

/-- Stage the bytes `v` at blob offset `off` within one line, for holder `h`: whole granules clear their poison (R214), a zero page is written zero first (R205). -/
def BlobWrite.line (w : BlobWrite) (h off : Nat) (v : List Byte) : BlobWrite :=
  match w.ctx.lineOf off with
  | none => w
  | some (p, ln) =>
    -- the first write to a zero page writes the whole page
    let w := if p.zero then
        { w with mem := w.mem.zeroPage p.page, moved := w.moved + 65536
                 ctx := { w.ctx with pages := lmod w.ctx.pages (off / 65536) (fun q => { q with zero := false }) } }
      else w
    let whole := decide (v.length = 256) || p.zero
    let l := sget {} w.mem.cache ln
    let cached := l.data.isSome || l.staged.isSome
    let a : Access := if whole && !cached then ⟨w.mem, { bytes := List.replicate 256 0, poison := List.replicate 4 false }, true, 0⟩
      else w.mem.readLine h ln
    let lo := off % 256
    let d : LineData :=
      { dirty := true, bytes := overwrite a.data.bytes lo v, sram := a.data.sram
        poison := (a.data.poison.zipIdx).map (fun e => e.1 && !decide (lo ≤ 64 * e.2 ∧ 64 * e.2 + 64 ≤ lo + v.length)) }
    let r := a.mem.stageLine h ln d
    { w with mem := r.1, hits := w.hits + bnat a.hit, misses := w.misses + bnat (!a.hit), moved := w.moved + a.bytes + r.2 }

/-- Stage bytes at a blob offset, line by line; the fuel is the number of lines touched. -/
def BlobWrite.bytes : Nat → BlobWrite → Nat → Nat → List Byte → BlobWrite
  | 0, w, _, _, _ => w
  | fuel + 1, w, h, off, v =>
    if v.isEmpty then w
    else
      let n := min v.length (256 - off % 256)
      BlobWrite.bytes fuel (w.line h off (v.take n)) h (off + n) (v.drop n)

/-- Stage bytes at a blob offset. -/
def Mem.stageBlob (m : Mem) (x : Ctx) (h off : Nat) (v : List Byte) : BlobWrite :=
  BlobWrite.bytes (v.length / 256 + 2) { mem := m, ctx := x } h off v

/-- Lines a write from `off` of `n` bytes touches. -/
def Ctx.linesOf (x : Ctx) (off n : Nat) : List Nat :=
  (List.range ((off + n + 255) / 256 - off / 256)).filterMap (fun i => (x.lineOf ((off / 256 + i) * 256)).map (fun e => e.2))

/-! ### Memory errors (R213 to R215) -/

/-- First address of the system area and of the second STREAM copy (R206). -/
def systemArea (light : Bool) : Nat := if light then 0x3DF000000 else 0x7BF000000
/-- First address of the second STREAM copy. -/
def secondCopy (light : Bool) : Nat := if light then 0x100000000 else 0x200000000

/-- Mark where an LPDDR5X granule's poison is kept: STREAM copies by their offset, records and page lists by their slot, every other granule by address. -/
def State.markPoison (s : State) (c g : Nat) : State :=
  let a := 64 * g
  let sys := systemArea s.light
  let two := secondCopy s.light
  if a < 536870912 then s.modChan c (fun k => { k with copy1Poison := sput false k.copy1Poison g true })
  else if two ≤ a ∧ a < two + 536870912 then s.modChan c (fun k => { k with copy2Poison := sput false k.copy2Poison ((a - two) / 64) true })
  else if sys ≤ a ∧ a < sys + 4194304 then
    let raw := c * 32768 + (a - sys) / 128
    s.setCtx raw { s.ctx raw with sysBad := (s.ctx raw).sysBad ||| 2 ^ ((a - sys) / 64 % 2) }
  else if sys + 4194304 ≤ a ∧ a < sys + 12582912 then
    let o := a - sys - 4194304
    let raw := c * 32768 + o / 256
    s.setCtx raw { s.ctx raw with listBad := (s.ctx raw).listBad ||| 2 ^ (o % 256 / 64), pages := (s.ctx raw).pages.mapIdx (fun i p => if o % 256 / 4 ≤ i ∧ i < o % 256 / 4 + 16 then { p with poisoned := true } else p) }
  else s.modChan c (fun k => { k with mem := { k.mem with poison := sput false k.mem.poison g true } })

/-- The controller poisons an LPDDR5X granule: counted and reported with its address, once (R214). -/
def State.poisonGranule (s : State) (c g : Nat) : State :=
  let t := s.markPoison c g
  if t = s then s else (t.count c 0x45).event 0x02 2 c (g * 64)

/-- Poison one granule of a line's contents, as arisen in the cache (R215). -/
def LineData.strike (d : LineData) (i : Nat) : LineData :=
  { d with poison := (List.range 4).map (fun j => d.poison.getD j false || decide (j = i))
           sram := (List.range 4).map (fun j => d.sram.getD j false || decide (j = i)) }

/-- Poison one granule of a cached line: what slot `sl` has staged there, else the committed contents. -/
def Mem.strike (m : Mem) (sl g : Nat) : Mem :=
  { m with cache := m.cache.map (fun e =>
      if e.1 ≠ g / 4 then e
      else match e.2.staged with
        | some (h, d) => if h = sl then (e.1, { e.2 with staged := some (h, d.strike (g % 4)) })
            else (e.1, { e.2 with data := e.2.data.map (fun d => d.strike (g % 4)) })
        | none => (e.1, { e.2 with data := e.2.data.map (fun d => d.strike (g % 4)) })) }

/-- K and N of a streamed tensor (R148). -/
def Resident.dims (r : Resident) : Nat × Nat := if r.wt then (r.elems, r.rows) else (r.rows, r.elems)

/-- Steps of K in a block of 64 columns (R115). -/
def Resident.steps (r : Resident) : Nat := ((Resident.dims r).1 + 32 * r.m - 1) / (32 * r.m)

/-- The weight blocks that a tensor has: 32 m × 64 elements each (R115). -/
def Resident.blocks (r : Resident) : Nat := ((Resident.dims r).2 + 63) / 64 * r.steps

/-- The tensor's bytes that weight block `n` takes, row by row: address and length. The engine walks the 64-column blocks in ascending order
and within each its steps (R115, R118). -/
def Resident.blockBytes (r : Resident) (n : Nat) : List (Nat × Nat) :=
  let col := n / r.steps * 64
  let k := n % r.steps * (32 * r.m)
  let (a, b) := if r.wt then ((col, 64), (k, 32 * r.m)) else ((k, 32 * r.m), (col, 64))
  let len := min b.2 (r.elems - b.1)
  ((List.range a.2).filter (fun i => decide (a.1 + i < r.rows))).map (fun i =>
    (r.base + (a.1 + i) * r.stride + b.1 * r.width / 8, (len * r.width + 7) / 8))

/-- The granules that weight block `n` lies in. -/
def Resident.blockGranules (r : Resident) (n : Nat) : List Nat :=
  ((r.blockBytes n).flatMap (fun e => (List.range ((e.1 + e.2 + 63) / 64 - e.1 / 64)).map (fun i => e.1 / 64 + i))).eraseDups

/-- Bytes of the tensor delivered by its first `n` weight blocks. -/
def Resident.delivered (r : Resident) (n : Nat) : Nat := ((List.range n).map (fun i => ((r.blockBytes i).map Prod.snd).sum)).sum

/-- Poison a granule of a streamed tensor's copy. -/
def Resident.strike (r : Resident) (g : Nat) : Resident :=
  if !r.waiting && (List.range r.arrived).any (fun n => (r.blockGranules n).contains g) then { r with poison := r.poison ++ [g] } else r

/-- Apply one memory error. Window granules are those of slot `sl`. -/
def State.ecc1 (s : State) (c sl : Nat) (e : Ecc) : State :=
  match e with
  | .single _ => s.count c 0x44
  | .double g => s.poisonGranule c g
  | .linkSingle _ => s.count c 0x43
  | .linkFail g fails => if fails < 3 then s else s.poisonGranule c g
  | .sramSingle => s.count c 0x46
  | .sramDouble g => s.modSlot c sl (fun x => { x with winPoison := sput .none x.winPoison (g % 4096) .outside })
  | .cacheDouble g => s.modChan c (fun k => { k with mem := k.mem.strike sl g })
  | .sharedDouble g => s.modChan c (fun k => { k with sharedPoison := sput false k.sharedPoison (g % 8192) true })
  | .tensorDouble g => s.modChan c (fun k => { k with seqr := { k.seqr with streams := k.seqr.streams.map (fun r => r.strike g) } })
  | .emitDouble => s.modSlot c sl (fun x => { x with emitPoison := !x.emit.isEmpty || x.emitPoison })
  | .portDouble p => s.modChan c (fun k => { k with seqr := { k.seqr with ports := k.seqr.ports.map (fun e =>
      if e.1 = p then (e.1, { e.2 with msgs := match e.2.msgs with | [] => [] | m :: l => { m with poisoned := true } :: l }) else e) } })
  | .spillDouble n => s.modChan c (fun k => { k with seqr := { k.seqr with spill := k.seqr.spill.map (fun e => if e.1 = n then (e.1, { e.2 with poisoned := true }) else e) } })
  | .recordDouble n => s.setCtx (c * 32768 + n % 32768) { s.ctx (c * 32768 + n % 32768) with cacheBad := true }

/-- Is an error one of LPDDR5X or its link? -/
def Ecc.lpddr : Ecc → Bool
  | .single _ | .double _ | .linkSingle _ | .linkFail _ _ => true
  | _ => false

/-- Apply the errors met by one operation. -/
def State.eccAll (s : State) (c sl : Nat) (l : List Ecc) : State := l.foldl (fun s e => s.ecc1 c sl e) s

end Sys2Proof.Machine
end

