-- ==== Sys2Proof/Machine/Infer.lean ====
section
/-! DEFINITION. What commands of the sequencer share: counting with a cause (R390, R396 to R398), groups and spill records
(R79 to R87), waking, the end of an inference (R161), the order of a context's work (R18). -/

namespace Sys2Proof.Machine

/-! ### Sampling (R397, R398) -/

/-- The destination operand's descriptor number in an instruction word, if it has one (R398). -/
def destBd (w : Word) : Option Nat :=
  match opOf w with
  | 0x21 => some (bnum w 36)
  | 0x28 | 0x30 | 0x31 | 0x32 | 0x40 | 0x41 | 0x42 => some (bnum w 40)
  | 0x29 | 0x38 | 0x39 | 0x48 | 0x49 => some (bnum w 44)
  | _ => none

/-- A sample record (R398). -/
def sampleBits (s : State) (c : Nat) (seq event : Nat) (slot : Nat) (idx : Nat) (w : Word) (bds : List (BitVec 128))
    (waitNs runNs : Nat) : BitVec 512 :=
  let sl := s.slot c slot
  let j := ((s.chan c).job? (sl.job.getD 0)).getD {}
  let d := (destBd w).map (fun n => bds.getD n 0)
  let addr := if opOf w = 0x20 then pack [(39, 31, fld w 43 35), (30, 27, fld w 34 31)] else match d with | some d => bdBase d | none => 0
  let kind := if opOf w = 0x20 then 15 else match d with | some d => fld d 127 124 | none => 0
  BitVec.ofNat 512 (pack [(511, 480, seq), (479, 432, s.frameN), (431, 402, s.nowNs - s.clk.lastTick), (401, 394, event),
    (393, 376, j.ctx), (375, 372, slot), (371, 366, (s.ctx j.ctx).program), (365, 352, idx), (351, 288, w.toNat),
    (287, 283, j.fn), (282, 278, j.sq), (277, 262, j.pos), (261, 230, j.user), (229, 226, kind), (225, 186, addr),
    (185, 162, min waitNs (2 ^ 24 - 1)), (161, 138, runNs)])

/-- One occurrence of an event for the channel's sampling run: every period-th enters the die buffer or is dropped (R397). -/
def State.sampleHit (s : State) (c event slot : Nat) (o : Outst) : State :=
  match (s.chan c).dbg.sample with
  | none => s
  | some r =>
    let d := ((s.host.jobs.find? (fun j => j.id == r.job)).getD {}).desc
    let ctx := (((s.chan c).job? ((s.slot c slot).job.getD 0)).getD {}).ctx
    if !r.started || fld d 343 336 != event || (bit d 295 && fld d 294 277 != ctx) then s
    else if r.phase + 1 < fld d 335 312 then
      s.modChan c (fun k => { k with dbg := { k.dbg with sample := some { r with phase := r.phase + 1 } } })
    else
      let room := decide (r.die.length < 1024 ∧ r.written + r.die.length < 2 ^ fld d 351 347)
      let rec' := sampleBits s c r.seq event slot o.idx o.word o.bds ((o.startedAt - o.issuedAt)) (2 ^ 24 - 1)
      let r' := { r with phase := 0, seq := r.seq + 1, dropped := r.dropped + bnat (!room)
                         die := if room then r.die ++ [(some o.seq, rec')] else r.die }
      s.modChan c (fun k => { k with dbg := { k.dbg with sample := some r' } })

/-- Count `n` occurrences that instruction `o` of a slot caused, each advancing the sampling period. -/
def State.countBy (s : State) (c code n slot : Nat) (o : Outst) : State :=
  let ctx := ((s.chan c).job? ((s.slot c slot).job.getD 0)).map Job.ctx
  let s := s.countN c code n ctx
  if (s.chan c).dbg.sample.isNone then s else (List.range n).foldl (fun s _ => s.sampleHit c code slot o) s

/-- An instruction completed: the run time of its samples is known (R398). -/
def State.sampleDone (s : State) (c seq run : Nat) : State :=
  match (s.chan c).dbg.sample with
  | none => s
  | some r => s.modChan c (fun k => { k with dbg := { k.dbg with sample := some { r with
      die := r.die.map (fun e => if e.1 = some seq then (none, setFld e.2 161 138 (min run (2 ^ 24 - 1))) else e) } } })

/-- Write the complete records at the head of the die buffer to the ring, in seq order; a denied write answers true (R397). -/
def State.writeSamples (s : State) (c : Nat) : State × Bool :=
  match (s.chan c).dbg.sample with
  | none => (s, false)
  | some r =>
    let j := (s.host.jobs.find? (fun j => j.id == r.job)).getD {}
    let l := r.die.takeWhile (fun e => e.1.isNone)
    let addr := fld j.desc 415 352 + 64 * r.written
    if l.isEmpty then (s, false)
    else if s.dmaOk j.fn addr (64 * l.length) true then
      let s := s.modChan c (fun k => { k with dbg := { k.dbg with sample := some { r with
        die := r.die.drop l.length, written := r.written + l.length } } })
      (s.hostWrite addr (l.flatMap (fun e => leBytes 64 e.2.toNat)), false)
    else (s, true)

/-! ### Physical groups and spill records (R79 to R87) -/

/-- A physical group of a channel. -/
def Chan.group (k : Chan) (i : Nat) : Group := sget {} k.seqr.groups i

/-- Replace a physical group. -/
def Chan.setGroup (k : Chan) (i : Nat) (g : Group) : Chan :=
  { k with seqr := { k.seqr with groups := sput {} k.seqr.groups i g } }

/-- The lowest free physical group (R79). -/
def Chan.freeGroup (k : Chan) : Option Nat := (List.range 16).find? (fun i => (k.group i).holder.isNone)

/-- Number of free physical groups. -/
def Chan.freeGroups (k : Chan) : Nat := ((List.range 16).filter (fun i => (k.group i).holder.isNone)).length

/-- Is a compensated unit free (R87)? -/
def Chan.compFree (k : Chan) (light : Bool) : Bool :=
  !light && decide ((k.seqr.groups.filter (fun e => e.2.comp)).length < 2)

/-- The lanes of an opened group (R79). -/
def zeroLanes : List (BitVec 32) := List.replicate 1024 0

/-- Open a handle on free physical group `i` (R79, R87). -/
def State.openGroup (s : State) (c sl h i : Nat) (kind : HKind) (precise : Bool) : State :=
  let comp := precise && (s.chan c).compFree s.light
  let s := s.modChan c (fun k => k.setGroup i { holder := some (sl, h), comp := comp, sums := zeroLanes, comps := zeroLanes })
  let fb := precise && !comp
  let s := s.modSlot c sl (fun x =>
    { x.setHandle h { x.handle h with kind := kind, phys := some i, precise := precise, fallback := fb, inUse := true }
      with fallbacks := x.fallbacks + bnat fb })
  if fb then s.count c 0x16 none else s

/-- Spill record `n` of a channel. -/
def Chan.record (k : Chan) (n : Nat) : SpillRec := sget {} k.seqr.spill n

/-- Free records in a slot's quota (R82). -/
def Chan.freeRecords (k : Chan) (sl : Nat) : List Nat :=
  ((List.range 16).map (fun i => 16 * sl + i)).filter (fun n => !(k.record n).valid)

/-- Handles of a slot that hold a physical group: what R82 counts as its open groups, by the model's choice (notes/assumptions/97). -/
def Slot.openGroups (x : Slot) : Nat := ((List.range 4).filter (fun h => (x.handle h).phys.isSome)).length

/-- Move the group of handle `h` into a record (R82, R83). `keepOpen`: the handle stays open and is resumed by the module. The tag's lanes in
use are 1,024, every lane of the group, by the model's choice (notes/assumptions/98). -/
def State.spillHandle (s : State) (c sl h : Nat) (keepOpen implicit : Bool) (seq : Nat := 0) : State :=
  let k := s.chan c
  let x := k.slot sl
  let hd := x.handle h
  match hd.phys, (k.freeRecords sl).head? with
  | some i, some n =>
    let g := k.group i
    let ctx := ((k.job? (x.job.getD 0)).getD {}).ctx
    let r : SpillRec :=
      { valid := true, ctx := ctx, slot := sl, handle := h, lanes := 1024, contributions := hd.drained,
        precise := hd.precise, fallback := hd.fallback, saturated := x.saturated, implicit := implicit,
        frameLo := s.frameN % 2 ^ 17, seq := seq, sums := g.sums, comps := g.comps, keep := { hd with phys := none } }
    let s := s.modChan c (fun k => { (k.setGroup i {}) with seqr := { (k.setGroup i {}).seqr with spill := sput {} k.seqr.spill n r } })
    s.modSlot c sl (fun x => x.setHandle h (if keepOpen then { hd with phys := none, record := some n, implicit := implicit } else {}))
  | _, _ => s

/-- s + c of each lane, rounded (R86, R87). -/
def sumComp (sums comps : List (BitVec 32)) : List (BitVec 32) :=
  (sums.zip comps).map (fun e =>
    match v32 e.1 with
    | .fin _ _ _ => fadd e.1 e.2
    | _ => e.1)

/-- Move record `n` into free physical group `i` for handle `h` (R82, R87). -/
def State.resumeRecord (s : State) (c sl h n i : Nat) : State :=
  let k := s.chan c
  let r := k.record n
  let comp := r.precise && k.compFree s.light
  let onStd := r.precise && !comp
  let g : Group := { holder := some (sl, h), comp := comp, sums := if onStd then sumComp r.sums r.comps else r.sums,
                     comps := if onStd then zeroLanes else r.comps }
  let newFb := onStd && !r.fallback
  let s := s.modChan c (fun k => { (k.setGroup i g) with seqr := { (k.setGroup i g).seqr with spill := serase n k.seqr.spill } })
  let s := s.modSlot c sl (fun x =>
    -- a group spilled by the module itself keeps what its handle has gathered since
    let hd := if (x.handle h).record = some n then x.handle h else r.keep
    { x.setHandle h { hd with phys := some i, record := none, implicit := false, named := hd.named - hd.drained, drained := 0, fallback := hd.fallback || onStd, poisoned := hd.poisoned || r.poisoned, inUse := true }
      with fallbacks := x.fallbacks + bnat newFb })
  let s := if newFb then s.count c 0x16 none else s
  s.count c 0x15 none

/-- The records that a slot's spill instructions made for a handle, oldest first (R82). -/
def Chan.recordsFor (k : Chan) (sl h : Nat) : List Nat :=
  sortBy (fun a b => decide ((k.record a).seq ≤ (k.record b).seq))
    (((List.range 16).map (fun i => 16 * sl + i)).filter (fun n =>
      (k.record n).valid && (k.record n).handle == h && ((k.slot sl).handle h).record != some n))

/-- Spill every group the slot holds open (R83). -/
def State.spillAll (s : State) (c sl : Nat) : State :=
  (List.range 4).foldl (fun s h =>
    if ((s.slot c sl).handle h).phys.isSome then (s.spillHandle c sl h true true).count c 0x14 none else s) s

/-- Does a waiting handle come before another: its slot began to wait earlier, or in the same cycle and has the lower number (R79)? -/
def GWait.before (a b : GWait) : Bool := decide (a.since < b.since ∨ a.since = b.since ∧ a.slot < b.slot)

/-- A handle joins those that wait for a physical group, with the time its slot began to wait (R79). -/
def Chan.joinGroupQ (k : Chan) (sl h now : Nat) : Chan :=
  let q := k.seqr.groupQ
  let w : GWait := { slot := sl, handle := h, since := match q.find? (fun e => e.slot == sl) with | some e => e.since | none => now }
  if q.any (fun e => e.slot == sl && e.handle == h) then k
  else { k with seqr := { k.seqr with groupQ := q.filter (fun e => !w.before e) ++ w :: q.filter w.before } }

/-- The handles of a slot that the module itself is to resume (R83). -/
def Slot.toResume (x : Slot) : List Nat := (List.range 4).filter (fun h => (x.handle h).implicit && (x.handle h).record.isSome)

/-- Resume some handles of a slot on the lowest free groups. -/
def State.resumeHandles (s : State) (c sl : Nat) (l : List Nat) : State :=
  l.foldl (fun s h =>
    match ((s.slot c sl).handle h).record, (s.chan c).freeGroup with
    | some n, some i => s.resumeRecord c sl h n i
    | _, _ => s) s

/-- A woken slot resumes its implicitly spilled groups: all of them at once where nobody waits and enough groups are free, else it waits for
them and holds none (R83). -/
def State.resumeAll (s : State) (c sl : Nat) : State :=
  let l := (s.slot c sl).toResume
  let s :=
    if (s.chan c).seqr.groupQ.isEmpty && decide (l.length ≤ (s.chan c).freeGroups) then s.resumeHandles c sl l
    else s.modChan c (fun k => l.foldl (fun k h => k.joinGroupQ sl h s.nowNs) k)
  s.modSlot c sl (fun x => { x with block := if (List.range 4).any (fun h => (x.handle h).implicit) then .resuming else .none, blockedFrames := 0 })

/-- Close a handle: its physical group or record is freed (R79). -/
def State.closeHandle (s : State) (c sl h : Nat) : State :=
  let hd := (s.slot c sl).handle h
  let s := match hd.phys with | some i => s.modChan c (fun k => k.setGroup i {}) | none => s
  let s := match hd.record with
    | some n => s.modChan c (fun k => { k with seqr := { k.seqr with spill := serase n k.seqr.spill } })
    | none => s
  s.modSlot c sl (fun x => x.setHandle h {})

/-! ### Use and estimates (R232, R238) -/

/-- Sum of uses. -/
def Use.add (a b : Use) : Use := { tile := a.tile + b.tile, eng := a.eng + b.eng, bytes := a.bytes + b.bytes }

/-- Difference of uses, at least 0. -/
def Use.sub (a b : Use) : Use := { tile := a.tile - b.tile, eng := a.eng - b.eng, bytes := a.bytes - b.bytes }

/-- FP32 of a count. -/
def fnat (n : Nat) : BitVec 32 := f32 (Val.ofInt n)

/-- e + (x − e) ÷ 16 in FP32 (R232). -/
def estStep (e : BitVec 32) (x : Nat) : BitVec 32 := fadd e (fdiv (fsub (fnat x) e) 0x41800000)

/-- Update a program's estimates with measured use (R232). -/
def Est.update (e : Est) (u : Use) : Est :=
  { e with tile := estStep e.tile u.tile, eng := estStep e.eng u.eng, bytes := estStep e.bytes u.bytes }

/-- Add to what a slot's inference has used. -/
def State.used (s : State) (c sl : Nat) (u : Use) : State := s.modSlot c sl (fun x => { x with use := x.use.add u })

/-- Use of a slot's inference that runs on past an end of compute, as far as it is not carried yet (R238). -/
def Slot.overUse (x : Slot) : Use := if x.carrying then x.use.sub x.useAtEnd else {}

/-- That use is carried. -/
def State.carryUse (s : State) (c sl : Nat) : State :=
  let u := (s.slot c sl).overUse
  (s.modChan c (fun k => { k with sched := { k.sched with carry := k.sched.carry.add u } })).modSlot c sl (fun x => { x with useAtEnd := x.use })

/-! ### Vertices, barriers and ports: leaving (R281) -/

/-- A slot leaves every waiter list; a barrier arrival it sent is marked orphaned. -/
def State.leaveObjects (s : State) (c sl ctx : Nat) : State :=
  let wasWaiting := match (s.slot c sl).block with
    | .bar b _ => if (sget ({} : Bar) (s.chan c).sync.bars b).waiters.any (fun w => w.slot == sl) then some b else none
    | _ => none
  let s := s.modChan c (fun k => { k with
    sync := { k.sync with
      vtx := k.sync.vtx.map (fun e => (e.1, { e.2 with waiters := e.2.waiters.filter (fun w => w.slot ≠ sl) }))
      bars := k.sync.bars.map (fun e => (e.1, { e.2 with
        waiters := e.2.waiters.filter (fun w => w.slot ≠ sl), leaving := e.2.leaving.filter (fun w => w.slot ≠ sl) })) }
    seqr := { k.seqr with
      groupQ := k.seqr.groupQ.filter (fun e => e.slot ≠ sl)
      ports := k.seqr.ports.map (fun e => (e.1, { e.2 with waiters := e.2.waiters.filter (fun w => w ≠ sl) }))
      sending := k.seqr.sending.filter (fun m => m.slot ≠ sl) } })
  match wasWaiting with
  | some b => s.modChan c (fun k => { k with sync := { k.sync with bars := smod {} k.sync.bars b (fun x =>
      { x with orphans := satAdd 255 x.orphans 1, orphanCtx := ctx, orphaned := true }) } })
  | none => s

/-! ### Contexts (R201, R217) -/

/-- Mark the poison an inference consumed in its context's record (R217). -/
def Ctx.markPoison (x : Ctx) (p : PSrc) : Ctx :=
  match p with
  | .blob g =>
    { x with poisoned := true, poisonSrc := if x.poisonSrc = 0 ∨ x.poisonSrc = 2 then 1 else x.poisonSrc,
             poisonGranule := if x.poisonSrc = 0 ∨ x.poisonSrc = 2 then g else x.poisonGranule }
  | .outside => { x with poisoned := true, poisonSrc := if x.poisonSrc = 0 then 2 else x.poisonSrc }
  | .none => x

/-- A reset (R201): every page zero, poison, taint and epoch fields cleared, every other field kept. -/
def Ctx.reset (x : Ctx) : Ctx :=
  { x with poisoned := false, tainted := false, clipped := 0, poisonGranule := 0, poisonSrc := 0, checkEpoch := 0,
           peerMask := 0, peerEpoch := 0, pages := x.pages.map (fun p => if p.valid then { p with zero := true } else p) }

/-- Cached lines of a context's pages are dropped when its pages become zero. -/
def Mem.dropPages (m : Mem) (ps : List Page) : Mem :=
  { m with cache := m.cache.filter (fun e => !ps.any (fun p => p.valid && p.page == e.1 / 256)) }

/-- The bits of a context's record as read (R204). -/
def State.ctxBits (s : State) (raw : Nat) : BitVec 1024 :=
  let x := s.ctx raw
  let o := s.ownOf raw
  BitVec.ofNat 1024 (pack [(1023, 1022, match x.life with | .free => 0 | .open => 1 | .releasing => 2), (1021, 1021, bnat x.poisoned),
    (1020, 1020, bnat x.tainted), (1019, 1015, o.owner.getD 0), (1014, 1013, x.prio), (1012, 1007, x.program), (1006, 1000, x.blobPages),
    (999, 993, x.hotPages), (992, 981, x.routingBase), (980, 965, x.cadence), (964, 964, bnat o.owner.isSome),
    (959, 928, if x.genLost then 0 else o.gen), (927, 896, x.clipped), (895, 848, x.inferences), (847, 800, x.lastFrame),
    (799, 768, x.checkEpoch), (767, 704, x.peerMask.toNat), (703, 672, x.peerEpoch), (671, 656, x.poisonGranule),
    (655, 648, x.lastStatus), (647, 640, x.lastCause), (639, 576, x.userTag.toNat), (575, 574, x.poisonSrc)])

/-- Read a record's cache copy: an uncorrectable one is reloaded from the system area, or rebuilt where that is poisoned too; a poisoned page-list entry counts as a lost record (R218). -/
def State.readRec (s : State) (raw : Nat) : State :=
  let x := s.ctx raw
  let s := if x.cacheBad then
      if x.sysBad ≠ 0 then s.setCtx raw { life := .open, poisoned := true, poisonSrc := 3, genLost := true, pages := x.pages }
      else s.setCtx raw { x with cacheBad := false }
    else s
  if (s.ctx raw).poisonSrc ≠ 3 ∧ (s.ctx raw).pages.any (fun p => p.valid && p.poisoned) then
    s.setCtx raw { s.ctx raw with poisoned := true, poisonSrc := 3 }
  else s

/-- Run what stands first in a context's sequence while it is a reset or a failed descriptor; start a get or put (R18, R201, R211). -/
def State.runOrdered : Nat → State → Nat → State
  | 0, s, _ => s
  | fuel + 1, s, ctx =>
    let c := ctx / 32768
    match (s.chan c).jobs.find? (fun j => j.ctx == ctx) with
    | none => s
    | some j =>
      if j.stage ≠ .ordered then s
      else
        match j.verdict with
        | some v => runOrdered fuel (s.finish c j v.1 v.2) ctx
        | none =>
          let s := s.readRec ctx
          let x := s.ctx ctx
          if j.kind = 7 then
            if s.dmaOk j.fn j.addr 128 true then
              runOrdered fuel ((s.hostWrite j.addr (leBytes 128 (s.ctxBits ctx).toNat)).finish c j stOK 0) ctx
            else runOrdered fuel (s.finish c j stProtection 0x11) ctx
          else if (j.kind = 3 ∨ j.kind = 5 ∨ j.kind = 6) ∧ x.poisonSrc = 3 then
            runOrdered fuel (s.finish c j stPoisoned 0x10) ctx
          else if j.kind = 3 then
            let s := s.modChan c (fun k => { k with mem := k.mem.dropPages x.pages })
            runOrdered fuel ((s.modCtx ctx Ctx.reset).finish c j stOK 0) ctx
          else if j.kind = 5 ∨ j.kind = 6 then s.modJob c j.id (fun j => { j with stage := .moving })
          else s

/-- Run a context's sequence as far as it goes by itself. -/
def State.advance (s : State) (ctx : Nat) : State := s.runOrdered ((s.chan (ctx / 32768)).jobs.length + 1) ctx

/-! ### The end of an inference (R161) -/

/-- The completion entry of a bound inference: its flags and counts. -/
def State.infCpl (s : State) (c sl : Nat) (j : Job) (status cause detail : Nat) : Cpl :=
  let x := s.slot c sl
  { s.jobCpl j c status cause with
    detail := detail, clipped := x.clipped, replays := x.replays, fallback := x.fallbacks, flags := x.flags,
    saturated := x.saturated, switched := x.switched, overdue := x.overdue }

/-- Free every bank that holds sums of a slot's inference (R78). -/
def Tile.freeBanks (t : Tile) (sl : Nat) : Tile :=
  let f : BankSt → BankSt := fun b => match b with
    | .full r _ => (match r.why with | .work sl' _ _ => if sl' = sl then .free else b | _ => b)
    | _ => b
  { t with bank0 := f t.bank0, bank1 := f t.bank1 }

/-! ### Expert parts at the channels that hold them (R126, R147) -/

/-- The holder of the group in which a set's parts accumulate at the holding channel: past every slot. -/
def ExpReq.holder (r : ExpReq) : Nat × Nat :=
  match r.peer with
  | some n => (1000 + n * 8 + r.home, r.tag)
  | none => (16 + r.home * 16 + r.slot, r.handle)

/-- The group that holds a set. -/
def Chan.groupOf (k : Chan) (holder : Nat × Nat) : Option Nat := (List.range 16).find? (fun i => (k.group i).holder == some holder)

/-- Does a bank hold a copy of expert request `id`? -/
def holdsExp (id : Nat) : BankSt → Bool
  | .full r _ => (match r.why with | .expert n => n == id | _ => false)
  | _ => false

/-- Free one bank of a tile. -/
def Tile.freeBank (t : Tile) (b : Nat) : Tile :=
  if b = 0 then { t with bank0 := .free, sums0 := [] } else { t with bank1 := .free, sums1 := [] }

/-- Free every bank of an expert request. -/
def Chan.dropExp (k : Chan) (id : Nat) : Chan :=
  { k with arr := { k.arr with tiles := k.arr.tiles.map (fun e =>
      let t := if holdsExp id e.2.bank0 then e.2.freeBank 0 else e.2
      (e.1, if holdsExp id t.bank1 then t.freeBank 1 else t)) } }

/-- An expert part whose inference has ended leaves nothing at the channel that holds it: its full banks are free, and so is the group of its set (R78, R161). -/
def Chan.dropPart (k : Chan) (e : ExpReq) : Chan :=
  let k := k.dropExp e.id
  match if e.grp then k.groupOf e.holder else none with
  | some i => k.setGroup i {}
  | none => k

/-- Is an expert request one of a slot's inference? -/
def ExpReq.ofSlot (e : ExpReq) (c sl : Nat) : Bool := e.home == c && e.slot == sl && e.peer.isNone

/-- The parts that a slot's inference has sent to other channels of the module are dropped there. -/
def State.dropParts (s : State) (c sl : Nat) : State :=
  ((s.chan c).seqr.experts.filter (fun e => e.ofSlot c sl && decide (e.dst < 8))).foldl (fun s e => s.modChan e.dst (fun k => k.dropPart e)) s

/-- Take a bound inference out of its slot: groups, records, banks, staged lines and emit stage are freed, estimates updated,
use after the end of compute carried (R78, R83, R208, R232, R238). -/
def State.unbind (s : State) (c sl : Nat) (j : Job) : State :=
  let x := s.slot c sl
  let s := (s.leaveObjects c sl j.ctx).dropParts c sl
  let s := (List.range 4).foldl (fun s h => s.closeHandle c sl h) s
  let s := s.modChan c (fun k =>
    let prog := (s.ctx j.ctx).program
    { k with
      mem := (k.mem.endFills (s.ctx j.ctx).pages).discardStaged sl
      arr := { k.arr with tiles := k.arr.tiles.map (fun e => (e.1, e.2.freeBanks sl)) }
      sched := { k.sched with est := smod {} k.sched.est prog (fun e => e.update x.use), carry := k.sched.carry.add x.overUse }
      seqr := { k.seqr with
        spill := k.seqr.spill.filter (fun e => e.1 / 16 ≠ sl)
        experts := k.seqr.experts.filter (fun e => !e.ofSlot c sl) }
      dbg := { k.dbg with sample := k.dbg.sample.map (fun r =>
        { r with die := r.die.map (fun e => if x.outs.any (fun o => some o.seq == e.1) then (none, e.2) else e) }) } })
  -- an image loaded over and no longer run is freed (R131)
  let s := s.setSlot c sl { win := x.win, winPoison := x.winPoison }
  s.modChan c (fun k => { k with seqr := { k.seqr with images := k.seqr.images.filter (fun e =>
    k.seqr.current.any (fun cur => cur.2 == e.1 + 1) || k.seqr.slots.any (fun t => t.2.job.isSome && t.2.image == e.1)) } })

/-- End the inference of a slot with a status, cause and detail; nothing is committed (R161, R217). -/
def State.endWith (s : State) (c sl status cause detail : Nat) (p : PSrc := .none) : State :=
  match (s.chan c).job? ((s.slot c sl).job.getD 0) with
  | none => s
  | some j =>
    let e := s.infCpl c sl j status cause detail
    let s := (s.unbind c sl j).modCtx j.ctx (fun x => { x.markPoison p with lastStatus := status, lastCause := cause })
    (s.finishWith c j e).advance j.ctx

/-- End the inference of a slot with a status and cause at instruction `idx` (R161, R256). -/
def State.endInf (s : State) (c sl status cause idx : Nat) (p : PSrc := .none) : State := s.endWith c sl status cause (idx % 65536) p

/-- End the inference of a slot with a program fault (R161). -/
def State.fault (s : State) (c sl cause idx : Nat) : State := s.endInf c sl stProgramFault cause idx

/-- End an inference that has not bound (R239, R254): the detail of R256 where the cause is one of R161. -/
def State.endUnbound (s : State) (c : Nat) (j : Job) (status cause : Nat) : State :=
  let d := if 0 < cause ∧ cause < 0x20 then 0xFFFF else 0
  let s := if (s.ctx j.ctx).life = .free then s else s.modCtx j.ctx (fun x => { x with lastStatus := status, lastCause := cause })
  (s.finish c j status cause d).advance j.ctx

end Sys2Proof.Machine
end

