-- ==== Sys2Proof/Machine/Chord.lean ====
section
/-! DEFINITION. The chord (R14): at each output port control messages go before bulk data, inputs of a class go by round robin in ascending port
number, and activation exchange shares a port with host DMA cycle by cycle. A port carries 64 bytes, one flit, each nanosecond. -/

namespace Sys2Proof.Machine

/-! ### Ports and flits -/

/-- Bytes that a port carries in a nanosecond: 64 GB/s. -/
def flitBytes : Nat := 64

/-- Flits of a message of `n` bytes. -/
def flitsOf (n : Nat) : Nat := (n + flitBytes - 1) / flitBytes

/-- Ports of the chord: the PCIe endpoint, the eight channels, the apex services port. -/
def chordPorts : Nat := 10

/-- The chord port of a channel (notes/assumptions/106). -/
def portOf (c : Nat) : Nat := c + 1

/-- The input served next after `last` among those that wait: ascending, round and round. -/
def nextInput (last : Nat) (waits : Nat → Bool) : Option Nat :=
  ((List.range chordPorts).map (fun i => (last + 1 + i) % chordPorts)).find? waits

/-- Change the first element that satisfies `p`. -/
def modFirst {α : Type} (p : α → Bool) (f : α → α) : List α → List α
  | [] => []
  | a :: l => if p a then f a :: l else a :: modFirst p f l

/-- What has wholly crossed stands before what has not, in the order in which it crossed. -/
def crossedFirst {α : Type} (flits : α → Nat) (l : List α) : List α := l.filter (fun a => flits a == 0) ++ l.filter (fun a => flits a != 0)

/-! ### Control messages: vertex signals and barrier messages -/

/-- Does a forwarded signal of input `i` wait for the output port? -/
def Signal.waitsAt (m : Signal) (i : Nat) : Bool := m.flits != 0 && portOf m.src == i

/-- Does a barrier message of input `i` wait for the output port? -/
def BMsg.waitsAt (m : BMsg) (i : Nat) : Bool := m.flits != 0 && m.src.peer.isNone && portOf m.src.chan == i

/-- Does input `i` hold a control message for channel `k`? -/
def Sync.ctlWaits (k : Sync) (i : Nat) : Bool := k.sigIn.any (fun m => m.waitsAt i) || k.barIn.any (fun m => m.waitsAt i)

/-- One flit of input `i`'s first control message crosses; signals go before barrier messages of one input. -/
def Sync.serve (k : Sync) (i : Nat) : Sync :=
  if k.sigIn.any (fun m => m.waitsAt i) then
    { k with sigIn := crossedFirst Signal.flits (modFirst (fun m => Signal.waitsAt m i) (fun m => { m with flits := m.flits - 1 }) k.sigIn) }
  else { k with barIn := crossedFirst BMsg.flits (modFirst (fun m => BMsg.waitsAt m i) (fun m => { m with flits := m.flits - 1 }) k.barIn) }

/-! ### Activation exchange: messages, expert requests and replies -/

/-- Does an exchange message wait for the port of channel `d`? -/
def Sending.waitsTo (m : Sending) (d : Nat) : Bool := m.remote.isNone && m.dst == d && m.flits != 0

/-- Does an expert request wait for the port of channel `d`? -/
def ExpReq.waitsTo (e : ExpReq) (d : Nat) : Bool := e.peer.isNone && !e.arrived && e.dst == d && e.flits != 0

/-- Does a reply of input `i` wait for the port of its home channel? -/
def ExpReq.repliesFrom (e : ExpReq) (i : Nat) : Bool := e.peer.isNone && e.reply.isSome && portOf e.dst == i && e.flits != 0

/-- Has channel `c` a message or request that waits for the port of channel `d`? -/
def Seqr.sendsTo (q : Seqr) (d : Nat) : Bool := q.sending.any (fun m => m.waitsTo d) || q.experts.any (fun e => e.waitsTo d)

/-- Does input `i` hold activation exchange for channel `d`? -/
def State.bulkWaits (s : State) (d i : Nat) : Bool :=
  (List.range s.channels).any (fun c => portOf c == i && (s.chan c).seqr.sendsTo d) || (s.chan d).seqr.experts.any (fun e => e.repliesFrom i)

/-- The instruction number of a channel's first exchange message, and of its first request, to channel `d`. -/
def Seqr.firstTo (q : Seqr) (d : Nat) : Option Nat × Option Nat :=
  ((q.sending.find? (fun m => m.waitsTo d)).map Sending.seq, (q.experts.find? (fun e => e.waitsTo d)).map ExpReq.seq)

/-- One flit of a channel's oldest message or request to channel `d` crosses. -/
def Seqr.serveTo (q : Seqr) (d : Nat) : Seqr :=
  let msg : Seqr := { q with sending := modFirst (fun m => Sending.waitsTo m d) (fun m => { m with flits := m.flits - 1 }) q.sending }
  let req : Seqr := { q with experts := modFirst (fun e => ExpReq.waitsTo e d) (fun e => { e with flits := e.flits - 1 }) q.experts }
  match q.firstTo d with
  | (some a, some b) => if a < b then msg else req
  | (some _, none) => msg
  | _ => req

/-- One flit of input `i`'s exchange to channel `d` crosses: its messages and requests, then its replies. -/
def State.serveBulk (s : State) (d i : Nat) : State :=
  match (List.range s.channels).find? (fun c => portOf c == i && (s.chan c).seqr.sendsTo d) with
  | some c => s.modChan c (fun k => { k with seqr := k.seqr.serveTo d })
  | none => s.modChan d (fun k => { k with seqr := { k.seqr with
      experts := modFirst (fun e => ExpReq.repliesFrom e i) (fun e => { e with flits := e.flits - 1 }) k.seqr.experts } })

/-! ### The arbiter -/

/-- Does host DMA hold data for channel `d`: a state put under way? -/
def Chan.dmaWaits (k : Chan) : Bool := k.jobs.any (fun j => j.stage == .moving && j.kind == 6)

/-- One nanosecond of the output port of channel `d`: a control message if one waits, else exchange and DMA in turn. -/
def State.chordPort (s : State) (d : Nat) : State :=
  let k := s.chan d
  match nextInput k.chord.ctl (fun i => k.sync.ctlWaits i) with
  | some i => s.modChan d (fun k => { k with sync := k.sync.serve i, chord := { k.chord with ctl := i } })
  | none =>
    match nextInput k.chord.bulk (fun i => s.bulkWaits d i) with
    | none => s
    | some i =>
      if k.dmaWaits && !k.chord.dmaLast then s.modChan d (fun k => { k with chord := { k.chord with dmaLast := true } })
      else (s.serveBulk d i).modChan d (fun k => { k with chord := { k.chord with bulk := i, dmaLast := false } })

/-- One nanosecond of the chord. -/
def State.chordNs (s : State) : State := (List.range s.channels).foldl State.chordPort s

end Sys2Proof.Machine
end

