-- ==== Sys2Proof/Machine/Time.lean ====
section
/-! DEFINITION. Time: the throttle level table (R338, R345), the divided clock (R340, R391), and what happens each nanosecond
in which no command comes: the counters advance and the 100 ns waits are counted (R227, R390). -/

namespace Sys2Proof.Machine

/-! ### The throttle level table (R338) -/

/-- Sixteenths of tile-slots admitted at a level. -/
def tileSlots16 (l : Nat) : Nat :=
  match l with
  | 0 => 16 | 1 => 12 | 2 => 8 | 3 => 8 | 4 => 6 | 5 => 4 | 6 => 4 | 7 => 3 | 8 => 2 | 9 => 2 | _ => 1

/-- Cycles skipped out of 16 at a level. -/
def skipped16 (l : Nat) : Nat :=
  match l with
  | 3 => 4 | 6 => 8 | 9 => 8 | 11 => 8 | _ => 0

/-- Clock divisor at a level. -/
def divisor (l : Nat) : Nat :=
  match l with
  | 0 | 1 | 2 | 3 => 1 | 4 | 5 | 6 => 2 | 7 | 8 | 9 => 4 | _ => 8

/-- The level channel `c` runs at: the higher of its thermal level and the module's (R345); none under test (R348). -/
def State.levelOf (s : State) (c : Nat) : Nat :=
  let k := s.chan c
  match k.test.phase with
  | .running | .cooling => 0
  | _ => max k.thermal s.therm.level

/-- Tiles that may compute at once in channel `c` (R338, R341). -/
def State.tileLimit (s : State) (c : Nat) : Nat := 24 * tileSlots16 (s.levelOf c)

/-- Tiles of a channel now computing. -/
def Chan.computing (k : Chan) : Nat :=
  (k.arr.tiles.filter (fun e => e.2.st == .computing)).length

/-! ### Waits counted once for each 100 ns (R390) -/

/-- The context of a request that waits at a tile. -/
def Chan.reqCtx (k : Chan) (r : Req) : Option Nat :=
  match r.why with
  | .work sl _ _ => ((k.slot sl).job.bind k.job?).map Job.ctx
  | _ => none

/-- The bank an MVM would fill: not the one filled last (R78). -/
def Tile.nextBank (t : Tile) : BankSt := if t.lastBank = 0 then t.bank1 else t.bank0

/-- What a tile's waiting requests count at a 100 ns mark: codes with contexts. -/
def Chan.tileWaits (k : Chan) (limit : Nat) (t : Tile) : List (Nat × Option Nat) :=
  match t.queue with
  | [] => []
  | r :: _ =>
    match t.st with
    | .switching _ => [(0x06, k.reqCtx r)]
    | .programming => t.queue.map (fun r => (0x07, k.reqCtx r))
    | .idle =>
      if t.nextBank != .free then [(0x10, k.reqCtx r)]
      else if limit ≤ k.computing then [(0x83, k.reqCtx r)] else []
    | _ => []

/-- What the slots of a channel count at a 100 ns mark. -/
def Chan.slotWaits (k : Chan) : List (Nat × Option Nat) :=
  let ctxOf (sl : Nat) : Option Nat := ((k.slot sl).job.bind k.job?).map Job.ctx
  (k.seqr.groupQ.map GWait.slot).eraseDups.map (fun n => (0x11, ctxOf n)) ++
  k.seqr.slots.flatMap (fun e =>
    (match e.2.block with
      | .wait _ _ _ => [(0x61, ctxOf e.1)]
      | .bar _ _ => [(0x64, ctxOf e.1)]
      | _ => []) ++
    (e.2.outs.filter (fun o => o.setWait)).map (fun _ => (0x42, ctxOf e.1)))

/-- Every wait of channel `c` at a 100 ns mark. -/
def State.chanWaits (s : State) (c : Nat) : List (Nat × Option Nat) :=
  let k := s.chan c
  k.arr.tiles.flatMap (fun e => k.tileWaits (s.tileLimit c) e.2) ++ k.slotWaits

/-- Count the waits of every channel. -/
def State.countWaits (s : State) : State :=
  (List.range s.channels).foldl (fun s c => (s.chanWaits c).foldl (fun s e => s.count c e.1 e.2) s) s

/-! ### The divided clock (R340, R391) -/

/-- Advance CH_CYCLES by one nanosecond at level `l`: 16 − s cycles of every 16 d nanoseconds. -/
def Dbg.cycle (d : Dbg) (l : Nat) : Dbg :=
  let p := d.cyclePhase + (16 - skipped16 l)
  if 16 * divisor l ≤ p then { d with cycles := d.cycles + 1, cyclePhase := p - 16 * divisor l }
  else { d with cyclePhase := p }

/-- One nanosecond passes: nothing without power-good; else the counters advance, each port of the chord carries a flit, and waits are counted at
multiples of 100. -/
def passNs (s : State) : State :=
  if s.pwr.supply != .on || s.pwr.boot == .off then s
  else
    let s := { s with clk := { s.clk with nanos := s.clk.nanos + 1 } }
    let s := s.allChans (fun c k => { k with dbg := k.dbg.cycle (s.levelOf c) })
    let s := s.chordNs
    if s.nowNs % 100 = 0 then s.countWaits else s

end Sys2Proof.Machine
end

