-- ==== Sys2Proof/Machine/Drain.lean ====
section
/-! DEFINITION. Closing functions (R264), messages to peers (R266 to R268), and draining: what a detected failure or a thermal
cause does to the whole module (R294 to R301). -/

namespace Sys2Proof.Machine

/-! ### Jobs of the hub: loads and sampling runs -/

/-- A load or sample job. -/
def State.hostJob? (s : State) (id : Nat) : Option Job := s.host.jobs.find? (fun j => j.id == id)

/-- Complete a load or sample job (R253). -/
def State.finishHost (s : State) (id status cause : Nat) (detail : Nat := 0) : State :=
  match s.hostJob? id with
  | none => s
  | some j =>
    let e := { s.jobCpl j 0 status cause with detail := detail }
    let s := { s with host := { s.host with jobs := s.host.jobs.filter (fun x => x.id ≠ id) } }
    (s.sqDone j.fn j.sq).complete e

/-- End a channel's sampling run: the records held are written, then the run completes (R397). A denied write ends it with PROTECTION. -/
def State.endSample (s : State) (c status cause : Nat) : State :=
  match (s.chan c).dbg.sample with
  | none => s
  | some r =>
    let s := s.modChan c (fun k => { k with dbg := { k.dbg with sample := some { r with die := r.die.map (fun e => (none, e.2)) } } })
    let w := s.writeSamples c
    let s := w.1.modChan c (fun k => { k with dbg := { k.dbg with sample := none } })
    if w.2 then s.finishHost r.job stProtection 0x11
    else s.finishHost r.job status cause (min r.dropped (2 ^ 32 - 1))

/-! ### Roles ending (R313) -/

/-- Debug mode, or its opening at the next tick, ends at the next tick (R394). -/
def State.endDebug (s : State) : State :=
  if s.hub.debug || s.hub.debugNext == some true then { s with hub := { s.hub with debugNext := some false } } else s

/-- The port holds operator rights only; an end of a held role is entered as action 0x02. -/
def State.endRole (s : State) (p : Nat) : State :=
  let r := (s.port p).roleNow
  let s := if r.role == .operator then s else s.audit 0x02 p 0 (digestObject r.digest)
  let s := if r.role == .maker && s.hub.debugPort == p then s.endDebug else s
  s.modPort p (fun x => { x with roleNow := {}, roleNext := none })

/-! ### Functions and rings (R248, R264) -/

/-- Kinds whose job is an inference waiting to run: carried, admitted or yielded (R233, R264). -/
def Job.waitingInf (j : Job) : Bool :=
  j.kind == 1 && j.verdict.isNone && (match j.stage with | .carried => true | .admitted => true | .yielded _ => true | _ => false)

/-- Complete a waiting inference with DROPPED_LATE; a yielded one is ended under R161 (R239, R264). -/
def State.dropLate (s : State) (c : Nat) (j : Job) : State :=
  match j.stage with
  | .yielded sl => s.endInf c sl stDroppedLate 0 0
  | _ => s.endUnbound c j stDroppedLate 0

/-- Drop every waiting inference of function `f` in channel `c`. -/
def State.dropCarried (s : State) (f c : Nat) : State :=
  (s.chan c).jobs.foldl (fun s j => if j.fn = f ∧ j.waitingInf then s.dropLate c j else s) s

/-- A ring told to stop (R248, R264). -/
def Ring.stop (r : Ring) : Ring :=
  match r.st with
  | .active | .stopped => { r with st := .stopping, want := false }
  | _ => { r with want := false }

/-- Close function `f` (R264): rings stop, carried inferences complete, its role, challenge and mailbox end (R311, R313, R384). -/
def State.closeFn (s : State) (f : Nat) : State :=
  match (s.fn f).st with
  | .open =>
    let s := s.modFn f (fun x => { x with
      st := .closing, openNext := false
      sqs := x.sqs.map (fun e => (e.1, e.2.stop)), cqs := x.cqs.map (fun e => (e.1, e.2.stop)) })
    let s := s.endRole f
    let s := s.modPort f (fun p => { p with challenge := none, mbxOpen := false, mbxNext := false, mbxVer := 0, busy := false })
    (List.range s.channels).foldl (fun s c => s.dropCarried f c) s
  | .closed => s.modFn f (fun x => { x with openNext := false, ver := 0 })
  | .held => s.modFn f (fun x => { x with st := .closing, waitFrom := none })
  | .closing => s

/-- Has a stopping ring nothing left to do: no descriptor uncompleted, no entry unwritten (R248), no retraction entry still to come from a drain's scan (R300)? -/
def State.ringDone (s : State) (f : Nat) (isCq : Bool) (n : Nat) : Bool :=
  if isCq then
    let r := (s.fn f).cqRing n
    r.st == .stopping && r.held == 0 && s.host.cpls.all (fun e => !(e.fn == f && e.cq == n)) &&
    s.integ.retract.all (fun e => e.fn != f) && !(s.integ.svc == .draining && !s.integ.scanDone && s.integ.told.contains f)
  else
    let r := (s.fn f).sqRing n
    r.st == .stopping && r.held == 0

/-- Is every ring of a function free? -/
def Fn.allFree (x : Fn) : Bool := x.sqs.all (fun e => e.2.st == .free) && x.cqs.all (fun e => e.2.st == .free)

/-- The highest minor of major 1 shared by two ranges and 1.0 to 1.3 (R245); 0 where there is none. -/
def settle (lo hi : Nat) : Nat :=
  if lo / 16 ≠ 1 ∨ hi / 16 ≠ 1 ∨ hi < lo then 0 else min hi 0x13 |> fun v => if lo ≤ v then v else 0

/-- A held open proceeds: the version settles and the function opens at the next tick (R265). -/
def Fn.proceed (x : Fn) : Fn := { x with st := .closed, openNext := true, ver := settle x.drvMin x.drvMax }

/-- The lowest-numbered completion ring of a function that is active or stopping (R300). -/
def Fn.firstCq (x : Fn) : Option Nat :=
  (x.cqs.find? (fun e => e.2.st == .active || e.2.st == .stopping)).map Prod.fst

/-! ### Messages to peers (R266 to R268) -/

/-- One bit step of CRC-32C, reflected. -/
def crcStep (c : Nat) : Nat := if c % 2 = 1 then Nat.xor (c / 2) 0x82F63B78 else c / 2

/-- CRC-32C of bytes. -/
def crc32c (l : List Byte) : Nat :=
  Nat.xor (l.foldl (fun c b => (List.range 8).foldl (fun c _ => crcStep c) (Nat.xor c b.toNat)) 0xFFFFFFFF) 0xFFFFFFFF

/-- Fields of an Arant header (R268). -/
structure Hdr where
  ver : Nat := 0
  typ : Nat := 0
  srcModule : Nat := 0
  srcChan : Nat := 0
  dstChan : Nat := 0
  port : Nat := 0
  length : Nat := 0
  epoch : Nat := 0
  watermark : Nat := 0
  seq : Nat := 0
  tag : Nat := 0
  expert : Nat := 0
  part : Nat := 0
  last : Bool := false
  grp : Bool := false
  check : Nat := 0
  /-- bits 58:0, reserved -/
  rsv : Nat := 0
deriving DecidableEq, Repr

/-- The 256 bits of a header. -/
def Hdr.bits (h : Hdr) : BitVec 256 :=
  BitVec.ofNat 256 (pack [(255, 248, h.ver), (247, 244, h.typ), (243, 238, h.srcModule), (237, 235, h.srcChan),
    (234, 232, h.dstChan), (231, 224, h.port), (223, 209, h.length), (208, 177, h.epoch), (176, 145, h.watermark),
    (144, 129, h.seq), (128, 113, h.tag), (112, 101, h.expert), (100, 93, h.part), (92, 92, bnat h.last), (91, 91, bnat h.grp),
    (90, 59, h.check), (58, 0, h.rsv)])

/-- Read a header. -/
def readHdr (b : BitVec 256) : Hdr :=
  { ver := fld b 255 248, typ := fld b 247 244, srcModule := fld b 243 238, srcChan := fld b 237 235,
    dstChan := fld b 234 232, port := fld b 231 224, length := fld b 223 209, epoch := fld b 208 177,
    watermark := fld b 176 145, seq := fld b 144 129, tag := fld b 128 113, expert := fld b 112 101,
    part := fld b 100 93, last := bit b 92, grp := bit b 91, check := fld b 90 59, rsv := fld b 58 0 }

/-- The check field of a message from version 1.3: CRC-32C over the header with this field zero, and the body; zero below. -/
def Hdr.crc (h : Hdr) (body : List Byte) : Nat :=
  if h.ver = 0x13 then crc32c (leBytes 32 ({ h with check := 0 }).bits.toNat ++ body) else 0

/-- Bus address of the module's own slot in peer `n`'s aperture: base + own ID × 1 MiB (R267). -/
def State.peerAddr (s : State) (n : Nat) : Nat := fld (sget 0 s.host.rules.peers n) 127 76 * 4096 + s.hub.moduleId * 1048576

/-- The writes of a message at an address: its body, padded so that the whole is a multiple of 64 bytes, then its header (R268). -/
def messageWrites (addr : Nat) (hdr : BitVec 256) (body : List Byte) : List (Nat × List Byte) :=
  [(addr + 32, body ++ List.replicate (upTo 64 (32 + body.length) - (32 + body.length)) 0), (addr, leBytes 32 hdr.toNat)]

/-- Write a message into peer `n`'s aperture, spending a credit and the next sequence number (R266, R268); before a version is in force on the
window it is 1.0. -/
def State.sendPeer (s : State) (n : Nat) (h : Hdr) (body : List Byte) : State :=
  let p := s.peer n
  let h := { h with ver := if p.ver = 0 then 0x10 else p.ver, srcModule := s.hub.moduleId, length := body.length, seq := p.seqOut }
  let h := { h with check := h.crc body }
  let s := s.modPeer n (fun p => { p with credits := p.credits - (if h.typ = 0 ∨ h.typ = 4 then 0 else 1), seqOut := (p.seqOut + 1) % 65536 })
  { s with out := { s.out with peer := s.out.peer ++ [{ peer := n, hdr := h.bits, body := body, writes := messageWrites (s.peerAddr n) h.bits body }] } }

/-- May an ordinary message go out on the window now: open, with a credit beyond the one kept for a retraction (R266, R301)? -/
def Peer.canSend (p : Peer) : Bool := p.st == .open && decide (1 < p.credits)

/-- The body of a CREDIT message: credits returned, the number of messages among them marked undelivered, and their sequence numbers. -/
def creditBody (n : Nat) (bad : List Nat) : List Byte := leBytes 4 n ++ leBytes 4 bad.length ++ bad.flatMap (fun q => leBytes 2 q)

/-- One CREDIT message for peer `n` that returns the credits of some messages, in the name of channel `c`. -/
def State.creditFor (s : State) (n c : Nat) (l : List (Nat × Nat × Bool)) : State :=
  s.sendPeer n { typ := 4, srcChan := c, epoch := s.frameN % 2 ^ 32, watermark := s.integ.wm % 2 ^ 32 }
    (creditBody l.length ((l.filter (fun e => e.2.2)).map (fun e => e.2.1)))

/-- Return the credits owed to peer `n`: from 1.2 those of several channels in one CREDIT, below it one CREDIT for each channel (R268); where none
is owed, one that returns none (R266). -/
def State.sendCredit (s : State) (n : Nat) : State :=
  let p := s.peer n
  let s := s.modPeer n (fun p => { p with owed := [] })
  if p.owed.isEmpty || decide (0x12 ≤ p.ver) then s.creditFor n 0 p.owed
  else (List.range 8).foldl (fun s c =>
    if p.owed.any (fun e => e.1 == c) then s.creditFor n c (p.owed.filter (fun e => e.1 == c)) else s) s

/-- Send a message, or let it wait for a credit (R266). -/
def State.sendWhen (s : State) (n : Nat) (h : Hdr) (body : List Byte) : State :=
  if (s.peer n).canSend && (s.peer n).outQ.isEmpty then s.sendPeer n h body
  else s.modPeer n (fun p => { p with outQ := p.outQ ++ [(h.bits, body)] })

/-- Send what waits for credits, as far as they go. -/
def State.sendWaiting (s : State) (n : Nat) : State :=
  (s.peer n).outQ.foldl (fun s e =>
    if (s.peer n).canSend then (s.modPeer n (fun p => { p with outQ := p.outQ.drop 1 })).sendPeer n (readHdr e.1) e.2 else s) s

/-- Both HELLOs have crossed: the window opens at the highest shared version, or stays closed and is reported (R267). -/
def State.openPeer (s : State) (n : Nat) : State :=
  match (s.peer n).st, (s.peer n).helloIn with
  | .helloSent, some (lo, hi) =>
    if settle lo hi = 0 then (s.modPeer n (fun p => { p with st := .noVersion })).event 0x07 1 0 n
    else s.modPeer n (fun p => { p with st := .open, ver := settle lo hi, credits := 32, owed := [], outQ := [] })
  | _, _ => s

/-- Draining or drained: the module answers no peer (R302). -/
def State.failed (s : State) : Bool := s.integ.svc == .draining || s.integ.svc == .drained

/-- Is epoch `e` older than frame count `f`, both modulo 2^32 (R255, R293)? -/
def older (e f : Nat) : Bool := before32 (BitVec.ofNat 32 e) (BitVec.ofNat 32 f)

/-- Send the retraction of a drain on every window that carried unconfirmed outputs (R301). -/
def State.sendRetractions (s : State) : State :=
  s.host.peers.foldl (fun s e =>
    match e.2.sentEpoch with
    | none => s
    | some ep =>
      if older ep s.integ.wm then s
      else if e.2.st == .open then
        let body := leBytes 32 (pack [(255, 224, s.integ.frame), (223, 216, s.integ.cause), (215, 184, s.integ.wm)])
        (s.sendPeer e.1 { typ := 6, epoch := s.integ.frame, watermark := s.integ.wm } body).countAll 0x75
      else s.event 0x07 2 0 e.1) s

/-! ### What a drain stops -/

/-- The trim record of a tile in the store (R67). -/
def State.trim (s : State) (c t : Nat) : Trim := sget {} (sget {} s.store.live.chans c).trims t

/-- Even parity of a code. -/
def codeParity (c : BitVec 12) : Bool := (List.range 12).foldl (fun a i => xor a (c.getLsbD i)) false

/-- A code register that has been written: its parity bit and shadow copy agree (R70). -/
def Dac.of (c : BitVec 12) : Dac := { code := c, parity := codeParity c, shadow := c }

/-- Does the comparison of R70 pass: parity and shadow copy? -/
def Dac.sound (d : Dac) : Bool := d.parity == codeParity d.code && d.shadow == d.code

/-- Do all three code registers of a tile pass? -/
def Tile.dacsSound (t : Tile) : Bool := t.dacRead.sound && t.dacRef.sound && t.dacPv.sound

/-- Reload the three DACs with the trimmed codes, the read bias that of the held facet (R68, R70). A tile without a valid record has none to load. -/
def Tile.loadDacs (t : Tile) (r : Trim) : Tile :=
  if r.valid then { t with dacRead := .of (r.read.getD t.held 0), dacRef := .of r.refBase, dacPv := .of r.idle, refT := none } else t

/-- Start-up: with all three DACs at their trimmed codes the tile enters the idle state (R68). -/
def Tile.trimmed (t : Tile) (r : Trim) : Tile := if r.valid then { t.loadDacs r with st := .idle } else t

/-- The state in which a tile goes on after a test: an MVM that ran runs on, a tile without its trims stays so; a switch or programming under way
begins again from idle (R306, R62). -/
def TState.afterTest : TState → TState
  | .computing => .computing
  | .untrimmed => .untrimmed
  | _ => .idle

/-- A tile leaves the testing state holding facet 0, its read bias at that facet's code (R62, R69, R306). -/
def Tile.leaveTest (t : Tile) (r : Trim) : Tile := { t with st := t.was.afterTest, held := 0, dacRead := .of (r.read.getD 0 0) }

/-- Tiles of a channel. -/
def tileCount : Nat := 384

/-- Change every tile of a channel. -/
def Chan.allTiles (k : Chan) (f : Nat → Tile → Tile) : Chan :=
  { k with arr := { k.arr with tiles := ((List.range tileCount).map (fun t => (t, f t (k.tile t)))).filter (fun e => decide (e.2 ≠ {})) } }

/-- Reload every DAC of every tile of every fitted channel (R70). -/
def State.reloadDacs (s : State) : State := s.allChans (fun c k => k.allTiles (fun t x => x.loadDacs (s.trim c t)))

/-- Change the stored facets of a channel. -/
def State.modStore (s : State) (c : Nat) (f : ChanStore → ChanStore) : State :=
  { s with store := { s.store with live := { s.store.live with chans := smod {} s.store.live.chans c f } } }

/-- Free every facet that is being staged in a channel (R188, R194). -/
def State.freeStaged (s : State) (c : Nat) : State :=
  s.modStore c (fun x => { x with facets := x.facets.map (fun e => if e.2.st = .staging then (e.1, { e.2 with st := if 3000 ≤ e.2.count then .worn else .free }) else e) })

/-- A tile stops programming or a refresh's read-back and returns to idle; a debug read-back goes on. -/
def Tile.stopPv (t : Tile) : Tile :=
  match t.pv with
  | none => t
  | some v => if v.why = .debug then t else { t with pv := none, st := if t.st = .programming then .idle else t.st }

/-- A load fails: its entry, with result 0x07 for a store fault and one that the manual's table does not give for any other cause (R317). -/
def State.auditFailed (s : State) (p : Pkg) (storeFault : Bool) : State :=
  let a := s.draw
  a.2.audit 0x11 p.fn (if storeFault then 0x07 else a.1) (digestObject p.digest)

/-- Abandon every load that is not yet recorded: staged facets freed, failures entered, requests completed (R295, R317, R333). -/
def State.abandonLoads (s : State) (status cause : Nat) : State :=
  let gone := s.host.pkgs.filter (fun p => !p.recorded)
  let s := { s with host := { s.host with pkgs := s.host.pkgs.filter (fun p => p.recorded), staging := false } }
  let s := (List.range s.channels).foldl (fun s c => s.freeStaged c) s
  let s := s.allChans (fun _ k => { k with arr := { k.arr with tiles := k.arr.tiles.map (fun e => (e.1, e.2.stopPv)) } })
  gone.foldl (fun s p => if p.refresh then s else (s.auditFailed p (cause == 0x29)).finishHost p.job status cause) s

/-- Abandon a test: the channel returns to nominal with no verdict, its tiles idle (R299, R348, R364). -/
def Chan.abandonTest (k : Chan) (trim : Nat → Trim) : Chan :=
  match k.test.phase with
  | .running | .cooling =>
    { k with
      test := { k.test with phase := .notDue, hot := false, shedding := false, waited := 0 }
      arr := { k.arr with tiles := k.arr.tiles.map (fun e => (e.1, if e.2.st = .testing then e.2.leaveTest (trim e.1) else e.2)) } }
  | _ => k

/-- Index of the instruction at which an inference that runs is stopped from outside: the one it is held in, or the next to issue (R256). -/
def Slot.stopIndex (x : Slot) : Nat := if x.block = .none ∨ x.block = .resuming then x.pc else x.pc - 1

/-- End every running inference of channel `c` with UNSUPPORTED, OUT_OF_SERVICE (R295). -/
def State.endRunning (s : State) (c : Nat) : State :=
  (List.range 16).foldl (fun s sl => if (s.slot c sl).job.isSome then s.endInf c sl stUnsupported 0x27 (s.slot c sl).stopIndex else s) s

/-- Is an MVM a facet check? -/
def Why.isCheck : Why → Bool
  | .check _ _ => true
  | _ => false

/-- No request waits at any tile: nothing is granted any more (R295). -/
def Chan.dropRequests (k : Chan) : Chan :=
  { k with arr := { k.arr with tiles := k.arr.tiles.map (fun e => (e.1, { e.2 with queue := [], wantRef := false, wantCheck := [] })) }, check := { k.check with residue := [] } }

/-- The functions open now. -/
def State.openFns (s : State) : List Nat := (s.host.fns.filter (fun e => e.2.st == .open)).map Prod.fst

/-! ### The drain (R295, R299) -/

/-- The first moment of a drain. -/
def State.startDrain (s : State) (cause chan : Nat) : State :=
  let thermal := cause == 0x09
  let c := if thermal then 0 else chan
  let told := s.openFns
  let s := { s with
    integ := { s.integ with svc := .draining, replacement := s.integ.replacement || !thermal, thermal := thermal, cause := cause, channel := c, frame := s.frameN,
                            scanDone := false, recordDone := false, told := told, tested := none }
    store := { s.store with urgent := true, coalesced := true
                            live := { s.store.live with replacement := s.store.live.replacement || !thermal, thermal := thermal,
                                                        drainCause := cause, drainChannel := c, drainFrame := s.frameN } } }
  let s := s.allChans (fun c k => { k.abandonTest (s.trim c) with check := { k.check with list := [] } })
  let s := s.reloadDacs
  let s := s.event 0x05 4 c cause s.frameN
  let s := s.sendRetractions
  let s := told.foldl (fun s f => s.closeFn f) s
  let s := (List.range s.channels).foldl (fun s c => s.endRunning c) s
  let s := s.abandonLoads stUnsupported 0x27
  let s := (List.range s.channels).foldl (fun s c => s.endSample c stUnsupported 0x27) s
  s.allChans (fun _ k => k.dropRequests)

/-- A cause found while the module is draining or drained: reported; a detected failure latches the flag (R299). -/
def State.laterCause (s : State) (cause chan : Nat) : State :=
  let s := s.event 0x05 5 chan cause s.frameN
  if cause ≠ 0x09 ∧ !s.store.live.replacement then
    { s with store := { s.store with urgent := true, coalesced := true, live := { s.store.live with replacement := true } }
             integ := { s.integ with recordDone := false, replacement := true } }
  else s

/-- A drain cause found in channel `chan` (R294, R295, R299). -/
def State.drain (s : State) (cause chan : Nat) : State :=
  match s.integ.svc with
  | .inService | .starting => s.startDrain cause chan
  | .draining | .drained => s.laterCause cause chan

/-! ### Retraction entries (R300) -/

/-- Write the retraction entries that are owed, in order, each to the lowest ring of its function with a kept entry free; one whose function has no ring left is dropped and reported. -/
def State.flushRetract (s : State) : State :=
  s.integ.retract.foldl (fun s e =>
    match (s.fn e.fn).firstCq with
    | none => s.event 0x07 3 0 e.fn
    | some q =>
      let e := { e with cq := q, ver := (s.fn e.fn).ver }
      if s.cplRoom e then s.writeCpl e else { s with integ := { s.integ with retract := s.integ.retract ++ [e] } })
    { s with integ := { s.integ with retract := [] } }

/-- The retraction entry of a channel for a function. -/
def retractEntry (f c frame first cause module : Nat) (peer : Bool) (tainted : Nat) : Cpl :=
  { fn := f, chan := c, kind := 15, status := stRetracted, context := c * 32768, frame := frame % 2 ^ 32, wm := some (first % 2 ^ 32)
    detail := pack [(31, 24, cause), (23, 18, module), (17, 17, bnat peer), (16, 0, tainted)], reserved := false }

/-- A scan reads every record of a channel, so an uncorrectable one is found (R218). -/
def State.scanRecords (s : State) (c : Nat) : State :=
  (s.chan c).mem.ctxs.foldl (fun s e => if e.2.cacheBad then s.readRec (c * 32768 + e.1) else s) s

/-- Mark tainted the open contexts of channel `c` that satisfy `p`; answers how many were marked. -/
def State.taint (s : State) (c : Nat) (p : Ctx → Bool) : State × Nat :=
  let s := s.scanRecords c
  let hit := ((s.chan c).mem.ctxs.filter (fun e => e.2.life == .open && p e.2)).map Prod.fst
  (hit.foldl (fun s n => (s.modCtx (c * 32768 + n) (fun x => { x with tainted := true })).count c 0x77 (some (c * 32768 + n))) s, hit.length)

end Sys2Proof.Machine
end

