-- ==== Sys2Proof/Machine/Tiles.lean ====
section
/-! DEFINITION. The analogue side's settings: cluster temperatures, gain factors, age factors, drift alarms, the survey and the
reference bias (R165 to R177), and the facet records they work on. -/

namespace Sys2Proof.Machine

/-! ### Temperatures (R342, R343) -/

/-- The reading used of a sensor, in 1/16 °C. -/
def State.reading (s : State) (n : Nat) : Int := (sget {} s.therm.sensors n).reading

/-- The sensor of a tile's cluster (R40, R342). -/
def clusterSensor (c t : Nat) : Nat := 9 * c + t / 48

/-- T − 25 of a tile's cluster as an exact value. -/
def State.tMinus25 (s : State) (c t : Nat) : Val :=
  let d := s.reading (clusterSensor c t) - 400
  .fin (decide (d < 0)) d.natAbs 16

/-- κ_t(T) = 1 + a₁(T − 25) + a₂(T − 25)², exact (R165). -/
def State.kappa (s : State) (c t : Nat) : Val :=
  let r := s.trim c t
  let d := s.tMinus25 c t
  (Val.ofInt 1).add (((v32 r.a1).mul d).add ((v32 r.a2).mul (d.mul d)))

/-! ### Facet records -/

/-- The stored record of a physical facet. -/
def State.facet (s : State) (c t f : Nat) : Facet := sget {} (sget {} s.store.live.chans c).facets (16 * t + f)

/-- Change the stored record of a physical facet. -/
def State.modFacet (s : State) (c t f : Nat) (g : Facet → Facet) : State :=
  s.modStore c (fun x => { x with facets := smod {} x.facets (16 * t + f) g })

/-- Live correction state of a facet block, by channel. -/
def Chan.block (k : Chan) (t f b : Nat) : Block8 := sget {} k.arr.blocks ((16 * t + f) * 8 + b)

/-- Change the live correction state of a facet block. -/
def State.modBlock (s : State) (c t f b : Nat) (g : Block8 → Block8) : State :=
  s.modChan c (fun k => { k with arr := { k.arr with blocks := smod {} k.arr.blocks ((16 * t + f) * 8 + b) g } })

/-- An FP16 value of a block's calibration, 1 where the facet has none. -/
def calVal (x : Facet) (b : Nat) (g : BlockCal → BitVec 16) : Val :=
  match x.cal[b]? with
  | some q => decodeFloat .fp16 (g q).toNat
  | none => Val.ofInt 1

/-- The gain factor g_b in FP32 (R165). -/
def State.gain (s : State) (c t f b : Nat) : BitVec 32 :=
  let x := s.facet c t f
  f32 ((Val.ofInt 1).div (((calVal x b BlockCal.c).mul (v32 ((s.chan c).block t f b).a)).mul (s.kappa c t)))

/-- Is an age factor outside the range from lo to hi, in thousandths? -/
def outsideMilli (a : BitVec 32) (lo hi : Nat) : Bool :=
  let v := v32 a
  !((Val.fin false lo 1000).le v && v.le (.fin false hi 1000))

/-! ### Refresh due (R172) -/

/-- Is a physical facet named by the map in force: its logical facet? -/
def Chan.logicalOf (k : Chan) (t f : Nat) : Option Nat :=
  (List.range 16).find? (fun l => let e := sget {} k.arr.map (16 * t + l); e.valid && e.phys == f)

/-- A facet's refresh falls due: reported once with the event that made it due (1 age, 2 drift alarm). -/
def State.refreshDue (s : State) (c t f why : Nat) : State :=
  if (s.facet c t f).due then s
  else (s.modFacet c t f (fun x => { x with due := true })).event 0x03 1 c (locArg c t f 0) why

/-- The drift alarm of a facet, raised and counted once after a programming: any block below 0.980 or above 1.010. -/
def State.driftAlarm (s : State) (c t f : Nat) : State :=
  let k := s.chan c
  if !(s.facet c t f).drift && (List.range 8).any (fun b => outsideMilli (k.block t f b).a 980 1010) then
    ((s.modFacet c t f (fun x => { x with drift := true })).count c 0x33).refreshDue c t f 2
  else s

/-! ### The survey (R176) -/

/-- The reading M ÷ (I × r_fb × κ_t(T)) of a facet block. -/
def State.ageReading (s : State) (c t f b : Nat) (m : Int) (i : Nat) : Val :=
  (Val.ofInt m).div (((Val.ofInt i).mul (calVal (s.facet c t f) b BlockCal.r)).mul (s.kappa c t))

/-- The ideal gain-reference lane of a reference MVM: 8 × 1,024 rows × 15 (R169). -/
def refIdeal : Nat := 122880

/-- One reading of the survey: the age factor is set by the formula of the reference MVM; one outside 0.90 to 1.05 is reported (R169, R176). -/
def State.surveyOne (s : State) (r : SurveyReading) : State :=
  if !(s.fitted r.ch && decide (r.tile < 384 ∧ r.facet < 16 ∧ r.block < 8)) then s
  else
    let a := f32 (s.ageReading r.ch r.tile r.facet r.block r.m refIdeal)
    let s := s.modBlock r.ch r.tile r.facet r.block (fun x => { x with a := a })
    if outsideMilli a 900 1050 then
      ({ s with pwr := { s.pwr with surveyOk := false } }).event 0x05 2 r.ch (locArg r.ch r.tile r.facet (135 * r.block)) r.block
    else s

/-- The survey of every facet of every tile: listed blocks take what their readings give, the others read as fresh, A = 1; drift alarms follow; every tile ends holding facet 0. -/
def State.survey (s : State) (l : List SurveyReading) : State :=
  let s := { s with pwr := { s.pwr with surveyOk := true } }
  let s := s.allChans (fun _ k => { k with arr := { k.arr with
    blocks := (k.arr.blocks.map (fun e => (e.1, { e.2 with a := fone }))).filter (fun e => e.2 != {})
    tiles := k.arr.tiles.map (fun e => (e.1, { e.2 with held := 0 })) } })
  let s := l.foldl State.surveyOne s
  let s := (List.range s.channels).foldl (fun s c => s.countN c 0x32 6144 none) s
  l.foldl (fun s r => s.driftAlarm r.ch r.tile r.facet) s

/-! ### Trims (R68, R166) -/

/-- Load every tile's trimmed codes; a tile without a valid trim record is reported and does not enter the idle state. -/
def State.loadTrims (s : State) : State :=
  let s := { s with pwr := { s.pwr with trimsOk := true } }
  let s := s.allChans (fun c k => k.allTiles (fun t x => x.trimmed (s.trim c t)))
  (List.range s.channels).foldl (fun s c =>
    (sget {} s.store.live.chans c).trims.foldl (fun s e =>
      if e.2.valid then s
      else ({ s with pwr := { s.pwr with trimsOk := false } }).event 0x05 1 c (locArg c e.1 0 0)) s) s

/-- The reference-bias code for the tile's temperature, clamped to 256 steps from base, and by the model's choice to the DAC's 0 to 4,095,
beyond which there is no code (notes/assumptions/96); whether it was clamped (R166, R69). -/
def State.refCode (s : State) (c t : Nat) : BitVec 12 × Bool :=
  let r := s.trim c t
  let d := match (v32 r.beta).mul (s.tMinus25 c t) with
    | .fin neg n q => let m : Int := (rneDiv n q : Nat); if neg then -m else m
    | _ => 0
  let v := clampInt (-256) 256 d
  let w := clampInt 0 4095 ((r.refBase.toNat : Int) + v.1)
  (BitVec.ofInt 12 w.1, v.2 || w.2)

/-! ### Live updates of the age factor (R167, R168) -/

/-- Take a new age factor: outside 0.90 to 1.05 it is a detected failure (R168); a drift alarm may follow. -/
def State.setAge (s : State) (c t f b : Nat) (v : Val) : State :=
  let a := f32 v
  let s := s.modBlock c t f b (fun x => { x with a := a })
  if outsideMilli a 900 1050 then s.drain 0x06 c else s.driftAlarm c t f

/-- The update of one facet block at a tick. -/
def State.ageUpdate (s : State) (c t f b : Nat) : State :=
  let x := (s.chan c).block t f b
  if x.i < 65536 then s
  else
    let a := v32 x.a
    let v := a.add (((s.ageReading c t f b x.m x.i).sub a).div (Val.ofInt 4))
    let s := s.modBlock c t f b (fun x => { x with m := 0, i := 0 })
    (s.count c 0x30).setAge c t f b v

/-- Every facet block's update at the tick. -/
def State.ageUpdates (s : State) : State :=
  (List.range s.channels).foldl (fun s c =>
    (s.chan c).arr.blocks.foldl (fun s e => s.ageUpdate c (e.1 / 128) (e.1 / 8 % 16) (e.1 % 8)) s) s

/-! ### Facet counts (R378) -/

/-- The counts of CH_FACET_STATUS from the stored facet states. -/
def ChanStore.facetCounts (x : ChanStore) : BitVec 64 :=
  let n (st : FState) : Nat := (x.facets.filter (fun e => e.2.st == st)).length
  let listed := x.facets.length
  BitVec.ofNat 64 (pack [(63, 48, 6144 - listed + n .free), (47, 32, n .staging), (31, 16, n .retired), (15, 0, n .worn)])

end Sys2Proof.Machine
end

