-- ==== Sys2Proof/Machine/Record.lean ====
section
/-! DEFINITION. The configuration store: choosing a record (R331), what a record holds, starting and finishing a write (R332,
R333), and completing mailbox commands (R385). -/

namespace Sys2Proof.Machine

/-! ### Completing a mailbox command (R385) -/

/-- Bytes written over the start of a buffer. -/
def overlay (new old : List Byte) : List Byte := new ++ old.drop new.length

/-- Write a command's result: status, detail, response bytes over the start of the data buffer; busy clears. -/
def Port.done (p : Port) (status detail : Nat) (resp : List Byte) : Port :=
  { p with busy := false, data := overlay resp p.data
           status := BitVec.ofNat 64 (pack [(55, 48, status), (47, 40, detail), (31, 16, resp.length), (15, 0, fld p.cmd 15 0)]) }

/-- Complete the command of a port. -/
def State.mbxDone (s : State) (p status detail : Nat) (resp : List Byte := []) : State :=
  s.modPort p (fun x => x.done status detail resp)

/-! ### Loading (R331) -/

/-- The valid record with the higher sequence number, and whether it stands in bank B. -/
def Store.choose (x : Store) : Option (Bool × Record) :=
  match x.bankA.valid, x.bankB.valid with
  | true, true => if x.bankA.seq < x.bankB.seq then some (true, x.bankB) else some (false, x.bankA)
  | true, false => some (false, x.bankA)
  | false, true => some (true, x.bankB)
  | false, false => none

/-- A facet map names the facet. -/
def mapNames (m : Sparse FMap) (t f : Nat) : Bool := m.any (fun e => e.1 / 16 == t && e.2.valid && e.2.phys == f)

/-- The endurance limit of a facet (R195). -/
def endurance : Nat := 3000

/-- The state of a facet that nothing uses: free, or worn at its limit (R195). -/
def Facet.idleState (x : Facet) : FState := if endurance ≤ x.count then .worn else .free

/-- Facet states that agree with a facet map: named facets are mapped, facets no longer named are free or worn (R185, R188, R195). -/
def ChanStore.settle (x : ChanStore) : ChanStore :=
  let facets := x.facets.map (fun e =>
    match e.2.st with
    | .retired | .worn => e
    | .free | .mapped => (e.1, { e.2 with st := if mapNames x.map (e.1 / 16) (e.1 % 16) then .mapped else e.2.idleState })
    | .staging => (e.1, { e.2 with st := if mapNames x.map (e.1 / 16) (e.1 % 16) then .mapped else .staging }))
  let add := x.map.foldl (fun m e =>
    if e.2.valid && (sget {} m (16 * (e.1 / 16) + e.2.phys)).st == .free then smod {} m (16 * (e.1 / 16) + e.2.phys) (fun y => { y with st := .mapped })
    else m) (facets.filter (fun e => e.2 != {}))
  { x with facets := add }

/-- At power-up the staged facets of a load that was not recorded are free, or worn (R188, R195). -/
def ChanStore.loaded (x : ChanStore) : ChanStore :=
  { x with facets := (x.facets.map (fun e => if e.2.st = .staging then (e.1, { e.2 with st := e.2.idleState }) else e)).filter (fun e => e.2 != {}) }

/-- A body as the loader takes it. -/
def Persist.loaded (p : Persist) : Persist := { p with chans := p.chans.map (fun e => (e.1, e.2.loaded)) }

/-- The table store's committed generation of a channel. -/
def Store.tables' (x : Store) (c : Nat) : Tables := if (sget {} x.live.chans c).gen = 0 then sget {} x.tab0 c else sget {} x.tab1 c

/-! ### What a record holds -/

/-- The facet map with a package's records entered (R187 step 3). -/
def Pkg.maps (p : Pkg) (c : Nat) (m : Sparse FMap) : Sparse FMap :=
  p.recs.foldl (fun m r =>
    if fld r.hdr 127 125 = c then
      sput {} m (16 * fld r.hdr 124 116 + fld r.hdr 115 112)
        (if p.refresh then { sget {} m (16 * fld r.hdr 124 116 + fld r.hdr 115 112) with phys := r.facet }
         else { valid := true, phys := r.facet, r := 2 ^ fld r.hdr 111 110, group := 16384 * p.digest.toNat + fld r.hdr 109 96 })
    else m) m

/-- Does the package carry a table section for channel `c`? -/
def Pkg.writesTables (p : Pkg) (c : Nat) : Bool := p.secs.any (fun x => fld x.hdr 123 121 == c)

/-- A channel's store with a package switched in: map, zeroed ages, table-store generation. -/
def ChanStore.withPkg (x : ChanStore) (p : Pkg) (c : Nat) : ChanStore :=
  let facets := p.recs.foldl (fun m r =>
    if fld r.hdr 127 125 = c then smod {} m (16 * fld r.hdr 124 116 + r.facet) (fun y => { y with age := 0, due := false, overdue := false, needsPackage := false, drift := false, stuck := [] })
    else m) x.facets
  { x with map := p.maps c x.map, facets := facets, gen := if p.writesTables c then 1 - x.gen else x.gen }

/-- Change an authority slot as an accepted AUTH_SLOT says (R316). -/
def Persist.withAuth (p : Persist) (n : Nat) (x : AuthSlot) : Persist := { p with auth := sput {} p.auth n x }

/-- Clear a logical facet's valid bit (R388). -/
def Persist.unmap (p : Persist) (c t l : Nat) : Persist :=
  { p with chans := smod {} p.chans c (fun x => { x with map := smod {} x.map (16 * t + l) (fun e => { e with valid := false }) }) }

/-- The body a record written now holds: settings, waiting audit entries, staged maps, requested changes. -/
def State.body (s : State) : Persist :=
  let p := s.store.live
  let p := { p with audit := (p.audit ++ s.store.waiting).drop (p.audit.length + s.store.waiting.length - 8192)
                    auditNext := p.auditNext + s.store.waiting.length }
  let p := s.host.pkgs.foldl (fun p g =>
    if g.staged then (List.range s.channels).foldl (fun p c => { p with chans := smod {} p.chans c (fun x => x.withPkg g c) }) p else p) p
  let p := s.host.unmaps.foldl (fun p u => p.unmap u.2.1 u.2.2.1 u.2.2.2.1) p
  let p := s.host.auths.foldl (fun p a => p.withAuth a.1 a.2.1) p
  { p with chans := p.chans.map (fun e => (e.1, e.2.settle)) }

/-! ### Writing -/

/-- Is a record write due: urgent, or coalesced and 10 s since the last began (R332); only the drain's own under a store fault (R333)? -/
def State.recordDue (s : State) : Bool :=
  (s.store.urgent || (s.store.coalesced && decide (s.store.lastStart + 10 ^ 10 ≤ s.nowNs))) &&
  (!s.store.fault || (s.integ.svc == .draining && !s.integ.recordDone))

/-- Begin a record write. -/
def State.recordStart (s : State) : State :=
  { s with
    store := { s.store with
      writing := some (s.body, false), lastStart := s.nowNs, coalesced := false, urgent := false
      carried := { audit := s.store.waiting.length, unmaps := s.host.unmaps.length, auths := s.host.auths.length,
                   flush := s.store.flush.length, drain := s.integ.svc == .draining } }
    host := { s.host with pkgs := s.host.pkgs.map (fun p => if p.staged then { p with inRecord := true } else p) } }

/-- Writes so far of the bank that is not in use. -/
def Store.otherWrites (st : Store) : Nat := if st.bankIsB then st.writesA else st.writesB

/-- The store once the record of body `p` stands in the other bank: what the record carried waits no more (R332). -/
def Store.written (st : Store) (p : Persist) : Store :=
  let r : Record := { seq := st.seq + 1, valid := true, body := p }
  { st with
    bankA := if st.bankIsB then r else st.bankA, bankB := if st.bankIsB then st.bankB else r
    writesA := if st.bankIsB then st.otherWrites + 1 else st.writesA, writesB := if st.bankIsB then st.writesB else st.otherWrites + 1
    bankIsB := !st.bankIsB, seq := st.seq + 1, writing := none, carried := {}
    waiting := st.waiting.drop st.carried.audit, flush := st.flush.drop st.carried.flush
    live := { st.live with audit := p.audit, auditNext := p.auditNext } }

/-- A record under way is written whole: the other bank holds it (R331, R332). -/
def State.recordWritten (s : State) (p : Persist) : State :=
  let k := s.store.carried
  let writes := s.store.otherWrites + 1
  let ports := s.store.flush.take k.flush
  let s : State := { s with
    store := s.store.written p
    host := { s.host with
      pkgs := s.host.pkgs.map (fun g => if g.inRecord then { g with inRecord := false, recorded := true } else g)
      unmaps := s.host.unmaps.mapIdx (fun i u => if i < k.unmaps then (u.1, u.2.1, u.2.2.1, u.2.2.2.1, true) else u)
      auths := s.host.auths.mapIdx (fun i a => if i < k.auths then (a.1, a.2.1, true) else a) }
    integ := { s.integ with recordDone := s.integ.recordDone || (k.drain && s.integ.svc == .draining) } }
  let s := (ports.foldl (fun s p => s.mbxDone p stOK 0) s).enterDropped
  if writes = 20000000 then s.event 0x08 4 0 (bnat s.store.bankIsB) else s

/-- The read-back failed twice: the store fault latches, loads end, waiting commands are refused (R333). -/
def State.recordFailed (s : State) : State :=
  let ports := s.store.flush
  let unmaps := s.host.unmaps.filter (fun u => !u.2.2.2.2)
  let s : State := { s with
    store := { s.store with fault := true, writing := none, carried := {}, flush := [] }
    host := { s.host with
      pkgs := s.host.pkgs.map (fun g => { g with inRecord := false })
      unmaps := s.host.unmaps.filter (fun u => u.2.2.2.2), auths := s.host.auths.filter (fun a => a.2.2) }
    integ := { s.integ with recordDone := s.integ.recordDone || s.integ.svc == .draining } }
  let s := s.event 0x08 5 0
  let s := ports.foldl (fun s p => s.mbxDone p stUnsupported 0x29) s
  let s := unmaps.foldl (fun s u => s.mbxDone u.1 stUnsupported 0x07) s
  s.abandonLoads stWeightFailed 0x29

/-- A write and its read-back finish (R332, R333). -/
def State.recordDone (s : State) (ok : Bool) : State :=
  match s.store.writing with
  | none => s
  | some (p, second) =>
    if ok then s.recordWritten p
    else if second then s.recordFailed
    else { s with store := { s.store with writing := some (p, true) } }

/-- Request an urgent record (R332). -/
def State.wantRecord (s : State) : State := { s with store := { s.store with urgent := true, coalesced := true } }

/-- Request a coalesced record. -/
def State.laterRecord (s : State) : State := { s with store := { s.store with coalesced := true } }

end Sys2Proof.Machine
end

