-- ==== Sys2Proof/Machine/Weights.lean ====
section
/-! DEFINITION. Staging, programming, switching and refreshing weights (R183 to R197), ageing (R171 to R173). -/

namespace Sys2Proof.Machine

/-! ### Fields of a facet record (R181) -/

/-- Channel of a facet record. -/
def PkgRec.ch (r : PkgRec) : Nat := fld r.hdr 127 125
/-- Tile. -/
def PkgRec.tile (r : PkgRec) : Nat := fld r.hdr 124 116
/-- Logical facet. -/
def PkgRec.lfacet (r : PkgRec) : Nat := fld r.hdr 115 112

/-- Change record `i` of package `g`. -/
def State.modRec (s : State) (g i : Nat) (f : PkgRec → PkgRec) : State :=
  { s with host := { s.host with pkgs := lmod s.host.pkgs g (fun p => { p with recs := lmod p.recs i f }) } }

/-- Does the package write channel `c` (R180, R187)? -/
def Pkg.writes (p : Pkg) (c : Nat) : Bool := p.recs.any (fun r => r.ch == c) || p.writesTables c

/-! ### Free facets (R185, R195) -/

/-- May the facet be chosen for programming: free and below its limit? -/
def Facet.usable (x : Facet) : Bool := x.st == .free && decide (x.count < endurance)

/-- Usable facets of a tile. -/
def State.freeFacets (s : State) (c t : Nat) : List Nat := (List.range 16).filter (fun f => (s.facet c t f).usable)

/-- A facet no longer used becomes free, or worn at its limit (R188, R195). -/
def Facet.release (x : Facet) : Facet := { x with st := x.idleState, due := false, overdue := false, needsPackage := false, drift := false }

/-! ### Remap entries (R193, R194) -/

/-- A remap table entry. -/
def remapEntry (valid : Bool) (c t f b spare pos cause : Nat) : BitVec 32 :=
  BitVec.ofNat 32 (pack [(31, 31, bnat valid), (30, 28, c), (27, 19, t), (18, 15, f), (14, 12, b), (11, 10, spare), (9, 3, pos), (2, 1, cause)])

/-- Entries of a facet's block. -/
def remapsOf (l : List (BitVec 32)) (t f b : Nat) : List (BitVec 32) :=
  l.filter (fun e => fld e 27 19 == t && fld e 18 15 == f && fld e 14 12 == b)

/-- The position whose column a spare carries, by the latest entry naming the position. -/
def mappedSpares (l : List (BitVec 32)) (t f b : Nat) : List (Nat × Nat) :=
  let es := (remapsOf l t f b).filter (fun e => bit e 31)
  es.foldl (fun (m : List (Nat × Nat)) e => (m.filter (fun q => q.2 != fld e 9 3)) ++ [(fld e 11 10, fld e 9 3)]) []

/-- Key of a physical column among those that nothing may use. -/
def badKey (t f col : Nat) : Nat := (16 * t + f) * 1080 + col

/-- The lowest spare of a block that no entry names and that may be used. -/
def freeSpare (x : ChanStore) (t f b : Nat) : Option Nat :=
  (List.range 4).find? (fun n => (remapsOf x.remap t f b).all (fun e => fld e 11 10 != n) && !x.badCols.contains (badKey t f (135 * b + 128 + n)))

/-- A position of a block takes the lowest free spare, while the table has room (R193, R194). -/
def ChanStore.takeSpare (x : ChanStore) (c t f b pos cause : Nat) : Option ChanStore :=
  if 4096 ≤ x.remap.length then none
  else (freeSpare x t f b).map (fun n => { x with remap := x.remap ++ [remapEntry true c t f b n pos cause] })

/-- A physical column that nothing in its block can use any more. -/
def ChanStore.bar (x : ChanStore) (t f col : Nat) : ChanStore :=
  if x.badCols.contains (badKey t f col) then x else { x with badCols := x.badCols ++ [badKey t f col] }

/-- Map one failed column of a facet (R192, R194): a data column, or the position that a failed spare carries, takes the lowest free spare; an
unmapped spare is barred; a reference or checksum column takes the lowest free spare out of its block's use, which no remap entry can say,
since it has no data position. `none`: no repair. -/
def mapFailed (c t f cause : Nat) (x : ChanStore) (col : Nat) : Option ChanStore :=
  let b := col / 135
  let i := col % 135
  if i < 128 then x.takeSpare c t f b i cause
  else if i < 132 then
    match (mappedSpares x.remap t f b).find? (fun q => q.1 == i - 128) with
    | some q => (x.bar t f col).takeSpare c t f b q.2 cause
    | none => some (x.bar t f col)
  else (freeSpare x t f b).map (fun n => x.bar t f (135 * b + 128 + n))

/-- Map every failed column. -/
def mapAllFailed (c t f : Nat) (x : ChanStore) (failed : List (Nat × Nat)) : Option ChanStore :=
  failed.foldl (fun o e => o.bind (fun x => mapFailed c t f e.2 x e.1)) (some x)

/-- Does no forced entry's spare or position meet a remap entry of a facet's block, or a spare that nothing may use (R193)? -/
def forcedFits (x : ChanStore) (t f : Nat) (forced : List Nat) : Bool :=
  forced.all (fun w =>
    let b := nfld w 15 13
    !x.badCols.contains (badKey t f (135 * b + 128 + nfld w 12 11)) &&
    (remapsOf x.remap t f b).all (fun e =>
      (fld e 11 10 == nfld w 12 11) == (fld e 9 3 == nfld w 10 4)))

/-- The forced entries of a facet record, cause 10 (R193); what the table holds already is not entered again. -/
def forcedEntries (x : ChanStore) (c t f : Nat) (forced : List Nat) : List (BitVec 32) :=
  (forced.filter (fun w => (remapsOf x.remap t f (nfld w 15 13)).all (fun e => fld e 9 3 != nfld w 10 4))).map
    (fun w => remapEntry true c t f (nfld w 15 13) (nfld w 12 11) (nfld w 10 4) 2)

/-- The codes as they stand in the cells: each mapped spare carries its data column's codes and nothing of its own (R41, R181). -/
def placeCodes (l : List (BitVec 32)) (t f : Nat) (codes : Sparse Nat) : Sparse Nat :=
  let own := codes.filter (fun e => e.1 % 135 < 128 || 132 ≤ e.1 % 135 || (mappedSpares l t f (e.1 % 1080 / 135)).all (fun q => 128 + q.1 != e.1 % 135))
  codes.foldl (fun m e =>
    let row := e.1 / 1080
    let b := e.1 % 1080 / 135
    (mappedSpares l t f b).foldl (fun m q =>
      if q.2 = e.1 % 1080 % 135 then sput 0 m (row * 1080 + 135 * b + 128 + q.1) e.2 else m) m) own

/-- The codes of a facet as a package would give them: each data column takes what its spare carries, and every spare holds 0 (R41, R196). -/
def logicalCodes (l : List (BitVec 32)) (t f : Nat) (codes : Sparse Nat) : Sparse Nat :=
  let pos (e : Nat × Nat) : Option Nat :=
    let i := e.1 % 135
    let b := e.1 % 1080 / 135
    if i < 128 then (if (mappedSpares l t f b).any (fun q => q.2 == i) then none else some e.1)
    else if 132 ≤ i then some e.1
    else ((mappedSpares l t f b).find? (fun q => q.1 == i - 128)).map (fun q => e.1 - i + q.2)
  codes.foldl (fun m e => match pos e with | some k => sput 0 m k e.2 | none => m) []

/-- First key of a facet's codes. -/
def codeBase (t f : Nat) : Nat := (16 * t + f) * 1024 * 1080

/-- Write rows `r0` to `r1` of a facet's codes into the cells. -/
def Array.writeRows (a : Array) (t f r0 r1 : Nat) (codes : Sparse Nat) : Array :=
  let lo := codeBase t f
  let kept := a.codes.filter (fun e => !decide (lo + r0 * 1080 ≤ e.1 ∧ e.1 < lo + r1 * 1080))
  { a with codes := (codes.filter (fun e => decide (r0 * 1080 ≤ e.1 ∧ e.1 < r1 * 1080))).foldl (fun m e => sput 0 m (lo + e.1) e.2) kept }

/-- Write a facet's codes into the cells. -/
def Array.writeCodes (a : Array) (t f : Nat) (codes : Sparse Nat) : Array := a.writeRows t f 0 1024 codes

/-- A facet's codes as the cells hold them, keyed row * 1080 + column. -/
def Array.readCodes (a : Array) (t f : Nat) : Sparse Nat :=
  let lo := codeBase t f
  (a.codes.filter (fun e => decide (lo ≤ e.1 ∧ e.1 < lo + 1024 * 1080))).map (fun e => (e.1 - lo, e.2))

/-- AW5 code of a 5-bit encoding (R45). -/
def aw5 (v : Nat) : Int := signed 5 v

/-- The checksum code of a block's row: the mean of its 128 data codes, ties to even (R43). -/
def checksumOf (l : List Int) : Int :=
  let t := l.foldl (· + ·) 0
  let q : Int := (rneDiv t.natAbs 128 : Nat)
  if t < 0 then -q else q

/-- The largest code magnitude in each block (R174). -/
def envelopes (codes : Sparse Nat) : List Nat :=
  (List.range 8).map (fun b => codes.foldl (fun m e => if e.1 % 1080 / 135 = b then max m (aw5 e.2).natAbs else m) 0)

/-! ### Programming starts (R191) -/

/-- Has a tile anything to serve: a reference MVM, a check, a request? -/
def Tile.wanted (x : Tile) : Bool := x.wantRef || !x.wantCheck.isEmpty || !x.queue.isEmpty

/-- Is a facet only read, not programmed? -/
def PvWhy.reads : PvWhy → Bool
  | .readback _ => true
  | .debug => true
  | _ => false

/-- A tile with nothing to serve returns to its programming: directly, or by a switch to the facet (R61). -/
def State.resumePv (s : State) (c t : Nat) : State :=
  let x := s.tile c t
  match x.pv with
  | none => s
  | some p =>
    if x.st != .idle || x.wanted then s
    else if x.held = p.facet then
      let s := s.modTile c t (fun x => { x with st := .programming, pv := some { p with erasing := true } })
      -- a programming that starts its erase counts (R195)
      if p.erasing || p.why.reads then s else s.modFacet c t p.facet (fun x => { x with count := x.count + 1 })
    else
      -- a switch back to interrupted programming is service under R61 and charged (R231)
      let ns := if p.cycle = 0 then 0 else if (s.chan c).arr.cold.contains (t / 48) then 6000 else 2000
      ((s.modTile c t (fun x => { x with st := .switching p.facet })).count c 0x05).modChan c (fun k =>
        { k with sched := { k.sched with switchNs := k.sched.switchNs + ns } })

/-- Start the debug read-back that waits in a channel, unless its tile is programming or under test (R395). -/
def State.startMap (s : State) (c : Nat) : State :=
  let d := (s.chan c).dbg
  let t := fld d.mapCmd 60 52
  if d.mapRunning && (s.tile c t).pv.isNone && (s.tile c t).st != .testing then
    (s.modTile c t (fun x => { x with pv := some { why := .debug, facet := fld d.mapCmd 51 48 } })).resumePv c t
  else if d.mapRunning then s.resumePv c t
  else s

/-- The free facet for a record, with the fewest programmings, lowest number on a tie, and no remap entry that its forced entries meet (R185, R193). -/
def State.chooseFacet (s : State) (r : PkgRec) : Option Nat :=
  let l := (s.freeFacets r.ch r.tile).filter (fun f => forcedFits (sget {} s.store.live.chans r.ch) r.tile f r.forced)
  l.find? (fun f => (s.facet r.ch r.tile f).count == minOf 0 (l.map (fun f => (s.facet r.ch r.tile f).count)))

/-- Begin a record's programming on a facet. -/
def State.beginPv (s : State) (g i : Nat) (r : PkgRec) (refresh : Bool) (f : Nat) (second : Bool) : State :=
  let s := s.modRec g i (fun r => { r with st := .programming, facet := f, again := false })
  let s := s.modTile r.ch r.tile (fun x => { x with pv := some { why := if refresh then .refresh r.lfacet else .package i, facet := f, second := second } })
  let s := s.count r.ch 0x38
  (if second then s.count r.ch 0x39 else s).resumePv r.ch r.tile

/-- Start programming record `i` of package `g`: a second time on its facet, or on a free facet, with its forced entries (R185, R190, R193). -/
def State.startPv (s : State) (g i : Nat) (r : PkgRec) (refresh : Bool) : State :=
  if r.again then s.beginPv g i r refresh r.facet true
  else
    match s.chooseFacet r with
    | none => s
    | some f =>
      let e := forcedEntries (sget {} s.store.live.chans r.ch) r.ch r.tile f r.forced
      let s := s.modFacet r.ch r.tile f (fun x => { x with st := .staging })
      let s := s.modStore r.ch (fun x => { x with remap := x.remap ++ e })
      (s.countN r.ch 0x3A e.length none).beginPv g i r refresh f false

/-- Tiles of a channel that program. -/
def Chan.pvTiles (k : Chan) : Nat := (k.arr.tiles.filter (fun e => match e.2.pv with | some p => !p.why.reads | none => false)).length

/-- May a tile begin to program or read back at all: neither at it nor under test? -/
def State.pvFree (s : State) (c t : Nat) : Bool := (s.tile c t).pv.isNone && (s.tile c t).st != .testing

/-- May a tile start programming at this tick: not cold, channel not throttled nor held by a test, fewer than 48 tiles at it? -/
def State.mayProgram (s : State) (c t : Nat) : Bool :=
  let k := s.chan c
  s.pvFree c t && !k.arr.cold.contains (t / 48) && s.levelOf c == 0 && decide (k.pvTiles < 48)

/-- Does the work admitted to a channel name a tile: an instruction of the program of a bound or admitted inference, or a request that waits there (R191)? -/
def State.namesTile (s : State) (c t : Nat) : Bool :=
  let k := s.chan c
  let prog (n : Nat) : Bool := (sget {} k.seqr.images n).words.any (fun w => opOf w == 0x20 && !bit w 55 && fld w 43 35 == t)
  !(k.tile t).queue.isEmpty || k.seqr.slots.any (fun e => e.2.job.isSome && prog e.2.image) ||
  k.jobs.any (fun j => j.stage == .admitted && prog (sget 0 k.seqr.current (s.ctx j.ctx).program - 1))

/-- Waiting records in the order of R191, a package's before those of refreshes (R197): tiles that the admitted work does not name first, then lower tile number; package index and record index. -/
def State.waitingRecs (s : State) : List (Nat × Nat × PkgRec × Bool) :=
  let l := (s.host.pkgs.zipIdx).flatMap (fun (p, g) =>
    if p.refresh || (s.host.staging && (s.host.pkgs.take g).all (fun q => q.refresh)) then
      (p.recs.zipIdx).filterMap (fun (r, i) => if r.st = .waiting then some (g, i, r, p.refresh) else none)
    else [])
  sortBy (fun a b =>
    let rank (e : Nat × Nat × PkgRec × Bool) : Nat := (2 * bnat e.2.2.2 + bnat (s.namesTile e.2.2.1.ch e.2.2.1.tile)) * 1000 + e.2.2.1.tile
    decide (rank a ≤ rank b)) l

/-- Facets of a tile that the records of accepted packages are still to take. -/
def State.facetNeeds (s : State) (c t : Nat) : Nat :=
  ((s.host.pkgs.filter (fun p => !p.refresh)).flatMap (fun p => p.recs.filter (fun r => r.ch == c && r.tile == t && r.st == .waiting && !r.again))).length

/-- Do accepted packages leave a refresh a facet of a tile (R197)? -/
def State.facetToSpare (s : State) (c t : Nat) : Bool := decide (s.facetNeeds c t < (s.freeFacets c t).length)

/-! ### Refreshes (R196, R197) -/

/-- Is a refresh of the logical facet under way? -/
def State.refreshing (s : State) (c t l : Nat) : Bool :=
  s.host.pkgs.any (fun p => p.refresh && p.recs.any (fun r => r.ch == c && r.tile == t && r.lfacet == l))

/-- Is the logical facet one that an accepted package maps? -/
def State.packaged (s : State) (c t l : Nat) : Bool :=
  s.host.pkgs.any (fun p => !p.refresh && p.recs.any (fun r => r.ch == c && r.tile == t && r.lfacet == l))

/-- Start the read-backs that are due on tiles with a facet to spare (R196, R197). -/
def State.startRefreshes (s : State) : State :=
  if s.integ.svc == .draining || s.integ.svc == .drained then s
  else (List.range s.channels).foldl (fun s c =>
    (sget {} s.store.live.chans c).facets.foldl (fun s e =>
      let t := e.1 / 16
      let f := e.1 % 16
      match (s.chan c).logicalOf t f with
      | none => s
      | some l =>
        if e.2.due && !e.2.needsPackage && e.2.st == .mapped && !s.refreshing c t l && !s.packaged c t l && s.pvFree c t && s.facetToSpare c t then
          (s.modTile c t (fun x => { x with pv := some { why := .readback l, facet := f } })).resumePv c t
        else s) s) s

/-- Abandon refreshes by channel, tile and logical facet: their staged facets become free, their programming and read-backs stop (R185, R197). -/
def State.dropRefreshes (s : State) (p : Nat → Nat → Nat → Bool) : State :=
  let hit (g : Pkg) : Bool := g.refresh && !g.recorded && g.recs.any (fun r => p r.ch r.tile r.lfacet)
  let gone := s.host.pkgs.filter hit
  let s : State := { s with host := { s.host with pkgs := s.host.pkgs.filter (fun g => !hit g) } }
  let s := gone.foldl (fun s g => g.recs.foldl (fun s r =>
    if r.st = .waiting ∧ !r.again then s else s.modFacet r.ch r.tile r.facet Facet.release) s) s
  s.allChans (fun c k => { k with arr := { k.arr with tiles := k.arr.tiles.map (fun e => (e.1, match e.2.pv with
    | some v => (match v.why with | .refresh l => if p c e.1 l then e.2.stopPv else e.2 | .readback l => if p c e.1 l then e.2.stopPv else e.2 | _ => e.2)
    | none => e.2)) } })

/-- The refreshes that hold facets of tiles where a package's waiting record finds none are abandoned (R185). -/
def State.yieldFacets (s : State) : State :=
  s.waitingRecs.foldl (fun s e =>
    if !e.2.2.2 && !e.2.2.1.again && (s.chooseFacet e.2.2.1).isNone then s.dropRefreshes (fun c t _ => c == e.2.2.1.ch && t == e.2.2.1.tile) else s) s

/-! ### Table sections (R181, R182) -/

/-- Enter one table section into a generation. -/
def Tables.enter (x : Tables) (q : PkgSec) : Tables :=
  let off := fld q.hdr 95 64
  match fld q.hdr 127 124 with
  | 1 => { x with shared := sputList 0 (x.shared.filter (fun e => decide (32768 ≤ e.1))) off q.bytes
                  parts := x.parts.filter (fun t => decide (32768 ≤ t.1)) ++ [(off, q.bytes.length)] }
  | 2 => { x with residents := q.bytes }
  | 3 => { x with shared := sputList 0 x.shared (32768 + off) q.bytes
                  parts := x.parts.filter (fun t => t.1 + t.2 ≤ 32768 + off ∨ 32768 + off + q.bytes.length ≤ t.1) ++ [(32768 + off, q.bytes.length)] }
  | 4 => { x with stream := sputList 0 x.stream off q.bytes
                  tensors := (x.tensors.filter (fun t => t.1 + t.2 ≤ off ∨ off + q.bytes.length ≤ t.1)) ++ [(off, q.bytes.length)] }
  | _ => x

/-- Write a package's sections into the inactive generation of each channel it names (R187 step 2). -/
def State.writeTables (s : State) (p : Pkg) : State :=
  (List.range s.channels).foldl (fun s c =>
    if p.writesTables c then
      let x := (p.secs.filter (fun q => fld q.hdr 123 121 == c)).foldl Tables.enter (s.store.tables' c)
      if (sget {} s.store.live.chans c).gen = 0 then { s with store := { s.store with tab1 := sput {} s.store.tab1 c x } }
      else { s with store := { s.store with tab0 := sput {} s.store.tab0 c x } }
    else s) s

/-- Does a started mvm.d of a channel still read the table-store generation that is not in force (R182, R187)? -/
def State.oldReaders (s : State) (c : Nat) : Bool :=
  (s.chan c).seqr.slots.any (fun e => e.2.outs.any (fun o => opOf o.word == 0x21 && o.started && o.gen != (sget {} s.store.live.chans c).gen))

/-- Every record programmed: the tables are written, once nothing reads the generation they replace, and the record is wanted urgently (R187, R332). -/
def State.stagedNow (s : State) (g : Nat) : State :=
  match s.host.pkgs[g]? with
  | none => s
  | some p =>
    if p.recs.all (fun r => r.st = .done) && !p.staged && (List.range s.channels).all (fun c => !p.writesTables c || !s.oldReaders c) then
      ((s.writeTables p).wantRecord) |> fun s => { s with host := { s.host with pkgs := lmod s.host.pkgs g (fun p => { p with staged := true }) } }
    else s

/-! ### A load that fails (R194) -/

/-- Staging of package `g` fails: its facets return to free, the request completes WEIGHT_FAILED and its failure is entered, with a result
that the manual's table does not give; a refresh is discarded. -/
def State.failPkg (s : State) (g : Nat) : State :=
  match s.host.pkgs[g]? with
  | none => s
  | some p =>
    let s := p.recs.foldl (fun s r =>
      let s := s.modTile r.ch r.tile (fun x => match x.pv with
        | some v => (match v.why with | .package _ => if p.refresh then x else x.stopPv | .refresh l => if p.refresh && l == r.lfacet then x.stopPv else x | _ => x)
        | none => x)
      if r.st = .waiting ∧ !r.again then s
      else s.modFacet r.ch r.tile r.facet (fun x => if x.st = .staging then x.release else x)) s
    let s : State := { s with host := { s.host with pkgs := s.host.pkgs.eraseIdx g, staging := if p.refresh then s.host.staging else false } }
    if p.refresh then s
    else (s.auditFailed p false).finishHost p.job stWeightFailed 0

/-- The package being staged: its place in the list. -/
def State.stagingAt (s : State) : Option Nat :=
  if s.host.staging then ((s.host.pkgs.zipIdx).find? (fun e => !e.1.refresh && !e.1.staged)).map Prod.snd else none

/-- Staging of the package being staged fails. -/
def State.failStaging (s : State) : State := match s.stagingAt with | some g => s.failPkg g | none => s

/-! ### What a tick starts (R185, R191, R197) -/

/-- Does a record of the package being staged come to its turn and find no facet left, even with those that refreshes held (R194)? -/
def State.stuckRecord (s : State) : Bool :=
  s.waitingRecs.any (fun e => !e.2.2.2 && !e.2.2.1.again && s.mayProgram e.2.2.1.ch e.2.2.1.tile && (s.chooseFacet e.2.2.1).isNone)

/-- Start one waiting record where its tile may program; a refresh leaves accepted packages the facets they need (R191, R197). -/
def State.startRecord (s : State) (e : Nat × Nat × PkgRec × Bool) : State :=
  if s.mayProgram e.2.2.1.ch e.2.2.1.tile && (!e.2.2.2 || e.2.2.1.again || s.facetToSpare e.2.2.1.ch e.2.2.1.tile) then
    s.startPv e.1 e.2.1 e.2.2.1 e.2.2.2
  else s

/-- The programmings that a tick starts: none while draining or drained (R296). A package whose last reader of old tables has ended goes on to its record. -/
def State.startPrograms (s : State) : State :=
  if s.integ.svc == .draining || s.integ.svc == .drained then s
  else
    let s := match s.stagingAt with | some g => s.stagedNow g | none => s
    let s := s.yieldFacets
    let s := if s.stuckRecord then s.failStaging else s
    s.waitingRecs.foldl State.startRecord s

/-! ### The switch (R187 to R189, R388, R316) -/

/-- Switch one recorded package in. -/
def State.switchPkg (s : State) (p : Pkg) : State :=
  let s := (List.range s.channels).foldl (fun s c =>
    if !p.writes c then s
    else
      let x := (sget {} s.store.live.chans c).withPkg p c
      let x := { x with facets := p.recs.foldl (fun m r => if r.ch = c then smod {} m (16 * r.tile + r.facet) (fun y => { y with st := .mapped }) else m) x.facets }
      let s : State := { s with store := { s.store with live := { s.store.live with chans := sput {} s.store.live.chans c x } } }
      let pages (a n : Nat) : Nat × Nat := (a / 65536, (a + n - 1) / 65536)
      let changed := p.secs.filter (fun q => fld q.hdr 127 124 == 4 && fld q.hdr 123 121 == c)
      let shared := p.secs.any (fun q => fld q.hdr 123 121 == c && (fld q.hdr 127 124 == 1 || fld q.hdr 127 124 == 3))
      let s := s.modChan c (fun k => { k with
        arr := { k.arr with map := x.map, copying := k.arr.copying || shared, switchedAt := s.frameN }
        tables := if p.writesTables c then s.store.tables' c else k.tables
        copy1Poison := if changed.isEmpty then k.copy1Poison else k.copy1Poison.filter (fun e => changed.all (fun q => !decide (fld q.hdr 95 64 ≤ e.1 * 64 ∧ e.1 * 64 < fld q.hdr 95 64 + q.bytes.length)))
        copy2Poison := if changed.isEmpty then k.copy2Poison else k.copy2Poison.filter (fun e => changed.all (fun q => !decide (fld q.hdr 95 64 ≤ e.1 * 64 ∧ e.1 * 64 < fld q.hdr 95 64 + q.bytes.length)))
        sharedPoison := if shared then [] else k.sharedPoison
        seqr := { k.seqr with
          -- a resident tensor whose 64 KiB pages changed is evicted
          streams := k.seqr.streams.filter (fun r => changed.all (fun q =>
            let a := pages r.base r.bytes
            let b := pages (fld q.hdr 95 64) q.bytes.length
            decide (a.2 < b.1 ∨ b.2 < a.1)))
          slots := k.seqr.slots.map (fun e => (e.1, if e.2.job.isSome then { e.2 with switched := true } else e.2)) } })
      let s := if p.refresh then s
        else { s with sec := { s.sec with chains := smod 0 s.sec.chains (5 + c) (fun v => Config.sha3 (leBytes 64 v.toNat ++ leBytes 32 p.digest.toNat)) } }
      s.count c 0x3E) s
  if p.refresh then s
  else
    let s := s.audit 0x10 p.fn 0 (digestObject p.digest)
    { s.finishHost p.job stOK 0 with host := { (s.finishHost p.job stOK 0).host with staging := false } }

/-- Roles signed under a slot whose epoch has risen above theirs end (R313). -/
def State.revoke (s : State) : State :=
  s.host.ports.foldl (fun s e =>
    if e.2.roleNow.role == .installer && decide (e.2.roleNow.epoch < (sget {} s.store.live.auth e.2.roleNow.signer).epoch) then s.endRole e.1 else s) s

/-- Does a resident-expert section name a logical facet? -/
def residentNames (bytes : List Byte) (t l : Nat) : Bool :=
  (List.range 4096).any (fun e => (List.range 256).any (fun p =>
    match Config.resident bytes e p with
    | some (a, b, _) => a == t && b == l
    | none => false))

/-- Does any loaded program or the committed resident-expert table of a channel name a logical facet (R186)? -/
def Chan.namesFacet (k : Chan) (t l : Nat) : Bool :=
  k.seqr.images.any (fun e => e.2.words.any (fun w => opOf w == 0x20 && !bit w 55 && fld w 43 35 == t && fld w 34 31 == l)) ||
  residentNames k.tables.residents t l

/-- Is a logical facet named, so that it cannot be unmapped (R186)? The resident-expert table of an accepted package counts by the model's
choice, so that its switch finds every facet valid (notes/assumptions/103). -/
def State.facetNamed (s : State) (c t l : Nat) : Bool :=
  (s.chan c).namesFacet t l ||
  s.host.pkgs.any (fun p => p.secs.any (fun q => fld q.hdr 127 124 == 2 && fld q.hdr 123 121 == c && residentNames q.bytes t l))

/-- What a tick switches: recorded packages, recorded unmaps, recorded authority changes. -/
def State.switchTick (s : State) : State :=
  let ready := s.host.pkgs.filter (fun p => p.recorded)
  let s : State := { s with host := { s.host with pkgs := s.host.pkgs.filter (fun p => !p.recorded) } }
  let s := (ready.filter (fun p => !p.refresh)).foldl (fun s p =>
    (s.switchPkg p).dropRefreshes (fun c t l => p.recs.any (fun q => q.ch == c && q.tile == t && q.lfacet == l))) s
  -- a refresh whose logical facet has moved is discarded and its facet is free (R197)
  let s := (ready.filter (fun p => p.refresh)).foldl (fun s p =>
    if p.recs.all (fun r => (sget {} (s.chan r.ch).arr.map (16 * r.tile + r.lfacet)).phys == r.src) then s.switchPkg p
    else (p.recs.foldl (fun s r => s.modFacet r.ch r.tile r.facet Facet.release) s).wantRecord) s
  let un := s.host.unmaps.filter (fun u => u.2.2.2.2)
  let s : State := { s with host := { s.host with unmaps := s.host.unmaps.filter (fun u => !u.2.2.2.2) } }
  let s := un.foldl (fun s u =>
    let c := u.2.1
    -- what names the logical facet since the request is refused nothing: the facet stays (R186)
    if s.facetNamed c u.2.2.1 u.2.2.2.1 then (s.mbxDone u.1 stUnsupported 0).wantRecord
    else
      let s : State := { s with store := { s.store with live := s.store.live.unmap c u.2.2.1 u.2.2.2.1 } }
      let s := s.modChan c (fun k => { k with arr := { k.arr with map := (sget {} s.store.live.chans c).map } })
      s.mbxDone u.1 stOK 0) s
  let au := s.host.auths.filter (fun a => a.2.2)
  let s : State := { s with host := { s.host with auths := s.host.auths.filter (fun a => !a.2.2) } }
  let s := au.foldl (fun s a => { s with store := { s.store with live := s.store.live.withAuth a.1 a.2.1 } }) s
  s.revoke

/-! ### The commands -/

/-- Do too few facets of a tile stand free for what a package programs there (R185)? -/
def State.shortOf (s : State) (p : Pkg) (c t : Nat) : Bool :=
  decide ((s.freeFacets c t).length < (p.recs.filter (fun q => q.ch == c && q.tile == t)).length)

/-- PACKAGE_STAGING_START: the module begins the oldest waiting package; refreshes in its way are abandoned (R184, R185, R197). -/
def execPackageStagingStart (s : State) : Out :=
  match s.host.pkgs.find? (fun p => !p.refresh && !p.staged) with
  | none => go s
  | some p =>
    let t := s.dropRefreshes (fun c t l => p.recs.any (fun q => q.ch == c && q.tile == t && q.lfacet == l) || s.shortOf p c t)
    let t : State := { t with host := { t.host with staging := true } }
    onlyIf (!s.host.staging && s.apexUp) s (match t.stagingAt with | some g => t.stagedNow g | none => t)

/-- The package and record a tile's programming serves. -/
def State.recOf (s : State) (ch tile : Nat) (v : Pv) : Option (Nat × Nat × PkgRec) :=
  (s.host.pkgs.zipIdx).findSome? (fun (p, g) =>
    (p.recs.zipIdx).findSome? (fun (r, i) =>
      if r.ch == ch && r.tile == tile && r.st == .programming && r.facet == v.facet then some (g, i, r) else none))

/-- Cycles of the erase, and of one row group of 8 rows (R190). -/
def eraseCycles : Nat := 160
/-- R190 -/
def groupCycles : Nat := 10

/-- What the cells hold once cycle `n` of a programming has ended: erased at the end of the erase, then each row group at its tenth cycle
with the record's codes as the remap places them (R41, R190). -/
def Array.pvCells (a : Array) (remap : List (BitVec 32)) (t f n : Nat) (codes : Sparse Nat) : Array :=
  if n = eraseCycles then a.writeCodes t f []
  else
    let k := (n - eraseCycles) / groupCycles
    if eraseCycles < n ∧ (n - eraseCycles) % groupCycles = 0 ∧ k ≤ 128 then a.writeRows t f (8 * (k - 1)) (8 * k) (placeCodes remap t f codes) else a

/-- PV_CYCLE_END: a program-and-verify or read-back cycle ends; the tile serves waiting requests between cycles (R61, R190); a DAC fault reloads the tile's DACs and is a detected failure (R70). -/
def execPvCycleEnd (ch tile : Nat) (dacFault : Bool) (s : State) : Out :=
  let x := s.tile ch tile
  match x.pv with
  | none => go s
  | some v =>
    let t := match s.recOf ch tile v with
      | some (_, _, r) =>
        if v.why.reads then s
        else s.modChan ch (fun k => { k with arr := k.arr.pvCells (sget ({} : ChanStore) s.store.live.chans ch).remap tile v.facet (v.cycle + 1) r.codes })
      | none => s
    let t := t.modTile ch tile (fun x => { x with pv := some { v with cycle := v.cycle + 1 }, dacPv := .of (s.trim ch tile).idle
                                                  st := if x.wanted then .idle else x.st })
    onlyIf (s.fitted ch && x.st == .programming) s
      (if dacFault || !x.dacsSound then (t.modTile ch tile (fun x => x.loadDacs (s.trim ch tile))).drain 0x08 ch else t)

/-- A facet is retired: counted and reported (R194). -/
def State.retireFacetAt (s : State) (c t f : Nat) : State :=
  ((s.modFacet c t f (fun x => { x with st := .retired })).count c 0x3B).event 0x03 2 c (locArg c t f 0)

/-- A facet that nothing uses any more is free or worn; the columns that a read-back found stuck are mapped first, cause 11, and where they
cannot be it is retired (R188, R195, R196). -/
def State.freeFacet (s : State) (c t f : Nat) : State :=
  let x : ChanStore := sget {} s.store.live.chans c
  let l := (s.facet c t f).stuck
  let s := s.modFacet c t f (fun x => { x.release with stuck := [] })
  match mapAllFailed c t f x (l.map (fun col => (col, 3))) with
  | some y => (s.modStore c (fun x => { x with remap := y.remap, badCols := y.badCols })).countN c 0x3A (y.remap.length - x.remap.length) none
  | none => s.retireFacetAt c t f

/-- FACET_FREED: a facet that a switch unmapped is used by no MVM any more (R188, R195). -/
def execFacetFreed (ch tile facet : Nat) (s : State) : Out :=
  let busy := match (s.tile ch tile).run with | some r => r.facet == facet | none => false
  onlyIf (s.fitted ch && (s.facet ch tile facet).st == .mapped && !mapNames (s.chan ch).arr.map tile facet && !busy) s
    (s.freeFacet ch tile facet)

/-- The Arrhenius factor of one second in units of 2^-32 s, for a reading in 1/16 °C (R171). -/
def arrhenius (reading : Int) : Nat :=
  let a := (100 * reading + 437040).toNat
  if a = 0 then 0
  else if 573040 ≤ a then expPos (12765 * 1600 * (a - 573040)) (573040 * a) / 2 ^ (expPrec - 32)
  else 2 ^ (expPrec + 32) / expPos (12765 * 1600 * (573040 - a)) (573040 * a)

/-- 180 days in units of 2^-32 s (R172). -/
def refreshAge : Nat := 180 * 86400 * 2 ^ 32

/-- AGE_ACCRUE: a second of powered time ages every facet; a refresh can fall due; every 24 h the ages are to be stored (R171, R172). -/
def execAgeAccrue (s : State) : Out :=
  let t := (List.range s.channels).foldl (fun s c =>
    (List.range 6144).foldl (fun s n =>
      let t := n / 16
      let f := n % 16
      let s := s.modFacet c t f (fun x => { x with age := x.age + arrhenius (s.reading (clusterSensor c t)) })
      if refreshAge ≤ (s.facet c t f).age then s.refreshDue c t f 1 else s) s) s
  onlyIf s.apexUp s (if s.nowNs / 10 ^ 9 % 86400 = 0 then t.laterRecord else t)

/-- REFRESH_OVERDUE: a refresh has been due for more than 30 days of powered time (R173). -/
def execRefreshOverdue (ch tile facet : Nat) (s : State) : Out :=
  onlyIf (s.fitted ch && (s.facet ch tile facet).due && (s.facet ch tile facet).st == .mapped) s
    (s.modFacet ch tile facet (fun x => { x with overdue := true }))

/-- A reading in thousandths of a code, rounded to the nearest code. -/
def nearestCode (v : Int) : Int :=
  let q : Int := (rneDiv v.natAbs 1000 : Nat)
  (clampInt (-15) 15 (if v < 0 then -q else q)).1

/-- The read-back codes: the stored codes, with the readings given rounded to the nearest code. -/
def readBack (codes : Sparse Nat) (readings : List (Nat × Int)) : Sparse Nat :=
  readings.foldl (fun m e => sput 0 m e.1 (code 5 (nearestCode e.2))) codes

/-- Is no reading more than 0.35 from its code (R196)? -/
def readingsClose (readings : List (Nat × Int)) : Bool := readings.all (fun e => decide ((e.2 - 1000 * nearestCode e.2).natAbs ≤ 350))

/-- Does every checksum column equal R43 recomputed over codes? -/
def checksumsHold (codes : Sparse Nat) : Bool :=
  (List.range 1024).all (fun row => (List.range 8).all (fun b =>
    let at' (i : Nat) : Int := aw5 (sget 0 codes (row * 1080 + 135 * b + i))
    at' 134 == checksumOf ((List.range 128).map at')))

/-- The package of one record that a refresh makes of read-back codes (R196). -/
def refreshPkg (e : FMap) (c t l f : Nat) (codes : Sparse Nat) : Pkg :=
  let hdr : BitVec 128 := BitVec.ofNat 128 (pack [(127, 125, c), (124, 116, t), (115, 112, l),
    (111, 110, if e.r = 4 then 2 else if e.r = 2 then 1 else 0), (109, 96, e.group)])
  { refresh := true, mask := 2 ^ c, recs := [{ hdr := hdr, codes := codes, src := f }] }

/-- REFRESH_READBACK_DONE: the read-back is checked against 0.35 of a code and R43; a sound one becomes a package of one record, another makes
the facet need its package; columns with a pair stuck at another code are noted; one whose logical facet has moved is discarded (R196, R197). -/
def execRefreshReadbackDone (ch tile facet : Nat) (readings : List (Nat × Int)) (stuck : List Nat) (s : State) : Out :=
  match (s.tile ch tile).pv with
  | none => go s
  | some v =>
    match v.why with
    | .readback l =>
      let idle := (s.modTile ch tile (fun x => { x with pv := none, st := .idle })).count ch 0x3C
      let e := sget {} (s.chan ch).arr.map (16 * tile + l)
      let codes := logicalCodes (sget {} s.store.live.chans ch).remap tile facet (readBack ((s.chan ch).arr.readCodes tile facet) readings)
      let noted := if stuck.isEmpty then idle else idle.modFacet ch tile facet (fun x => { x with stuck := stuck })
      onlyIf (s.fitted ch && (s.tile ch tile).st == .programming && v.facet == facet && decide (160 ≤ v.cycle)) s
        (if e.phys != facet || !e.valid then noted
         else if readingsClose readings && checksumsHold codes then
           { noted with host := { noted.host with pkgs := noted.host.pkgs ++ [refreshPkg e ch tile l facet codes] } }
         else ((noted.modFacet ch tile facet (fun x => { x with needsPackage := true })).event 0x03 3 ch (locArg ch tile facet 0)).count ch 0x3D)
    | _ => go s

/-- SHARED_TABLES_COPY_END: instructions that read SHARED may start again (R187). -/
def execSharedTablesCopyEnd (ch : Nat) (s : State) : Out :=
  onlyIf (s.fitted ch && (s.chan ch).arr.copying) s (s.modChan ch (fun k => { k with arr := { k.arr with copying := false } }))

end Sys2Proof.Machine
end

