-- ==== Sys2Proof/Machine/Mvm.lean ====
section
/-! DEFINITION. One analogue MVM: bit-steps, segment conversions, lanes, promotion, the time it takes, and what the correction and
monitoring paths take from it (R41 to R55, R72 to R77, R162, R165 to R169, R175, R177). -/

namespace Sys2Proof.Machine

/-! ### Input (R46 to R49) -/

/-- A code clamped to the magnitude that width `w` can drive. -/
def clampCode (w : Nat) (c : Int) : Int := (clampInt (-(2 ^ w - 1 : Nat)) ((2 ^ w - 1 : Nat)) c).1

/-- Codes whose magnitude was clamped. -/
def clampedCount (w : Nat) (l : List Int) : Nat := (l.filter (fun c => decide (2 ^ w ≤ c.natAbs))).length

/-- Is a code's row active at bit-step `k`? -/
def activeAt (k : Nat) (c : Int) : Bool := c.natAbs / 2 ^ k % 2 == 1

/-- Active rows among rows `lo` to `lo + n`. -/
def activeIn (codes : List Int) (k lo n : Nat) : Nat := (((codes.drop lo).take n).filter (activeAt k)).length

/-- No row is active at bit-step `k`. -/
def skippedAt (codes : List Int) (k : Nat) : Bool := codes.all (fun c => !activeAt k c)

/-! ### Conversion and time (R50 to R56) -/

/-- Magnitude bits of a conversion of `n` active rows. -/
def convBits (n : Nat) : Nat :=
  if n = 0 then 0 else if n = 1 then 4 else if n = 2 then 5 else if n ≤ 4 then 6 else if n ≤ 8 then 7 else 8

/-- Is a segment converted in two passes? -/
def splits (n : Nat) : Bool := decide (17 < n)

/-- Magnitude-bit cycles of a segment at a bit-step. -/
def segCycles (codes : List Int) (k seg : Nat) : Nat :=
  let n := activeIn codes k (32 * seg) 32
  if splits n then convBits (activeIn codes k (32 * seg) 16) + convBits (activeIn codes k (32 * seg + 16) 16) else convBits n

/-- The time of an MVM in ns: 20 ns and eight slices for each bit-step that runs; a cycle takes 7.5 ns. -/
def mvmNs (codes : List Int) (w : Nat) : Nat :=
  max 20 (((List.range w).map (fun k =>
    if skippedAt codes k then 0 else 20 + 60 * ((List.range 32).foldl (fun m s => max m (segCycles codes k s)) 0))).sum)

/-- Bit-steps skipped. -/
def skippedSteps (codes : List Int) (w : Nat) : Nat := ((List.range w).filter (skippedAt codes)).length

/-- Segments split, over all bit-steps. -/
def splitSegments (codes : List Int) (w : Nat) : Nat :=
  ((List.range w).map (fun k => ((List.range 32).filter (fun s => splits (activeIn codes k (32 * s) 32))).length)).sum

/-- The cells of one column of a facet: row and code, other rows being 0. Reference columns hold +8 and 0 in every row (R41). -/
def columnCells (codes : Sparse Nat) (col : Nat) : List (Nat × Int) :=
  if col % 135 = 132 then (List.range 1024).map (fun r => (r, 8))
  else if col % 135 = 133 then []
  else (codes.filter (fun e => e.1 % 1080 == col)).map (fun e => (e.1 / 1080, aw5 e.2))

/-- The current of rows `lo` to `lo + n` of a column at bit-step `k`, in units of I_u (R45). -/
def idealSum (cells : List (Nat × Int)) (codes : List Int) (k lo n : Nat) : Int :=
  cells.foldl (fun t e =>
    let x := codes.getD e.1 0
    if lo ≤ e.1 ∧ e.1 < lo + n ∧ activeAt k x = true then (if x < 0 then t - e.2 else t + e.2) else t) 0

/-- The departure given for one conversion. -/
def errAt (err : List ConvErr) (col seg k half : Nat) : Int :=
  match err.find? (fun e => e.col == col && e.seg == seg && e.step == k && e.half == half) with
  | some e => e.delta
  | none => 0

/-- A reading of `b` magnitude bits: beyond the range it is the end code (R51). -/
def reading (b : Nat) (v : Int) : Int × Bool := clampInt (-(2 ^ b - 1 : Nat)) ((2 ^ b - 1 : Nat)) v

/-- The conversions of a segment of a column at a bit-step: result and end codes. -/
def segment (cells : List (Nat × Int)) (codes : List Int) (err : List ConvErr) (col k seg : Nat) : Int × Nat :=
  let n := activeIn codes k (32 * seg) 32
  if n = 0 then (0, 0)
  else if splits n then
    let a := reading (convBits (activeIn codes k (32 * seg) 16)) (idealSum cells codes k (32 * seg) 16 + errAt err col seg k 0)
    let b := reading (convBits (activeIn codes k (32 * seg + 16) 16)) (idealSum cells codes k (32 * seg + 16) 16 + errAt err col seg k 1)
    (a.1 + b.1, bnat a.2 + bnat b.2)
  else
    let a := reading (convBits n) (idealSum cells codes k (32 * seg) 32 + errAt err col seg k 0)
    (a.1, bnat a.2)

/-- The column sum of a bit-step (R72): exact, whatever the group size. -/
def columnSum (cells : List (Nat × Int)) (codes : List Int) (err : List ConvErr) (col k : Nat) : Int :=
  ((List.range 32).map (fun s => (segment cells codes err col k s).1)).sum

/-- Conversions that returned an end code, among those whose reading departs from the ideal (an ideal reading never does). -/
def endCodes (facet : Sparse Nat) (codes : List Int) (w : Nat) (err : List ConvErr) : Nat :=
  (((err.map (fun e => (e.col, e.seg, e.step))).eraseDups.filter (fun e => decide (e.1 < 1080 ∧ e.2.1 < 32 ∧ e.2.2 < w))).map (fun e =>
    (segment (columnCells facet e.1) codes err e.1 e.2.2 e.2.1).2)).sum

/-! ### Lanes and promotion (R74 to R77) -/

/-- A lane: its value, and the end it saturated at: true for the lower one. -/
structure Lane where
  v : Int := 0
  sat : Option Bool := none
deriving DecidableEq, Repr

/-- A lane takes 2a + C. -/
def Lane.step (a : Lane) (c : Int) : Lane :=
  let r := clampInt (-524288) 524287 (2 * a.v + c)
  { v := r.1, sat := if r.2 then some (decide (2 * a.v + c < 0)) else a.sat }

/-- What a lane delivers. -/
def Lane.val (a : Lane) : Val := match a.sat with | some neg => .inf neg | none => .ofInt a.v

/-- The promotion windows of `w` bit-steps, each as its bit-steps in the order they run; `p` at most to a window (R76). -/
def windows (w p : Nat) : List (List Nat) :=
  (List.range ((w + p - 1) / p)).map (fun i => (((List.range w).reverse).drop (p * i)).take p)

/-- The lane of a column at the end of a window. -/
def laneAt (cells : List (Nat × Int)) (codes : List Int) (err : List ConvErr) (col : Nat) (win : List Nat) : Lane :=
  win.foldl (fun a k => a.step (if skippedAt codes k then 0 else columnSum cells codes err col k)) {}

/-- The windows that are promoted: those not wholly skipped. -/
def promoted (codes : List Int) (w p : Nat) : List (List Nat) := (windows w p).filter (fun l => l.any (fun k => !skippedAt codes k))

/-- The lanes of a column, one for each promoted window. -/
def lanesOf (facet : Sparse Nat) (codes : List Int) (err : List ConvErr) (w p col : Nat) : List Lane :=
  (promoted codes w p).map (laneAt (columnCells facet col) codes err col)

/-- The bank sum of a column: its lanes less the offset reference's, times gain, place value and 1/r, each promotion rounded once (R77). -/
def bankSum (lanes refs : List Lane) (lows : List Nat) (g : BitVec 32) (r : Nat) : BitVec 32 :=
  ((lanes.zip refs).zip lows).foldl (fun a e =>
    f32 ((v32 a).add ((((v32 g).mul (Val.ofInt (2 ^ e.2 : Nat))).mul (e.1.1.val.sub e.1.2.val)).mul (.fin false 1 r)))) 0

/-! ### A whole MVM -/

/-- What an MVM gives: 1,024 logical sums, 8 checksum sums, M and I of each block, saturated, lanes saturated. -/
structure MvmOut where
  sums : List (BitVec 32) := []
  checks : List (BitVec 32) := []
  mi : List (Int × Nat) := []
  satLanes : Nat := 0
deriving DecidableEq, Repr

/-- The physical column that carries logical column `j` (R44). -/
def physicalOf (remap : List (BitVec 32)) (t f j : Nat) : Nat :=
  let b := j / 128
  match (mappedSpares remap t f b).find? (fun e => e.2 == j % 128) with
  | some e => 135 * b + 128 + e.1
  | none => 135 * b + j % 128

/-- The ideal gain-reference lane of a window: 8 × the signed row bits, weighted as lanes are (R166). -/
def idealGain (codes : List Int) (win : List Nat) : Int :=
  win.foldl (fun a k => 2 * a + 8 * (codes.foldl (fun t c => if activeAt k c then (if c < 0 then t - 1 else t + 1) else t) 0)) 0

/-- Run an MVM on a facet. -/
def runMvm (facet : Sparse Nat) (remap : List (BitVec 32)) (t f : Nat) (codes : List Int) (w p r : Nat) (gains : List (BitVec 32)) (err : List ConvErr) : MvmOut :=
  let wins := promoted codes w p
  let lows := wins.map (fun l => l.getLastD 0)
  let lanes (col : Nat) : List Lane := lanesOf facet codes err w p col
  let refs := (List.range 8).map (fun b => lanes (135 * b + 133))
  let sum (b col : Nat) : BitVec 32 := bankSum (lanes col) (refs.getD b []) lows (gains.getD b fone) r
  let cols := (List.range 1024).map (physicalOf remap t f)
  { sums := cols.zipIdx.map (fun e => sum (e.2 / 128) e.1)
    checks := (List.range 8).map (fun b => sum b (135 * b + 134))
    mi := (List.range 8).map (fun b =>
      let g := lanes (135 * b + 132)
      ((g.zip (refs.getD b [])).zip wins).foldl (fun (a : Int × Nat) e =>
        let i := idealGain codes e.2
        let d := e.1.1.v - e.1.2.v
        (a.1 + (if i < 0 then -d else if i = 0 then 0 else d), a.2 + i.natAbs)) (0, 0))
    satLanes := ((List.range 1080).map (fun col => ((lanes col).filter (fun l => l.sat.isSome)).length)).sum }

/-! ### Full scale (R162) -/

/-- FS of an input row: 15 times the sum of its magnitudes, at least 15,360. -/
def fullScale (codes : List Int) : Nat := max 15360 (15 * (codes.map Int.natAbs).sum)

/-! ### The check-vector generator (R85, R175) -/

/-- One advance of the generator's form. -/
def advance64 (x : Word) : Word :=
  let x := x ^^^ (x <<< 13)
  let x := x ^^^ (x >>> 7)
  x ^^^ (x <<< 17)

/-- `n` words after a state. -/
def words64 : Nat → Word → List Word
  | 0, _ => []
  | n + 1, x => advance64 x :: words64 n (advance64 x)

/-- A state `n` advances on. -/
def skip64 : Nat → Word → Word
  | 0, x => x
  | n + 1, x => skip64 n (advance64 x)

/-- The seed of a tile and physical facet. -/
def checkSeed (t f : Nat) : Word := 0x9E3779B97F4A7C15#64 ^^^ BitVec.ofNat 64 (16 * t + f + 1)

/-- The eight codes of a word: its bytes as signed INT8, −128 replaced by −127. -/
def wordCodes (w : Word) : List Int := (List.range 8).map (fun b => max (-127) (signed 8 (fld w (8 * b + 7) (8 * b))))

/-- Check vector `i`: 1,024 codes from word 128 i on. -/
def checkVector (t f i : Nat) : List Int := (words64 128 (skip64 (128 * i) (checkSeed t f))).flatMap wordCodes

/-! ### Output monitors (R177) -/

/-- Is |S| above (E/15 + m/100) of FS? -/
def aboveEnvelope (v : BitVec 32) (e m fs : Nat) : Bool := (Val.fin false ((100 * e + 15 * m) * fs) 1500).lt (v32 v).abs

end Sys2Proof.Machine
end

