-- ==== Sys2Proof/Machine/Sched.lean ====
section
/-! DEFINITION. The frame scheduler: budgets, estimates, order of candidates, admission, displacement, deferral (R231 to R241). -/

namespace Sys2Proof.Machine

/-! ### The frame (R223, R229, R286) -/

/-- Frame period in force, ns. -/
def State.periodNs (s : State) : Nat := fld s.clk.cfg 19 0 * 1000

/-- The denominator of the checking fraction: 64, 32, 16, 8 or 4 (R286). -/
def State.fracDen (s : State) : Nat := 2 ^ (6 - min s.hub.frac 4)

/-- Rotation length D (R286). -/
def State.rotation (s : State) : Nat := 4 * s.fracDen

/-! ### Estimates (R232) -/

/-- Header of a program number's image, where it is loaded. -/
def Chan.prog? (k : Chan) (n : Nat) : Option Prog :=
  let c := sget 0 k.seqr.current n
  if c = 0 then none else some (sget {} k.seqr.images (c - 1))

/-- The nearest whole number to a non-negative FP32 value. -/
def f32Nat (b : BitVec 32) : Nat :=
  match v32 b with
  | .fin false n d => rneDiv n d
  | _ => 0

/-- A program's estimates as charges. -/
def Est.use (e : Est) : Use := { tile := f32Nat e.tile, eng := f32Nat e.eng, bytes := f32Nat e.bytes }

/-- The initial estimates that a header declares (R232). -/
def Prog.est (p : Prog) : Est := { tile := fnat (fld p.hdr 111 96 * 7840), eng := fnat (fld p.hdr 95 72) }

/-- Does a program contain a yield (R237)? -/
def Prog.hasYield (p : Prog) : Bool := p.words.any (fun w => opOf w == 0x60)

/-- The first context admitted sets the traffic estimate (R232). -/
def State.setBytesEst (s : State) (c : Nat) (j : Job) : State :=
  let x := s.ctx j.ctx
  let e := sget {} (s.chan c).sched.est x.program
  if e.bytesSet || ((s.chan c).prog? x.program).isNone then s
  else
    let e' : Est := { e with bytes := fnat (max 65536 (2 * x.hotPages * 65536)), bytesSet := true }
    s.modChan c (fun k => { k with sched := { k.sched with est := sput {} k.sched.est x.program e' } })

/-- Charges of a candidate: the estimates, less what a yielded inference has used (R234). -/
def State.chargeOf (s : State) (c : Nat) (j : Job) : Use :=
  let x := s.ctx j.ctx
  let e := sget {} (s.chan c).sched.est x.program
  let u := (if e.bytesSet then e else { e with bytes := fnat (max 65536 (2 * x.hotPages * 65536)) }).use
  match j.stage with
  | .yielded sl => u.sub (s.slot c sl).use
  | _ => u

/-- Do charges fit what is left? -/
def Use.fits (u left : Use) : Bool := decide (u.tile ≤ left.tile ∧ u.eng ≤ left.eng ∧ u.bytes ≤ left.bytes)

/-! ### Budgets (R231) -/

/-- The budgets of channel `c` before anything is reserved. -/
def State.budget (s : State) (c : Nat) : Use :=
  let w := s.periodNs - 26000
  let d := s.fracDen
  let l := s.levelOf c
  { tile := 384 * w * (d - 1) * tileSlots16 l / (d * 16)
    eng := w * (d - 1) * (16 - skipped16 l) / (d * 16 * divisor l)
    bytes := w * 6826 / 100 }

/-- Set the budgets of a tick: reserve switch time, cold reference time and carried use, that of inferences still running included; a held channel has none (R231, R238). -/
def State.setBudget (s : State) (c : Nat) : State :=
  let s := (List.range 16).foldl (fun s sl => if (s.slot c sl).carrying then s.carryUse c sl else s) s
  let k := s.chan c
  let b := s.budget c
  let r : Use := { tile := k.sched.switchNs + 48 * 3920 * k.arr.cold.length + k.sched.carry.tile, eng := k.sched.carry.eng, bytes := k.sched.carry.bytes }
  let left : Use := if k.held then {} else b.sub r
  s.modChan c (fun k => { k with sched := { k.sched with
    left := left, carry := if k.held then k.sched.carry else k.sched.carry.sub b, switchNs := 0, blockedFrom := 3, deferredMin := 3, admitNo := 0, marked := false } })

/-- Charge a state get or put its length (R231). -/
def State.chargeMove (s : State) (c n : Nat) : State :=
  s.modChan c (fun k => { k with sched := { k.sched with
    left := { k.sched.left with bytes := k.sched.left.bytes - n }
    carry := { k.sched.carry with bytes := k.sched.carry.bytes + (n - k.sched.left.bytes) } } })

/-- A facet switch begins: counted, and its time charged to the next frame where it serves admitted work (R231, R59). -/
def State.beginSwitch (s : State) (c t f : Nat) (charged : Bool) : State :=
  let cold := (s.chan c).arr.cold.contains (t / 48)
  let s := s.modTile c t (fun x => { x with st := .switching f })
  let s := s.count c 0x05
  if charged then s.modChan c (fun k => { k with sched := { k.sched with switchNs := k.sched.switchNs + (if cold then 6000 else 2000) } }) else s

/-! ### Order of candidates (R233) -/

/-- Limit L of a class (R240). -/
def Chan.deferLimit (k : Chan) (cls : Nat) : Nat :=
  if cls = 0 then fld k.sched.cfg 15 8 else if cls = 1 then fld k.sched.cfg 23 16 else fld k.sched.cfg 31 24

/-- Is a job yielded? -/
def Job.isYielded (j : Job) : Bool := match j.stage with | .yielded _ => true | _ => false

/-- Does job `a` come before job `b` in R233 order? Compared by class, yielded first, urgency, frame taken, then order taken. -/
def State.before233 (s : State) (a b : Job) : Bool :=
  let xa := s.ctx a.ctx
  let xb := s.ctx b.ctx
  let wa := (s.frameN - a.taken) * xb.cadence
  let wb := (s.frameN - b.taken) * xa.cadence
  if xa.prio ≠ xb.prio then decide (xa.prio < xb.prio)
  else if a.isYielded ≠ b.isYielded then a.isYielded
  else if wa ≠ wb then decide (wb < wa)
  else if a.taken ≠ b.taken then decide (a.taken < b.taken)
  else decide (a.id ≤ b.id)

/-- The carried candidates of a channel in R233 order. -/
def State.candidates (s : State) (c : Nat) : List Job :=
  sortBy s.before233 ((s.chan c).jobs.filter (fun j => j.kind == 1 && j.verdict.isNone && (j.stage == .carried || j.isYielded)))

/-! ### Prefetch (R210) -/

/-- Fetch one line where it is not cached and its set has a way. -/
def Mem.prefetchLine (m : Mem) (n : Nat) : Mem × Nat × Nat :=
  let l := sget {} m.cache n
  if l.data.isSome || l.staged.isSome || l.filling || !m.hasWay n then (m, 0, 0)
  else
    let r := m.makeRoom n
    ({ r.1 with cache := sput {} r.1.cache n { data := some (r.1.lpddrLine n), stamp := r.1.stamp + 1 }, stamp := r.1.stamp + 1 }, 1, 256 + r.2)

/-- Fetch the hot pages of a context, skipping zero pages: memory, lines fetched, bytes moved. -/
def Mem.prefetch (m : Mem) (x : Ctx) : Mem × Nat × Nat :=
  (x.pages.take x.hotPages).foldl (fun (a : Mem × Nat × Nat) p =>
    if p.valid && !p.zero then
      (List.range 256).foldl (fun (a : Mem × Nat × Nat) i =>
        let r := a.1.prefetchLine (p.page * 256 + i)
        (r.1, a.2.1 + r.2.1, a.2.2 + r.2.2)) a
    else a) (m, 0, 0)

/-! ### Admission -/

/-- Admit a job with a charge: budgets shrink, prefetch starts, a yielded inference resumes (R234, R210, R83). -/
def State.admitJob (s : State) (c : Nat) (j : Job) (u : Use) (ask : Bool) : State :=
  let s := s.setBytesEst c j
  let n := (s.chan c).sched.admitNo
  let s := s.modChan c (fun k => { k with sched := { k.sched with left := k.sched.left.sub u, admitNo := n + 1 } })
  let p := (s.chan c).mem.prefetch (s.ctx j.ctx)
  let s := s.modChan c (fun k => { k with mem := p.1 })
  let s := s.countN c 0x41 p.2.1 none
  match j.stage with
  | .yielded sl =>
    let s := s.modJob c j.id (fun j => { j with stage := .bound sl, charge := u, askYield := ask })
    let s := s.used c sl { bytes := p.2.2 }
    -- from here on its use is charged again
    let s := s.carryUse c sl
    (s.modSlot c sl (fun x => { x with sinceYield := 0, carrying := false })).resumeAll c sl
  | _ =>
    s.modJob c j.id (fun j => { j with stage := .admitted, charge := u, admitNo := n, askYield := ask, prefetched := j.prefetched + p.2.2 })

/-- A charge cut down to the budgets left, for a program that can yield (R237). -/
def Use.cut (u left : Use) : Use := { tile := min u.tile left.tile, eng := min u.eng left.eng, bytes := min u.bytes left.bytes }

/-- Is every budget positive? -/
def Use.positive (u : Use) : Bool := decide (0 < u.tile ∧ 0 < u.eng ∧ 0 < u.bytes)

/-- May a job be split across frames (R237)? -/
def State.splits (s : State) (c : Nat) (j : Job) : Bool :=
  (match (s.chan c).prog? (s.ctx j.ctx).program with | some p => p.hasYield | none => false) && (s.chan c).sched.left.positive

/-- Defer a job (R239): counted, its class noted for R237. -/
def State.defer (s : State) (c : Nat) (j : Job) : State :=
  let cls := (s.ctx j.ctx).prio
  let s := s.modJob c j.id (fun j => { j with deferrals := satAdd 255 j.deferrals 1, stage := if j.isYielded then j.stage else .carried, charge := {} })
  let s := s.modChan c (fun k => { k with sched := { k.sched with deferredMin := min k.sched.deferredMin cls } })
  s.count c 0x52 (some j.ctx)

/-- A carried candidate is not admitted: past its limit it completes DROPPED_LATE, else it is deferred; a frame in which a test holds the channel does not count (R239). -/
def State.notAdmitted (s : State) (c : Nat) (j : Job) : State :=
  if (s.chan c).held then s
  else if (s.chan c).deferLimit (s.ctx j.ctx).prio ≤ j.deferrals then s.dropLate c j
  else s.defer c j

/-- Does a waiting test shed class `cls` (R304)? -/
def Chan.sheds (k : Chan) (cls : Nat) : Bool :=
  k.test.phase == .due && ((k.test.shedding && decide (0 < cls)) || decide (2000 ≤ k.test.waited))

/-- The walk of R234 over the candidates: `blocked` is the first class that no longer fits. -/
def State.walk (c : Nat) : List Job → Nat → State → State
  | [], _, s => s
  | j :: js, blocked, s =>
    let cls := (s.ctx j.ctx).prio
    let u := s.chargeOf c j
    let k := s.chan c
    if k.held || s.integ.svc != .inService || k.sheds cls || decide (blocked ≤ cls) then State.walk c js blocked (s.notAdmitted c j)
    else if u.fits k.sched.left then State.walk c js blocked (s.admitJob c j u false)
    else if s.splits c j then State.walk c js blocked (s.admitJob c j (u.cut k.sched.left) true)
    else State.walk c js cls (s.notAdmitted c j)

/-- Admit the carried candidates of a channel. -/
def State.admitCarried (s : State) (c : Nat) : State := State.walk c (s.candidates c) 3 s

/-- Admitted, unbound jobs of a higher class number, last admitted first (R235). -/
def State.displaceable (s : State) (c cls : Nat) : List Job :=
  sortBy (fun a b => decide (b.admitNo ≤ a.admitNo))
    ((s.chan c).jobs.filter (fun j => j.kind == 1 && j.stage == .admitted && decide (cls < (s.ctx j.ctx).prio)))

/-- Displace jobs until a charge fits: returns the state. -/
def State.displace (c : Nat) (u : Use) : List Job → State → State
  | [], s => s
  | j :: js, s =>
    if u.fits (s.chan c).sched.left then s
    else
      let s := s.modChan c (fun k => { k with sched := { k.sched with left := k.sched.left.add j.charge } })
      State.displace c u js ((s.count c 0x53 (some j.ctx)).defer c j)

/-- Admit an arrival, displace for it, split it, or defer it (R235, R237). -/
def State.arrive (s : State) (c : Nat) (j : Job) : State :=
  let cls := (s.ctx j.ctx).prio
  let u := s.chargeOf c j
  let k := s.chan c
  let ds := s.displaceable c cls
  let all := ds.foldl (fun a d => a.add d.charge) k.sched.left
  if k.held then s
  else if s.integ.svc != .inService || k.sheds cls || decide (k.sched.blockedFrom ≤ cls) then s.defer c j
  else if u.fits k.sched.left then s.admitJob c j u false
  else if u.fits all then (State.displace c u ds s).admitJob c j u false
  else if s.splits c j then s.admitJob c j (u.cut k.sched.left) true
  else (s.defer c j).modChan c (fun k => { k with sched := { k.sched with blockedFrom := cls } })

/-- Inferences that hold a place of a channel's pool: carried ones, and those that may return to it by displacement, deferral or a yield (R241). -/
def Chan.carriedCount (k : Chan) : Nat := (k.jobs.filter (fun j => j.kind == 1 && j.verdict.isNone)).length

/-! ### Binding order (R236) -/

/-- Is a job the first of its context in its channel (R18)? -/
def Chan.firstOf (k : Chan) (j : Job) : Bool :=
  match k.jobs.find? (fun x => x.ctx == j.ctx) with
  | some x => x.id == j.id
  | none => false

/-- Admitted jobs that can bind now, in R236 order: class, program, routing base, admission. -/
def State.bindable (s : State) (c : Nat) : List Job :=
  let key (j : Job) : Nat :=
    let x := s.ctx j.ctx
    ((x.prio * 64 + x.program) * 4096 + x.routingBase) * 2 ^ 32 + j.admitNo
  sortBy (fun a b => decide (key a ≤ key b))
    ((s.chan c).jobs.filter (fun j => j.stage == .admitted && j.input.isSome && (s.chan c).firstOf j))

end Sys2Proof.Machine
end

