-- ==== Sys2Proof/Machine/Program.lean ====
section
/-! DEFINITION. Program images and the check of R130: the header and instruction form maps, operand kinds and formats
(R129, R134, R135, R141 to R159), and every other rule that refuses a program at load. -/

namespace Sys2Proof.Machine

/-! ### Images (R129) -/

/-- `n` numbers of `w` bytes each. -/
def takeNums (w : Nat) : Nat → List Byte → List Nat
  | 0, _ => []
  | n + 1, l => leNat (l.take w) :: takeNums w n (l.drop w)

/-- Read an image. -/
def readProg (number : Nat) (l : List Byte) : Prog :=
  let h : BitVec 128 := BitVec.ofNat 128 (leNat (l.take 16))
  let t := min (fld h 50 46) 14
  { number := number, hdr := h
    templates := (takeNums 16 t (l.drop 16)).map (BitVec.ofNat 128)
    words := (takeNums 8 (fld h 127 112) (l.drop (16 + 16 * t))).map (BitVec.ofNat 64) }

/-- Spill depth d of a program (R81). -/
def Prog.depth (p : Prog) : Nat := fld p.hdr 71 64

/-- Is the header within its map, and the image as long as the header says? -/
def hdrOk (h : BitVec 128) (len : Nat) : Bool :=
  decide (1 ≤ fld h 127 112 ∧ fld h 127 112 ≤ 16384) && decide (4 ≤ fld h 71 64 ∧ fld h 71 64 ≤ 64) &&
  decide (fld h 63 51 ≤ 4096) && decide (fld h 50 46 ≤ 14) && fld h 45 0 == 0 &&
  decide (len = 16 + 16 * fld h 50 46 + 8 * fld h 127 112)

/-- Is a template within the buffer descriptor map and the kinds table (R8, R28, R31, R118, R134, R135)? -/
def templateOk (d : BitVec 128) : Bool :=
  (bdKind? d).isSome && decide (bdFmtCode d ≤ 10) && fld d 118 108 == 0 && fld d 44 40 == 0 && bdBase d % 64 == 0 &&
  ((bdFmt d).isCodebook || (fld d 119 119 == 0 && fld d 60 45 == 0)) &&
  (bdKind d != .stream || decide (bdExtent d ≤ 4194304))

/-! ### Bits an instruction may set (R141 to R159) -/

/-- The fields below the opcode that an instruction of this opcode and these flags uses; `none` where the opcode is reserved. -/
def usedFields (w : Word) : Option (List (Nat × Nat)) :=
  let f := bit w 55
  match opOf w with
  | 0x01 | 0x02 | 0x03 | 0x04 | 0x05 | 0x06 | 0x07 | 0x08 | 0x09 | 0x0A | 0x0B =>
    some ([(48, 48), (47, 43), (42, 38), (23, 0)] ++ if bit w 48 then [] else [(37, 33)])
  | 0x0C => some [(49, 49), (47, 43), (31, 0)]
  | 0x0D | 0x0E => some [(47, 43), (42, 38), (27, 24), (23, 0)]
  | 0x0F => some [(47, 43), (42, 38), (29, 28), (27, 24), (23, 0)]
  | 0x10 | 0x1C => some [(47, 43), (42, 38), (23, 0)]
  | 0x18 | 0x19 | 0x1A | 0x1B => some [(47, 43), (42, 38), (37, 33), (23, 0)]
  | 0x20 => some ([(55, 51), (47, 0)] ++ if f && bit w 54 then [(50, 50)] else [])
  | 0x21 => some [(55, 53), (47, 30)]
  | 0x28 => some ([(55, 54), (47, 36), (21, 18)] ++ if f then [(35, 22)] else [])
  | 0x29 => some [(55, 53), (47, 5)]
  | 0x30 => some [(55, 53), (47, 25)]
  | 0x31 => some [(55, 53), (47, 34), (29, 25)]
  | 0x32 => some [(55, 54), (47, 34), (29, 25)]
  | 0x38 => some [(55, 55), (47, 31)]
  | 0x39 => some [(55, 55), (47, 26)]
  | 0x40 | 0x42 => some [(55, 54), (47, 38)]
  | 0x41 => some [(54, 54), (47, 38)]
  | 0x48 => some ([(55, 55), (47, 44), (37, 27)] ++ if f then [(43, 38)] else [])
  | 0x49 => some [(47, 44), (34, 27)]
  | 0x50 | 0x51 => some [(47, 46)]
  | 0x58 => some [(47, 31), (15, 0)]
  | 0x59 => some [(55, 55), (47, 31), (15, 0)]
  | 0x5A => some [(47, 40)]
  | 0x60 => some [(55, 55)]
  | 0x61 => some [(15, 0)]
  | _ => none

/-- Are all bits outside the used fields zero (R8)? -/
def bitsOk (w : Word) : Bool :=
  match usedFields w with
  | none => false
  | some l => (List.range 56).all (fun i => !bit w i || l.any (fun e => decide (e.2 ≤ i ∧ i ≤ e.1)))

/-! ### Operands (R135, R37) -/

/-- Format sets of the unit format table, as codes. -/
def fmtsAny : List Nat := [0, 1, 2, 3, 4, 5, 6, 7, 8]
/-- Reductions, statistics and quant.row sources. -/
def fmtsWide : List Nat := [0, 1, 2]
/-- Engine inputs. -/
def fmtsEngine : List Nat := [0, 1, 2, 3, 4, 5, 7, 8]
/-- Vector and table units. -/
def fmtsVector : List Nat := [0, 1, 2, 6, 7]

/-- What a deq writes, and the statistics it writes with it. -/
def deqResults (w : Word) : List (Nat × List Kind × List Nat) :=
  (bnum w 44, [.work], [0, 1, 2, 3, 4, 5]) :: if bit w 53 then [(bnum w 25, [.work], [0])] else []

/-- The scales a deq reads, which it ignores for a handle of the expert form (R151). -/
def deqScales (w : Word) : List (Nat × List Kind × List Nat) :=
  (bnum w 40, [.work], [1, 2]) :: if bit w 54 then [(bnum w 36, [.work, .shared], [1])] else []

/-- The descriptors an instruction reads: number, kinds and formats accepted (R37, R94, R135, R143). An empty format list accepts any. -/
def operands (w : Word) : List (Nat × List Kind × List Nat) :=
  let f := bit w 55
  match opOf w with
  | 0x0D | 0x0E => [(bnum w 24, [.work], [])]
  | 0x20 => [(bnum w 44, [.work], [7, 8])] ++ (if f then [(bnum w 44 + 1, [.work], [1])] else []) ++ if bit w 52 then [(bnum w 6, [.work], [0])] else []
  | 0x21 => [(bnum w 44, [.work], fmtsEngine), (bnum w 40, [.work, .shared, .stream], fmtsEngine ++ [9, 10])] ++
      (if f then [] else [(bnum w 36, [.work], fmtsAny)]) ++ if bit w 54 then [(bnum w 32, [.work], [0])] else []
  | 0x28 => [(bnum w 44, [.work], fmtsWide), (bnum w 40, [.work], [7, 8]), (bnum w 36, [.work], [1, 2])] ++
      if f then [(bnum w 32, [.work], [0])] else []
  | 0x29 => deqResults w ++ deqScales w
  | 0x30 | 0x31 => (if f then [] else [(bnum w 44, [.work], fmtsWide)]) ++ [(bnum w 40, [.work], fmtsWide), (bnum w 36, [.work], [6])]
  | 0x32 => (if f then [] else [(bnum w 44, [.work], fmtsWide), (bnum w 36, [.work], [0])]) ++ [(bnum w 40, [.work], fmtsWide)]
  | 0x38 => [(bnum w 44, [.work], fmtsVector), (bnum w 40, [.work], fmtsVector), (bnum w 36, [.shared], fmtsVector)]
  | 0x39 => [(bnum w 44, [.work], fmtsVector), (bnum w 40, [.work], fmtsVector)] ++
      if fld w 30 26 ≤ 4 then [(bnum w 36, [.work], fmtsVector)] else []
  | 0x40 => if f then [] else [(bnum w 44, [.state], fmtsAny), (bnum w 40, [.work], fmtsAny)]
  | 0x41 => [(bnum w 44, [.work], fmtsAny), (bnum w 40, [.state], fmtsAny)]
  | 0x42 => (if f then [] else [(bnum w 44, [.work], fmtsAny)]) ++ [(bnum w 40, [.host], fmtsAny)]
  | 0x48 | 0x49 => [(bnum w 44, [.work], fmtsAny)]
  | _ => []

/-- Does a descriptor suit an operand? -/
def takesBd (d : BitVec 128) (ks : List Kind) (fs : List Nat) : Bool :=
  ks.contains (bdKind d) && (fs.isEmpty || fs.contains (bdFmtCode d))

/-- The descriptors of a program as known at load: the templates, zeros up to b13; b14 and b15 have only their kind (R132). -/
def Prog.known (p : Prog) (n : Nat) : BitVec 128 := p.templates.getD n (if n = 15 then mkBd 4 0 0 0 0 0 else 0)

/-- Does a program's descriptor suit an operand? The formats of b14 and b15 come with the host descriptor. -/
def Prog.accepts (p : Prog) (e : Nat × List Kind × List Nat) : Bool :=
  if e.1 < 14 then takesBd (p.known e.1) e.2.1 e.2.2 else e.2.1.contains (bdKind (p.known e.1))

/-- An mvm.d pairs two floating-point operands (codebooks among them) or two integer ones (R38). -/
def pairOk (a b : Nat) : Bool := (a == 7 || a == 8) == (b == 7 || b == 8)

/-- The format of a descriptor where it is known at load. -/
def Prog.fmtOf (p : Prog) (n : Nat) : Option Nat := if n < 14 then some (bdFmtCode (p.known n)) else none

/-- Is vec.op `op` float only (R155)? -/
def floatOnly (op : Nat) : Bool := op == 2 || op == 6 || op == 9

/-- Values that a form map excludes, and pairings (R46, R72, R76, R90, R97, R144, R147, R155, R186). -/
def Prog.valuesOk (p : Prog) (map : Sparse FMap) (i : Nat) (w : Word) : Bool :=
  match opOf w with
  | 0x10 => decide (fld w 23 0 ≤ 6)
  | 0x18 | 0x19 | 0x1A | 0x1B | 0x1C =>
    let t : Int := (i : Int) + imm24 w
    decide (0 ≤ t ∧ t < (p.words.length : Int))
  | 0x20 =>
    decide (1 ≤ fld w 18 15 ∧ fld w 18 15 ≤ 8) && fld w 14 13 != 0 && decide (1 ≤ fld w 12 10 ∧ fld w 12 10 ≤ 4) &&
    if bit w 55 then
      decide (bnum w 44 + 1 < p.templates.length) && takesBd (p.known (bnum w 44 + 1)) [.work] [1]
    else decide (fld w 43 35 < 384) && (sget {} map (16 * fld w 43 35 + fld w 34 31)).valid
  | 0x21 => match p.fmtOf (bnum w 44), p.fmtOf (bnum w 40) with | some a, some b => pairOk a b | _, _ => true
  | 0x28 => decide (1 ≤ fld w 21 18 ∧ fld w 21 18 ≤ 8)
  | 0x30 => decide (1 ≤ fld w 33 30 ∧ fld w 33 30 ≤ 8)
  | 0x39 =>
    let op := fld w 30 26
    let isInt (n : Nat) : Bool := p.fmtOf n == some 6 || p.fmtOf n == some 7
    decide (op ≤ 9) && !(floatOnly op && isInt (bnum w 40) && (op != 2 || isInt (bnum w 36)))
  | _ => true

/-! ### Routers (R124) -/

/-- One pass over the words: the registers that may hold an index of a red.topk whose indices go to descriptor `b` and whose winner goes to
register `r`: what it writes, what ld.s loads through `b`, and what arithmetic makes of these. -/
def Prog.indexRegs (p : Prog) (b : Nat) (l : List Nat) : List Nat :=
  p.words.foldl (fun l w =>
    let op := opOf w
    if op = 0x0D ∧ bnum w 24 = b then rdOf w :: l
    else if 1 ≤ op ∧ op ≤ 0x0B ∧ (l.contains (rs1Of w) || (!bit w 48 && l.contains (rs2Of w))) then rdOf w :: l
    else l) l

/-- Is the red.topk `w` a router's: can one of its indices be what an expert mvm.a names its expert by? -/
def Prog.routes (p : Prog) (w : Word) : Bool :=
  let l := (List.range 32).foldl (fun l _ => (p.indexRegs (bnum w 36) l).eraseDups) (if bit w 53 then [fld w 29 25] else [])
  p.words.any (fun e => opOf e == 0x20 && bit e 55 && l.contains (fld e 43 39))

/-- A router selects 1 to 4 experts, and no more than it has logits (R124). Which red.topk is a router's is the model's choice
(notes/assumptions/91): the manual names no mark of one. -/
def Prog.routerOk (p : Prog) (w : Word) : Bool :=
  opOf w != 0x30 || !p.routes w ||
  (decide (fld w 33 30 ≤ 4) && (bit w 55 || (match p.fmtOf (bnum w 44) with
    | some _ => decide (fld w 33 30 ≤ bdRows (p.known (bnum w 44)) * bdElems (p.known (bnum w 44)))
    | none => true)))

/-- Does instruction `i` pass? -/
def Prog.instrOk (p : Prog) (map : Sparse FMap) (i : Nat) (w : Word) : Bool :=
  bitsOk w && (operands w).all p.accepts && p.valuesOk map i w && p.routerOk w

/-- The check of R130 against a channel's facet map: `none` where it passes, else the first failing instruction or 0xFFFF. -/
def progFault (number : Nat) (image : List Byte) (map : Sparse FMap) : Option Nat :=
  let p := readProg number image
  if !hdrOk p.hdr image.length || !p.templates.all templateOk then some 0xFFFF
  else
    match p.words.zipIdx.find? (fun e => !p.instrOk map e.2 e.1) with
    | some e => some e.2
    | none =>
      let last := opOf (p.words.getLastD 0)
      if last == 0x61 || last == 0x1C then none else some (p.words.length - 1)

/-! ### Entering programs (R128, R131, R232) -/

/-- Instruction words that a channel's store holds, images still running included. -/
def Seqr.wordsHeld (k : Seqr) : Nat := (k.images.map (fun e => e.2.words.length)).sum

/-- Is any bound inference running an image? -/
def Seqr.runs (k : Seqr) (image : Nat) : Bool := k.slots.any (fun e => e.2.job.isSome && e.2.image == image)

/-- Drop the images that no program number names and no inference runs (R131). -/
def Seqr.freeImages (k : Seqr) : Seqr :=
  { k with images := k.images.filter (fun e => k.current.any (fun c => c.2 == e.1 + 1) || k.runs e.1) }

/-- Enter a program image under its number; its estimates take their initial values. -/
def Chan.enterProg (k : Chan) (p : Prog) : Chan :=
  let n := k.seqr.nextImage
  let q : Seqr := { k.seqr with images := sput {} k.seqr.images n p, current := sput 0 k.seqr.current p.number (n + 1), nextImage := n + 1 }
  { k with seqr := q.freeImages, sched := { k.sched with est := sput {} k.sched.est p.number p.est } }

end Sys2Proof.Machine
end

