-- ==== Sys2Proof/Machine/Scalar.lean ====
section
/-! DEFINITION. Issue (R137, R160) and the scalar instructions, which complete at issue or move one word of the window
(R141 to R144). -/

namespace Sys2Proof.Machine

/-! ### Registers that an instruction reads or writes (R137) -/

/-- The register that an outstanding instruction is still to write: 0 for none. -/
def lateReg (w : Word) : Nat :=
  match opOf w with
  | 0x0D => rdOf w
  | 0x30 | 0x31 => if bit w 53 then fld w 29 25 else 0
  | _ => 0

/-- Does vec.op `op` read the scalar (R155)? -/
def opReadsScalar (op : Nat) : Bool := op == 5 || op == 6 || op == 9

/-- The registers that an instruction reads or writes. -/
def regsOf (w : Word) : List Nat :=
  match opOf w with
  | 0x01 | 0x02 | 0x03 | 0x04 | 0x05 | 0x06 | 0x07 | 0x08 | 0x09 | 0x0A | 0x0B =>
    [rdOf w, rs1Of w] ++ if bit w 48 then [] else [rs2Of w]
  | 0x0C | 0x10 => [rdOf w]
  | 0x0D | 0x0E => [rdOf w, rs1Of w]
  | 0x0F => [rs1Of w]
  | 0x18 | 0x19 | 0x1A | 0x1B => [rs1Of w, rs2Of w]
  | 0x20 => if bit w 55 then [fld w 43 39] else []
  | 0x29 => if bit w 54 then [] else [fld w 35 31]
  | 0x30 | 0x31 => if bit w 53 then [fld w 29 25] else []
  | 0x39 => if opReadsScalar (fld w 30 26) then [fld w 35 31] else []
  | 0x58 | 0x59 => [fld w 35 31]
  | _ => []

/-! ### Issue (R137) -/

/-- The word at a slot's program counter. -/
def Chan.wordAt (k : Chan) (x : Slot) : Option Word := (sget {} k.seqr.images x.image).words[x.pc]?

/-- Outstanding instructions a slot may have. -/
def maxOutstanding : Nat := 16

/-- Does every lookback row of the slot have its verdict, with its replay issued (R106)? -/
def Slot.rowsDone (x : Slot) : Bool := x.prows.all (fun r => r.done)

/-- Does an instruction wait for the verdicts of its slot's lookback rows: wait, bar, yield (R106)? -/
def waitsForRows (w : Word) : Bool := opOf w == 0x59 || opOf w == 0x5A || opOf w == 0x60

/-- Would an xch.rcv find a message at its port, with no slot waiting before it (R158)? -/
def Chan.portNow (k : Chan) (w : Word) : Bool :=
  let x := sget {} k.seqr.ports (fld w 34 27)
  !x.msgs.isEmpty && x.waiters.isEmpty

/-- Is a slot ready to issue `w` (R137)? An xch.rcv that would block waits for the verdicts too, since it spills the slot's groups. -/
def Chan.ready (k : Chan) (sl : Nat) (w : Word) : Bool :=
  let x := k.slot sl
  x.job.isSome && x.block == .none && decide (x.outs.length < maxOutstanding) &&
  x.outs.all (fun o => lateReg o.word == 0 || !(regsOf w).contains (lateReg o.word)) &&
  (x.rowsDone || !(waitsForRows w || (opOf w == 0x49 && !k.portNow w)))

/-- Is a slot ready to issue its next instruction? -/
def Chan.readySlot (k : Chan) (sl : Nat) : Bool := match k.wordAt (k.slot sl) with | some w => k.ready sl w | none => false

/-- Is it a slot's turn: no slot between the one that issued last and it is ready (R137)? -/
def Chan.turn (k : Chan) (sl : Nat) : Bool :=
  (List.range ((sl + 15 - k.seqr.lastIssued) % 16)).all (fun i => !k.readySlot ((k.seqr.lastIssued + 1 + i) % 16))

/-- The word a slot issues, where it is ready, its turn has come and its opcode is `op`. -/
def State.atIssue (s : State) (c sl op : Nat) : Option Word :=
  match (s.chan c).wordAt (s.slot c sl) with
  | some w => if opOf w = op ∧ (s.chan c).ready sl w = true ∧ (s.chan c).turn sl = true then some w else none
  | none => none

/-- Instructions an inference may issue without a yield or halt between them (R160). -/
def runawayLimit : Nat := 1048576

/-- The outstanding entry of the instruction a slot issues. -/
def State.entryOf (s : State) (c sl : Nat) (w : Word) : Outst :=
  let x := s.slot c sl
  { seq := (s.chan c).seqr.nextSeq, idx := x.pc, word := w, bds := x.bds, issuedAt := s.nowNs, startedAt := s.nowNs }

/-- The instruction leaves the slot: its program counter moves on, the slot issued last, the issue is counted (R137, R390). -/
def State.issued (s : State) (c sl : Nat) (w : Word) : State :=
  let o := s.entryOf c sl w
  let s := s.countBy c 0x90 1 sl o
  -- a woken participant leaves its barrier's generation with its next instruction (R276)
  let s := s.modChan c (fun k => { k with
    seqr := { k.seqr with nextSeq := k.seqr.nextSeq + 1, lastIssued := sl }
    sync := if k.sync.bars.any (fun e => e.2.leaving.any (fun w => w.slot == sl)) then
        { k.sync with bars := k.sync.bars.map (fun e => (e.1, { e.2 with leaving := e.2.leaving.filter (fun w => w.slot != sl) })) }
      else k.sync })
  s.modSlot c sl (fun x => { x with pc := x.pc + 1, sinceYield := x.sinceYield + 1 })

/-- Issue the instruction of opcode `op` at a slot's program counter and let it act: nothing where the slot is not ready for it; RUNAWAY where the inference has issued the limit without a yield or halt. -/
def State.issue (s : State) (c sl op : Nat) (act : State → Outst → State) : State :=
  match s.atIssue c sl op with
  | none => s
  | some w =>
    let o := s.entryOf c sl w
    let t := s.issued c sl w
    if (s.slot c sl).sinceYield + 1 < runawayLimit ∨ op = 0x60 ∨ op = 0x61 then act t o else t.fault c sl 0x0C o.idx

/-- An instruction that completes at issue: its samples' run time is 1 ns (R140, R398). -/
def State.issueNow (s : State) (c sl op : Nat) (act : State → Outst → State) : State :=
  s.issue c sl op (fun t o => act (t.sampleDone c o.seq 1) o)

/-- Write a register of a slot. -/
def State.setReg (s : State) (c sl r : Nat) (v : Word) : State := s.modSlot c sl (fun x => x.setReg r v)

/-- Read a register of a slot. -/
def State.reg (s : State) (c sl r : Nat) : Word := (s.slot c sl).reg r

/-- rd = f(x[rs1], second operand). -/
def State.alu (s : State) (c sl op : Nat) (f : Word → Word → Word) : State :=
  s.issueNow c sl op (fun t o => t.setReg c sl (rdOf o.word) (f (t.reg c sl (rs1Of o.word)) ((t.slot c sl).opnd2 o.word)))

/-- Branch where `p` holds of x[rs1] and x[rs2]. -/
def State.branch (s : State) (c sl op : Nat) (p : Word → Word → Bool) : State :=
  s.issueNow c sl op (fun t o =>
    if p (t.reg c sl (rs1Of o.word)) (t.reg c sl (rs2Of o.word)) then
      t.modSlot c sl (fun x => { x with pc := ((o.idx : Int) + imm24 o.word).toNat })
    else t)

/-! ### Arithmetic (R141) -/

/-- ADD. -/
def execAdd (ch slot : Nat) (s : State) : Out := go (s.alu ch slot 0x01 (fun a b => a + b))
/-- SUB. -/
def execSub (ch slot : Nat) (s : State) : Out := go (s.alu ch slot 0x02 (fun a b => a - b))
/-- AND. -/
def execAnd (ch slot : Nat) (s : State) : Out := go (s.alu ch slot 0x03 (fun a b => a &&& b))
/-- OR. -/
def execOr (ch slot : Nat) (s : State) : Out := go (s.alu ch slot 0x04 (fun a b => a ||| b))
/-- XOR. -/
def execXor (ch slot : Nat) (s : State) : Out := go (s.alu ch slot 0x05 (fun a b => a ^^^ b))
/-- SHL: by bits 5:0 of the second operand. -/
def execShl (ch slot : Nat) (s : State) : Out := go (s.alu ch slot 0x06 (fun a b => a <<< (b.toNat % 64)))
/-- SHR. -/
def execShr (ch slot : Nat) (s : State) : Out := go (s.alu ch slot 0x07 (fun a b => a >>> (b.toNat % 64)))
/-- SRA. -/
def execSra (ch slot : Nat) (s : State) : Out := go (s.alu ch slot 0x08 (fun a b => a.sshiftRight (b.toNat % 64)))
/-- MUL: the low 64 bits of the product. -/
def execMul (ch slot : Nat) (s : State) : Out := go (s.alu ch slot 0x09 (fun a b => a * b))
/-- SLT: signed. -/
def execSlt (ch slot : Nat) (s : State) : Out := go (s.alu ch slot 0x0A (fun a b => if a.toInt < b.toInt then 1 else 0))
/-- SLTU: unsigned. -/
def execSltu (ch slot : Nat) (s : State) : Out := go (s.alu ch slot 0x0B (fun a b => if a.toNat < b.toNat then 1 else 0))

/-- The value li writes: the immediate sign-extended, or in bits 63:32 over the register's bits 31:0 (R142). -/
def liValue (w old : Word) : Word :=
  if bit w 49 then BitVec.ofNat 64 (fld w 31 0 * 2 ^ 32 + fld old 31 0) else BitVec.ofInt 64 (signed 32 (fld w 31 0))

/-- LI. -/
def execLi (ch slot : Nat) (s : State) : Out :=
  go (s.issueNow ch slot 0x0C (fun t o => t.setReg ch slot (rdOf o.word) (liValue o.word (t.reg ch slot (rdOf o.word)))))

/-! ### Words of the window (R143) -/

/-- The address of ld.s and st.s: base(b) + x[rs1] + imm24, modulo 2^64. -/
def State.wordAddr (s : State) (c sl : Nat) (w : Word) : Nat :=
  (BitVec.ofNat 64 (bdBase ((s.slot c sl).bd (bnum w 24))) + s.reg c sl (rs1Of w) + BitVec.ofInt 64 (imm24 w)).toNat

/-- Add an outstanding instruction to a slot. -/
def State.addOut (s : State) (c sl : Nat) (o : Outst) : State := s.modSlot c sl (fun x => { x with outs := x.outs ++ [o] })

/-- ld.s and st.s at issue: a misaligned address is BAD_DESC, one outside the window BOUNDS; else the instruction is outstanding. -/
def State.issueWord (s : State) (c sl op : Nat) : State :=
  s.issue c sl op (fun t o =>
    let a := t.wordAddr c sl o.word
    if a % 8 ≠ 0 then t.fault c sl 0x01 o.idx
    else if windowBytes < a + 8 then t.fault c sl 0x02 o.idx
    else t.addOut c sl { o with addr := a, x := t.reg c sl (rdOf o.word) })

/-- LD_S: outstanding until it completes. -/
def execLdS (ch slot : Nat) (s : State) : Out := go (s.issueWord ch slot 0x0D)
/-- ST_S: outstanding until it completes. -/
def execStS (ch slot : Nat) (s : State) : Out := go (s.issueWord ch slot 0x0E)

/-! ### Descriptors and system values (R143, R144) -/

/-- The descriptor with its RW field `sel` set to a value, where the field holds it (R143). -/
def setBdField (d : BitVec 128) (sel : Nat) (v : Word) : Option (BitVec 128) :=
  let n := v.toNat
  match sel with
  | 0 => if n % 64 = 0 ∧ n < 2 ^ 40 then some (setFld d 39 0 n) else none
  | 1 => if 1 ≤ n ∧ n ≤ 4096 then some (setFld d 107 96 (n - 1)) else none
  | 2 => if 1 ≤ n ∧ n ≤ 32768 then some (setFld d 95 81 (n - 1)) else none
  | _ => if n < 2 ^ 20 then some (setFld d 80 61 n) else none

/-- BD_SET: a value the field cannot hold ends the inference with BAD_DESC. -/
def execBdSet (ch slot : Nat) (s : State) : Out :=
  go (s.issueNow ch slot 0x0F (fun t o =>
    let n := bnum o.word 24
    match setBdField ((t.slot ch slot).bd n) (fld o.word 29 28) (t.reg ch slot (rs1Of o.word) + BitVec.ofInt 64 (imm24 o.word)) with
    | some d => t.modSlot ch slot (fun x => { x with bds := x.bds.set n d })
    | none => t.fault ch slot 0x01 o.idx))

/-- The system value of a selector (R144). -/
def State.sysValue (s : State) (c sl sel : Nat) : Word :=
  let j := ((s.chan c).job? ((s.slot c sl).job.getD 0)).getD {}
  match sel with
  | 0 => BitVec.ofNat 64 j.ctx
  | 1 => s.frameNow
  | 2 => s.clk.nanos
  | 3 => BitVec.ofNat 64 sl
  | 4 => BitVec.ofNat 64 (s.ctx j.ctx).routingBase
  | 5 => BitVec.ofNat 64 s.hub.moduleId
  | _ => BitVec.ofNat 64 j.user

/-- RD_SYS: the routing base before the record is fetched is NO_RECORD. -/
def execRdSys (ch slot : Nat) (s : State) : Out :=
  go (s.issueNow ch slot 0x10 (fun t o =>
    let sel := fld o.word 23 0
    if sel = 4 ∧ !(t.slot ch slot).recDone then t.fault ch slot 0x08 o.idx
    else t.setReg ch slot (rdOf o.word) (t.sysValue ch slot sel)))

/-! ### Branches (R141) -/

/-- BEQ. -/
def execBeq (ch slot : Nat) (s : State) : Out := go (s.branch ch slot 0x18 (fun a b => a == b))
/-- BNE. -/
def execBne (ch slot : Nat) (s : State) : Out := go (s.branch ch slot 0x19 (fun a b => a != b))
/-- BLT: signed. -/
def execBlt (ch slot : Nat) (s : State) : Out := go (s.branch ch slot 0x1A (fun a b => decide (a.toInt < b.toInt)))
/-- BGE: signed. -/
def execBge (ch slot : Nat) (s : State) : Out := go (s.branch ch slot 0x1B (fun a b => decide (b.toInt ≤ a.toInt)))
/-- JMP. -/
def execJmp (ch slot : Nat) (s : State) : Out := go (s.branch ch slot 0x1C (fun _ _ => true))

end Sys2Proof.Machine
end

