-- ==== Sys2Proof/Machine/Issue.lean ====
section
/-! DEFINITION. Issuing the instructions that units run: the handles as program order has them, the expert directory (R123 to
R125, R147), and the checks of R136 with the shape and handle rules of R146 to R158. -/

namespace Sys2Proof.Machine

/-! ### Handles in program order (R79, R147, R149, R151, R153) -/

/-- What program order says of a handle once every outstanding instruction has acted: kind, expert entry, whether the last part
has issued, rows and columns delivered, whether there is a retained vector, and the explicit spill records by age. -/
structure HView where
  kind : HKind := .closed
  grp : Bool := false
  entry : Nat := 0
  lastSeen : Bool := false
  rows : Nat := 0
  cols : Nat := 0
  retained : Bool := false
  recs : List Handle := []
deriving DecidableEq, Repr

/-- Columns of a bank or group. -/
def bankLanes : Nat := 1024

/-- A handle's view without its records. -/
def Handle.view (h : Handle) : HView :=
  match h.kind with
  | .closed => {}
  | .engine => { kind := .engine, rows := (h.rows.getD []).length, cols := ((h.rows.getD []).headD []).length, retained := true }
  | .expert => { kind := .expert, grp := h.grp, entry := h.entry, lastSeen := h.lastSeen, rows := 1, cols := bankLanes, retained := true }
  | k => { kind := k, rows := 1, cols := bankLanes, retained := h.retained.isSome }

/-- Handle number an instruction names, if it names one. -/
def handleOf (w : Word) : Option Nat :=
  match opOf w with
  | 0x20 => some (fld w 20 19)
  | 0x21 => if bit w 55 then some (fld w 31 30) else none
  | 0x29 => some (fld w 30 29)
  | 0x30 | 0x31 | 0x32 => if bit w 55 then some (fld w 35 34) else none
  | 0x42 => if bit w 55 then some (fld w 39 38) else none
  | 0x50 | 0x51 => some (fld w 47 46)
  | _ => none

/-- Does an instruction consume its handle's result? -/
def consumes (w : Word) : Bool :=
  match opOf w with
  | 0x29 => true
  | 0x30 | 0x31 | 0x32 | 0x42 => bit w 55
  | _ => false

/-- Does an instruction close the handle it names? -/
def closes (w : Word) : Bool :=
  match opOf w with
  | 0x29 => bit w 55
  | 0x30 | 0x31 | 0x32 | 0x42 => bit w 55 && bit w 54
  | _ => false

/-- What one instruction does to a handle's view. -/
def HView.after (v : HView) (o : Outst) : HView :=
  let w := o.word
  match opOf w with
  | 0x20 =>
    let x := bit w 55
    if v.kind = .closed then
      { v with kind := if x then .expert else if bit w 54 then .group else .bank, grp := bit w 54, entry := o.x.toNat
               lastSeen := x && bit w 54 && bit w 50, rows := 1, cols := bankLanes, retained := x }
    else { v with lastSeen := v.lastSeen || (x && bit w 50) }
  | 0x21 =>
    let bin := o.bds.getD (bnum w 44) 0
    let bw := o.bds.getD (bnum w 40) 0
    { v with kind := .engine, rows := bdRows bin, cols := if bit w 53 then bdRows bw else bdElems bw, retained := true }
  | 0x50 => { recs := v.recs ++ [{ kind := v.kind, grp := v.grp, entry := v.entry, lastSeen := v.lastSeen, retained := if v.retained then some [] else none }] }
  | 0x51 =>
    match v.recs with
    | r :: rs => { r.view with recs := rs }
    | [] => v
  | _ => if closes w then { recs := v.recs } else if opOf w = 0x29 then { v with retained := true } else v

/-- Handle `h` of a slot as program order has it. -/
def Chan.handleView (k : Chan) (sl h : Nat) : HView :=
  let x := k.slot sl
  let v := { (x.handle h).view with recs := (k.recordsFor sl h).map (fun n => (k.record n).keep) }
  x.outs.foldl (fun v o => if handleOf o.word = some h then v.after o else v) v

/-! ### The expert directory (R123 to R125, R147) -/

/-- Where an expert part runs. -/
inductive Dest where
  | refused (status cause : Nat)
  | chan (d tile lfacet : Nat) (col : List (BitVec 16))
  | module (n dstChan expert : Nat)
deriving DecidableEq, Repr

/-- A directory entry of a channel (R123). -/
def Chan.dirEntry (k : Chan) (e : Nat) : Word := BitVec.ofNat 64 (leNat (sgetList 0 k.tables.shared (8 * e) 8))

/-- Dispatch of a part of a directory entry (R124, R125, R147). -/
def State.dest (s : State) (c entry part : Nat) : Dest :=
  if 4096 ≤ entry then .refused stUnsupported 0x13
  else
    let e := (s.chan c).dirEntry entry
    let m := fld e 62 57
    let d := fld e 56 54
    let x := fld e 47 36
    if !bit e 63 then .refused stUnsupported 0x13
    else if m ≠ s.hub.moduleId then
      (if (s.peer m).st = .open then .module m d x else .refused stProtection 0x12)
    else if !s.fitted d then .refused stUnsupported 0x14
    else
      match Config.resident (s.chan d).tables.residents x part with
      | some (t, l, col) => .chan d t l col
      | none => .refused stUnsupported 0x13

/-! ### Shared checks (R101, R135, R136) -/

/-- A fault at issue: status and cause. -/
abbrev Bad := Option (Nat × Nat)

/-- A program fault's status and cause. -/
def bad (cause : Nat) : Bad := some (stProgramFault, cause)

/-- The first of several checks that fails. -/
def firstBad (l : List Bad) : Bad := l.foldl (fun a b => if a.isSome then a else b) none

/-- A check that must hold. -/
def need (ok : Bool) (cause : Nat) : Bad := if ok then none else bad cause

/-- The context of the inference a slot runs. -/
def State.slotCtx (s : State) (c sl : Nat) : Nat := (((s.chan c).job? ((s.slot c sl).job.getD 0)).getD {}).ctx

/-- Codebook bytes that a codebook-coded operand names (R26). -/
def cbBytes (d : BitVec 128) (cols : Nat) : Nat :=
  let stride := if bdFmt d = .cb256 then 512 else 64
  let one := if bdFmt d = .cb256 then 512 else 32
  if bit d 119 then ((cols + 63) / 64 - 1) * stride + one else one

/-- Format, base and extent of one operand (R135, R136). -/
def State.operandBad (s : State) (c sl : Nat) (o : Outst) (e : Nat × List Kind × List Nat) : Bad :=
  let d := o.bds.getD e.1 0
  if !takesBd d e.2.1 e.2.2 || bdBase d % 64 != 0 then bad 0x01
  else if bdKind d = .host then none
  else need (inSpace (s.chan c) (s.ctx (s.slotCtx c sl)).blobPages d) 0x02

/-- Some operands of an instruction. -/
def State.someBad (s : State) (c sl : Nat) (o : Outst) (l : List (Nat × List Kind × List Nat)) : Bad :=
  firstBad (l.map (s.operandBad c sl o))

/-- Every operand of an instruction. -/
def State.operandsBad (s : State) (c sl : Nat) (o : Outst) : Bad := s.someBad c sl o (operands o.word)

/-- Statistics of `rows` rows fit their descriptor (R94). -/
def statsBad (w : Word) (on : Bool) (bds : List (BitVec 128)) (lo rows : Nat) : Bad :=
  if on then need (decide (8 * rows ≤ bdExtent (bds.getD (bnum w lo) 0))) 0x02 else none

/-- Window bytes of a scale tensor with `rows` entries (R100). -/
def scaleBytes (rows : Nat) : Nat := upTo 64 (16 + 2 * rows)

/-- Is the header of a scale tensor still to be written by an outstanding quant.row, which always writes a passing one (R101)? -/
def Slot.headerDue (x : Slot) (d : BitVec 128) : Option Nat :=
  (x.outs.filter (fun o => opOf o.word = 0x28 ∧ bdBase (o.bds.getD (bnum o.word 36) 0) = bdBase d)).getLast?.map
    (fun o => bdRows (o.bds.getD (bnum o.word 44) 0))

/-- The check of a scale tensor that an instruction reads: `reads` of the rows the header declares must hold (R101). -/
def Slot.scaleBad (x : Slot) (d : BitVec 128) (reads : Nat → Bool) : Bad :=
  if bdBase d % 64 ≠ 0 then bad 0x01
  else if windowBytes < bdBase d + 16 then bad 0x02
  else
    match x.headerDue d with
    | some rows => need (reads rows) 0x03
    | none =>
      let h := scaleHdr x d
      if !scaleHdrOk h then bad 0x01
      else if !reads (fld h 79 64) then bad 0x03
      else need (decide (bdBase d + 16 + 2 * fld h 79 64 ≤ windowBytes)) 0x02

/-- Equal rows and elements. -/
def sameShape (a b : BitVec 128) : Bool := bdRows a == bdRows b && bdElems a == bdElems b

/-! ### One check for each instruction -/

/-- mvm.a (R146, R147). The model's choice where the manual names no outcome (notes/assumptions/92, 93): a further part of a set whose
last part has issued, and a plain group contribution to an expert handle or the reverse, are HANDLE faults. -/
def State.mvmABad (s : State) (c sl : Nat) (o : Outst) : Bad :=
  let w := o.word
  let bin := o.bds.getD (bnum w 44) 0
  let v := (s.chan c).handleView sl (fld w 20 19)
  let grp := bit w 54
  firstBad
    [s.operandsBad c sl o,
     need (decide (1024 * fld w 5 0 + fld w 30 21 + 1 ≤ bdElems bin)) 0x02,
     statsBad w (bit w 52) o.bds 6 1,
     if !bit w 55 then
       need (if grp then v.kind == .closed || v.kind == .group else v.kind == .closed) 0x05
     else
       firstBad
         [match s.dest c o.x.toNat (fld w 38 31) with | .refused a b => some (a, b) | _ => none,
          need (if grp then v.kind == .closed || (v.kind == .expert && v.grp && v.entry == o.x.toNat && !v.lastSeen)
                else v.kind == .closed) 0x05,
          (s.slot c sl).scaleBad (o.bds.getD (bnum w 44 + 1) 0) (fun r => r == bdRows bin)]]

/-- mvm.d (R114, R149). -/
def State.mvmDBad (s : State) (c sl : Nat) (o : Outst) : Bad :=
  let w := o.word
  let bin := o.bds.getD (bnum w 44) 0
  let bw := o.bds.getD (bnum w 40) 0
  let bout := o.bds.getD (bnum w 36) 0
  let m := bdRows bin
  let k := bdElems bin
  let n := if bit w 53 then bdRows bw else bdElems bw
  let kw := if bit w 53 then bdElems bw else bdRows bw
  firstBad
    [s.operandsBad c sl o,
     need (decide (m ≤ 256 ∧ k ≤ 16384 ∧ n ≤ 16384)) 0x01,
     need (pairOk (bdFmtCode bin) (bdFmtCode bw)) 0x01,
     need (kw == k) 0x03,
     need (!(bdFmt bw).isCodebook || decide (bdCb bw + cbBytes bw n ≤ 524288)) 0x02,
     if bit w 55 then
       firstBad [need (((s.chan c).handleView sl (fld w 31 30)).kind == .closed) 0x05, need (decide (m * n ≤ 16384)) 0x05]
     else need (bdRows bout == m && bdElems bout == n) 0x03,
     statsBad w (bit w 54) o.bds 32 m]

/-- quant.row (R150). -/
def State.quantBad (s : State) (c sl : Nat) (o : Outst) : Bad :=
  let w := o.word
  let src := o.bds.getD (bnum w 44) 0
  let look := o.bds.getD (bnum w 32) 0
  firstBad
    [s.operandsBad c sl o,
     need (!bit w 55 || bdRows src == 1) 0x03,
     need (sameShape src (o.bds.getD (bnum w 40) 0)) 0x03,
     need (decide (bdBase (o.bds.getD (bnum w 36) 0) + scaleBytes (bdRows src) ≤ windowBytes)) 0x02,
     need (!bit w 55 || decide (4 * fld w 31 24 + 4 ≤ bdExtent look)) 0x02]

/-- deq (R101, R151). For a handle of the expert form the scales' descriptors are ignored. A column-scale vector shorter than the
handle's columns is a SHAPE fault by the model's choice (notes/assumptions/94): no rule names its outcome. -/
def State.deqBad (s : State) (c sl : Nat) (o : Outst) : Bad :=
  let w := o.word
  let v := (s.chan c).handleView sl (fld w 30 29)
  let bout := o.bds.getD (bnum w 44) 0
  let own := v.kind == .expert
  firstBad
    [need (v.kind != .closed && (!own || !v.grp || v.lastSeen)) 0x05,
     s.someBad c sl o (if own then deqResults w else operands w),
     need (decide (v.rows ≤ bdRows bout ∧ 128 * fld w 12 5 + v.cols ≤ bdElems bout)) 0x02,
     if own then none
     else
       firstBad
         [(s.slot c sl).scaleBad (o.bds.getD (bnum w 40) 0) (fun r => decide (fld w 24 13 + v.rows ≤ r)),
          need (!bit w 54 || decide (v.cols ≤ bdElems (o.bds.getD (bnum w 36) 0))) 0x03],
     statsBad w (bit w 53) o.bds 25 v.rows]

/-- Rows and elements of the source of a reduction or emit, where it has one. -/
def State.sourceShape (s : State) (c sl : Nat) (o : Outst) (src : Nat) : Option (Nat × Nat) :=
  if bit o.word 55 then
    let v := (s.chan c).handleView sl ((handleOf o.word).getD 0)
    if v.retained && (v.kind != .expert || !v.grp || v.lastSeen) then some (v.rows, v.cols) else none
  else let d := o.bds.getD src 0; some (bdRows d, bdElems d)

/-- red.topk and red.mm (R92, R152, R153). Outputs with fewer rows or elements than the results are a SHAPE fault by the model's choice
(notes/assumptions/95), and so is norm.row's output of another shape: no rule names the cause. -/
def State.reduceBad (s : State) (c sl : Nat) (o : Outst) : Bad :=
  let w := o.word
  let n := if opOf w = 0x30 then fld w 33 30 else 2
  let fits (d : BitVec 128) (rows : Nat) : Bool := decide (rows ≤ bdRows d ∧ n ≤ bdElems d)
  match s.sourceShape c sl o (bnum w 44) with
  | none => bad 0x05
  | some (rows, _) =>
    firstBad [s.operandsBad c sl o, need (fits (o.bds.getD (bnum w 40) 0) rows && fits (o.bds.getD (bnum w 36) 0) rows) 0x03]

/-- norm.row (R153, notes/assumptions/95). -/
def State.normBad (s : State) (c sl : Nat) (o : Outst) : Bad :=
  let w := o.word
  let out := o.bds.getD (bnum w 40) 0
  match s.sourceShape c sl o (bnum w 44) with
  | none => bad 0x05
  | some (rows, cols) =>
    firstBad [s.operandsBad c sl o, need (bdRows out == rows && bdElems out == cols) 0x03, statsBad w (!bit w 55) o.bds 36 rows]

/-- Byte ranges of an operand's rows. -/
def rowSpans (d : BitVec 128) : List (Nat × Nat) :=
  (List.range (bdRows d)).map (fun i => (bdBase d + i * bdStride d, bdBase d + i * bdStride d + bdRowBytes d))

/-- Do two lists of byte ranges share a byte? -/
def meets (a b : List (Nat × Nat)) : Bool := a.any (fun x => b.any (fun y => decide (x.1 < y.2 ∧ y.1 < x.2)))

/-- Bytes of an act.tab table (R156). -/
def tableBytes : Nat := 2064

/-- May the output lie where it does against one input (R154): no byte shared, or exactly the range where `exact` allows it. -/
def overlapBad (out inp : BitVec 128) (exact : Bool) : Bad :=
  need (!meets (rowSpans out) (rowSpans inp) || (exact && rowSpans out == rowSpans inp)) 0x04

/-- act.tab (R154, R156). -/
def State.actBad (s : State) (c sl : Nat) (o : Outst) : Bad :=
  let w := o.word
  let out := o.bds.getD (bnum w 44) 0
  let a := o.bds.getD (bnum w 40) 0
  firstBad
    [s.operandsBad c sl o,
     need (decide (bdBase (o.bds.getD (bnum w 36) 0) + tableBytes ≤ 524288)) 0x02,
     need (sameShape out a) 0x03, overlapBad out a true]

/-- Is every operand that a vec.op reads an integer one (R155)? -/
def vecInt (w : Word) (bds : List (BitVec 128)) : Bool :=
  (bdFmt (bds.getD (bnum w 40) 0)).isInt && (decide (4 < fld w 30 26) || (bdFmt (bds.getD (bnum w 36) 0)).isInt)

/-- vec.op (R154, R155). -/
def State.vecBad (s : State) (c sl : Nat) (o : Outst) : Bad :=
  let w := o.word
  let out := o.bds.getD (bnum w 44) 0
  let a := o.bds.getD (bnum w 40) 0
  let b := o.bds.getD (bnum w 36) 0
  firstBad
    [s.operandsBad c sl o,
     need (!(floatOnly (fld w 30 26) && vecInt w o.bds)) 0x01,
     need (sameShape out a) 0x03,
     if fld w 30 26 ≤ 4 then need (if bit w 55 then bdRows b == 1 && bdElems b == bdElems a else sameShape a b) 0x03 else none,
     overlapBad out a true,
     if fld w 30 26 ≤ 4 then overlapBad out b false else none]

/-- ctx.ld and ctx.st (R157): a STATE access before any ctx.ld.r is NO_RECORD. -/
def State.moveBad (s : State) (c sl : Nat) (o : Outst) : Bad :=
  let w := o.word
  if opOf w = 0x40 ∧ bit w 55 = true then none
  else
    firstBad
      [need (s.slot c sl).recIssued 0x08, s.operandsBad c sl o,
       need (sameShape (o.bds.getD (bnum w 44) 0) (o.bds.getD (bnum w 40) 0)) 0x03]

/-- emit (R157): without a retained vector the shapes do not agree; an expert set consumed before its last part is a HANDLE fault (R147). -/
def State.emitBad (s : State) (c sl : Nat) (o : Outst) : Bad :=
  let out := o.bds.getD (bnum o.word 40) 0
  match s.sourceShape c sl o (bnum o.word 44) with
  | none => bad (if ((s.chan c).handleView sl ((handleOf o.word).getD 0)).kind = .expert then 0x05 else 0x03)
  | some (rows, cols) => firstBad [s.operandsBad c sl o, need (bdRows out == rows && bdElems out == cols) 0x03]

/-- Bytes of a buffer's rows, as a message carries them (R158). -/
def dataBytes (d : BitVec 128) : Nat := bdRows d * bdRowBytes d

/-- xch.snd (R158). -/
def State.sendBad (s : State) (c sl : Nat) (o : Outst) : Bad :=
  let w := o.word
  firstBad
    [s.operandsBad c sl o,
     need (decide (dataBytes (o.bds.getD (bnum w 44) 0) ≤ 16384)) 0x0D,
     if bit w 55 then (if (s.peer (fld w 43 38)).st = .open then none else some (stProtection, 0x12))
     else if s.fitted (fld w 37 35) then none else some (stUnsupported, 0x14)]

/-- spill: an open group. -/
def State.spillBad (s : State) (c sl : Nat) (o : Outst) : Bad :=
  let v := (s.chan c).handleView sl (fld o.word 47 46)
  need (v.kind == .group || (v.kind == .expert && v.grp)) 0x05

/-- resume: a handle with a record, itself closed. -/
def State.resumeBad (s : State) (c sl : Nat) (o : Outst) : Bad :=
  let v := (s.chan c).handleView sl (fld o.word 47 46)
  firstBad [need (!v.recs.isEmpty) 0x06, need (v.kind == .closed) 0x05]

/-! ### Issue -/

/-- The register whose value an instruction takes at issue. -/
def operandReg (w : Word) : Nat :=
  match opOf w with
  | 0x20 => if bit w 55 then fld w 43 39 else 0
  | 0x29 | 0x39 | 0x58 | 0x59 => fld w 35 31
  | _ => 0

/-- Issue an instruction that a unit runs: the checks at issue, then it is outstanding. -/
def State.issueUnit (s : State) (c sl op : Nat) (check : State → Nat → Nat → Outst → Bad) : State :=
  s.issue c sl op (fun t o =>
    let o := { o with x := t.reg c sl (operandReg o.word) }
    match check t c sl o with
    | some (st, cause) => t.endInf c sl st cause o.idx
    | none => t.addOut c sl o)

/-- MVM_A: outstanding; its request goes to the tiles when its dependencies allow. -/
def execMvmA (ch slot : Nat) (s : State) : Out := go (s.issueUnit ch slot 0x20 State.mvmABad)
/-- MVM_D. -/
def execMvmD (ch slot : Nat) (s : State) : Out := go (s.issueUnit ch slot 0x21 State.mvmDBad)
/-- QUANT_ROW. -/
def execQuantRow (ch slot : Nat) (s : State) : Out := go (s.issueUnit ch slot 0x28 State.quantBad)
/-- DEQ. -/
def execDeq (ch slot : Nat) (s : State) : Out := go (s.issueUnit ch slot 0x29 State.deqBad)
/-- RED_TOPK. -/
def execRedTopk (ch slot : Nat) (s : State) : Out := go (s.issueUnit ch slot 0x30 State.reduceBad)
/-- RED_MM. -/
def execRedMm (ch slot : Nat) (s : State) : Out := go (s.issueUnit ch slot 0x31 State.reduceBad)
/-- NORM_ROW. -/
def execNormRow (ch slot : Nat) (s : State) : Out := go (s.issueUnit ch slot 0x32 State.normBad)
/-- ACT_TAB. -/
def execActTab (ch slot : Nat) (s : State) : Out := go (s.issueUnit ch slot 0x38 State.actBad)
/-- VEC_OP. -/
def execVecOp (ch slot : Nat) (s : State) : Out := go (s.issueUnit ch slot 0x39 State.vecBad)

/-- Keep the memory errors an instruction will meet with it, for its start. -/
def State.withEcc (s : State) (c sl : Nat) (ecc : List Ecc) : State :=
  s.modSlot c sl (fun x => { x with outs := x.outs.mapIdx (fun i o => if i + 1 = x.outs.length then { o with ecc := ecc } else o) })

/-- CTX_LD: ctx.ld.r is noted at issue, so that later STATE accesses wait for it (R157). -/
def execCtxLd (ch slot : Nat) (ecc : List Ecc) (s : State) : Out :=
  match s.atIssue ch slot 0x40 with
  | none => go s
  | some w =>
    let n := (s.slot ch slot).outs.length
    let t := s.issueUnit ch slot 0x40 State.moveBad
    if (t.slot ch slot).outs.length = n + 1 then
      go ((t.withEcc ch slot ecc).modSlot ch slot (fun x => { x with recIssued := x.recIssued || bit w 55 }))
    else go t

/-- CTX_ST. -/
def execCtxSt (ch slot : Nat) (ecc : List Ecc) (s : State) : Out :=
  let n := (s.slot ch slot).outs.length
  let t := s.issueUnit ch slot 0x41 State.moveBad
  go (if (t.slot ch slot).outs.length = n + 1 then t.withEcc ch slot ecc else t)

/-- EMIT. -/
def execEmit (ch slot : Nat) (s : State) : Out := go (s.issueUnit ch slot 0x42 State.emitBad)
/-- XCH_SND. -/
def execXchSnd (ch slot : Nat) (s : State) : Out := go (s.issueUnit ch slot 0x48 State.sendBad)
/-- SPILL. -/
def execSpill (ch slot : Nat) (s : State) : Out := go (s.issueUnit ch slot 0x50 State.spillBad)
/-- RESUME. -/
def execResume (ch slot : Nat) (s : State) : Out := go (s.issueUnit ch slot 0x51 State.resumeBad)

end Sys2Proof.Machine
end

