-- ==== Sys2Proof/Machine/Deps.lean ====
section
/-! DEFINITION. What instructions read and write, which earlier instructions one depends on, and which unit runs it (R106, R138). -/

namespace Sys2Proof.Machine

/-! ### Footprints (R138) -/

/-- A range of bytes of one space: 0 the slot window, 1 the shared tables region, 2 the blob, 3 a port, 4 the emit stage. -/
structure Span where
  space : Nat
  lo : Nat
  hi : Nat
deriving DecidableEq, Repr

/-- Number of the space a descriptor names; the host and streamed weights are written by no instruction before the commit. -/
def spaceOf (d : BitVec 128) : Nat :=
  match bdKind d with | .work => 0 | .shared => 1 | .state => 2 | .stream => 5 | .host => 6

/-- The bytes of elements `off` to `off + n` of rows `r0` to `r0 + rows`. -/
def partSpans (d : BitVec 128) (r0 rows off n : Nat) : List Span :=
  let w := (bdFmt d).width
  (List.range rows).map (fun i =>
    let b := bdBase d + (r0 + i) * bdStride d
    { space := spaceOf d, lo := b + off * w / 8, hi := b + (off * w + n * w + 7) / 8 })

/-- Every row of an operand. -/
def fullSpans (d : BitVec 128) : List Span := partSpans d 0 (bdRows d) 0 (bdElems d)

/-- Consecutive bytes. -/
def bytesAt (space lo n : Nat) : List Span := if n = 0 then [] else [{ space := space, lo := lo, hi := lo + n }]

/-- Do two lists of ranges share a byte? -/
def overlap (a b : List Span) : Bool := a.any (fun x => b.any (fun y => x.space == y.space && decide (x.lo < y.hi ∧ y.lo < x.hi)))

/-- A descriptor as it stood at issue. -/
def Outst.bd (o : Outst) (n : Nat) : BitVec 128 := o.bds.getD n 0

/-- The view of handle `h` just before an instruction, in program order. -/
def Chan.viewBefore (k : Chan) (sl h seq : Nat) : HView :=
  let x := k.slot sl
  let v := { (x.handle h).view with recs := (k.recordsFor sl h).map (fun n => (k.record n).keep) }
  (x.outs.filter (fun o => decide (o.seq < seq))).foldl (fun v o => if handleOf o.word = some h then v.after o else v) v

/-- Rows and columns of an instruction's source: its handle's, or its buffer's. -/
def Chan.sourceDims (k : Chan) (sl : Nat) (o : Outst) : Nat × Nat :=
  match handleOf o.word with
  | some h => let v := k.viewBefore sl h o.seq; (v.rows, v.cols)
  | none => (bdRows (o.bd (bnum o.word 44)), bdElems (o.bd (bnum o.word 44)))

/-- The port an xch.snd or xch.rcv names, as a key: ports of this module's channels, then those of each peer's. -/
def portKey (c : Nat) (w : Word) : Nat :=
  if opOf w = 0x49 then 256 * c + fld w 34 27
  else (if bit w 55 then 2048 * (fld w 43 38 + 1) else 0) + 256 * fld w 37 35 + fld w 34 27

/-- Codebook bytes that an mvm.d reads. -/
def codebookSpans (w : Word) (d : BitVec 128) : List Span :=
  if (bdFmt d).isCodebook then bytesAt 1 (bdCb d) (cbBytes d (if bit w 53 then bdRows d else bdElems d)) else []

/-- The bytes an instruction reads. -/
def Chan.readsOf (k : Chan) (c sl : Nat) (o : Outst) : List Span :=
  let w := o.word
  let fh := bit w 55
  match opOf w with
  | 0x0D => bytesAt 0 o.addr 8
  | 0x20 => partSpans (o.bd (bnum w 44)) 0 1 (1024 * fld w 5 0) (fld w 30 21 + 1) ++
      if fh then bytesAt 0 (bdBase (o.bd (bnum w 44 + 1))) 18 ++ bytesAt 1 (8 * o.x.toNat) 8 else []
  | 0x21 => fullSpans (o.bd (bnum w 44)) ++ fullSpans (o.bd (bnum w 40)) ++ codebookSpans w (o.bd (bnum w 40))
  | 0x28 => fullSpans (o.bd (bnum w 44)) ++ if fh then bytesAt 0 (bdBase (o.bd (bnum w 32)) + 4 * fld w 31 24) 4 else []
  | 0x29 =>
    let d := k.sourceDims sl o
    let v := k.viewBefore sl (fld w 30 29) o.seq
    if v.kind = .expert then []
    else bytesAt 0 (bdBase (o.bd (bnum w 40))) 16 ++ bytesAt 0 (bdBase (o.bd (bnum w 40)) + 16 + 2 * fld w 24 13) (2 * d.1) ++
      if bit w 54 then partSpans (o.bd (bnum w 36)) 0 1 0 d.2 else []
  | 0x30 | 0x31 => if fh then [] else fullSpans (o.bd (bnum w 44))
  | 0x32 => if fh then [] else fullSpans (o.bd (bnum w 44)) ++ bytesAt 0 (bdBase (o.bd (bnum w 36))) (8 * bdRows (o.bd (bnum w 44)))
  | 0x38 => fullSpans (o.bd (bnum w 40)) ++ bytesAt 1 (bdBase (o.bd (bnum w 36))) tableBytes
  | 0x39 => fullSpans (o.bd (bnum w 40)) ++ if fld w 30 26 ≤ 4 then fullSpans (o.bd (bnum w 36)) else []
  | 0x40 => if fh then [] else fullSpans (o.bd (bnum w 44))
  | 0x41 => fullSpans (o.bd (bnum w 44))
  | 0x42 => if fh then [] else fullSpans (o.bd (bnum w 44))
  | 0x48 => fullSpans (o.bd (bnum w 44))
  | 0x49 => bytesAt 3 (portKey c w) 1
  | _ => []

/-- The statistics of a handle's mvm.a that the instruction consuming it writes (R94). -/
def Chan.handleStats (k : Chan) (sl : Nat) (o : Outst) : List Span :=
  if !consumes o.word then []
  else
    let h := (handleOf o.word).getD 0
    let named := (k.slot sl).outs.filter (fun e => opOf e.word = 0x20 ∧ bit e.word 52 = true ∧ handleOf e.word = some h ∧ e.seq < o.seq)
    named.flatMap (fun e => bytesAt 0 (bdBase (e.bd (bnum e.word 6))) 8) ++
    (match ((k.slot sl).handle h).bstat with | some d => bytesAt 0 (bdBase d) 8 | none => [])

/-- The bytes an instruction writes. -/
def Chan.writesOf (k : Chan) (c sl : Nat) (o : Outst) : List Span :=
  let w := o.word
  let fh := bit w 55
  k.handleStats sl o ++
  match opOf w with
  | 0x0E => bytesAt 0 o.addr 8
  | 0x21 => (if fh then [] else fullSpans (o.bd (bnum w 36))) ++
      if bit w 54 then bytesAt 0 (bdBase (o.bd (bnum w 32))) (8 * bdRows (o.bd (bnum w 44))) else []
  | 0x28 => fullSpans (o.bd (bnum w 40)) ++ bytesAt 0 (bdBase (o.bd (bnum w 36))) (scaleBytes (bdRows (o.bd (bnum w 44)))) ++
      if fh then bytesAt 0 (bdBase (o.bd (bnum w 32)) + 4 * fld w 31 24) 4 else []
  | 0x29 =>
    let d := k.sourceDims sl o
    partSpans (o.bd (bnum w 44)) 0 d.1 (128 * fld w 12 5) d.2 ++ if bit w 53 then bytesAt 0 (bdBase (o.bd (bnum w 25))) (8 * d.1) else []
  | 0x30 | 0x31 =>
    let n := if opOf w = 0x30 then fld w 33 30 else 2
    let r := (k.sourceDims sl o).1
    partSpans (o.bd (bnum w 40)) 0 r 0 n ++ partSpans (o.bd (bnum w 36)) 0 r 0 n
  | 0x32 => fullSpans (o.bd (bnum w 40))
  | 0x38 | 0x39 => fullSpans (o.bd (bnum w 44))
  | 0x40 => if fh then [] else fullSpans (o.bd (bnum w 40))
  | 0x41 => fullSpans (o.bd (bnum w 40))
  | 0x42 => bytesAt 4 0 1
  | 0x48 => bytesAt 3 (portKey c w) 1
  | 0x49 => fullSpans (o.bd (bnum w 44)) ++ bytesAt 3 (portKey c w) 1
  | _ => []

/-! ### Units (R138) -/

/-- The unit that runs an instruction: engine, quantisation unit, fused output units, vector unit, movement engines, exchange; 0 for none of these. -/
def unitOf (w : Word) : Nat :=
  match opOf w with
  | 0x21 => 1
  | 0x28 | 0x29 => 2
  | 0x30 | 0x31 | 0x32 => 3
  | 0x38 | 0x39 => 4
  | 0x40 | 0x41 | 0x42 => 5
  | 0x48 | 0x49 => 6
  | _ => 0

/-- Does the unit run one such instruction at a time? The quantisation unit codes rows one instruction after another, and one vector unit serves all slots (R108, R140). -/
def exclusive (w : Word) : Bool := opOf w == 0x28 || opOf w == 0x38 || opOf w == 0x39

/-- Memory-writing or exchange instructions, which a sig waits for (R159). -/
def beforeSig (w : Word) : Bool :=
  match opOf w with
  | 0x0D | 0x20 | 0x50 | 0x51 | 0x58 | 0x59 | 0x5A => false
  | _ => true

/-! ### Dependencies within a slot (R138, R106) -/

/-- The lookback row that an instruction started coding, if it is still kept. -/
def Slot.prowOf (x : Slot) (seq : Nat) : Option PRow := x.prows.find? (fun r => r.seq == seq)

/-- A quant.row in lookback mode streams from the act.tab or vec.op issued just before it, once that runs. -/
def streams (e o : Outst) : Bool :=
  opOf o.word == 0x28 && bit o.word 55 && (opOf e.word == 0x38 || opOf e.word == 0x39) && e.started && e.idx + 1 == o.idx

/-- Does an instruction depend on an earlier one of its slot? -/
def Chan.dependsOn (k : Chan) (c sl : Nat) (o e : Outst) : Bool :=
  let ro := k.readsOf c sl o
  let wo := k.writesOf c sl o
  let re := k.readsOf c sl e
  let we := k.writesOf c sl e
  let groupPair := opOf o.word == 0x20 && opOf e.word == 0x20 && bit o.word 54 && bit e.word 54 && ((k.slot sl).handle (fld o.word 20 19)).kind != .closed
  let pendingCodes := opOf o.word == 0x20 && opOf e.word == 0x28 && e.started && ((k.slot sl).prowOf e.seq).isSome
  let bytes := overlap wo (re ++ we) || overlap ro we
  (bytes && !streams e o && !pendingCodes) ||
  ((handleOf o.word).isSome && handleOf o.word == handleOf e.word && !groupPair) ||
  (unitOf o.word != 0 && unitOf o.word == unitOf e.word) ||
  ((opOf o.word == 0x58 || opOf o.word == 0x5A) && beforeSig e.word)

/-- Have all the earlier instructions of the slot on which an instruction depends completed? -/
def Chan.depsMet (k : Chan) (c sl : Nat) (o : Outst) : Bool :=
  (k.slot sl).outs.all (fun e => decide (o.seq ≤ e.seq) || !k.dependsOn c sl o e)

/-- Does an instruction read the shared tables region? -/
def Chan.readsShared (k : Chan) (c sl : Nat) (o : Outst) : Bool := (k.readsOf c sl o).any (fun x => x.space == 1)

/-- May a unit start an instruction as far as its slot is concerned: not started, dependencies met, no shared table being copied under it (R187)? -/
def Chan.startable (k : Chan) (c sl : Nat) (o : Outst) : Bool :=
  !o.started && !o.setWait && k.depsMet c sl o && !(k.arr.copying && k.readsShared c sl o)

/-- Could a unit start an instruction now: startable, and an xch.rcv has its message, without which it does not hold the exchange unit (R158)? -/
def Chan.couldStart (k : Chan) (c sl : Nat) (o : Outst) : Bool := k.startable c sl o && (opOf o.word != 0x49 || o.ready)

/-- Every outstanding instruction of a channel with its slot. -/
def Chan.allOuts (k : Chan) : List (Nat × Outst) := k.seqr.slots.flatMap (fun e => e.2.outs.map (fun o => (e.1, o)))

/-- Is an instruction next at its unit: no earlier-issued one could start there instead, and the unit is free? -/
def Chan.unitFree (k : Chan) (c : Nat) (o : Outst) : Bool :=
  let u := unitOf o.word
  u == 0 || k.allOuts.all (fun e =>
    unitOf e.2.word != u ||
    (!(e.2.started && exclusive o.word && exclusive e.2.word) &&
     (decide (o.seq ≤ e.2.seq) || !k.couldStart c e.1 e.2)))

end Sys2Proof.Machine
end

