-- ==== Sys2Proof/Machine/Units.lean ====
section
/-! DEFINITION. What the units compute: row statistics (R93, R94), reductions (R89 to R91), normalisation (R153), vector and table
operations (R154 to R156), the digital engine (R114 to R117), quantisation of a row (R97 to R104). Pure functions of rows. -/

namespace Sys2Proof.Machine

/-! ### Row statistics (R93, R94) -/

/-- A maximum and a sum of exponentials. -/
structure Stat where
  m : BitVec 32 := fninf
  e : BitVec 32 := 0
deriving DecidableEq, Repr

/-- Visit one element; the flag says that one that is not NaN has been seen. -/
def statStep (a : Stat × Bool) (x : BitVec 32) : Stat × Bool :=
  if isNaN x then a
  else if (v32 a.1.m).lt (v32 x) then ({ m := x, e := fadd (fmul a.1.e (fexpDiff a.1.m x)) fone }, true)
  else ({ a.1 with e := fadd a.1.e (fexpDiff x a.1.m) }, true)

/-- Statistics of a row: the canonical NaN and 0 where every element is NaN. -/
def rowStats (row : List (BitVec 32)) : Stat :=
  let r := row.foldl statStep ({}, false)
  if r.2 then r.1 else { m := fnan, e := 0 }

/-- Combine partial statistics in the order produced. DEDUCED (notes/assumptions/111): R93 skips an element that is NaN, so a part of nothing but
NaN adds nothing, and the other part's statistics stand. -/
def Stat.combine (a b : Stat) : Stat :=
  if isNaN a.m then b
  else if isNaN b.m then a
  else
    let m := if (v32 a.m).lt (v32 b.m) then b.m else a.m
    { m := m, e := fadd (fmul a.e (fexpDiff a.m m)) (fmul b.e (fexpDiff b.m m)) }

/-- The bytes of statistics. -/
def Stat.bytes (a : Stat) : List Byte := leBytes 4 a.m.toNat ++ leBytes 4 a.e.toNat

/-! ### Reductions (R89 to R91) -/

/-- Does candidate `a` come before `b`: larger value, then lower index? -/
def beats (a b : BitVec 32 × Nat) : Bool :=
  (v32 b.1).lt (v32 a.1) || (!(v32 a.1).lt (v32 b.1) && decide (a.2 ≤ b.2))

/-- The candidates of a row that are not NaN, with their indices. -/
def candidates (row : List (BitVec 32)) : List (BitVec 32 × Nat) := row.zipIdx.filter (fun e => !isNaN e.1)

/-- The k largest with their indices, filled up with the canonical NaN and −1 (R90). -/
def topk (k : Nat) (row : List (BitVec 32)) : List (BitVec 32 × Int) :=
  let l := ((sortBy beats (candidates row)).take k).map (fun e => (e.1, (e.2 : Int)))
  l ++ List.replicate (k - l.length) (fnan, -1)

/-- Maximum then minimum with their indices (R91). -/
def maxMin (row : List (BitVec 32)) : List (BitVec 32 × Int) :=
  match candidates row with
  | [] => [(fnan, 0), (fnan, 0)]
  | c :: cs =>
    let hi := cs.foldl (fun a b => if (v32 a.1).lt (v32 b.1) then b else a) c
    let lo := cs.foldl (fun a b => if (v32 b.1).lt (v32 a.1) then b else a) c
    [(hi.1, hi.2), (lo.1, lo.2)]

/-- exp(x − m) ÷ e for each element (R153). -/
def normalise (st : Stat) (row : List (BitVec 32)) : List (BitVec 32) :=
  row.map (fun x => if isNaN x || isNaN st.m then fnan else fdiv (fexpDiff x st.m) st.e)

/-! ### Conversions of rows -/

/-- Widen raw elements to FP32 (R155): exact for every accepted format. -/
def widen (f : Fmt) (b : Nat) : BitVec 32 := if f.isFloat then BitVec.ofNat 32 (convert f .fp32 b).1 else f32 (.ofInt (signed f.width b))

/-- Convert FP32 values to a format: codes and flags together (R34, R36). -/
def narrow (f : Fmt) (row : List (BitVec 32)) : List Nat × Flags :=
  let l := row.map (fun x => convert .fp32 f x.toNat)
  (l.map Prod.fst, flagsOf l)

/-- Convert rows of FP32 values. -/
def narrowRows (f : Fmt) (rows : List (List (BitVec 32))) : List (List Nat) × Flags :=
  let l := rows.map (narrow f)
  (l.map Prod.fst, l.foldl (fun a e => a.or e.2) {})

/-- Convert rows of raw elements from one format to another (R34). -/
def convertRows (a b : Fmt) (rows : List (List Nat)) : List (List Nat) × Flags :=
  let l := rows.map (fun r => let c := r.map (convert a b); (c.map Prod.fst, flagsOf c))
  (l.map Prod.fst, l.foldl (fun x e => x.or e.2) {})

/-! ### Vector operations (R155) -/

/-- A NaN operand gives the canonical NaN. -/
def quiet (x : BitVec 32) : BitVec 32 := if isNaN x then fnan else x

/-- The larger operand; equal operands of different encodings leave the choice open. -/
def fmax (a b : BitVec 32) : BitVec 32 :=
  if isNaN a || isNaN b then fnan
  else if (v32 a).lt (v32 b) then b else if (v32 b).lt (v32 a) then a else if Config.pickFirst a b then a else b

/-- The smaller operand. -/
def fmin (a b : BitVec 32) : BitVec 32 :=
  if isNaN a || isNaN b then fnan
  else if (v32 a).lt (v32 b) then a else if (v32 b).lt (v32 a) then b else if Config.pickFirst a b then a else b

/-- One element of a floating-point vec.op other than rnorm. -/
def vecFloat (op : Nat) (a b s : BitVec 32) : BitVec 32 :=
  match op with
  | 0 => fadd a b
  | 1 => fsub a b
  | 2 => fmul a b
  | 3 => fmax a b
  | 4 => fmin a b
  | 5 => fadd a s
  | 6 => fmul a s
  | 8 => if isNaN a then fnan else setFld a 31 31 0
  | _ => quiet a

/-- rnorm: a × (1 ÷ √(mean over the row of a² + s)), the mean summed in ascending index. -/
def rnorm (s : BitVec 32) (row : List (BitVec 32)) : List (BitVec 32) :=
  let sum := row.foldl (fun t a => fadd t (fmul a a)) 0
  let r := fdiv fone (fsqrt (fadd (fdiv sum (f32 (.ofInt row.length))) s))
  row.map (fun a => fmul a r)

/-- One element of an integer vec.op, exact. -/
def vecInteger (op : Nat) (a b s : Int) : Int :=
  match op with
  | 0 => a + b
  | 1 => a - b
  | 3 => max a b
  | 4 => min a b
  | 5 => a + s
  | 8 => a.natAbs
  | _ => a

/-- An exact result held as INT32: one that INT32 cannot hold is a free value. -/
def int32 (i : Int) : Int :=
  if -(2 ^ 31 : Int) ≤ i ∧ i < 2 ^ 31 then i else (Config.int32Over i).toInt

/-- An INT32 value to a destination format: rule In, or rule Ni to FP32 and then R34 (R117, R155). -/
def fromInt (f : Fmt) (i : Int) : Nat × Flags :=
  if f.isInt then intToInt f i else convert .fp32 f (f32 (.ofInt i)).toNat

/-! ### The table activation (R156) -/

/-- A table read from its 2,064 bytes: lo, hi and the slope and intercept of each segment. -/
structure ActTable where
  lo : BitVec 32
  hi : BitVec 32
  seg : List (BitVec 32 × BitVec 32)

/-- Read a table. -/
def readTable (l : List Byte) : ActTable :=
  let w (i : Nat) : BitVec 32 := BitVec.ofNat 32 (leNat ((l.drop i).take 4))
  { lo := w 0, hi := w 4, seg := (List.range 256).map (fun i => (w (16 + 8 * i), w (20 + 8 * i))) }

/-- A table is valid: lo and hi finite, lo below hi. -/
def ActTable.ok (t : ActTable) : Bool :=
  match v32 t.lo, v32 t.hi with
  | .fin _ _ _, .fin _ _ _ => (v32 t.lo).lt (v32 t.hi)
  | _, _ => false

/-- The segment of an element: floor((x − lo) × 256 ÷ (hi − lo)), exactly, limited to 0..255. -/
def ActTable.segment (t : ActTable) (x : BitVec 32) : Nat :=
  match (((v32 x).sub (v32 t.lo)).mul (Val.ofInt 256)).div ((v32 t.hi).sub (v32 t.lo)) with
  | .nan => 0
  | .inf neg => if neg then 0 else 255
  | .fin neg n d => if neg then 0 else min 255 (n / d)

/-- a_s × x + b_s with one rounding; a product of zero and an infinity counts as 0. -/
def ActTable.apply (t : ActTable) (x : BitVec 32) : BitVec 32 :=
  if isNaN x then fnan
  else
    let ab := t.seg.getD (t.segment x) (0, 0)
    let p := match v32 ab.1, v32 x with
      | .fin _ 0 _, .inf _ => Val.zero
      | .inf _, .fin _ 0 _ => Val.zero
      | a, b => a.mul b
    f32 (p.add (v32 ab.2))

/-! ### The digital engine (R38, R113 to R117) -/

/-- The format a weight operand multiplies in: codebooks decode to BF16. -/
def weightFmt (f : Fmt) : Fmt := if f.isCodebook then .bf16 else f

/-- The operating format of a pair: the wider one (R38). -/
def operating (a b : Fmt) : Fmt := let b := weightFmt b; if b.width ≤ a.width then a else b

/-- Elements of K in a step, over 32: m of R113, by width. -/
def stepM (f : Fmt) : Nat := match f.width with | 8 => 2 | 4 => 4 | _ => 1

/-- Cycles of a step: q of R113. -/
def stepQ (f : Fmt) : Nat := if f.width = 32 then 4 else 1

/-- Exact sum of products of one step. -/
def stepSum (xs ws : List Val) : Val := (xs.zip ws).foldl (fun t e => t.add (e.1.mul e.2)) Val.zero

/-- A floating-point accumulator over the steps of K elements each `n` long, ascending (R116). -/
def engineDot (n : Nat) (xs ws : List Val) : BitVec 32 :=
  (List.range ((xs.length + n - 1) / n)).foldl (fun a i =>
    f32 ((v32 a).add (stepSum ((xs.drop (n * i)).take n) ((ws.drop (n * i)).take n)))) 0

/-- An integer accumulator. -/
def intDot (xs ws : List Int) : Int := (xs.zip ws).foldl (fun t e => t + e.1 * e.2) 0

/-- The columns of a weight tensor: its rows with wt, else its rows transposed. -/
def weightCols (wt : Bool) (n : Nat) (rows : List (List Nat)) : List (List Nat) :=
  if wt then rows else (List.range n).map (fun j => rows.map (fun r => r.getD j 0))

/-- Codebook base of column `j` (R26). -/
def cbOf (d : BitVec 128) (j : Nat) : Nat := bdCb d + if bit d 119 then j / 64 * (if bdFmt d = .cb256 then 512 else 64) else 0

/-- Time of an mvm.d in ns (R115), and of it the time that waits for weights. -/
def engineNs (f : Fmt) (m k n bits : Nat) : Nat × Nat :=
  let steps := ((n + 63) / 64) * ((k + 32 * stepM f - 1) / (32 * stepM f))
  let l := max 1 (stepM f * bits / 2)
  (steps * max (m * stepQ f) l + 24, steps * (l - m * stepQ f))

/-- Decode time of codebook weights in ns (R110): the first table's load, then 256 indices each ns, or 32 on the table path. -/
def decodeNs (light : Bool) (f : Fmt) (k n : Nat) : Nat :=
  match f with
  | .cb16 => 1 + (k * n + 255) / 256
  | .cb256 => 8 + if light then (k * n + 31) / 32 else (k * n + 255) / 256
  | _ => 0

/-! ### Quantising a row (R97 to R104) -/

/-- A coded row: scale bits, codes, clipped and NaN counts, largest code magnitude, flags. -/
structure QRow where
  scale : BitVec 16 := 0
  codes : List Int := []
  clipped : Nat := 0
  nans : Nat := 0
  largest : Nat := 0
  flags : Flags := {}
deriving DecidableEq, Repr

/-- Code a row at a scale. -/
def codeRow (f : Fmt) (signedCodes : Bool) (qmax scale : Nat) (row : List Val) : QRow :=
  let l := row.map (codeElem signedCodes qmax (decodeFloat f scale))
  { scale := BitVec.ofNat 16 scale, codes := l.map Coded.code, clipped := (l.filter Coded.clipped).length
    nans := (l.filter Coded.isNan).length, largest := l.foldl (fun m x => max m x.code.natAbs) 0
    flags := l.foldl (fun a x => a.or x.flags) {} }

/-- Quantise a row in measured mode (R98, R99). -/
def measureRow (f : Fmt) (signedCodes : Bool) (qmax : Nat) (row : List Val) : QRow :=
  let s := measuredScale f signedCodes qmax row
  let q := codeRow f signedCodes qmax s.1 row
  { q with flags := q.flags.or s.2 }

end Sys2Proof.Machine
end

