-- ==== Sys2Proof/Machine/Effects.lean ====
section
/-! DEFINITION. What instructions write when they complete: words of the window, rows of vector, reduction, quantisation and engine
operations (R143, R149 to R157). -/

namespace Sys2Proof.Machine

/-! ### Writing parts of rows -/

/-- Write elements from element `off` of row `r` on, keeping what shares a byte with them; a part that ends the row leaves zero padding (R29). -/
def Slot.putElems (x : Slot) (d : BitVec 128) (r off : Nat) (l : List Nat) : Slot :=
  let f := bdFmt d
  let lo := off * f.width
  let a := bdBase d + r * bdStride d + lo / 8
  let n := (lo % 8 + l.length * f.width + 7) / 8
  let old := leNat (sgetList 0 x.win a n)
  let pad := if off + l.length = bdElems d then 8 * n - lo % 8 else l.length * f.width
  let new := old % 2 ^ (lo % 8) + packNat f.width l * 2 ^ (lo % 8) + old / 2 ^ (lo % 8 + pad) * 2 ^ (lo % 8 + pad)
  if l.isEmpty then x else x.writeBytes a (leBytes n new)

/-- Write one list of elements into each row from element `off` on. -/
def Slot.putRows (x : Slot) (d : BitVec 128) (off : Nat) (rows : List (List Nat)) : Slot :=
  rows.zipIdx.foldl (fun x (e : List Nat × Nat) => x.putElems d e.2 off e.1) x

/-- Write the statistics of rows: `parts` combines them with those already there (R94). -/
def Slot.putStats (x : Slot) (d : BitVec 128) (parts : Bool) (l : List Stat) : Slot :=
  l.zipIdx.foldl (fun x (e : Stat × Nat) =>
    let a := bdBase d + 8 * e.2
    let w (o : Nat) : BitVec 32 := BitVec.ofNat 32 (leNat (sgetList 0 x.win (a + o) 4))
    x.writeBytes a ((if parts then ({ m := w 0, e := w 4 : Stat }).combine e.1 else e.1).bytes)) x

/-- Take flags, and change the slot. -/
def State.flags (s : State) (c sl : Nat) (f : Flags) : State := s.modSlot c sl (fun x => x.flag f)

/-! ### act.tab and vec.op (R154 to R156) -/

/-- The rows that an act.tab gives, as raw elements, with their flags. -/
def actRows (k : Chan) (x : Slot) (o : Outst) : List (List Nat) × Flags :=
  let a := o.bd (bnum o.word 40)
  let t := readTable (sgetList 0 k.tables.shared (bdBase (o.bd (bnum o.word 36))) tableBytes)
  narrowRows (bdFmt (o.bd (bnum o.word 44))) ((rowsIn x.win a).map (fun r => r.map (fun v => t.apply (widen (bdFmt a) v))))

/-- Row `i` of the second operand: the only row with bcast. -/
def secondRow (w : Word) (rows : List (List Nat)) (i : Nat) : List Nat := rows.getD (if bit w 55 then 0 else i) []

/-- The rows that a vec.op gives. -/
def vecRows (x : Slot) (o : Outst) : List (List Nat) × Flags :=
  let w := o.word
  let op := fld w 30 26
  let out := bdFmt (o.bd (bnum w 44))
  let fa := bdFmt (o.bd (bnum w 40))
  let fb := bdFmt (o.bd (bnum w 36))
  let ra := rowsIn x.win (o.bd (bnum w 40))
  let rb := if op ≤ 4 then rowsIn x.win (o.bd (bnum w 36)) else []
  if vecInt w o.bds then
    let sc := signed 32 o.x.toNat
    let l := ra.zipIdx.map (fun e =>
      let b := secondRow w rb e.2
      e.1.zipIdx.map (fun v => fromInt out (int32 (vecInteger op (signed fa.width v.1) (signed fb.width (b.getD v.2 0)) sc))))
    (l.map (fun r => r.map Prod.fst), l.foldl (fun a r => a.or (flagsOf r)) {})
  else
    let sc : BitVec 32 := BitVec.ofNat 32 (o.x.toNat % 2 ^ 32)
    narrowRows out (ra.zipIdx.map (fun e =>
      let a := e.1.map (widen fa)
      if op = 9 then rnorm sc a
      else
        let b := secondRow w rb e.2
        a.zipIdx.map (fun v => vecFloat op v.1 (widen fb (b.getD v.2 0)) sc)))

/-- The slot after an act.tab or vec.op. -/
def vectorDone (k : Chan) (x : Slot) (o : Outst) : Slot :=
  let r := if opOf o.word = 0x38 then actRows k x o else vecRows x o
  (x.putRows (o.bd (bnum o.word 44)) 0 r.1).flag r.2

/-! ### The digital engine (R38, R114 to R117) -/

/-- The tables in force when an mvm.d started. -/
def State.tablesAt (s : State) (c gen : Nat) : Tables :=
  if gen = (sget {} s.store.live.chans c).gen then (s.chan c).tables else if gen = 0 then sget {} s.store.tab0 c else sget {} s.store.tab1 c

/-- M, K and N of an mvm.d. -/
def dims (o : Outst) : Nat × Nat × Nat :=
  let bw := o.bd (bnum o.word 40)
  (bdRows (o.bd (bnum o.word 44)), bdElems (o.bd (bnum o.word 44)), if bit o.word 53 then bdRows bw else bdElems bw)

/-- The operating format of an mvm.d. -/
def opFmt (o : Outst) : Fmt := operating (bdFmt (o.bd (bnum o.word 44))) (bdFmt (o.bd (bnum o.word 40)))

/-- The weight columns of an mvm.d, as raw elements. -/
def engineCols (k : Chan) (x : Slot) (o : Outst) : List (List Nat) :=
  weightCols (bit o.word 53) (dims o).2.2 (readRows k x (o.bd (bnum o.word 40)))

/-- The integer accumulators of an mvm.d of integer operands. -/
def engineInts (k : Chan) (x : Slot) (o : Outst) : List (List Int) :=
  let fi := bdFmt (o.bd (bnum o.word 44))
  let fw := bdFmt (o.bd (bnum o.word 40))
  let cols := (engineCols k x o).map (fun l => l.map (signed fw.width))
  (rowsIn x.win (o.bd (bnum o.word 44))).map (fun r => cols.map (fun l => intDot (r.map (signed fi.width)) l))

/-- The floating-point accumulators of an mvm.d. -/
def engineFloats (k : Chan) (x : Slot) (o : Outst) : List (List (BitVec 32)) :=
  let bw := o.bd (bnum o.word 40)
  let cols := (engineCols k x o).zipIdx.map (fun e => valsOf k (bdFmt bw) (cbOf bw e.2) e.1)
  let n := 32 * stepM (opFmt o)
  (rowsIn x.win (o.bd (bnum o.word 44))).map (fun r => cols.map (fun l => engineDot n (r.map (decodeVal (bdFmt (o.bd (bnum o.word 44))))) l))

/-- Does the engine multiply integers? -/
def engineInt (o : Outst) : Bool := (bdFmt (o.bd (bnum o.word 44))).isInt

/-- An mvm.d's accumulators as FP32, INT32 ones by rule Ni. -/
def fpOf (ints : Option (List (List Int))) (rows : List (List (BitVec 32))) : List (List (BitVec 32)) :=
  match ints with | some l => l.map (fun r => r.map (fun i => f32 (.ofInt i))) | none => rows

/-- Write an mvm.d's output, or hold it; statistics follow (R117, R149). -/
def engineDone (k : Chan) (x : Slot) (o : Outst) : Slot :=
  let w := o.word
  let ints := if engineInt o then some (engineInts k x o) else none
  let rows := fpOf ints (if engineInt o then [] else engineFloats k x o)
  let x :=
    if bit w 55 then
      x.setHandle (fld w 31 30) { x.handle (fld w 31 30) with
        kind := .engine, rows := some rows, ints := ints, retained := some rows, inUse := true }
    else
      let out := o.bd (bnum w 36)
      let l : List (List (Nat × Flags)) := match ints with
        | some l => l.map (fun r => r.map (fromInt (bdFmt out)))
        | none => rows.map (fun r => r.map (fun v => convert .fp32 (bdFmt out) v.toNat))
      (x.putRows out 0 (l.map (fun r => r.map Prod.fst))).flag (l.foldl (fun a r => a.or (flagsOf r)) {})
  if bit w 54 then x.putStats (o.bd (bnum w 32)) false (rows.map rowStats) else x

/-! ### quant.row (R97 to R107, R150) -/

/-- Code range, formats and row of a quant.row. -/
structure QSet where
  int4 : Bool
  sgn : Bool
  w : Nat
  qmax : Nat
  sf : Fmt
deriving DecidableEq, Repr

/-- What a quant.row's word and descriptors say. -/
def qset (o : Outst) : QSet :=
  let int4 := bdFmtCode (o.bd (bnum o.word 40)) == 8
  let sgn := bit o.word 54
  let w := fld o.word 21 18
  { int4 := int4, sgn := sgn, w := w, qmax := qmaxOf int4 sgn w, sf := bdFmt (o.bd (bnum o.word 36)) }

/-- Raw code elements. -/
def codesRaw (q : QSet) (l : List Int) : List Nat := l.map (code (if q.int4 then 4 else 8))

/-- Write a scale tensor: header, entries, padding (R100). -/
def Slot.putScales (x : Slot) (d : BitVec 128) (q : QSet) (clipped replays : Nat) (scales : List (BitVec 16)) : Slot :=
  let h := mkScaleHdr clipped replays scales.length q.qmax q.w q.sgn q.int4 (q.sf == .fp16)
  let l := leBytes 16 h ++ scales.flatMap (fun v => leBytes 2 v.toNat)
  x.writeBytes (bdBase d) (l ++ List.replicate (scaleBytes scales.length - l.length) 0)

/-- A row's final codes, scale and entry are written; the slot gathers its clipped count and flags (R99, R111). -/
def Slot.quantised (x : Slot) (o : Outst) (rows : List QRow) (replays : Nat) : Slot :=
  let q := qset o
  let clipped := (rows.map QRow.clipped).sum
  let x := x.putRows (o.bd (bnum o.word 40)) 0 (rows.map (fun r => codesRaw q r.codes))
  let x := x.putScales (o.bd (bnum o.word 36)) q clipped replays (rows.map QRow.scale)
  { x.flag (rows.foldl (fun a r => a.or r.flags) {}) with clipped := x.clipped + clipped, replays := x.replays + replays }

/-- The rows of a quant.row, coded at their measured scales. -/
def measuredRows (x : Slot) (o : Outst) : List QRow :=
  let q := qset o
  let src := o.bd (bnum o.word 44)
  (rowsIn x.win src).map (fun r => measureRow q.sf q.sgn q.qmax (r.map (decodeVal (bdFmt src))))

/-- Address of a lookback entry. -/
def lookAddr (o : Outst) : Nat := bdBase (o.bd (bnum o.word 32)) + 4 * fld o.word 31 24

/-- Write the measured scale into the lookback entry (R107). -/
def Slot.putLook (x : Slot) (o : Outst) (scale : BitVec 16) : Slot :=
  x.writeBytes (lookAddr o) (leBytes 4 (f32 (decodeFloat (qset o).sf scale.toNat)).toNat)

/-! ### Reductions and normalisation (R89 to R93, R152, R153) -/

/-- Source rows of a reduction or emit, as FP32. -/
def sourceRows (x : Slot) (o : Outst) : List (List (BitVec 32)) :=
  match handleOf o.word with
  | some h => ((x.handle h).retained).getD []
  | none =>
    let d := o.bd (bnum o.word 44)
    (rowsIn x.win d).map (fun r => r.map (widen (bdFmt d)))

/-- The values and indices a reduction finds in each row. -/
def reduceRows (w : Word) (rows : List (List (BitVec 32))) : List (List (BitVec 32 × Int)) :=
  rows.map (fun r => if opOf w = 0x30 then topk (fld w 33 30) r else maxMin r)

/-- Write a reduction's values and indices, and its register. -/
def reduceDone (x : Slot) (o : Outst) : Slot :=
  let w := o.word
  let l := reduceRows w (sourceRows x o)
  let v := narrowRows (bdFmt (o.bd (bnum w 40))) (l.map (fun r => r.map Prod.fst))
  let x := (x.putRows (o.bd (bnum w 40)) 0 v.1).flag v.2
  let x := x.putRows (o.bd (bnum w 36)) 0 (l.map (fun r => r.map (fun e => code 16 e.2)))
  if bit w 53 then
    match (l.headD []).head? with
    | some e => x.setReg (fld w 29 25) (BitVec.ofInt 64 e.2)
    | none => x
  else x

/-- Write a normalisation: statistics from bidx, or the retained vector's own. -/
def normDone (x : Slot) (o : Outst) : Slot :=
  let w := o.word
  let rows := sourceRows x o
  let st (i : Nat) (r : List (BitVec 32)) : Stat :=
    if bit w 55 then rowStats r
    else
      let a := bdBase (o.bd (bnum w 36)) + 8 * i
      { m := BitVec.ofNat 32 (leNat (sgetList 0 x.win a 4)), e := BitVec.ofNat 32 (leNat (sgetList 0 x.win (a + 4) 4)) }
  let v := narrowRows (bdFmt (o.bd (bnum w 40))) (rows.zipIdx.map (fun e => normalise (st e.2 e.1) e.1))
  (x.putRows (o.bd (bnum w 40)) 0 v.1).flag v.2

/-! ### deq (R109, R151) -/

/-- The sums a handle delivers, as exact values with what the statistics of its mvm.a take: FP32 rows, or the engine's integers. -/
def handleVals (k : Chan) (h : Handle) : List (List Val) :=
  match h.kind, h.ints with
  | .engine, some l => l.map (fun r => r.map Val.ofInt)
  | .group, _ =>
    match h.phys with
    | some i => let g := k.group i; [(if g.comp then sumComp g.sums g.comps else g.sums).map v32]
    | none => []
  | _, _ => (h.rows.getD []).map (fun r => r.map v32)

/-- The products of a deq, exact: an expert handle's scales are 1. -/
def deqVals (k : Chan) (x : Slot) (o : Outst) (h : Handle) : List (List Val) :=
  let w := o.word
  let rows := handleVals k h
  if h.kind = .expert then rows
  else
    let bs := o.bd (bnum w 40)
    let bc := o.bd (bnum w 36)
    let col := if bit w 54 then ((readRows k x bc).headD []).map (decodeFloat .bf16) else []
    let sc := v32 (BitVec.ofNat 32 (o.x.toNat % 2 ^ 32))
    rows.zipIdx.map (fun e =>
      let si := scaleEntry x bs (fld w 24 13 + e.2)
      e.1.zipIdx.map (fun v => (v.1.mul si).mul (if bit w 54 then col.getD v.2 .zero else sc)))

/-- Has a part of the rows that a deq writes been produced before it, so that its statistics combine (R94)? A part that writes columns
already produced begins the rows anew, and complete rows are done with (notes/assumptions/101). -/
def Slot.partsBefore (x : Slot) (out stat : Nat) (lo hi : Nat) : Option RowParts :=
  x.parts.find? (fun p => p.out == out && p.stat == stat && p.done.all (fun r => decide (r.2 ≤ lo ∨ hi ≤ r.1)))

/-- A part has been produced. -/
def Slot.notePart (x : Slot) (out stat lo hi elems : Nat) : Slot :=
  let done := (match x.partsBefore out stat lo hi with | some p => p.done | none => []) ++ [(lo, hi)]
  let rest := x.parts.filter (fun p => !(p.out == out && p.stat == stat))
  { x with parts := if elems ≤ (done.map (fun r => r.2 - r.1)).sum then rest else rest ++ [{ out := out, stat := stat, done := done }] }

/-- The statistics of a deq's rows: combined, in the order the parts are produced, with those of the parts before (R94). -/
def Slot.putDeqStats (x : Slot) (o : Outst) (kept : List (List (BitVec 32))) : Slot :=
  let out := o.bd (bnum o.word 44)
  let st := o.bd (bnum o.word 25)
  let lo := 128 * fld o.word 12 5
  let hi := lo + (kept.headD []).length
  let x' := x.putStats st (x.partsBefore (bdBase out) (bdBase st) lo hi).isSome (kept.map rowStats)
  x'.notePart (bdBase out) (bdBase st) lo hi (bdElems out)

/-- Write a deq: destination, retained vector, statistics. -/
def deqDone (k : Chan) (x : Slot) (o : Outst) : Slot :=
  let w := o.word
  let h := x.handle (fld w 30 29)
  let rows := deqVals k x o h
  let out := o.bd (bnum w 44)
  let l := rows.map (fun r => r.map (toFloat (bdFmt out)))
  let kept := rows.map (fun r => r.map f32)
  let x := (x.putRows out (128 * fld w 12 5) (l.map (fun r => r.map Prod.fst))).flag (l.foldl (fun a r => a.or (flagsOf r)) {})
  let x := if bit w 53 then x.putDeqStats o kept else x
  x.setHandle (fld w 30 29) { x.handle (fld w 30 29) with retained := some kept }

/-- The statistics of a handle's mvm.a, written once when the handle is consumed: the sums before any scale (R94). -/
def statsOfHandle (k : Chan) (x : Slot) (n : Nat) : Slot :=
  let h := x.handle n
  match h.bstat with
  | none => x
  | some d =>
    let rows := if h.kind = .expert then [h.raw] else (handleVals k h).map (fun r => r.map f32)
    (x.putStats d false (rows.map rowStats)).setHandle n { h with bstat := none }

/-! ### emit (R157, R160) -/

/-- Size of an emit stage. -/
def emitStageBytes : Nat := 65536

/-- Bytes that an emit stage holds. -/
def Slot.stageUsed (x : Slot) : Nat := (x.emit.map (fun e => e.2.length)).sum

/-- An emit's rows in the destination's format, packed row after row. -/
def emitRows (x : Slot) (o : Outst) : List Byte × Flags :=
  let out := o.bd (bnum o.word 40)
  let r := match handleOf o.word with
    | some _ => narrowRows (bdFmt out) (sourceRows x o)
    | none => let d := o.bd (bnum o.word 44); convertRows (bdFmt d) (bdFmt out) (rowsIn x.win d)
  (r.1.flatMap (packRow (bdFmt out)), r.2)

/-- Append an emit to the stage. -/
def emitDone (x : Slot) (o : Outst) : Slot :=
  let r := emitRows x o
  { x.flag r.2 with emit := x.emit ++ [(o.bd (bnum o.word 40), r.1)] }

end Sys2Proof.Machine
end

