-- ==== Sys2Proof/Machine/Objects.lean ====
section
/-! DEFINITION. Vertices, barriers and exchange ports: what the stores do, and how slots block on them and wake (R158, R270 to
R281). -/

namespace Sys2Proof.Machine

/-! ### Waking (R83, R273) -/

/-- A blocked wait or bar completes: it leaves the outstanding list, its samples close, and the slot takes back its groups. -/
def State.wake (s : State) (c sl : Nat) : State :=
  let x := s.slot c sl
  let l := x.outs.filter (fun o => opOf o.word == 0x59 || opOf o.word == 0x5A)
  let s := l.foldl (fun s o => s.sampleDone c o.seq (s.nowNs - o.startedAt)) s
  let s := s.modSlot c sl (fun x => { x with outs := x.outs.filter (fun o => opOf o.word != 0x59 && opOf o.word != 0x5A) })
  s.resumeAll c sl

/-! ### Vertices (R270 to R274) -/

/-- A vertex. -/
def Chan.vtx (k : Chan) (v : Nat) : Vtx := sget {} k.sync.vtx v

/-- Change a vertex. -/
def State.modVtx (s : State) (c v : Nat) (f : Vtx → Vtx) : State :=
  s.modChan c (fun k => { k with sync := { k.sync with vtx := smod {} k.sync.vtx v f } })

/-- Where a valid link of the channel forwards a vertex: channel and vertex (R274). -/
def Chan.linkOf (k : Chan) (v : Nat) : Option (Nat × Nat) :=
  (k.sync.link.find? (fun e => bit e.2 31 && fld e.2 30 19 == v)).map (fun e => (fld e.2 18 16, fld e.2 15 4))

/-- The walk over the waiters of a vertex: its value, the waiters left, the slots woken, and whether a consuming waiter stays unmet (R272). -/
structure Walk where
  value : Nat
  left : List VWait := []
  woken : List Nat := []
  held : Bool := false
deriving DecidableEq, Repr

/-- One waiter of the walk. -/
def Walk.step (a : Walk) (w : VWait) : Walk :=
  if w.consume then
    if !a.held && decide (w.thr ≤ a.value) then { a with value := a.value - w.thr, woken := a.woken ++ [w.slot] }
    else { a with left := a.left ++ [w], held := true }
  else if w.thr ≤ a.value then { a with woken := a.woken ++ [w.slot] }
  else { a with left := a.left ++ [w] }

/-- A sig is applied to a vertex: it records its signaller and wakes whom it satisfies. `none`: the value would pass 2^32 − 1. -/
def State.applySig (s : State) (c v amount ctx slot from' : Nat) : Option State :=
  let x := (s.chan c).vtx v
  if 2 ^ 32 ≤ x.value + amount then none
  else
    let a := x.waiters.foldl Walk.step { value := x.value + amount }
    let s := s.modVtx c v (fun x => { x with value := a.value, waiters := a.left, lastCtx := ctx, lastSlot := slot, lastChan := from',
                                              lastFrame := s.frameN % 2 ^ 32, signalled := true })
    some (a.woken.foldl (fun s sl => s.wake c sl) s)

/-- Does a wait that reaches the store now pass: satisfied, and not behind an unmet consumer if it consumes (R272)? -/
def Vtx.passes (x : Vtx) (thr : Nat) (consume : Bool) : Bool :=
  decide (thr ≤ x.value) && !(consume && x.waiters.any (fun w => w.consume))

/-! ### Barriers (R275 to R279) -/

/-- A barrier copy. -/
def Chan.barrier (k : Chan) (b : Nat) : Bar := sget {} k.sync.bars b

/-- Change a barrier copy. -/
def State.modBar (s : State) (c b : Nat) (f : Bar → Bar) : State :=
  s.modChan c (fun k => { k with sync := { k.sync with bars := smod {} k.sync.bars b f } })

/-- Is a copy set up? -/
def Bar.valid (x : Bar) : Bool := bit x.cfg 63
/-- Module of the home copy. -/
def Bar.homeModule (x : Bar) : Nat := fld x.cfg 62 57
/-- Channel of the home copy. -/
def Bar.homeChan (x : Bar) : Nat := fld x.cfg 56 54

/-- Body of a barrier message (R279). -/
def barBody (release : Bool) (b : Nat) (gen : BitVec 32) (ctx chan : Nat) : List Byte :=
  leBytes 32 (pack [(255, 248, if release then 2 else 1), (247, 240, b), (239, 208, gen.toNat), (207, 189, ctx), (188, 186, chan)])

/-- Put a barrier message on its way to a channel of this module. -/
def State.barSend (s : State) (d : Nat) (m : BMsg) : State :=
  let n := if m.src.peer.isNone && m.src.chan != d then 1 else 0
  s.modChan d (fun k => { k with sync := { k.sync with barIn := k.sync.barIn ++ [{ m with flits := n }] } })

/-- Header of a barrier message. -/
def State.barHdr (s : State) (c d : Nat) : Hdr :=
  { typ := 5, srcChan := c, dstChan := d, epoch := s.frameN % 2 ^ 32, watermark := s.integ.wm % 2 ^ 32 }

/-- Is the barrier's home reachable: in this module, or over a window open at Arant 1.1 or later with a credit? The first answer says that it never is now. -/
def State.barPath (s : State) (x : Bar) : Bool × Bool :=
  if x.homeModule = s.hub.moduleId then (false, true)
  else
    let p := s.peer x.homeModule
    (p.st != .open || decide (p.ver < 0x11), p.canSend)

/-- Start a bar: its arrival is sent with the copy's generation, and the slot waits there (R276). -/
def State.startBar (s : State) (c sl : Nat) (o : Outst) : State :=
  let b := fld o.word 47 40
  let x := (s.chan c).barrier b
  let ctx := s.slotCtx c sl
  let path := s.barPath x
  if !x.valid then s.fault c sl 0x0A o.idx
  else if path.1 then s.endInf c sl stProtection 0x12 o.idx
  else if !path.2 then s
  else
    let q := (s.peer x.homeModule).seqOut
    let s := if x.homeModule = s.hub.moduleId then s.barSend x.homeChan { b := b, gen := x.gen, ctx := ctx, src := { chan := c } }
      else s.sendPeer x.homeModule (s.barHdr c x.homeChan) (barBody false b x.gen ctx c)
    let s := s.modBar c b (fun x => { x with waiters := x.waiters ++ [{ slot := sl, tag := x.gen, ctx := ctx }] })
    s.modSlot c sl (fun y => { y with
      block := .bar b x.gen.toNat
      outs := y.outs.map (fun e => if e.seq = o.seq then { e with started := true, startedAt := s.nowNs, addr := q } else e) })

/-- A release is carried out: the copy's generation moves on and every waiter of it or an older one wakes (R276). -/
def State.release (s : State) (c b : Nat) (g : BitVec 32) : State :=
  let x := (s.chan c).barrier b
  let go' := x.waiters.filter (fun w => !before32 g w.tag)
  let s := s.modBar c b (fun x => { x with
    gen := if before32 x.gen (g + 1) then g + 1 else x.gen, heldRel := none
    waiters := x.waiters.filter (fun w => before32 g w.tag), leaving := x.leaving ++ go' })
  go'.foldl (fun s w => s.wake c w.slot) s

/-- Take a release that has reached a copy: held while a waiter of an earlier generation has not left (R277). -/
def State.barRelease (s : State) (c b : Nat) (g : BitVec 32) : State :=
  let x := (s.chan c).barrier b
  if x.leaving.any (fun w => before32 w.tag g) then s.modBar c b (fun x => { x with heldRel := some g }) else s.release c b g

/-- Take an arrival at the home copy: counted, an excess one too; with the last the generation completes and its release goes to every copy it came from (R276, R278). -/
def State.takeArrival (s : State) (c b : Nat) (g : BitVec 32) (src : BSrc) : State :=
  let x := (s.chan c).barrier b
  let s := if before32 g x.gen then s.count c 0x65 else s
  let s := s.count c 0x62
  let l := if x.sources.contains src then x.sources else x.sources ++ [src]
  if x.arrived + 1 < fld x.cfg 43 32 + 1 then s.modBar c b (fun x => { x with arrived := x.arrived + 1, sources := l })
  else
    let s := (s.modBar c b (fun x => { x with arrived := 0, sources := [], gen := x.gen + 1 })).count c 0x63
    l.foldl (fun s e =>
      match e.peer with
      | none => s.barSend e.chan { release := true, b := b, gen := x.gen, src := { chan := c } }
      | some n =>
        if (s.peer n).st == .open then s.sendWhen n (s.barHdr c e.chan) (barBody true b x.gen 0 c) else s) s

/-! ### Exchange ports (R158) -/

/-- Bytes of messages in a channel's exchange region. -/
def Chan.regionUsed (k : Chan) : Nat := (k.seqr.ports.map (fun e => (e.2.msgs.map (fun m => m.bytes.length)).sum)).sum

/-- Size of the exchange region of a channel. -/
def regionBytes : Nat := 524288

/-- Has a port room for a message? -/
def Chan.portRoom (k : Chan) (p n : Nat) : Bool :=
  decide ((sget {} k.seqr.ports p).msgs.length < 4 ∧ k.regionUsed + n ≤ regionBytes)

/-- Change a port. -/
def State.modPortX (s : State) (c p : Nat) (f : XPort → XPort) : State :=
  s.modChan c (fun k => { k with seqr := { k.seqr with ports := smod {} k.seqr.ports p f } })

/-- Messages from peers that waited for a place enter their ports as room allows. -/
def State.admitInbound (s : State) (c : Nat) : State :=
  (s.chan c).seqr.ports.foldl (fun s e =>
    match e.2.inbound with
    | m :: _ =>
      if (s.chan c).portRoom e.1 m.bytes.length then s.modPortX c e.1 (fun p => { p with msgs := p.msgs ++ [m], inbound := p.inbound.drop 1 }) else s
    | [] => s) s

/-- A slot takes the oldest message of a port for its xch.rcv: one larger than the buffer is discarded and ends the inference; one with an unconfirmed peer output is noted (R158, R293). -/
def State.takeMessage (s : State) (c sl : Nat) (o : Outst) (p : Nat) : State :=
  match (sget {} (s.chan c).seqr.ports p).msgs with
  | [] => s
  | m :: _ =>
    let s := (s.modPortX c p (fun x => { x with msgs := x.msgs.drop 1 })).admitInbound c
    let d := o.bds.getD (bnum o.word 44) 0
    if dataBytes d < m.bytes.length then s.endInf c sl stProgramFault 0x0D o.idx
    else
      s.modSlot c sl (fun x => { x with
        outs := x.outs.map (fun e => if e.seq = o.seq then { e with ready := true, msg := some m } else e)
        absorbed := match m.peer with | some e => x.absorbed ++ [e] | none => x.absorbed })

/-- A message stands in a port: the first slot blocked on it takes it and wakes. -/
def State.servePort (s : State) (c p : Nat) : State :=
  match (sget {} (s.chan c).seqr.ports p).waiters with
  | [] => s
  | sl :: _ =>
    if (sget {} (s.chan c).seqr.ports p).msgs.isEmpty then s
    else
      let s := s.modPortX c p (fun x => { x with waiters := x.waiters.drop 1 })
      match (s.slot c sl).outs.find? (fun o => opOf o.word == 0x49 && !o.ready && fld o.word 34 27 == p) with
      | none => s
      | some o =>
        let s := s.takeMessage c sl o p
        if (s.slot c sl).job.isSome && (match (s.slot c sl).block with | .xrcv _ => true | _ => false) then s.resumeAll c sl else s

end Sys2Proof.Machine
end

