-- ==== Sys2Proof/Machine/Start.lean ====
section
/-! DEFINITION. A unit starts an outstanding instruction: UNIT_START with the requests, fills, messages and merged passes that
start there (R64, R79, R102 to R106, R118, R138, R139, R146, R147, R157, R158, R207 to R209). -/

namespace Sys2Proof.Machine

/-! ### Marking -/

/-- The table-store generation in force in a channel. -/
def State.liveGen (s : State) (c : Nat) : Nat := (sget {} s.store.live.chans c).gen

/-- Change an outstanding instruction. -/
def State.modOut (s : State) (c sl seq : Nat) (f : Outst → Outst) : State :=
  s.modSlot c sl (fun x => { x with outs := x.outs.map (fun o => if o.seq = seq then f o else o) })

/-- An outstanding instruction of a slot. -/
def Slot.out? (x : Slot) (seq : Nat) : Option Outst := x.outs.find? (fun o => o.seq == seq)

/-- The instruction has started. -/
def State.begun (s : State) (c sl seq : Nat) (f : Outst → Outst := id) : State :=
  s.modOut c sl seq (fun o => f { o with started := true, startedAt := s.nowNs, gen := s.liveGen c, setWait := false })

/-- The end of an inference at an instruction. -/
def State.endAt (s : State) (c sl : Nat) (o : Outst) (status cause : Nat) (p : PSrc := .none) : State :=
  s.endInf c sl status cause o.idx p

/-- Poison among byte ranges of the window and the shared tables (R157, R217). -/
def poisonIn (k : Chan) (x : Slot) (l : List Span) : PSrc :=
  l.foldl (fun p e =>
    if p != .none then p
    else if e.space = 0 then x.poisonIn e.lo (e.hi - e.lo)
    else if e.space = 1 ∧ sharedPoisoned k e.lo (e.hi - e.lo) then .outside
    else .none) .none

/-- Is the slot blocked where R83 leaves it no physical group? -/
def Slot.asleep (x : Slot) : Bool :=
  match x.block with | .wait _ _ _ => true | .bar _ _ => true | .xrcv _ => true | .yield => true | _ => false

/-! ### Lookback rows (R102 to R106) -/

/-- The pending or done lookback row that holds the codes at a window address. -/
def Slot.rowAt (x : Slot) (a : Nat) : Option PRow := x.prows.find? (fun r => decide (r.lo ≤ a ∧ a < r.hi))

/-- Change a lookback row. -/
def Slot.modRow (x : Slot) (key : Nat) (f : PRow → PRow) : Slot := { x with prows := x.prows.map (fun r => if r.key = key then f r else r) }

/-- The window as a streaming quant.row reads it: with the output of the act.tab or vec.op that runs just before it. -/
def State.sourceSlot (s : State) (c sl : Nat) (o : Outst) : Slot :=
  let x := s.slot c sl
  match x.outs.find? (fun e => streams e o) with
  | some e => vectorDone (s.chan c) x e
  | none => x

/-- Start a lookback row: its codes at the lookback scale are written and the row is pending; an empty entry leaves it to be measured. -/
def State.startLookback (s : State) (c sl : Nat) (o : Outst) : State :=
  let x := s.sourceSlot c sl o
  let q := qset o
  let thr := (s.chan c).seqr.quantThresh.toNat / 2 ^ (16 * fld o.word 23 22) % 65536
  let e := v32 (BitVec.ofNat 32 (leNat (sgetList 0 x.win (lookAddr o) 4)))
  match lookbackScale q.sf e (headroomOf (nfld thr 15 14)) with
  | none => s.begun c sl o.seq (fun o => { o with ready := true })
  | some sc =>
    let src := o.bd (bnum o.word 44)
    let row := ((rowsIn x.win src).headD []).map (decodeVal (bdFmt src))
    let a := codeRow q.sf q.sgn q.qmax sc row
    let m := measureRow q.sf q.sgn q.qmax row
    let d := o.bd (bnum o.word 40)
    let r : PRow :=
      { key := x.nextRow, seq := o.seq, scale := a.scale, codes := a.codes, clipped := a.clipped, largest := a.largest, nans := a.nans,
        flags := a.flags, meas := m.scale, alt := m.codes, altClipped := m.clipped, altFlags := m.flags,
        lo := bdBase d, hi := bdBase d + bdRowBytes d, thr := thr }
    (s.modSlot c sl (fun x =>
      let x := x.putRows d 0 [codesRaw q a.codes]
      { x with prows := x.prows ++ [r], nextRow := x.nextRow + 1 })).begun c sl o.seq

/-! ### Requests to the tiles (R46, R64, R146, R147) -/

/-- The tiles that hold the copies of a layer, with their logical facets, ascending (R64). -/
def Chan.copiesOf (k : Chan) (t l : Nat) : List (Nat × Nat) :=
  let e := sget {} k.arr.map (16 * t + l)
  if e.valid && decide (1 < e.r) then
    (k.arr.map.filter (fun m => m.2.valid && m.2.r == e.r && m.2.group == e.group)).map (fun m => (m.1 / 16, m.1 % 16))
  else [(t, l)]

/-- The input codes of an mvm.a, one for each row. -/
def inputCodes (x : Slot) (o : Outst) : List Int :=
  let d := o.bd (bnum o.word 44)
  let raw := unpackRow (bdFmt d) (bdElems d) (sgetList 0 x.win (bdBase d) (bdRowBytes d))
  ((raw.drop (1024 * fld o.word 5 0)).take (fld o.word 30 21 + 1)).map (fun v => if bit o.word 51 then signed (bdFmt d).width v else (v : Int))

/-- Window address of an mvm.a's first code. -/
def codeAddr (o : Outst) : Nat :=
  let d := o.bd (bnum o.word 44)
  bdBase d + 1024 * fld o.word 5 0 * (bdFmt d).width / 8

/-- Put a request at a tile's arbiter. -/
def State.request (s : State) (c t : Nat) (r : Req) : State :=
  let n := (s.chan c).arr.nextReq
  let s := s.modChan c (fun k => { k with arr := { k.arr with nextReq := n + 1 } })
  s.modTile c t (fun x => { x with queue := x.queue ++ [{ r with id := n, asked := s.nowNs }] })

/-- The row scale of an expert form's codes as BF16 (R126, R147). -/
def rowScaleOf (x : Slot) (o : Outst) : BitVec 16 := BitVec.ofNat 16 (toFloat .bf16 (scaleEntry x (o.bd (bnum o.word 44 + 1)) 0)).1

/-- What an mvm.a does to its handle when it starts: `n` contributions are named. -/
def Handle.named1 (h : Handle) (o : Outst) (n : Nat) (pend : Option Nat) (row : Option Nat) : Handle :=
  let w := o.word
  let grp := bit w 54
  let kind : HKind := if bit w 55 then .expert else if grp then .group else .bank
  { h with
    kind := kind, grp := grp, named := h.named + n, waiting := h.waiting + n, inUse := true
    entry := if bit w 55 then o.x.toNat else h.entry
    lastSeen := h.lastSeen || (bit w 55 && grp && bit w 50)
    setSeq := if h.kind == .closed then o.seq else h.setSeq
    bstat := if bit w 52 && decide (h.bstatSeq ≤ o.seq) then some (o.bd (bnum w 6)) else h.bstat
    bstatSeq := if bit w 52 then max h.bstatSeq o.seq else h.bstatSeq
    pendingRow := if grp && h.pendingRow.isNone then pend else h.pendingRow
    fromOther := h.fromOther || (grp && pend.isNone && (row.isNone || h.pendingRow != row)) }

/-- Would a group mix a pending row with another (R106)? -/
def Handle.mixes (h : Handle) (pend row : Option Nat) : Bool :=
  match h.pendingRow with
  | some k => row != some k
  | none => pend.isSome && h.fromOther

/-- Queue the requests of an mvm.a that runs in its home channel. -/
def State.sendTiles (s : State) (c sl : Nat) (o : Outst) (t l : Nat) (pend row : Option Nat) : State :=
  let x := s.slot c sl
  let h := fld o.word 20 19
  let copies := (s.chan c).copiesOf t l
  let codes := inputCodes x o
  let s := s.modSlot c sl (fun x => x.setHandle h ((x.handle h).named1 o copies.length pend row))
  let s := copies.foldl (fun s e => s.request c e.1
    { why := .work sl o.seq h, lfacet := e.2, word := o.word, codes := codes, r := copies.length, row := pend, origin := 8 * sl + c }) s
  s.begun c sl o.seq (fun o => { o with pending := copies.length })

/-- Wait for a physical group: the slot spills its other groups and stops issuing (R79, R83). -/
def State.waitGroup (s : State) (c sl h : Nat) : State :=
  if (s.chan c).seqr.groupQ.any (fun e => e.slot == sl && e.handle == h) then s
  else
    let s := (s.modChan c (fun k => k.joinGroupQ sl h s.nowNs)).spillAll c sl
    s.modSlot c sl (fun x => { x with block := if x.block = .halt then .halt else .group h })

/-- May a group be taken at once: one is free and nobody waits (R79)? -/
def Chan.groupNow (k : Chan) : Option Nat := if k.seqr.groupQ.isEmpty then k.freeGroup else none

/-- The bytes of an expert request: the codes, then the row scale (R126). The message names no code format, so by the model's choice each
code is one INT8 byte whatever the row's format (notes/assumptions/99). -/
def requestBody (x : Slot) (o : Outst) : List Byte :=
  packRow .int8 ((inputCodes x o).map (code 8)) ++ leBytes 2 (rowScaleOf x o).toNat

/-- Send a part to another channel over the chord (R126, R147). -/
def State.sendChord (s : State) (c sl : Nat) (o : Outst) (d : Nat) : State :=
  let x := s.slot c sl
  let w := o.word
  let e := (s.chan c).dirEntry o.x.toNat
  let r : ExpReq :=
    { id := o.seq * 8 + c, home := c, slot := sl, seq := o.seq, handle := fld w 20 19, dst := d, expert := fld e 47 36, part := fld w 38 31,
      grp := bit w 54, last := bit w 50, word := w, codes := inputCodes x o, rowScale := rowScaleOf x o, flits := flitsOf (requestBody x o).length }
  let s := s.modChan c (fun k => { k with seqr := { k.seqr with experts := k.seqr.experts ++ [r] } })
  s.countBy c 0x2D 1 sl o

/-- The newest epoch sent over a window in an exchange or an expert reply (R301). -/
def State.noteSent (s : State) (n epoch : Nat) : State :=
  s.modPeer n (fun p => { p with sentEpoch := match p.sentEpoch with
    | some e => some (if older e epoch then epoch else e)
    | none => some epoch })

/-- The tag of a request to another module: the instruction that opened the handle, the slot and the handle, so that the parts of a set share it (R268). -/
def reqTag (h : Handle) (sl n seq : Nat) : Nat := (if h.kind == .closed then seq else h.setSeq) % 1024 * 64 + sl * 4 + n

/-- Send a part to another module (R125, R126, R268). -/
def State.sendModule (s : State) (c sl : Nat) (o : Outst) (n d x : Nat) : State :=
  let w := o.word
  let sx := s.slot c sl
  let tag := reqTag (sx.handle (fld w 20 19)) sl (fld w 20 19) o.seq
  let r : ExpReq :=
    { id := o.seq * 8 + c, home := c, slot := sl, seq := o.seq, handle := fld w 20 19, tag := tag, dst := 16 + n, expert := x,
      part := fld w 38 31, grp := bit w 54, last := bit w 50, word := w }
  let s := s.modChan c (fun k => { k with seqr := { k.seqr with experts := k.seqr.experts ++ [r] } })
  let s := s.sendPeer n { typ := 2, srcChan := c, dstChan := d, epoch := s.frameN % 2 ^ 32, watermark := s.integ.wm % 2 ^ 32, tag := tag,
                          expert := x, part := fld w 38 31, last := bit w 50, grp := bit w 54 } (requestBody sx o)
  s.countBy c 0x2E 1 sl o

/-- A part sent away: the handle names it and waits for the reply, which only the last part of a set or a part of its own brings. -/
def State.sentAway (s : State) (c sl : Nat) (o : Outst) (done : Bool) (pend row : Option Nat) : State :=
  let h := fld o.word 20 19
  let s := s.modSlot c sl (fun x => x.setHandle h { (x.handle h).named1 o 1 pend row with remote := true })
  s.begun c sl o.seq (fun o => { o with ready := done })

/-- An expert form notes the column scale that will apply: its own, or in a set that of the part flagged last (R147). -/
def State.setCol (s : State) (c sl : Nat) (o : Outst) (col : List (BitVec 16)) : State :=
  let w := o.word
  let h := fld w 20 19
  if bit w 55 && (!bit w 54 || bit w 50) then s.modSlot c sl (fun x => x.setHandle h { x.handle h with colScale := col }) else s

/-- Start an mvm.a (R64, R79, R106, R146, R147). -/
def State.startMvmA (s : State) (c sl : Nat) (o : Outst) : State :=
  let x := s.slot c sl
  let w := o.word
  let h := fld w 20 19
  let hd := x.handle h
  let r := x.rowAt (codeAddr o)
  let row := r.map PRow.key
  let pend := r.bind (fun r => if r.done then none else some r.key)
  let replay := match r with | some r => r.replaying && !r.done | none => false
  let grp := bit w 54
  let dest : Dest := if bit w 55 then s.dest c o.x.toNat (fld w 38 31) else .chan c (fld w 43 35) (fld w 34 31) []
  if replay then s
  else if grp && hd.kind != .closed && hd.mixes pend row then s.endAt c sl o stProgramFault 0x07
  else
    match dest with
    | .refused st cause => s.endAt c sl o st cause
    | .chan d t l col =>
      if d = c then
        if grp && hd.kind == .closed then
          if x.asleep then s
          else
            match (s.chan c).groupNow with
            | some i => (s.openGroup c sl h i (if bit w 55 then .expert else .group) (bit w 53)).sendTiles c sl o t l pend row |>.setCol c sl o col
            | none => s.waitGroup c sl h
        else (s.sendTiles c sl o t l pend row).setCol c sl o col
      else if pend.isSome then s
      else if (s.chan d).held then s.endAt c sl o stPeer 0x15
      else (s.sendChord c sl o d).sentAway c sl o false pend row
    | .module n d e =>
      if pend.isSome then s
      else if (s.peer n).canSend then (s.sendModule c sl o n d e).sentAway c sl o (grp && !bit w 50) pend row
      else s

/-! ### Taking a handle's banks (R64, R78, R126) -/

/-- Does a bank hold sums of a slot's handle? -/
def holdsFor (sl h : Nat) : BankSt → Bool
  | .full r _ => match r.why with | .work sl' _ h' => sl' == sl && h' == h && !r.discard | _ => false
  | _ => false

/-- The bank sums of a handle, ascending by tile. -/
def Chan.bankSums (k : Chan) (sl h : Nat) : List (List (BitVec 32)) :=
  k.arr.tiles.flatMap (fun e =>
    (if holdsFor sl h e.2.bank0 then [e.2.sums0.take bankLanes] else []) ++ (if holdsFor sl h e.2.bank1 then [e.2.sums1.take bankLanes] else []))

/-- Free the banks of a handle. -/
def Chan.dropBanks (k : Chan) (sl h : Nat) : Chan :=
  { k with arr := { k.arr with tiles := k.arr.tiles.map (fun e =>
      let t := if holdsFor sl h e.2.bank0 then e.2.freeBank 0 else e.2
      (e.1, if holdsFor sl h t.bank1 then t.freeBank 1 else t)) } }

/-- The mean of the copies: one copy's sums as they are, more added from +0 in ascending tile order (R64). -/
def combineCopies : List (List (BitVec 32)) → List (BitVec 32)
  | [] => zeroLanes
  | [l] => l
  | ls => ls.foldl (fun a l => (a.zip l).map (fun e => fadd e.1 e.2)) zeroLanes

/-- Apply the column scale and row scale of an expert part and round to BF16 (R126, R147). -/
def expertRow (sums : List (BitVec 32)) (row : BitVec 16) (col : List (BitVec 16)) : List (Nat × Flags) :=
  sums.zipIdx.map (fun e => toFloat .bf16 (((v32 e.1).mul (decodeFloat .bf16 row.toNat)).mul (decodeFloat .bf16 (col.getD e.2 0).toNat)))

/-- The consumer of a handle accepts its bank, and an expert form's scales are applied. -/
def State.takeHandle (s : State) (c sl h : Nat) : State :=
  let k := s.chan c
  let hd := (k.slot sl).handle h
  if hd.rows.isSome then s
  else
    match hd.kind with
    | .bank =>
      (s.modChan c (fun k => k.dropBanks sl h)).modSlot c sl (fun x => x.setHandle h { hd with rows := some [combineCopies (k.bankSums sl h)] })
    | .expert =>
      let sums := if hd.grp then
          (match hd.phys with
          | some i => if (k.group i).comp then sumComp (k.group i).sums (k.group i).comps else (k.group i).sums
          | none => zeroLanes)
        else combineCopies (k.bankSums sl h)
      let l := expertRow sums hd.rowScale hd.colScale
      let row := l.map (fun e => widen .bf16 e.1)
      (s.modChan c (fun k => k.dropBanks sl h)).modSlot c sl (fun x =>
        (x.setHandle h { hd with rows := some [row], retained := some [row], raw := sums }).flag (flagsOf l))
    | _ => s

/-- Is a handle that a consumer names ready to be read: its group is in place? -/
def Handle.inPlace (h : Handle) : Bool :=
  match h.kind with
  | .group => h.phys.isSome
  | .expert => h.rows.isSome || !h.grp || h.phys.isSome
  | _ => true

/-! ### Weight streams (R118, R139) -/

/-- The streamed tensor that an mvm.d names, where it names one. -/
def tensorOf (o : Outst) : Option (BitVec 128) :=
  let d := o.bd (bnum o.word 40)
  if opOf o.word = 0x21 ∧ bdKind d = .stream then some d else none

/-- Is a resident entry the tensor of a descriptor? -/
def Resident.names (r : Resident) (d : BitVec 128) : Bool :=
  r.base == bdBase d && r.fmt == bdFmtCode d && r.rows == bdRows d && r.elems == bdElems d && r.stride == bdStride d

/-- A started mvm.d names its tensor: a resident one is used again, another waits for its stream (R118). -/
def State.useTensor (s : State) (c : Nat) (o : Outst) : State :=
  match tensorOf o with
  | none => s
  | some d =>
    s.modChan c (fun k =>
      let n := k.seqr.useStamp + 1
      let l := if k.seqr.streams.any (fun r => r.names d) then
          k.seqr.streams.map (fun r => if r.names d then { r with lastUse := n, usedFrame := s.frameN } else r)
        else k.seqr.streams ++ [{ base := bdBase d, bytes := bdExtent d, fmt := bdFmtCode d, rows := bdRows d, elems := bdElems d,
                                  stride := bdStride d, width := (bdFmt d).width, wt := bit o.word 53, m := stepM (opFmt o), lastUse := n, usedFrame := s.frameN, waiting := true }]
      { k with seqr := { k.seqr with streams := l, useStamp := n } })

/-- Do two mvm.d share one pass over their weights (R139)? -/
def merges (a b : Outst) : Bool :=
  let x := a.bd (bnum a.word 40)
  let y := b.bd (bnum b.word 40)
  opOf a.word == 0x21 && opOf b.word == 0x21 && bit a.word 53 == bit b.word 53 &&
  bdKind x == bdKind y && bdBase x == bdBase y && bdFmtCode x == bdFmtCode y && bdRows x == bdRows y && bdElems x == bdElems y &&
  bit x 119 == bit y 119 && bdCb x == bdCb y &&
  (opFmt a).width == (opFmt b).width && opFmt a == opFmt b

/-- Rows one pass may stack. -/
def passRows : Nat := 256

/-- Instructions a pass takes beside its first: waiting ones of other slots in ascending slot order, while their rows fit. -/
def Chan.passOf (k : Chan) (c sl : Nat) (o : Outst) : List (Nat × Outst) :=
  (k.seqr.slots.foldl (fun (a : List (Nat × Outst) × Nat) e =>
    if e.1 = sl then a
    else
      match e.2.outs.find? (fun q => merges o q && k.startable c e.1 q) with
      | some q => if a.2 + (dims q).1 ≤ passRows then (a.1 ++ [(e.1, q)], a.2 + (dims q).1) else a
      | none => a) ([], (dims o).1)).1

/-- One member of a pass starts, or ends on poison. -/
def State.startMember (s : State) (c sl lead : Nat) (o : Outst) : State :=
  let k := s.chan c
  match poisonIn k (k.slot sl) (k.readsOf c sl o) with
  | .none => (s.begun c sl o.seq (fun o => { o with pass := lead })).useTensor c o
  | p => s.endAt c sl o stPoisoned 0x10 p

/-- Start an mvm.d with every one that merges with it. -/
def State.startEngine (s : State) (c sl : Nat) (o : Outst) : State :=
  let others := (s.chan c).passOf c sl o
  let s := s.startMember c sl o.seq o
  others.foldl (fun s e => s.startMember c e.1 o.seq e.2) s

/-! ### Lines of the context cache (R157, R207 to R209) -/

/-- Byte ranges of a STATE operand: one where its rows are packed, else one for each row. -/
def stateRanges (d : BitVec 128) : List (Nat × Nat) :=
  if bdStride d = bdRowBytes d then [(bdBase d, bdRows d * bdRowBytes d)]
  else (List.range (bdRows d)).map (fun i => (bdBase d + i * bdStride d, bdRowBytes d))

/-- What the start of a ctx.ld or ctx.st finds: memory, lines hit, lines fetched, bytes moved, must wait, must fault. -/
structure Fill where
  mem : Mem
  hits : Nat := 0
  misses : Nat := 0
  moved : Nat := 0
  wait : Bool := false
  full : Bool := false
deriving DecidableEq, Repr

/-- Take a way for a line, the instruction's own finished fills giving way if they must. -/
def Mem.wayFor (m : Mem) (x : Ctx) (n : Nat) : Mem := if m.hasWay n then m else m.endFills x.pages

/-- A ctx.ld or ctx.st needs a line: `need` says that its contents must be fetched; a load reads past a wholly staged set. -/
def Fill.line (f : Fill) (x : Ctx) (off : Nat) (load whole : Bool) : Fill :=
  match x.lineOf off with
  | none => f
  | some (p, n) =>
    let l := sget {} f.mem.cache n
    if l.data.isSome || l.staged.isSome then { f with hits := f.hits + 1 }
    else if l.filling then f
    else if load && p.zero then f
    else
      let fetch := !whole && !p.zero
      let m := f.mem.wayFor x n
      if m.hasWay n then
        if fetch then
          let r := m.makeRoom n
          { f with
            mem := { r.1 with cache := sput {} r.1.cache n { data := some (r.1.lpddrLine n), filling := true, stamp := r.1.stamp + 1 }, stamp := r.1.stamp + 1 }
            misses := f.misses + 1, moved := f.moved + 256 + r.2 }
        else
          -- a line written whole, or in a zero page, has its way kept for it
          let r := m.makeRoom n
          { f with mem := { r.1 with cache := sput {} r.1.cache n { filling := true, stamp := r.1.stamp + 1 }, stamp := r.1.stamp + 1 }, moved := f.moved + r.2 }
      else if m.setFilling n then { f with wait := true }
      else if load then { f with misses := f.misses + 1, moved := f.moved + 256 }
      else { f with full := true }

/-- Every line of a range. -/
def Fill.range (f : Fill) (x : Ctx) (load : Bool) (a n : Nat) : Fill :=
  (List.range ((a + n + 255) / 256 - a / 256)).foldl (fun f i =>
    let off := (a / 256 + i) * 256
    f.line x off load (!load && decide (a ≤ off ∧ off + 256 ≤ a + n))) f

/-- Every line of an operand. -/
def Fill.all (m : Mem) (x : Ctx) (load : Bool) (d : BitVec 128) : Fill :=
  (stateRanges d).foldl (fun f r => f.range x load r.1 r.2) { mem := m }

/-- Lines a ctx.st would have staged with those its inference holds (R208). -/
def Mem.stagedAfter (m : Mem) (x : Ctx) (sl : Nat) (d : BitVec 128) : Nat :=
  let l := ((stateRanges d).flatMap (fun r => x.linesOf r.1 r.2)).eraseDups
  m.stagedBy sl + (l.filter (fun n => match (sget {} m.cache n).staged with | some e => e.1 != sl | none => true)).length

/-- Lines an inference may stage. -/
def stageLimit : Nat := 1024

/-- Start a ctx.ld or ctx.st: lines are fetched, or the miss waits for a fill of its set, or a ctx.st that no line can be found for ends STAGE_FULL. -/
def State.startMove (s : State) (c sl : Nat) (o : Outst) : State :=
  let load := opOf o.word == 0x40
  if load && bit o.word 55 then s.begun c sl o.seq
  else
    let x := s.ctx (s.slotCtx c sl)
    let m := (s.chan c).mem
    let d := o.bd (bnum o.word (if load then 44 else 40))
    let f := Fill.all m x load d
    if f.full || (!load && decide (stageLimit < m.stagedAfter x sl d)) then s.endAt c sl o stProgramFault 0x09
    else if f.wait then s.modOut c sl o.seq (fun o => { o with setWait := true })
    else
      let s := s.modChan c (fun k => { k with mem := f.mem })
      let s := s.countBy c 0x40 f.hits sl o
      let s := s.countBy c 0x41 f.misses sl o
      (s.used c sl { bytes := f.moved }).begun c sl o.seq

/-! ### Messages (R158) -/

/-- The bytes of a buffer's rows. -/
def rowsBytes (x : Slot) (d : BitVec 128) : List Byte :=
  (List.range (bdRows d)).flatMap (fun i => sgetList 0 x.win (bdBase d + i * bdStride d) (bdRowBytes d))

/-- Start an xch.snd: the message is on its way; one to a peer needs a credit, and a window that has closed ends the inference. -/
def State.startSend (s : State) (c sl : Nat) (o : Outst) : State :=
  let w := o.word
  let b := rowsBytes (s.slot c sl) (o.bd (bnum w 44))
  let m : Sending := { slot := sl, seq := o.seq, remote := if bit w 55 then some (fld w 43 38) else none, dst := fld w 37 35, port := fld w 34 27, bytes := b
                       flits := if bit w 55 then 0 else flitsOf b.length, msgSeq := (s.peer (fld w 43 38)).seqOut }
  let put (s : State) : State := (s.modChan c (fun k => { k with seqr := { k.seqr with sending := k.seqr.sending ++ [m] } })).begun c sl o.seq
  if bit w 55 then
    let n := fld w 43 38
    if (s.peer n).st != .open then s.endAt c sl o stProtection 0x12
    else if (s.peer n).canSend then
      let ep := s.frameN % 2 ^ 32
      put ((s.sendPeer n { typ := 1, srcChan := c, dstChan := fld w 37 35, port := fld w 34 27, epoch := ep, watermark := s.integ.wm % 2 ^ 32, tag := o.seq % 65536 } b).noteSent n ep)
    else s
  else if (s.chan (fld w 37 35)).held then s.endAt c sl o stPeer 0x15
  else put s

/-! ### Groups -/

/-- Would a spill leave fewer free records than open groups (R82)? The groups counted are those open before it (notes/assumptions/97). -/
def Chan.quotaShort (k : Chan) (sl : Nat) : Bool :=
  (k.freeRecords sl).isEmpty || decide ((k.freeRecords sl).length < (k.slot sl).openGroups)

/-- Start a resume: it takes a free group, or waits for one (R82, R83). -/
def State.startResume (s : State) (c sl : Nat) (o : Outst) : State :=
  let h := fld o.word 47 46
  if (s.slot c sl).asleep then s
  else
    match (s.chan c).groupNow, ((s.chan c).recordsFor sl h).head? with
    | some i, some n => (s.resumeRecord c sl h n i).begun c sl o.seq
    | none, some _ => s.waitGroup c sl h
    | _, none => s.endAt c sl o stProgramFault 0x06

/-! ### Signals (R159, R274) -/

/-- The amount or threshold of a sig or wait. -/
def amountOf (o : Outst) : Nat := (o.x.toNat + fld o.word 15 0) % 2 ^ 32

/-- Start a sig: one to a linked vertex goes to the other channel and completes there. -/
def State.startSig (s : State) (c sl : Nat) (o : Outst) : State :=
  match (s.chan c).linkOf (fld o.word 47 36) with
  | none => s.begun c sl o.seq
  | some (d, v) =>
    let m : Signal := { src := c, slot := sl, seq := o.seq, ctx := s.slotCtx c sl, vertex := v, amount := amountOf o }
    (s.modChan d (fun k => { k with sync := { k.sync with sigIn := k.sync.sigIn ++ [m] } })).begun c sl o.seq (fun o => { o with ready := true })

/-! ### UNIT_START -/

/-- Does an instruction read group sums that came back from a poisoned spill record: an mvm.a that adds to them, or a consumer of the handle (R157, R215)? -/
def Slot.readsPoisoned (x : Slot) (w : Word) : Bool :=
  if opOf w = 0x20 then bit w 54 && (x.handle (fld w 20 19)).poisoned
  else match handleOf w with
    | some h => consumes w && (x.handle h).poisoned
    | none => false

/-- Start an instruction that nothing keeps waiting any more. -/
def State.startNow (s : State) (c sl : Nat) (o : Outst) : State :=
  let k := s.chan c
  let w := o.word
  let x := if opOf w = 0x28 ∧ bit w 55 = true then s.sourceSlot c sl o else s.slot c sl
  match if (k.slot sl).readsPoisoned w then .outside else poisonIn k x (k.readsOf c sl o) with
  | .none =>
    match opOf w with
    | 0x20 => s.startMvmA c sl o
    | 0x21 => s.startEngine c sl o
    | 0x28 => if bit w 55 then s.startLookback c sl o else s.begun c sl o.seq
    | 0x29 | 0x30 | 0x31 | 0x32 =>
      match handleOf w with
      | some h => if consumes w then (if ((k.slot sl).handle h).inPlace then (s.takeHandle c sl h).begun c sl o.seq else s) else s.begun c sl o.seq
      | none => s.begun c sl o.seq
    | 0x38 =>
      if (readTable (sgetList 0 k.tables.shared (bdBase (o.bd (bnum w 36))) tableBytes)).ok then s.begun c sl o.seq
      else s.endAt c sl o stProgramFault 0x0E
    | 0x40 | 0x41 => s.startMove c sl o
    | 0x42 =>
      if emitStageBytes < (k.slot sl).stageUsed + dataBytes (o.bd (bnum w 40)) then s.endAt c sl o stProgramFault 0x09
      else
        match handleOf w with
        | some h => if ((k.slot sl).handle h).inPlace then (s.takeHandle c sl h).begun c sl o.seq else s
        | none => s.begun c sl o.seq
    | 0x48 => s.startSend c sl o
    | 0x49 => if o.ready then s.begun c sl o.seq else s
    | 0x50 => if k.quotaShort sl then s.endAt c sl o stProgramFault 0x06 else if ((k.slot sl).handle (fld w 47 46)).phys.isSome then s.begun c sl o.seq else s
    | 0x51 => s.startResume c sl o
    | 0x58 => s.startSig c sl o
    | 0x5A => s.startBar c sl o
    | _ => s.begun c sl o.seq
  | p => s.endAt c sl o stPoisoned 0x10 p

/-- Does the table path decode for an mvm.d, so that act.tab waits (R110)? -/
def State.tablePathBusy (s : State) (c : Nat) : Bool :=
  s.light && (s.chan c).allOuts.any (fun e => opOf e.2.word == 0x21 && e.2.started && bdFmt (e.2.bd (bnum e.2.word 40)) == .cb256)

/-- May UNIT_START run the instruction: startable, and next at its unit? The residue passes of the frame go ahead of a waiting mvm.d (R290). -/
def State.canStart (s : State) (c sl : Nat) (o : Outst) : Bool :=
  (s.chan c).startable c sl o && (s.chan c).unitFree c o && !(opOf o.word == 0x38 && s.tablePathBusy c) &&
  !(opOf o.word == 0x21 && !(s.chan c).check.residue.isEmpty)

/-- UNIT_START: a unit starts an outstanding instruction whose dependencies have completed, meeting the memory errors given. -/
def execUnitStart (ch slot seq : Nat) (ecc : List Ecc) (s : State) : Out :=
  match (s.slot ch slot).out? seq with
  | none => go s
  | some o => onlyIf (s.canStart ch slot o) s ((s.eccAll ch slot (o.ecc ++ ecc)).startNow ch slot o)

/-- CACHE_SET_WAIT_END: a fill of the set has ended, and the miss goes on (R209). -/
def execCacheSetWaitEnd (ch slot seq : Nat) (s : State) : Out :=
  match (s.slot ch slot).out? seq with
  | none => go s
  | some o =>
    let o' := { o with setWait := false }
    onlyIf (o.setWait && !o.started) s ((s.modOut ch slot seq (fun _ => o')).startMove ch slot o')

end Sys2Proof.Machine
end

