-- ==== Sys2Proof/Machine/Grant.lean ====
section
/-! DEFINITION. A tile's arbiter: reference MVMs, facet checks and requests in order, facet switches, and what a grant fixes for its
MVM (R46, R58 to R61, R66, R69, R78, R105, R165, R166, R169, R173, R288, R338). -/

namespace Sys2Proof.Machine

/-! ### Expert requests (R126, R147) -/

/-- First number of the requests that came from peers; a channel's own are below, eight to an instruction. -/
def peerIds : Nat := 2 ^ 48

/-- The channel whose list keeps a request that runs in channel `c`: its home, or the holding channel for one from a peer. -/
def keeper (c id : Nat) : Nat := if id < peerIds then id % 8 else c

/-- The expert request `id` as channel `c` serves it. -/
def State.exp? (s : State) (c id : Nat) : Option ExpReq := (s.chan (keeper c id)).seqr.experts.find? (fun r => r.id == id)

/-- Change an expert request. -/
def State.modExp (s : State) (c id : Nat) (f : ExpReq → ExpReq) : State :=
  s.modChan (keeper c id) (fun k => { k with seqr := { k.seqr with experts := k.seqr.experts.map (fun r => if r.id = id then f r else r) } })

/-! ### Requests (R46, R60) -/

/-- Input width w of a request. -/
def Req.w (r : Req) : Nat := fld r.word 18 15
/-- Promotion interval p. -/
def Req.p (r : Req) : Nat := fld r.word 12 10

/-- An instruction word's analogue parameters for an MVM that no instruction asks for: signed, w, g = 8, p = 4. -/
def analogWord (w : Nat) : Word := BitVec.ofNat 64 (pack [(51, 51, 1), (18, 15, w), (14, 13, 2), (12, 10, 4)])

/-- The physical facet that the map in force gives a logical facet of a tile. -/
def Chan.physOf (k : Chan) (t l : Nat) : Nat := (sget {} k.arr.map (16 * t + l)).phys

/-- Is the work that asked for an MVM still there to take its result (R78, R161)? -/
def State.reqAlive (s : State) (c : Nat) (r : Req) : Bool :=
  match r.why with
  | .work sl seq _ => ((s.slot c sl).out? seq).isSome
  | .expert id => (s.exp? c id).isSome
  | _ => true

/-- Count an event of a request, with its context and samples where an instruction of the channel asked for it. -/
def State.countReq (s : State) (c : Nat) (r : Req) (code n : Nat) : State :=
  match r.why with
  | .work sl seq _ =>
    match (s.slot c sl).out? seq with
    | some o => s.countBy c code n sl o
    | none => s.countN c code n none
  | _ => s.countN c code n none

/-- A request whose row is being re-quantised waits for the new codes (R105). -/
def State.codesReady (s : State) (c : Nat) (r : Req) : Bool :=
  match r.why, r.row with
  | .work sl seq _, some key =>
    !((s.slot c sl).out? seq).isSome || (s.slot c sl).prows.all (fun p => p.key != key || p.done || !p.replaying)
  | _, _ => true

/-- Does request `a` come before `b`: earlier, then lower slot, then lower channel of origin (R60)? -/
def Req.before (a b : Req) : Bool :=
  if a.asked ≠ b.asked then decide (a.asked < b.asked)
  else if a.origin ≠ b.origin then decide (a.origin < b.origin)
  else decide (a.id ≤ b.id)

/-- The oldest of some requests. -/
def oldestReq (l : List Req) : Option Req := (sortBy Req.before l).head?

/-! ### The arbiter's choice (R60, R169, R288) -/

/-- What a tile serves next: the request, its physical facet, and the tile once it is taken. -/
structure Grant where
  req : Req
  phys : Nat
  tile : Tile
deriving DecidableEq, Repr

/-- MVMs served in a row on the held facet while another facet waits. -/
def servedLimit : Nat := 16

/-- The choice: a reference MVM, then a facet check, then by R60. -/
def Chan.grantOf (k : Chan) (ok : Req → Bool) (t : Nat) : Option Grant :=
  let x := k.tile t
  if x.wantRef then
    some { req := { word := analogWord 4, codes := List.replicate 1024 15 }, phys := x.held, tile := { x with wantRef := false } }
  else
    match x.wantCheck with
    | (v, l) :: rest =>
      let f := k.physOf t l
      some { req := { why := .check (v % 4) (v / 4), lfacet := l, word := analogWord 8, codes := checkVector t f (v % 4), origin := f },
             phys := f, tile := { x with wantCheck := rest } }
    | [] =>
      let l := x.queue.filter ok
      let mine := l.filter (fun r => k.physOf t r.lfacet == x.held)
      let others := l.filter (fun r => k.physOf t r.lfacet != x.held)
      let pick := if mine.isEmpty || (!others.isEmpty && decide (servedLimit ≤ x.served)) then oldestReq others else oldestReq mine
      pick.map (fun r => { req := r, phys := k.physOf t r.lfacet,
                           tile := { x with queue := x.queue.filter (fun q => q.id ≠ r.id), served := if others.isEmpty then 0 else x.served + 1 } })

/-! ### The grant -/

/-- Mark a bank of a tile. -/
def Tile.setBank (x : Tile) (b : Nat) (v : BankSt) : Tile := if b = 0 then { x with bank0 := v } else { x with bank1 := v }

/-- Does an MVM serve admitted work, here or for another channel or module (R231)? -/
def Why.isWork : Why → Bool
  | .work _ _ _ => true
  | .expert _ => true
  | _ => false

/-- The home channel and slot whose inference an MVM serves. -/
def State.homeOf (s : State) (c : Nat) (r : Req) : Option (Nat × Nat) :=
  match r.why with
  | .work sl _ _ => some (c, sl)
  | .expert id => (s.exp? c id).bind (fun e => if e.peer.isNone then some (e.home, e.slot) else none)
  | _ => none

/-- The inference an MVM serves notes an overdue facet (R173), and one that was bound before the channel's last switch that it runs on the new weights (R189). -/
def State.noteFacet (s : State) (c t phys : Nat) (r : Req) : State :=
  match s.homeOf c r with
  | some (hc, sl) =>
    let stale := decide ((s.slot hc sl).boundAt < (s.chan c).arr.switchedAt)
    s.modSlot hc sl (fun x => { x with overdue := x.overdue || (s.facet c t phys).overdue, switched := x.switched || stale })
  | none => s

/-- What a granted request leaves behind: the notes of its inference, and an MVM granted on codes that a verdict may replace (R105). -/
def State.noteGrant (s : State) (c t phys : Nat) (r : Req) : State :=
  if !s.reqAlive c r then s
  else
    let s := s.noteFacet c t phys r
    match r.why, r.row with
    | .work sl _ _, some key => s.modSlot c sl (fun x => x.modRow key (fun p => if p.done then p else { p with granted := p.granted ++ [(t, r)] }))
    | _, _ => s

/-- An MVM begins on the held facet: codes latched and clamped (R46), gains fixed (R165), the reference bias written where the temperature has moved (R166, R69), the other bank filling (R78). -/
def State.beginMvm (s : State) (c t : Nat) (g : Grant) : State :=
  let x := s.tile c t
  let b := if x.lastBank = 0 then 1 else 0
  let now := s.reading (clusterSensor c t)
  let ref := s.refCode c t
  let moved := x.refT != some now
  let code := if moved then ref.1 else x.dacRef.code
  let step := (code.toNat : Int) - x.dacRef.code.toNat
  let codes := g.req.codes.map (clampCode g.req.w)
  let run : Run := { req := { g.req with codes := codes }, facet := g.phys, bank := b, gains := (List.range 8).map (s.gain c t g.phys) }
  let s := s.modTile c t (fun _ => { (g.tile.setBank b .filling) with st := .computing, run := some run, lastBank := b, dacRef := if moved then .of code else x.dacRef, refT := some now })
  let s := s.countN c 0x08 (bnat (moved && ref.2)) none
  let s := if 16 < step.natAbs then s.countReq c g.req 0x06 6 else s
  let s := s.countReq c g.req 0x04 (clampedCount g.req.w g.req.codes)
  s.noteGrant c t g.phys g.req

/-- TILE_GRANT: an idle tile's arbiter takes its next request, or begins a switch to that request's facet; nothing is granted from a drain on (R295, R296). -/
def execTileGrant (ch tile : Nat) (s : State) : Out :=
  let k := s.chan ch
  let x := k.tile tile
  match k.grantOf (s.codesReady ch) tile with
  | none => go s
  | some g =>
    if g.phys = x.held then
      onlyIf (s.fitted ch && !s.failed && x.st == .idle && x.nextBank == .free && decide (k.computing < s.tileLimit ch)) s (s.beginMvm ch tile g)
    else onlyIf (s.fitted ch && !s.failed && x.st == .idle) s (s.beginSwitch ch tile g.phys g.req.why.isWork)

/-- FACET_SWITCH_DONE: the tile holds the new facet, its read bias is that facet's; a cold cluster's tile runs a reference MVM first (R59, R69, R169). -/
def execFacetSwitchDone (ch tile : Nat) (s : State) : Out :=
  let x := s.tile ch tile
  match x.st with
  | .switching f =>
    let cold := (s.chan ch).arr.cold.contains (tile / 48) && !s.failed
    onlyIf (s.fitted ch) s ((s.modTile ch tile (fun x => { x with
      st := .idle, held := f, served := 0, dacRead := .of ((s.trim ch tile).read.getD f 0), wantRef := x.wantRef || cold })).resumePv ch tile)
  | _ => go s

end Sys2Proof.Machine
end

