-- ==== Sys2Proof/Machine/Bank.lean ====
section
/-! DEFINITION. An MVM ends, its bank drains into its handle or group, groups spill by depth and are granted again, checks give
their residuals (R64, R70, R75, R77 to R88, R126, R147, R167 to R169, R177, R288, R289). -/

namespace Sys2Proof.Machine

/-! ### Output monitors (R177) -/

/-- The frames of an excursion's window that still count. -/
def recentFrames (now : Nat) (l : List Nat) : List Nat := l.filter (fun f => decide (now < f + 1024))

/-- Monitor one block: excursions are counted and recorded; answers whether they are a detected failure. -/
def State.monitorBlock (s : State) (c t f : Nat) (r : Req) (sums : List (BitVec 32)) (b : Nat) : State × Bool :=
  let e := (s.facet c t f).env.getD b 15
  let fs := fullScale r.codes
  let l := (sums.drop (128 * b)).take 128
  let n := (l.filter (fun v => aboveEnvelope v e 4 fs)).length
  if n = 0 then (s, false)
  else
    let s := s.countReq c r 0x34 n
    let past := recentFrames s.frameN ((s.chan c).block t f b).exc ++ List.replicate n s.frameN
    (s.modBlock c t f b (fun x => { x with exc := past }), l.any (fun v => aboveEnvelope v e 8 fs) || decide (4 ≤ past.length))

/-- Monitor every block of an MVM. -/
def State.monitor (s : State) (c t f : Nat) (r : Req) (sums : List (BitVec 32)) : State × Bool :=
  (List.range 8).foldl (fun (a : State × Bool) b =>
    let m := a.1.monitorBlock c t f r sums b
    (m.1, a.2 || m.2)) (s, false)

/-! ### Replica comparison (R289) -/

/-- Key of an MVM whose copies are compared: slot and instruction, or 16 and an expert request. -/
def Req.copyKey (r : Req) : Nat × Nat :=
  match r.why with
  | .work sl seq _ => (sl, seq)
  | .expert id => (16, id)
  | _ => (17, 0)

/-- Is |a − b| × r above 5 % of FS? -/
def disagrees (a b : BitVec 32) (r fs : Nat) : Bool :=
  (Val.fin false (5 * fs) 100).lt (((v32 a).sub (v32 b)).abs.mul (Val.ofInt r))

/-- Compare a copy with that of the lowest-numbered tile: disagreements are counted, a third of one pair and column within 1,024 frames is a detected failure. -/
def State.compareWith (s : State) (c : Nat) (r : Req) (lo : Nat × List (BitVec 32)) (e : Nat × List (BitVec 32)) : State × Bool :=
  let cols := (List.range bankLanes).filter (fun j => disagrees (lo.2.getD j 0) (e.2.getD j 0) r.r (fullScale r.codes))
  cols.foldl (fun (a : State × Bool) j =>
    let s := a.1.countReq c r 0x72 1
    let l := ((s.chan c).check.disagree.filter (fun d => decide (s.frameN < d.2.2.2 + 1024))) ++ [(lo.1, e.1, j, s.frameN)]
    let s := s.modChan c (fun k => { k with check := { k.check with disagree := l } })
    (s, a.2 || decide (3 ≤ (l.filter (fun d => d.1 == lo.1 && d.2.1 == e.1 && d.2.2.1 == j)).length))) (s, false)

/-- Compare every copy with that of the lowest-numbered tile in a rotation frame. -/
def State.compareAll (s : State) (c : Nat) (r : Req) (l : List (Nat × List (BitVec 32))) : State × Bool :=
  match l with
  | lo :: es =>
    if (s.chan c).check.isRotation then es.foldl (fun (a : State × Bool) e => let m := a.1.compareWith c r lo e; (m.1, a.2 || m.2)) (s, false)
    else (s, false)
  | [] => (s, false)

/-- A copy of a replicated MVM ends: with the last one, all of them, ascending by tile (each with 16 × tile + facet). -/
def State.collectCopy (s : State) (c t f : Nat) (r : Req) (sums : List (BitVec 32)) : State × List (Nat × List (BitVec 32)) :=
  let key := r.copyKey
  let l := (s.chan c).check.copies ++ [(key.1, key.2, 16 * t + f, sums)]
  let mine := sortBy (fun a b => decide (a.1 ≤ b.1)) ((l.filter (fun e => e.1 == key.1 && e.2.1 == key.2)).map (fun e => (e.2.2.1, e.2.2.2)))
  let done := decide (r.r ≤ mine.length)
  (s.modChan c (fun k => { k with check := { k.check with
    copies := if done then l.filter (fun e => !(e.1 == key.1 && e.2.1 == key.2)) else l } }), if done then mine else [])

/-- The monitor's judgement of an MVM, and that of the comparison of its copies: the sums of a replicated one are judged combined, once the
last copy has ended, and recorded for the copy on the lowest-numbered tile (R162, R177, R289; notes/assumptions/100). -/
def State.judge (s : State) (c t f : Nat) (r : Req) (sums : List (BitVec 32)) : State × Bool × Bool :=
  if r.r < 2 || !r.why.isWork then let m := s.monitor c t f r sums; (m.1, m.2, false)
  else if r.discard then (s, false, false)
  else
    let l := s.collectCopy c t f r sums
    match l.2 with
    | [] => (l.1, false, false)
    | lo :: _ =>
      let m := l.1.monitor c (lo.1 / 16) (lo.1 % 16) r (combineCopies (l.2.map Prod.snd))
      let p := m.1.compareAll c r l.2
      (p.1, m.2, p.2)

/-! ### The result of an MVM -/

/-- One MVM of an instruction has delivered its bank to its handle, or its drain to its group. -/
def State.delivered (s : State) (c sl seq h : Nat) : State :=
  (s.modOut c sl seq (fun o => { o with pending := o.pending - 1 })).modSlot c sl (fun x =>
    x.setHandle h { x.handle h with waiting := (x.handle h).waiting - 1 })

/-- Where the sums of an ended MVM go: the bank holds them for a consumer, or is free (R78, R105). -/
def State.bankResult (s : State) (c t : Nat) (r : Run) (sums : List (BitVec 32)) (sat : Bool) : State :=
  let keep := s.reqAlive c r.req && !r.req.discard
  let hold (s : State) : State := s.modTile c t (fun x =>
    let x := x.setBank r.bank (.full r.req sat)
    if r.bank = 0 then { x with sums0 := sums, since0 := s.nowNs } else { x with sums1 := sums, since1 := s.nowNs })
  let free (s : State) : State := s.modTile c t (fun x => x.freeBank r.bank)
  match r.req.why with
  | .ref => free s
  | .check _ _ => hold s
  | .work sl seq h =>
    if !keep then free s
    else if bit r.req.word 54 then hold s
    else (hold s).delivered c sl seq h
  | .expert _ => if keep then hold s else free s

/-- A saturated lane sets the sticky flag of the inference it serves (R75). -/
def State.noteSat (s : State) (c : Nat) (r : Req) (sat : Bool) : State :=
  if !sat || !s.reqAlive c r then s
  else
    match r.why with
    | .work sl _ _ => s.modSlot c sl (fun x => { x with saturated := true })
    | .expert id => s.modExp c id (fun e => { e with saturated := true })
    | _ => s

/-- M and I of an MVM are added to its facet's blocks (R167). -/
def State.addMI (s : State) (c t f : Nat) (l : List (Int × Nat)) : State :=
  l.zipIdx.foldl (fun (s : State) (e : (Int × Nat) × Nat) => s.modBlock c t f e.2 (fun x => { x with m := x.m + e.1.1, i := x.i + e.1.2 })) s

/-- A reference MVM sets the age factor of every block directly (R169). -/
def State.refResult (s : State) (c t f : Nat) (l : List (Int × Nat)) : State :=
  l.zipIdx.foldl (fun (s : State) (e : (Int × Nat) × Nat) =>
    if e.1.2 = 0 then s else s.setAge c t f e.2 (s.ageReading c t f e.2 e.1.1 e.1.2)) (s.count c 0x31)

/-- MVM_COMPLETE: the MVM's last promotion ends; counts, correction sums, monitors and comparison follow, and the bank presents its sums. -/
def State.mvmEnd (s : State) (c t : Nat) (r : Run) (err : List ConvErr) (dacFault : Bool) : State :=
  let q := r.req
  let facet := (s.chan c).arr.readCodes t r.facet
  let out := runMvm facet (sget {} s.store.live.chans c).remap t r.facet q.codes q.w q.p q.r r.gains err
  let sat := decide (0 < out.satLanes)
  let s := s.countReq c q 0x01 (skippedSteps q.codes q.w)
  let s := s.countReq c q 0x02 (splitSegments q.codes q.w)
  let s := s.countReq c q 0x03 (endCodes facet q.codes q.w err)
  let s := s.countReq c q 0x17 out.satLanes
  let isRef := match q.why with | .ref => true | _ => false
  let s := s.addMI c t r.facet out.mi
  let s := match s.homeOf c q with
    | some (hc, hs) => if s.reqAlive c q then s.used hc hs { tile := mvmNs q.codes q.w } else s
    | none => s
  let s := s.noteSat c q sat
  let s := s.modTile c t (fun x => { x with st := .idle, run := none })
  let m := s.judge c t r.facet q out.sums
  let s := m.1.bankResult c t r (out.sums ++ out.checks) sat
  let s := s.resumePv c t
  let s := if isRef then s.refResult c t r.facet out.mi else s
  let s := if sat then s.drain 0x07 c else s
  let s := if m.2.1 then s.drain 0x05 c else s
  let s := if m.2.2 then s.drain 0x02 c else s
  if dacFault || !(s.tile c t).dacsSound then (s.modTile c t (fun x => x.loadDacs (s.trim c t))).drain 0x08 c else s

/-- MVM_COMPLETE: an MVM ends, with the departures of its conversions given; a DAC fault met in it is a detected failure. -/
def execMvmComplete (ch tile : Nat) (err : List ConvErr) (dacFault : Bool) (s : State) : Out :=
  let x := s.tile ch tile
  match x.run with
  | none => go s
  | some r => onlyIf (s.fitted ch && x.st == .computing) s (s.mvmEnd ch tile r err dacFault)

/-! ### Additions into a group (R84 to R88) -/

/-- The mixing function of the draws. -/
def mix64 (z : Word) : Word :=
  let z := z ^^^ (z >>> 33)
  let z := z * 0xFF51AFD7ED558CCD#64
  z ^^^ (z >>> 33)

/-- The draw of logical lane `j`. -/
def drawOf (x : Word) (j : Nat) : Nat := fld (mix64 (x ^^^ BitVec.ofNat 64 j)) 63 40

/-- The magnitude a bit pattern stands for, 2^128 for that of infinity. -/
def magOf (b : Nat) : Val := if b = Fmt.infBits .fp32 then .ofInt (2 ^ 128 : Nat) else decodeFloat .fp32 b

/-- Stochastic rounding of an exact sum with draw `u` (R84). -/
def stochRound (x : Val) (u : Nat) : BitVec 32 :=
  match x with
  | .fin neg n d =>
    let lo := roundBits (fun a b => a / b) .fp32 n d
    if Fmt.infBits .fp32 ≤ lo then f32 (.inf neg)
    else
      let frac := (((Val.fin false n d).sub (magOf lo)).mul (.ofInt (2 ^ 24 : Nat))).div ((magOf (lo + 1)).sub (magOf lo))
      let k := match frac with | .fin _ a b => a / b | _ => 0
      let exact := match frac with | .fin _ a _ => a == 0 | _ => true
      BitVec.ofNat 32 (withSign .fp32 neg (if !exact && decide (u < k) then lo + 1 else lo))
  | v => f32 v

/-- One lane of the standard path. -/
def stochAdd (a t : BitVec 32) (u : Nat) : BitVec 32 := stochRound ((v32 a).add (v32 t)) u

/-- One lane of a compensated unit: the running sum and its error term (R86). -/
def compAdd (s c t : BitVec 32) : BitVec 32 × BitVec 32 :=
  let u := fadd s t
  let e := if (v32 t).abs.le (v32 s).abs then fadd (fsub s u) t else fadd (fsub t u) s
  (u, fadd c e)

/-- A contribution is added to every lane of a group. -/
def Group.addTo (g : Group) (x : Word) (l : List (BitVec 32)) : Group :=
  if g.comp then
    let r := (g.sums.zip (g.comps.zip l)).map (fun e => compAdd e.1 e.2.1 e.2.2)
    { g with sums := r.map Prod.fst, comps := r.map Prod.snd }
  else { g with sums := ((g.sums.zip l).zipIdx).map (fun e => stochAdd e.1.1 e.1.2 (drawOf x e.2)) }

/-- The generator advances for a contribution; a written seed is taken first (R85, R395). -/
def State.advanceRng (s : State) (c : Nat) : State :=
  s.modChan c (fun k => { k with seqr := { k.seqr with rng := advance64 (k.seqr.rngNext.getD k.seqr.rng), rngNext := none } })

/-- A contribution drains into physical group `i` (R80). -/
def State.contribute (s : State) (c i : Nat) (l : List (BitVec 32)) : State :=
  let s := s.advanceRng c
  s.modChan c (fun k => k.setGroup i ((k.group i).addTo k.seqr.rng l))

/-! ### Banks of experts (R126, R147) -/

/-- The bank sums of an expert request's copies, ascending by tile. -/
def Chan.expSums (k : Chan) (id : Nat) : List (List (BitVec 32)) :=
  k.arr.tiles.flatMap (fun e =>
    (if holdsExp id e.2.bank0 then [e.2.sums0.take bankLanes] else []) ++ (if holdsExp id e.2.bank1 then [e.2.sums1.take bankLanes] else []))

/-- Two requests of one set, or the same request. -/
def ExpReq.sameSet (a b : ExpReq) : Bool := a.id == b.id || (a.grp && b.grp && a.holder == b.holder && a.dst == b.dst)

/-- The reply of a part or a set: scales applied once, rounded to BF16, on its way home; to a peer it is a message with the epoch of this frame. -/
def State.setReply (s : State) (c : Nat) (e : ExpReq) (sums : List (BitVec 32)) : State :=
  let l := expertRow sums e.rowScale e.colScale
  let row := l.map (fun v => BitVec.ofNat 16 v.1)
  match e.peer with
  | none => s.modExp c e.id (fun e => { e with sums := some sums, reply := some row, flags := flagsOf l, flits := flitsOf (2 * row.length) })
  | some n =>
    let s := s.modChan c (fun k => { k with seqr := { k.seqr with experts := k.seqr.experts.filter (fun x => !x.sameSet e) } })
    let ep := s.frameN % 2 ^ 32
    -- a module that drains or has drained answers nothing (R302)
    if (s.peer n).st != .open || s.failed then s
    else
      (s.sendWhen n { typ := 3, srcChan := c, dstChan := e.home, epoch := ep, watermark := s.integ.wm % 2 ^ 32, tag := e.tag }
        (row.flatMap (fun v => leBytes 2 v.toNat))).noteSent n ep

/-- The requests of one set as channel `c` serves them. -/
def State.expSet (s : State) (c : Nat) (e : ExpReq) : List ExpReq :=
  (s.chan (keeper c e.id)).seqr.experts.filter (fun x => x.sameSet e)

/-- The last part of a set has drained: its sum is the reply's and the group is free. -/
def State.closeSet (s : State) (c : Nat) (e : ExpReq) (i : Nat) : State :=
  match (s.expSet c e).find? (fun x => x.last) with
  | none => s
  | some l =>
    if (s.expSet c e).all (fun x => x.arrived && x.left == 0) then
      let g := (s.chan c).group i
      let s := (s.expSet c e).foldl (fun s x => if x.saturated then s.modExp c l.id (fun y => { y with saturated := true }) else s) s
      (s.setReply c l (if g.comp then sumComp g.sums g.comps else g.sums)).modChan c (fun k => k.setGroup i {})
    else s

/-- A set that asked for a compensated unit runs on the standard path: counted, and noted in its inference where that is the module's own (R87). -/
def State.expFallback (s : State) (c : Nat) (e : ExpReq) : State :=
  let s := s.count c 0x16
  if e.peer.isSome then s
  else s.modSlot e.home e.slot (fun x => { x.setHandle e.handle { x.handle e.handle with fallback := true } with fallbacks := x.fallbacks + 1 })

/-- A part of a set takes a group at the holding channel where the set has none yet. -/
def State.expGroup (s : State) (c : Nat) (e : ExpReq) : State × Option Nat :=
  let k := s.chan c
  match k.groupOf e.holder with
  | some i => (s, some i)
  | none =>
    match k.groupNow with
    | some i =>
      let comp := bit e.word 53 && k.compFree s.light
      let s := s.modChan c (fun k => k.setGroup i { holder := some e.holder, comp := comp, sums := zeroLanes, comps := zeroLanes })
      (if bit e.word 53 && !comp then s.expFallback c e else s, some i)
    | none => (s, none)

/-- An expert part's bank is taken: combined with its copies and replied, or added to its set's group. -/
def State.drainExpert (s : State) (c t b : Nat) (r : Req) (e : ExpReq) : State :=
  let sums := (if b = 0 then (s.tile c t).sums0 else (s.tile c t).sums1).take bankLanes
  if e.grp then
    match s.expGroup c e with
    | (s, some i) =>
      let s := (s.contribute c i sums).modTile c t (fun x => x.freeBank b)
      (s.modExp c e.id (fun e => { e with left := e.left - 1 })).closeSet c e i
    | (s, none) => s
  else if r.r ≤ ((s.chan c).expSums e.id).length then
    (s.setReply c e (combineCopies ((s.chan c).expSums e.id))).modChan c (fun k => k.dropExp e.id)
  else s

/-! ### BANK_DRAIN (R80, R81) -/

/-- The spill depth of a slot's program. -/
def State.depthOf (s : State) (c sl : Nat) : Nat := (sget {} (s.chan c).seqr.images (s.slot c sl).image).depth

/-- A full bank drains into its handle's group, once the group is in place and has not reached its depth. -/
def State.drainWork (s : State) (c t b sl seq h : Nat) : State :=
  let hd := (s.slot c sl).handle h
  match hd.phys with
  | none => s
  | some i =>
    if s.depthOf c sl ≤ hd.drained then s
    else
      let sums := (if b = 0 then (s.tile c t).sums0 else (s.tile c t).sums1).take bankLanes
      let s := (s.contribute c i sums).modTile c t (fun x => x.freeBank b)
      (s.delivered c sl seq h).modSlot c sl (fun x => x.setHandle h { x.handle h with drained := (x.handle h).drained + 1 })

/-- The group that a full bank of request `r` would drain into now, if it would drain into one. -/
def State.drainsInto (s : State) (c : Nat) (r : Req) : Option Nat :=
  if !s.reqAlive c r || !bit r.word 54 then none
  else
    match r.why with
    | .work sl _ h => if s.depthOf c sl ≤ ((s.slot c sl).handle h).drained then none else ((s.slot c sl).handle h).phys
    | .expert id =>
      match s.exp? c id with
      | some e => if e.grp then (match (s.chan c).groupOf e.holder with | some i => some i | none => (s.chan c).groupNow) else none
      | none => none
    | _ => none

/-- The banks of a channel that would drain into a group now: tile, group, and since when each presents its sums. -/
def State.drainable (s : State) (c : Nat) : List (Nat × Nat × Nat) :=
  (s.chan c).arr.tiles.flatMap (fun e =>
    let one (b : BankSt) (at' : Nat) : List (Nat × Nat × Nat) := match b with
      | .full r _ => (match s.drainsInto c r with | some i => [(e.1, i, at')] | none => [])
      | _ => []
    one e.2.bank0 e.2.since0 ++ one e.2.bank1 e.2.since1)

/-- Does another bank's drain begin before this one's: into the same group when it was presented earlier, or in the same cycle by a
lower-numbered tile (R80); into another group when both were presented in one cycle and that group is lower (R85)? -/
def drainsBefore (a b : Nat × Nat × Nat) : Bool :=
  if a.2.1 = b.2.1 then decide (a.2.2 < b.2.2 ∨ a.2.2 = b.2.2 ∧ a.1 < b.1) else decide (a.2.2 = b.2.2 ∧ a.2.1 < b.2.1)

/-- May a bank's drain begin as far as the order of contributions goes (R80, R85)? -/
def State.drainTurn (s : State) (c t b : Nat) (r : Req) : Bool :=
  match s.drainsInto c r with
  | some i => !(s.drainable c).any (fun a => drainsBefore a (t, i, if b = 0 then (s.tile c t).since0 else (s.tile c t).since1))
  | none => true

/-- BANK_DRAIN: a full bank of an MVM in a group, or of an expert part, is taken by its consumer, in the order of R80 and R85. -/
def execBankDrain (ch tile bank : Nat) (s : State) : Out :=
  let x := s.tile ch tile
  match (if bank = 0 then x.bank0 else x.bank1) with
  | .full r _ =>
    match r.why with
    | .work sl seq h => onlyIf (bit r.word 54 && s.reqAlive ch r && s.drainTurn ch tile bank r) s (s.drainWork ch tile bank sl seq h)
    | .expert id =>
      match s.exp? ch id with
      | some e => onlyIf (s.drainTurn ch tile bank r) s (s.drainExpert ch tile bank r e)
      | none => go (s.modTile ch tile (fun x => x.freeBank bank))
    | _ => go s
  | _ => go s

/-! ### AUTO_SPILL and GROUP_GRANT (R79, R81, R83) -/

/-- Index of the oldest outstanding instruction that names a handle. -/
def Slot.handleIdx (x : Slot) (h : Nat) : Nat :=
  match x.outs.find? (fun o => handleOf o.word == some h) with
  | some o => o.idx
  | none => x.pc

/-- AUTO_SPILL: a group with d contributions drained and one more named moves to a record, and back as soon as a group is free. -/
def execAutoSpill (ch slot handle : Nat) (s : State) : Out :=
  let k := s.chan ch
  let x := k.slot slot
  let hd := x.handle handle
  let seq := match x.outs.find? (fun o => handleOf o.word == some handle) with | some o => o.seq | none => 0
  let t :=
    if k.quotaShort slot then s.fault ch slot 0x06 (x.handleIdx handle)
    else
      let t := (s.spillHandle ch slot handle true false seq).count ch 0x13 ((k.job? (x.job.getD 0)).map Job.ctx)
      match (t.chan ch).groupNow, ((t.slot ch slot).handle handle).record with
      | some i, some n => t.resumeRecord ch slot handle n i
      | _, _ => t.waitGroup ch slot handle
  onlyIf (x.job.isSome && hd.kind != .closed && hd.phys.isSome && decide (s.depthOf ch slot ≤ hd.drained) && decide (hd.drained < hd.named)) s t

/-- The handles for which a slot waits: those in the queue, and those the module itself is to resume with them (R79, R83). -/
def Chan.groupNeeds (k : Chan) (sl : Nat) : List Nat :=
  (List.range 4).filter (fun h => k.seqr.groupQ.any (fun e => e.slot == sl && e.handle == h) || (k.slot sl).toResume.contains h)

/-- One handle takes physical group `i`: its record moves back, or its opening mvm.a or resume starts. -/
def State.giveGroup (s : State) (c sl h i : Nat) : State :=
  let x := s.slot c sl
  match (x.handle h).record with
  | some n => s.resumeRecord c sl h n i
  | none =>
    match x.outs.find? (fun (o : Outst) => !o.started && handleOf o.word == some h) with
    | none => s
    | some o =>
      if opOf o.word = 0x20 then
        (s.openGroup c sl h i (if bit o.word 55 then .expert else .group) (bit o.word 53)).startMvmA c sl o
      else
        match ((s.chan c).recordsFor sl h).head? with
        | some n => (s.resumeRecord c sl h n i).begun c sl o.seq
        | none => s

/-- The slot that waits takes every group it waits for and goes on, unless it has halted or ended. -/
def State.grantGroups (s : State) (c sl : Nat) : State :=
  let l := (s.chan c).groupNeeds sl
  let s := s.modChan c (fun k => { k with seqr := { k.seqr with groupQ := k.seqr.groupQ.filter (fun e => e.slot ≠ sl) } })
  let s := l.foldl (fun s h => match (s.chan c).freeGroup with | some i => s.giveGroup c sl h i | none => s) s
  if (s.slot c sl).job.isNone then s
  else s.modSlot c sl (fun x => { x with block := match x.block with | .group _ => .none | .resuming => .none | b => b, blockedFrames := 0 })

/-- GROUP_GRANT: the longest-waiting slot of a channel takes the physical groups it waits for, once as many are free: a slot that waits holds none (R79, R83). -/
def execGroupGrant (ch : Nat) (s : State) : Out :=
  match (s.chan ch).seqr.groupQ with
  | w :: _ => onlyIf (s.fitted ch && decide (((s.chan ch).groupNeeds w.slot).length ≤ (s.chan ch).freeGroups)) s (s.grantGroups ch w.slot)
  | [] => go s

/-! ### FACET_CHECK_RESULT (R288) -/

/-- The residual of block `b`: the checksum sum less the mean of the block's 128 data sums, exact. -/
def residual (sums : List (BitVec 32)) (b : Nat) : Val :=
  let data := ((sums.drop (128 * b)).take 128).foldl (fun a v => a.add (v32 v)) Val.zero
  (v32 (sums.getD (bankLanes + b) 0)).sub (data.mul (.fin false 1 128))

/-- Does block `b` pass check vector `k`? -/
def blockPasses (f : Facet) (sums : List (BitVec 32)) (k b : Nat) : Bool :=
  match f.cal[b]? with
  | none => true
  | some q =>
    let rho := decodeFloat .fp16 (q.rho.getD k 0).toNat
    let tau := decodeFloat .fp16 (q.tau.getD k 0).toNat
    ((residual sums b).sub rho).abs.le tau

/-- The outcome of a facet check held in a bank: failed blocks are checked once more, and a second failure is a detected failure. `failed` is the mask of the blocks that failed before, 0 for a first check. -/
def State.checkResult (s : State) (c t b : Nat) (r : Req) (k failed : Nat) : State :=
  let x := s.tile c t
  let sums := if b = 0 then x.sums0 else x.sums1
  let judged := (List.range 8).filter (fun i => failed == 0 || nfld failed i i == 1)
  let bad := judged.filter (fun i => !blockPasses (s.facet c t r.origin) sums k i)
  let s := (s.modTile c t (fun x => x.freeBank b)).count c 0x70
  if failed ≠ 0 then
    let s := s.countN c 0x71 (judged.length - bad.length) none
    if bad.isEmpty then s else (s.modChan c (fun q => { q with check := { q.check with failed := true } })).drain 0x01 c
  else if bad.isEmpty || s.failed then s
  else s.modTile c t (fun x => { x with wantCheck := (k + 4 * (bad.map (fun i => 2 ^ i)).sum, r.lfacet) :: x.wantCheck })

/-- FACET_CHECK_RESULT: the drain of a check MVM gives each block's residual. -/
def execFacetCheckResult (ch tile : Nat) (s : State) : Out :=
  let x := s.tile ch tile
  match x.bank0, x.bank1 with
  | .full r _, y =>
    match r.why, y with
    | .check k failed, _ => onlyIf (s.fitted ch) s (s.checkResult ch tile 0 r k failed)
    | _, .full q _ => (match q.why with | .check k failed => onlyIf (s.fitted ch) s (s.checkResult ch tile 1 q k failed) | _ => go s)
    | _, _ => go s
  | _, .full q _ => (match q.why with | .check k failed => onlyIf (s.fitted ch) s (s.checkResult ch tile 1 q k failed) | _ => go s)
  | _, _ => go s

end Sys2Proof.Machine
end

