-- ==== Sys2Proof/Machine/Calibrate.lean ====
section
/-! DEFINITION. The end of a facet's programming: its calibration by 64 MVMs (R174, R175, R288), acceptance, remap and second programming, or
retirement (R192, R194). -/

namespace Sys2Proof.Machine

/-! ### The calibration MVMs (R174) -/

/-- A facet as its calibration meets it: the codes in the cells, the remap table, its place. -/
structure Calib where
  codes : Sparse Nat
  remap : List (BitVec 32)
  tile : Nat
  facet : Nat
deriving DecidableEq, Repr

/-- Number of calibration MVMs. -/
def calMvms : Nat := 64

/-- One calibration MVM: its input row and the departures of its conversions. -/
structure CalRow where
  row : List Int
  errs : List ConvErr
deriving DecidableEq, Repr

/-- `n` rows of 1,024 codes from successive words of the check-vector generator (R175). -/
def checkRows : Nat → Word → List (List Int)
  | 0, _ => []
  | n + 1, x =>
    let l := words64 128 x
    l.flatMap wordCodes :: checkRows n (l.getLastD x)

/-- The 64 MVMs of a facet's calibration: rows 0 to 63 of its check vectors (R174, R175). -/
def Calib.rows (k : Calib) (errs : List (Nat × ConvErr)) : List CalRow :=
  (checkRows calMvms (checkSeed k.tile k.facet)).zipIdx.map (fun e =>
    { row := e.1, errs := (errs.filter (fun x => x.1 == e.2)).map Prod.snd })

/-- Lanes weighted by the places of their windows, summed. -/
def placed (l : List Lane) (lows : List Nat) : Int := (l.zip lows).foldl (fun a e => a + e.1.v * (2 ^ e.2 : Nat)) 0

/-- What a physical column delivers in a calibration MVM, before any gain: the place-weighted lanes of its windows, less its block's offset
reference. -/
def Calib.measured (k : Calib) (x : CalRow) (col : Nat) : Int :=
  let lows := (promoted x.row 8 4).map (fun l => l.getLastD 0)
  placed (lanesOf k.codes x.row x.errs 8 4 col) lows - placed (lanesOf k.codes x.row x.errs 8 4 (135 * (col / 135) + 133)) lows

/-- The ideal result of a physical column: exact, from the codes programmed. -/
def Calib.ideal (k : Calib) (x : CalRow) (col : Nat) : Int :=
  (columnCells k.codes col).foldl (fun t e => t + e.2 * x.row.getD e.1 0) 0

/-- The physical columns that carry the 128 data columns of block `b`. -/
def Calib.dataCols (k : Calib) (b : Nat) : List Nat := (List.range 128).map (fun j => physicalOf k.remap k.tile k.facet (128 * b + j))

/-- The points of a fit: ideal and measured value of each column in each MVM, with the MVM's full scale. -/
def Calib.points (k : Calib) (l : List CalRow) (cols : List Nat) : List (Int × Int × Nat) :=
  l.flatMap (fun x => cols.map (fun c => (k.ideal x c, k.measured x c, fullScale x.row)))

/-! ### Slopes and spread (R174) -/

/-- The least-squares slope of measured against ideal values, through the origin; none where every ideal value is 0. -/
def slopeOf (l : List (Int × Int × Nat)) : Option Val :=
  let d := (l.map (fun e => e.1 * e.1)).sum
  let n := (l.map (fun e => e.1 * e.2.1)).sum
  if d = 0 then none else some ((Val.ofInt n).div (Val.ofInt d))

/-- A value as FP16. -/
def f16 (v : Val) : BitVec 16 := BitVec.ofNat 16 (toFloat .fp16 v).1

/-- The sum of values. -/
def sumVal (l : List Val) : Val := l.foldl Val.add Val.zero

/-- Is the spread of the measured results about a slope at most 0.55 % of full scale: the root mean square of the departures, each as a fraction
of its MVM's full scale? -/
def spreadOk (l : List (Int × Int × Nat)) (slope : Val) : Bool :=
  let sq := l.map (fun e =>
    let d := ((Val.ofInt e.2.1).sub (slope.mul (Val.ofInt e.1))).mul (.fin false 1 e.2.2)
    d.mul d)
  (sumVal sq).le ((Val.ofInt l.length).mul (.fin false 3025 100000000))

/-- A block's fit: data gain, reference gain, and whether gains and spread are within their limits. -/
structure Fit where
  c : BitVec 16
  r : BitVec 16
  ok : Bool
deriving DecidableEq, Repr

/-- Does a gain lie within 0.90 to 1.10? -/
def gainOk (v : Val) : Bool := (Val.fin false 9 10).le v && v.le (.fin false 11 10)

/-- Steps 2 to 4 of a calibration for block `b` at the temperature factor `kappa`. A block whose ideal results are all 0 has no slope: its data
gain is a free value and passes. -/
def Calib.fit (k : Calib) (l : List CalRow) (kappa : Val) (b : Nat) : Fit :=
  let refs := k.points l [135 * b + 132]
  let data := k.points l (k.dataCols b)
  let r := ((slopeOf refs).getD (Val.ofInt 1)).div kappa
  match slopeOf data with
  | none => { c := Config.blankGain (1024 * (16 * k.tile + k.facet) + b), r := f16 r, ok := gainOk (decodeFloat .fp16 (f16 r).toNat) }
  | some s =>
    let c := s.div kappa
    { c := f16 c, r := f16 r, ok := gainOk (decodeFloat .fp16 (f16 r).toNat) && gainOk (decodeFloat .fp16 (f16 c).toNat) && spreadOk data s }

/-! ### Residuals and thresholds (R288) -/

/-- The ideal residual of a block: its checksum column's ideal result less the mean of its data columns'. -/
def Calib.idealResidual (k : Calib) (x : CalRow) (b : Nat) : Val :=
  (Val.ofInt (k.ideal x (135 * b + 134))).sub (.fin (decide (((k.dataCols b).map (k.ideal x)).sum < 0)) ((k.dataCols b).map (k.ideal x)).sum.natAbs 128)

/-- The residuals of the eight blocks in a calibration MVM, corrected under R77 by the gains just found. -/
def Calib.residuals (k : Calib) (x : CalRow) (gains : List (BitVec 32)) : List Val :=
  let o := runMvm k.codes k.remap k.tile k.facet x.row 8 4 1 gains x.errs
  (List.range 8).map (residual (o.sums ++ o.checks))

/-- Variance of some values: that of the whole population. -/
def variance (l : List Val) : Val :=
  let n := Val.ofInt l.length
  let m := (sumVal l).div n
  ((sumVal (l.map (fun v => v.mul v))).div n).sub (m.mul m)

/-- The root of a value, cut off below 2^-30 with a sticky bit, so that rounding it to FP16 is exact. -/
def rootVal (v : Val) : Val :=
  match v with
  | .fin false n d =>
    let x := n * d * 4 ^ 30
    let r := isqrtFrom 400 x 0
    .fin false (2 * r + (if r * r = x then 0 else 1)) (2 * d * 2 ^ 30)
  | _ => v

/-- The larger of two values. -/
def maxVal (a b : Val) : Val := if a.lt b then b else a

/-- Thresholds of a block for the four check vectors: 0.30 % or six standard deviations, of the vector's full scale. -/
def thresholds (l : List CalRow) (fracs : List Val) : List (BitVec 16) :=
  let t := maxVal (.fin false 3 1000) (rootVal ((Val.ofInt 36).mul (variance fracs)))
  (l.take 4).map (fun x => f16 (t.mul (Val.ofInt (fullScale x.row))))

/-- A facet's whole calibration: what is stored for the eight blocks, and whether it is accepted (R174, R288). -/
def Calib.run (k : Calib) (errs : List (Nat × ConvErr)) (kappa : Val) : List BlockCal × Bool :=
  let l := k.rows errs
  let fits := (List.range 8).map (k.fit l kappa)
  let gains := fits.map (fun f => f32 ((Val.ofInt 1).div ((decodeFloat .fp16 f.c.toNat).mul kappa)))
  let res := l.map (fun x => k.residuals x gains)
  let cals := fits.zipIdx.map (fun e =>
    let mine := res.map (fun v => v.getD e.2 Val.zero)
    let fracs := (mine.zip l).map (fun v => (v.1.sub (k.idealResidual v.2 e.2)).mul (.fin false 1 (fullScale v.2.row)))
    { c := e.1.c, r := e.1.r, rho := (mine.take 4).map f16, tau := thresholds l fracs })
  (cals, fits.all Fit.ok)

/-! ### The outcome (R174, R192, R194) -/

/-- A facet's programming is accepted: calibration kept, A = 1, the envelope taken, age 0 (R174). -/
def State.acceptFacet (s : State) (g i : Nat) (r : PkgRec) (cal : List BlockCal) : State :=
  let codes := (s.chan r.ch).arr.readCodes r.tile r.facet
  let s := s.modFacet r.ch r.tile r.facet (fun x => { x with
    cal := cal, env := envelopes codes, age := 0, due := false, overdue := false, needsPackage := false, drift := false, stuck := [] })
  let s := (List.range 8).foldl (fun s b => s.modBlock r.ch r.tile r.facet b (fun _ => {})) s
  (s.modRec g i (fun r => { r with st := .done })).stagedNow g

/-- The facet is retired and its record waits for another free facet; a package that finds none left, even with those that refreshes held, fails
(R185, R194); a refresh waits (R197). -/
def State.retireFacet (s : State) (g i : Nat) (r : PkgRec) : State :=
  let s := (s.retireFacetAt r.ch r.tile r.facet).modRec g i (fun r => { r with st := .waiting, again := false })
  if (match s.host.pkgs[g]? with | some p => p.refresh | none => true) || !(s.freeFacets r.ch r.tile).isEmpty then s
  else
    let s := s.dropRefreshes (fun c t _ => c == r.ch && t == r.tile)
    if (s.freeFacets r.ch r.tile).isEmpty then s.failStaging else s

/-- A programming with failed columns or a failed calibration: each failed column is mapped and the record waits for its second programming; one
that cannot be mapped, or a second failure, retires the facet (R192, R194). -/
def State.reprogram (s : State) (g i : Nat) (r : PkgRec) (v : Pv) (o : ProgOutcome) : State :=
  let x := sget {} s.store.live.chans r.ch
  if v.second then s.retireFacet g i r
  else
    match mapAllFailed r.ch r.tile v.facet x (o.failed.map (fun e => (e.1, bnat e.2))) with
    | some y =>
      let s := (s.modStore r.ch (fun x => { x with remap := y.remap, badCols := y.badCols })).countN r.ch 0x3A (y.remap.length - x.remap.length) none
      s.modRec g i (fun r => { r with st := .waiting, again := true })
    | none => s.retireFacet g i r

/-- FACET_PROGRAM_DONE: the calibration of what has been programmed; acceptance, remap and second programming, or retirement (R174, R192, R194). -/
def execFacetProgramDone (ch tile : Nat) (o : ProgOutcome) (s : State) : Out :=
  match (s.tile ch tile).pv with
  | none => go s
  | some v =>
    match s.recOf ch tile v with
    | none => go s
    | some (g, i, r) =>
      let idle := s.modTile ch tile (fun x => { x with pv := none, st := .idle })
      let k : Calib := { codes := (s.chan ch).arr.readCodes tile v.facet, remap := (sget {} s.store.live.chans ch).remap, tile := tile, facet := v.facet }
      onlyIf (s.fitted ch && (s.tile ch tile).st == .programming && decide (1600 ≤ v.cycle)) s
        (let c := k.run o.errs (s.kappa ch tile)
         if o.failed.isEmpty && c.2 then idle.acceptFacet g i r c.1 else idle.reprogram g i r v o)

end Sys2Proof.Machine
end

