-- ==== Sys2Proof/Machine/Frame.lean ====
section
/-! DEFINITION. The tick and the parts of a frame (R223 to R230, R234, R237 to R241, R249 to R252, R281, R287 to R292). -/

namespace Sys2Proof.Machine

/-! ### Tick sources (R223 to R226) -/

/-- Distance of `a` from `b`. -/
def apart (a b : Nat) : Nat := (a - b) + (b - a)

/-- The offset of an edge from its expected time, saturating (R226). -/
def State.edgeOffset (s : State) : Int :=
  (clampInt (-32767) 32767 ((s.nowNs : Int) - ((s.clk.lastTick + s.periodNs : Nat) : Int))).1

/-- A tick comes from TICK_IN: its timestamp is 12 ns after the edge (R224). -/
def Clock.edgeTick (k : Clock) (now : Nat) : Clock :=
  { k with due := some (now + 12), locked := true, noEdge := 0, good := 0, holdover := false, rejoin := false }

/-- Is a time within the window of ±1.0 µs about another (R224)? -/
def inWindow (a b : Nat) : Bool := decide (apart a b ≤ 1000)

/-- TICK_IN_EDGE: inside the window it opens a frame, outside it is a glitch; in holdover edges are watched (R224, R225). -/
def execTickInEdge (s : State) : Out :=
  let k := s.clk
  let now := s.nowNs
  let p := s.periodNs
  let seen (k : Clock) : Clock := { k with lastEdge := some now, offset := s.edgeOffset }
  let spaced := match k.lastEdge with | some e => inWindow now (e + p) | none => false
  let opens := if k.first then decide (now ≤ k.lastTick + p + 1000) else inWindow now (k.lastTick + p)
  let f :=
    if k.holdover then
      if k.rejoin && opens then ({ s with clk := seen (k.edgeTick now) } : State).event 0x01 2 0
      else
        let g := if spaced then k.good + 1 else 0
        -- the window of a tick that came first is open for 1.0 µs after it (R226)
        { s with clk := { seen k with good := g, noEdge := if inWindow now k.lastTick then 0 else k.noEdge
                                      rejoin := k.rejoin || (decide (16 ≤ g) && decide (apart now k.lastTick ≤ 100)) } }
    else if fld k.cfg 30 30 = 0 then s
    else if opens then { s with clk := seen (k.edgeTick now) }
    else ({ s with clk := seen k } : State).countAll 0x50
  onlyIf (k.running && k.due.isNone) s f

/-- HOLDOVER_TIMEOUT: no edge by P + 1.0 µs: the internal generator ticks and holdover is set and reported once (R224). -/
def execHoldoverTimeout (s : State) : Out :=
  let k := s.clk
  let t := { s with clk := { k with due := some (k.lastTick + s.periodNs + 1000), locked := false, noEdge := satAdd 255 k.noEdge 1, holdover := true, rejoin := false, good := 0 } }
  onlyIf (k.running && k.due.isNone && fld k.cfg 30 30 == 1 && (!k.holdover || k.rejoin) &&
      decide (k.lastTick + s.periodNs + 1000 ≤ s.nowNs)) s
    (if k.holdover then t else t.event 0x01 1 0)

/-- How far a holdover tick may depart from its period: with 16 good edges, towards the nearest edge to come, by P ÷ 1,024 at most; else not
at all (R225). -/
def State.steer (s : State) : Int :=
  let p := s.periodNs
  match s.clk.lastEdge with
  | some e =>
    if s.clk.holdover && decide (16 ≤ s.clk.good) then
      let d : Int := (((e + p : Nat) : Int) - ((s.clk.lastTick + p : Nat) : Int)) % (p : Int)
      (clampInt (-((p / 1024 : Nat) : Int)) ((p / 1024 : Nat) : Int) (if 2 * d ≤ p then d else d - p)).1
    else 0
  | none => 0

/-- INTERNAL_TICK: the internal generator ticks every P; on the way out of holdover its frames are longer or shorter by up to P ÷ 1,024, towards
the edges (R223, R225, R226). The tick's timestamp is its time, kept within those bounds. -/
def execInternalTick (s : State) : Out :=
  let k := s.clk
  let due : Int := ((k.lastTick + s.periodNs : Nat) : Int)
  let lo := (due + min 0 s.steer).toNat
  let ts := min s.nowNs (due + max 0 s.steer).toNat
  let near := match k.lastEdge with | some e => decide (apart ts e ≤ 100) | none => false
  let edgeIn := match k.lastEdge with | some e => inWindow e (k.lastTick + s.periodNs) | none => false
  let f := { s with clk := { k with
    due := some ts, locked := false
    noEdge := if !k.holdover then k.noEdge else if edgeIn then 0 else satAdd 255 k.noEdge 1
    rejoin := k.holdover && decide (16 ≤ k.good) && near } }
  onlyIf (k.running && k.due.isNone && (k.holdover || fld k.cfg 30 30 == 0) && !k.rejoin && decide (lo ≤ s.nowNs)) s f

/-! ### What takes effect at a tick (R374) -/

/-- Counters and settings of the clock at a tick with timestamp `ts`. -/
def State.tickClock (s : State) (ts : Nat) : State :=
  let cfg := s.clk.cfgNext.getD s.clk.cfg
  let leave := s.clk.holdover && fld cfg 30 30 == 0
  let s := { s with
    clk := { s.clk with frame := s.clk.frame + 1, lastTick := ts, first := false, due := none, cfg := cfg, cfgNext := none
                        phase := .intake, holdover := s.clk.holdover && !leave, rejoin := s.clk.rejoin && !leave }
    out := { s.out with ticks := s.out.ticks + fld cfg 31 31 } }
  let s := if leave then s.event 0x01 2 0 else s
  if s.clk.holdover then s.countAll 0x51 else s

/-- Hub settings at a tick; a change of the fraction starts a new rotation and empties the lists (R286, R287, R292). -/
def State.tickHub (s : State) : State :=
  let h := s.hub
  let changed := h.fracNext.isSome && h.fracNext != some h.frac
  let s := { s with hub := { h with frac := h.fracNext.getD h.frac, fracNext := none, period := h.periodNext.getD h.period, periodNext := none
                                    debug := h.debugNext.getD h.debug, debugNext := none
                                    debugSince := if h.debugNext == some true then s.frameN % 2 ^ 48 else h.debugSince } }
  if changed then s.allChans (fun _ k => { k with check := { k.check with i := 0, list := [] } }) else s

/-- Channel registers at a tick (R240, R274, R275, R280, R392). -/
def Chan.tickRegs (k : Chan) : Chan :=
  { k with
    sched := { k.sched with cfg := k.sched.cfgNext.getD k.sched.cfg, cfgNext := none }
    sync := { k.sync with
      cfg := k.sync.cfgNext.getD k.sync.cfg, cfgNext := none
      link := k.sync.linkNext.foldl (fun m e => sput 0 m e.1 e.2) k.sync.link, linkNext := []
      bars := k.sync.barNext.foldl (fun m e => smod {} m e.1 (fun b => { b with cfg := e.2 })) k.sync.bars, barNext := [] }
    dbg := { k.dbg with cntSel := k.dbg.cntSelNext.foldl (fun m e => sput 0 m e.1 e.2) k.dbg.cntSel, cntSelNext := []
                        sample := k.dbg.sample } }

/-- Roles granted and ended at a tick (R312, R376). -/
def State.tickRoles (s : State) : State :=
  let s := s.host.ports.foldl (fun s e =>
    match e.2.roleNext with
    | none => s
    | some r =>
      let s := if r.role != .maker && s.hub.debugPort == e.1 && (s.port e.1).roleNow.role == .maker then s.endDebug else s
      (s.modPort e.1 (fun p => { p with roleNow := r, roleNext := none })).audit 0x01 e.1 0 (digestObject r.digest)) s
  let s := if s.hub.smbClearNext && (s.port smbPort).roleNow.role == .installer then s.endRole smbPort else s
  { s with hub := { s.hub with smbClearNext := false } }

/-- Function mailboxes settled before the tick open (R384). -/
def State.tickMbx (s : State) : State :=
  s.host.ports.foldl (fun s e =>
    if e.2.mbxNext then s.modPort e.1 (fun p => { p with mbxNext := false, mbxOpen := (s.fn e.1).st == .open }) else s) s

/-- Does a ring's register allow it to become active (R248)? -/
def State.ringValid (s : State) (f : Nat) (isCq : Bool) (n : Nat) : Bool :=
  let x := s.fn f
  if isCq then decide (fld (x.cqRing n).cfg 75 72 ≤ 10)
  else
    let r := x.sqRing n
    decide (fld r.cfg 75 72 ≤ 10) && decide (fld r.cfg 63 48 < r.size) && (x.cqRing r.cq).st == .active &&
    nfld (sget 0 s.host.rules.rings f).toNat n n == 1

/-- Offset of a ring register in its function page (R372). -/
def ringOff (isCq : Bool) (n : Nat) : Nat := (if isCq then 0x300 else 0x100) + 16 * n

/-- Activate a wanted ring, or leave it free and log the write; the first completion ring takes the notice of a waited open (R248, R265). -/
def State.activate (s : State) (f : Nat) (isCq : Bool) (n : Nat) : State :=
  let md (s : State) (g : Ring → Ring) : State := if isCq then s.modCq f n g else s.modSq f n g
  let r := if isCq then (s.fn f).cqRing n else (s.fn f).sqRing n
  if !r.want then s
  else if s.ringValid f isCq n then
    let s := md s (fun r => { r with want := false, st := .active, count := 0, host := 0, held := 0, wrote := false })
    match isCq, (s.fn f).notice with
    | true, some d =>
      (s.modFn f (fun x => { x with notice := none })).complete
        { fn := f, cq := n, ver := (s.fn f).ver, kind := 14, status := stEnableWaited, frame := s.frameN,
          detail := if 0x13 ≤ (s.fn f).ver then d else 0, reserved := false }
    | _, _ => s
  else (md s (fun r => { r with want := false, cfg := setFld r.cfg 69 69 0 })).errlog f 0x03 (ringOff isCq n + 8) 0 (BitVec.ofNat 64 (fld r.cfg 127 64))

/-- Functions open and rings activate at a tick (R245, R248, R265, R308). -/
def State.tickFns (s : State) : State :=
  s.host.fns.foldl (fun s e =>
    let f := e.1
    let x := s.fn f
    let s := if x.openNext && s.integ.svc != .draining then
        s.modFn f (fun x => { x with st := .open, openNext := false, waitFrom := none, notice := match x.waitFrom with | some w => some (s.frameN - w) | none => x.notice })
      else s
    if (s.fn f).st != .open then s
    else
      let s := (s.fn f).cqs.foldl (fun s r => s.activate f true r.1) s
      (s.fn f).sqs.foldl (fun s r => s.activate f false r.1) s) s

/-! ### Tests at a tick (R304 to R307) -/

/-- No inference of the channel runs: every bound slot is yielded. -/
def Chan.quiet (k : Chan) : Bool := k.seqr.slots.all (fun e => e.2.job.isNone || e.2.block == .yield)

/-- A tested channel is released at the first tick after its verdict (R307). -/
def State.testRelease (s : State) (c : Nat) : State :=
  let k := s.chan c
  if k.test.phase == .passed then
    let k := { k with
      test := { k.test with phase := .notDue, waited := 0, shedding := false, hot := false, lastPass := s.frameN % 2 ^ 48 }
      arr := { k.arr with tiles := k.arr.tiles.map (fun e => (e.1, if e.2.st = .testing then e.2.leaveTest (s.trim c e.1) else e.2)) } }
    let s : State := { s.setChan c k with integ := { s.integ with tested := none } }
    k.arr.tiles.foldl (fun s e => s.resumePv c e.1) s
  else s

/-- Start a due test, or count a frame of waiting (R304). -/
def State.testTick (s : State) (c : Nat) : State :=
  let s := s.modChan c (fun k => if k.test.runNext then { k with test := { k.test with runNext := false, phase := if k.test.phase == .notDue then .due else k.test.phase } } else k)
  let k := s.chan c
  if k.test.phase != .due then s
  else if s.integ.svc == .inService && s.integ.tested.isNone && k.quiet then
    let k := { k with
      test := { k.test with phase := .running, hot := false, shedding := false, began := some s.nowNs }
      mem := k.mem.flush
      arr := { k.arr with tiles := (List.range tileCount).foldl (fun m t => sput {} m t { sget ({} : Tile) m t with st := .testing, was := (sget ({} : Tile) m t).st }) k.arr.tiles } }
    ({ s.setChan c k with integ := { s.integ with tested := some c } } : State).count c 0x78
  else
    let s := s.modChan c (fun k => { k with test := { k.test with waited := satAdd 4095 k.test.waited 1, shedding := k.test.shedding || decide (1000 ≤ k.test.waited + 1) } })
    let s := s.count c 0x79
    if k.test.shedding then s.count c 0x7A else s

/-! ### Peers at a tick (R266, R267) -/

/-- The window's rules of a peer are valid. -/
def State.peerValid (s : State) (n : Nat) : Bool := bit (sget 0 s.host.rules.peers n) 0

/-- A HELLO on every valid window not yet answered, a CREDIT on every open one. -/
def State.tickPeers (s : State) : State :=
  if !s.linkUp || s.failed then s
  else s.host.rules.peers.foldl (fun s e =>
    if !bit e.2 0 then s
    else
      match (s.peer e.1).st with
      | .open => s.sendCredit e.1
      | .noVersion => s
      | .closed | .helloSent =>
        let s := s.modPeer e.1 (fun p => { p with st := .helloSent })
        let h : Hdr := { typ := 0, tag := 0x1310, epoch := s.frameN % 2 ^ 32, watermark := s.integ.wm % 2 ^ 32 }
        (s.sendPeer e.1 h []).openPeer e.1) s

/-- Sampling runs start at the tick after their descriptor (R397). -/
def State.tickSamples (s : State) : State :=
  s.allChans (fun _ k => { k with dbg := { k.dbg with sample := k.dbg.sample.map (fun r => if r.started then r else { r with started := true, startFrame := s.frameN }) } })

/-- A rotation frame of a channel: in service and not held by a test (R287). -/
def State.markRotation (s : State) : State :=
  s.allChans (fun _ k => { k with check := { k.check with isRotation := s.integ.svc == .inService && !k.held, failed := false, residue := [] } })

/-- TICK: the frame opens (R229): counters, settings, functions, rings, roles; maps switch; ages update; tests, budgets, programming; messages to peers. -/
def execTick (s : State) : Out :=
  match s.clk.due with
  | none => go s
  | some ts =>
    let s := s.tickClock ts
    let s := s.tickHub
    let s := s.allChans (fun _ k => k.tickRegs)
    let s := s.switchTick
    let s := s.ageUpdates
    let s := s.tickRoles
    let s := s.tickFns
    let s := s.tickMbx
    let s := (List.range s.channels).foldl State.testRelease s
    let s := (List.range s.channels).foldl State.testTick s
    let s := s.markRotation
    let s := (List.range s.channels).foldl State.setBudget s
    let s := s.startPrograms
    let s := s.startRefreshes
    let s := (List.range s.channels).foldl State.startMap s
    let s := s.allChans (fun c k => { k with facetStatus := (sget {} s.store.live.chans c).facetCounts })
    let s := s.tickSamples
    go s.tickPeers

/-! ### Intake (R234, R249 to R251) -/

/-- Stop a submission ring and write its notice (R249). -/
def State.stopRing (s : State) (f n : Nat) : State :=
  let r := (s.fn f).sqRing n
  (s.modSq f n (fun r => { r with st := .stopped })).complete
    { fn := f, cq := r.cq, ver := (s.fn f).ver, kind := 14, status := stUnsupported, cause := 0x24, frame := s.frameN, sq := n, reserved := false }

/-- Take the head a host gave for a completion ring; one past the tail stops the ring and every submission ring that names it (R251). -/
def State.takeHead (s : State) (f n head : Nat) : State :=
  let r := (s.fn f).cqRing n
  match r.st with
  | .active | .stopping =>
    if (r.count + 2 ^ 32 - head) % 2 ^ 32 ≤ r.size then s.modCq f n (fun r => { r with host := head })
    else
      let s := s.modCq f n (fun r => { r with st := if r.st == .active then .stopped else r.st })
      (s.fn f).sqs.foldl (fun s e => if e.2.st == .active && e.2.cq == n then s.stopRing f e.1 else s) s
  | _ => s

/-- The bindings of a function's rings are judged: an active ring whose binding a commit removed stops (R263). -/
def State.judgeBindings (s : State) (f : Nat) : State :=
  (s.fn f).sqs.foldl (fun s e =>
    if e.2.st == .active && nfld (sget 0 s.host.rules.rings f).toNat e.1 e.1 == 0 then s.modSq f e.1 Ring.stop else s) s

/-- Take descriptors from a submission ring (R241, R249, R250, R251). -/
def State.takeTail (s : State) (f n tail : Nat) : State :=
  let r := (s.fn f).sqRing n
  if r.st != .active then s
  else
    let offered := (tail + 2 ^ 32 - r.count) % 2 ^ 32
    if r.size < offered then s.stopRing f n
    else
      let q := (s.fn f).cqRing r.cq
      let m := min offered (min (fld r.cfg 63 48 + 1 - r.held) (q.freeEntries - 16))
      let s := s.modSq f n (fun r => { r with count := (r.count + m) % 2 ^ 32, held := r.held + m, host := tail })
      let s := s.modCq f r.cq (fun q => { q with held := q.held + m })
      { s with host := { s.host with fetchQ := s.host.fetchQ ++ (List.range m).map (fun i => (f, n, (r.count + i) % 2 ^ 32)) } }

/-- Bus addresses of the doorbell and head blocks (R248). -/
def Fn.dbellAddr (x : Fn) : Nat := fld x.dbell 127 72 * 256
/-- The head block. -/
def Fn.headAddr (x : Fn) : Nat := fld x.dbell 71 16 * 256

/-- One open function's intake: bindings judged, then completion heads, then tails in ring order; a block not returned or denied yields nothing
(R250, R261, R263). -/
def State.intakeFn (s : State) (f : Nat) (ds : List Doorbell) : State :=
  let s := s.judgeBindings f
  match ds.find? (fun d => d.fn == f), s.dmaOk f (s.fn f).dbellAddr 256 false with
  | some d, true =>
    let s := (List.range 32).foldl (fun s n => s.takeHead f n (d.words.getD (32 + n) 0).toNat) s
    (List.range 32).foldl (fun s n => s.takeTail f n (d.words.getD n 0).toNat) s
  | _, _ => s.countAll 0x88

/-- The facet checks and residue passes of a channel's rotation frame, and the cold reference MVMs, are wanted; a module that drains or has
drained wants none (R169, R287, R290, R295, R296). -/
def State.wantChecks (s : State) (c : Nat) : State :=
  let k := s.chan c
  let n := s.fracDen
  let per := 6144 / n
  let v := k.check.i / n
  let j := k.check.i % n
  let k := if !k.check.isRotation then k
    else (List.range per).foldl (fun k i =>
      let q := per * j + i
      let t := q % 384
      let l := q / 384
      if (sget {} k.arr.map (16 * t + l)).valid && !(k.tile t).wantCheck.contains (v, l) then
        k.setTile t { k.tile t with wantCheck := (k.tile t).wantCheck ++ [(v, l)] }
      else k) { k with check := { k.check with residue := List.range 8 } }
  let k := if s.failed then k else k.arr.cold.foldl (fun k cl => (List.range 48).foldl (fun k i => k.setTile (48 * cl + i) { k.tile (48 * cl + i) with wantRef := true }) k) k
  s.setChan c k

/-- Write the waiting completions that satisfy `p` and have room, in order. -/
def State.flushWhere (s : State) (p : Cpl → Bool) : State :=
  s.host.cpls.foldl (fun t e => if p e && t.cplRoom e then t.writeCpl e
    else { t with host := { t.host with cpls := t.host.cpls ++ [e] } }) { s with host := { s.host with cpls := [] } }

/-- INTAKE_CLOSE: the doorbells returned, descriptors taken, waiting completions written, carried candidates admitted with the memory errors that their prefetches meet, checks wanted (R214, R234, R250). -/
def execIntakeClose (x : Intake) (s : State) : Out :=
  let t := ({ s with clk := { s.clk with phase := .compute } } : State).freeWrites
  let t := if t.linkUp then t.openFns.foldl (fun t f => t.intakeFn f (if t.hostSecure then x.doorbells else [])) t else t
  let t := if t.writesNow then (t.flushRetract).flushWhere (fun e => !e.late) else t
  let t := x.ecc.foldl (fun t e => if Sys2Proof.Machine.Ecc.lpddr e.2 && t.fitted e.1 then t.ecc1 e.1 0 e.2 else t) t
  let t := (List.range t.channels).foldl State.admitCarried t
  let t := (List.range t.channels).foldl State.wantChecks t
  onlyIf (s.clk.running && s.clk.phase == .intake) s t

/-- A channel's yield mark has come: its margin before the end of compute (R229, R240). -/
def State.markDue (s : State) (c : Nat) : Bool :=
  decide (s.clk.lastTick + s.periodNs ≤ s.nowNs + 24000 + 1000 * fld (s.chan c).sched.cfg 7 0)

/-- YIELD_MARK: conditional yields of the channels whose mark has come are honoured from here on (R229, R237, R240). -/
def execYieldMark (s : State) : Out :=
  let t := { s with clk := { s.clk with phase := .yieldMark } }
  onlyIf ((s.clk.phase == .compute || s.clk.phase == .yieldMark) && (List.range s.channels).any s.markDue) s
    (t.allChans (fun c k => if s.markDue c then { k with sched := { k.sched with marked := true } } else k))

/-! ### The end of compute -/

/-- Admitted inferences still unbound are deferred (R229, R239). -/
def State.deferUnbound (s : State) (c : Nat) : State :=
  (s.chan c).jobs.foldl (fun s j => if j.kind = 1 ∧ j.stage = .admitted then s.defer c j else s) s

/-- Slots blocked at the end of compute for stall_limit frames end STALLED (R281). -/
def State.stallSlots (s : State) (c : Nat) : State :=
  (List.range 16).foldl (fun s sl =>
    let x := s.slot c sl
    match x.block with
    | .wait _ _ _ | .bar _ _ | .xrcv _ =>
      if x.blockedFrames + 1 < fld (s.chan c).sync.cfg 31 24 then s.modSlot c sl (fun x => { x with blockedFrames := x.blockedFrames + 1 })
      else
        let ctx := ((s.chan c).job? (x.job.getD 0)).map Job.ctx
        (s.count c 0x67 ctx).fault c sl 0x16 (x.pc - 1)
    | _ => s) s

/-- Undelivered exchange messages end their senders (R158). -/
def State.endSending (s : State) (c : Nat) : State :=
  (s.chan c).seqr.sending.foldl (fun s m =>
    let x := s.slot c m.slot
    match x.outs.find? (fun o => o.seq == m.seq) with
    | some o => s.endInf c m.slot stPeer 0x15 o.idx
    | none => if m.port < 256 then s else s.endInf c m.slot stPeer 0x15 (x.pc - 1)) s

/-- Requests to another module without a reply end their inferences (R125); one to another channel of this module runs on (R238). -/
def State.endExperts (s : State) (c : Nat) : State :=
  (s.chan c).seqr.experts.foldl (fun s r =>
    if r.peer.isNone && r.home == c && decide (16 ≤ r.dst) then
      match (s.slot c r.slot).outs.find? (fun o => o.seq == r.seq) with
      | some o => s.endInf c r.slot stPeer 0x15 o.idx
      | none => s
    else s) s

/-- Barrier arrivals still on their way to another channel end their inferences; those to a channel under test are held (R279, R306). -/
def State.endArrivals (s : State) (d : Nat) : State :=
  let k := s.chan d
  if k.held then s
  else
    let out := k.sync.barIn.filter (fun m => !m.release && m.src.peer.isNone && m.src.chan != d)
    let s := s.modChan d (fun k => { k with sync := { k.sync with barIn := k.sync.barIn.filter (fun m => m.release || m.src.peer.isSome || m.src.chan == d) } })
    out.foldl (fun s m =>
      match (s.chan m.src.chan).seqr.slots.find? (fun e => (match e.2.block with | .bar b _ => b == m.b | _ => false) &&
          ((s.chan m.src.chan).job? (e.2.job.getD 0)).map Job.ctx == some m.ctx) with
      | some e => s.endInf m.src.chan e.1 stPeer 0x15 (e.2.pc - 1)
      | none => s) s

/-- Is a message of an instruction to another module still unsent, or come back undelivered (R125, R158, R279)? -/
def State.undeliveredOut (s : State) (c sl : Nat) (o : Outst) : Bool :=
  let away (f : Bool) : Bool := f && !o.started && (s.chan c).startable c sl o
  match opOf o.word with
  | 0x48 => away (bit o.word 55)
  | 0x5A =>
    let far := ((s.chan c).barrier (fld o.word 47 40)).homeModule != s.hub.moduleId
    (o.started && o.ready) || away far
  | 0x20 => away (bit o.word 55 && (match s.dest c o.x.toNat (fld o.word 38 31) with | .module _ _ _ => true | _ => false))
  | _ => false

/-- Instructions whose message to another module has not been delivered end their inferences. -/
def State.endUnsent (s : State) (c : Nat) : State :=
  (List.range 16).foldl (fun s sl =>
    match (s.slot c sl).outs.find? (fun o => s.undeliveredOut c sl o) with
    | some o => s.endInf c sl stPeer 0x15 o.idx
    | none => s) s

/-- Inferences still running run on: counted once, their later use carried over (R238). -/
def State.overruns (s : State) (c : Nat) : State :=
  (List.range 16).foldl (fun s sl =>
    let x := s.slot c sl
    if x.job.isNone || x.block == .yield then s
    else
      let ctx := ((s.chan c).job? (x.job.getD 0)).map Job.ctx
      let s := if x.overran then s else s.count c 0x55 ctx
      (s.carryUse c sl).modSlot c sl (fun x => { x with overran := true, carrying := true })) s

/-- END_OF_COMPUTE: unbound inferences deferred, undelivered messages and unanswered requests end, stalled slots end, the rest run on (R229, R125, R158, R238, R279, R281). -/
def execEndOfCompute (s : State) : Out :=
  let t := { s with clk := { s.clk with phase := .endOfCompute } }
  let l := List.range t.channels
  let t := l.foldl State.deferUnbound t
  let t := l.foldl State.endSending t
  let t := l.foldl State.endExperts t
  let t := l.foldl State.endArrivals t
  let t := l.foldl State.endUnsent t
  let t := l.foldl State.stallSlots t
  let t := l.foldl State.overruns t
  onlyIf (s.clk.phase == .compute || s.clk.phase == .yieldMark) s t

/-! ### The check slot (R292) -/

/-- Have all the checks of a rotation frame run: no facet check wanted, running or unjudged, no residue pass left (R287, R291)? -/
def Chan.checksRan (k : Chan) : Bool :=
  let held (b : BankSt) : Bool := match b with | .full r _ => r.why.isCheck | _ => false
  k.check.residue.isEmpty && k.arr.tiles.all (fun e =>
    e.2.wantCheck.isEmpty && !(match e.2.run with | some r => r.req.why.isCheck | none => false) && !held e.2.bank0 && !held e.2.bank1)

/-- One channel's check slot: the frame joins the list, the own mark moves; whether it advanced. A frame whose checks have not all run confirms
nothing and is no frame of the rotation (R291; notes/assumptions/105). -/
def Chan.checkSlot (k : Chan) (frame d : Nat) : Chan × Bool :=
  if !k.check.isRotation || k.check.failed || !k.checksRan then (k, false)
  else
    let l := (k.check.list ++ [frame]).drop (k.check.list.length + 1 - d)
    let m := if d ≤ l.length then l.headD k.check.ownMark else k.check.ownMark
    ({ k with check := { k.check with list := l, ownMark := m, i := (k.check.i + 1) % d } }, m != k.check.ownMark)

/-- CHECK_SLOT: each channel records the rotation frame and updates its own mark; the module's watermark is the lowest (R292). -/
def execCheckSlot (s : State) : Out :=
  let t := { s with clk := { s.clk with phase := .checkDone } }
  let t := (List.range t.channels).foldl (fun t c =>
    let k := t.chan c
    let r := k.checkSlot t.frameN t.rotation
    let t := t.setChan c r.1
    if k.check.isRotation && !r.2 then t.count c 0x74 else t) t
  let wm := if t.inService then minOf 0 ((List.range t.channels).map (fun c => (t.chan c).check.ownMark)) else t.integ.wm
  onlyIf (s.clk.phase == .endOfCompute) s
    { t with integ := { t.integ with wm := wm, held := wm == t.integ.wm } }

/-! ### Emission (R229, R230, R252) -/

/-- Send the interrupt of a completion ring that was written in the frame (R252, R247). -/
def State.sendVector (s : State) (f n : Nat) : State :=
  let r := (s.fn f).cqRing n
  if r.wrote then
    let t := s.modCq f n (fun r => { r with wrote := false })
    if bit r.cfg 47 && decide (0x11 ≤ (s.fn f).ver) then { t with out := { t.out with msix := t.out.msix ++ [(f, fld r.cfg 46 36)] } } else t
  else s

/-- Send the interrupts of completion rings written in the frame, once for each. -/
def State.sendMsix (s : State) : State := s.host.fns.foldl (fun s e => e.2.cqs.foldl (fun s r => s.sendVector e.1 r.1) s) s

/-- EMISSION_CLOSE: the frame's remaining completions are written, then interrupts; where the host port refuses writes they are late (R229, R230, R252). -/
def execEmissionClose (refused : Bool) (s : State) : Out :=
  let t := if s.integ.svc == .draining && !s.integ.scanDone then s
    else if refused then { s with host := { s.host with cpls := s.host.cpls.map (fun e => { e with late := true }) } }
    else s.flushRetract.writeLate.flushCpls
  let t := t.sendMsix
  onlyIf (s.clk.phase == .checkDone) s { t with clk := { t.clk with phase := .guard } }

/-- LATE_COMPLETION_WRITE: completions held up by the host port are written first thing in the next frame and counted emit_late; those that waited
behind them follow (R230). -/
def execLateCompletionWrite (s : State) : Out :=
  let t := s.writeLate
  onlyIf (s.host.cpls.any (fun e => e.late) && s.clk.phase != .guard && (s.integ.svc != .draining || s.integ.scanDone)) s
    (if t.writesNow then t.flushRetract.flushWhere (fun e => !e.late) else t)

end Sys2Proof.Machine
end

