-- ==== Sys2Proof/Machine/Package.lean ====
section
/-! DEFINITION. Weight packages: reading one (R180, R181) and the whole check of R183. -/

namespace Sys2Proof.Machine

/-! ### Reading (R180, R181) -/

/-- AW5 codes of a facet record, keyed row * 1080 + column. -/
def readCodes (l : List Byte) : Sparse Nat :=
  (List.range 1024).flatMap (fun row =>
    ((unpackRow .aw5 1080 ((l.drop (675 * row)).take 675)).zipIdx).filterMap (fun e =>
      if e.1 = 0 then none else some (row * 1080 + e.2, e.1)))

/-- Read `n` facet records from byte `off`; the offset after them. -/
def readRecs (l : List Byte) : Nat → Nat → List PkgRec × Nat
  | 0, off => ([], off)
  | n + 1, off =>
    let h : BitVec 128 := BitVec.ofNat 128 (leNat ((l.drop off).take 16))
    let m := fld h 95 90
    let r : PkgRec := { hdr := h, codes := readCodes (l.drop (off + 16)), forced := takeNums 2 m (l.drop (off + 16 + 691200)) }
    let t := readRecs l n (upTo 64 (off + 16 + 691200 + 2 * m))
    (r :: t.1, t.2)

/-- Read `n` table sections from byte `off`; the offset after them. -/
def readSecs (l : List Byte) : Nat → Nat → List PkgSec × Nat
  | 0, off => ([], off)
  | n + 1, off =>
    let h : BitVec 128 := BitVec.ofNat 128 (leNat ((l.drop off).take 16))
    let len := fld h 63 32
    let t := readSecs l n (upTo 64 (off + 16 + len))
    ({ hdr := h, bytes := (l.drop (off + 16)).take len } :: t.1, t.2)

/-- A package as its header and bytes say; the offset where its body ends. -/
def readPkg (l : List Byte) : BitVec 128 × List PkgRec × List PkgSec × Nat :=
  let h : BitVec 128 := BitVec.ofNat 128 (leNat (l.take 16))
  let r := readRecs l (fld h 104 89) 64
  let q := readSecs l (fld h 88 81) r.2
  (h, r.1, q.1, q.2)

/-! ### The header (R180, R183) -/

/-- Does the header pass: version, module, fields, fitted channels, body length? -/
def State.pkgHdrOk (s : State) (h : BitVec 128) (bodyEnd len : Nat) : Bool :=
  fld h 127 120 == 1 && (bit h 119 || fld h 118 113 == s.hub.moduleId) &&
  fld h 80 80 == 0 && fld h 39 0 == 0 && (List.range 8).all (fun c => !(nfld (fld h 112 105) c c == 1) || s.fitted c) &&
  decide (fld h 79 40 + 16 = bodyEnd ∧ bodyEnd ≤ len)

/-! ### Facet records (R30, R40 to R43, R64, R181, R183, R193) -/

/-- A code of a record. -/
def PkgRec.codeAt (r : PkgRec) (row col : Nat) : Int := aw5 (sget 0 r.codes (row * 1080 + col))

/-- Is spare `n` of block `b` named by a forced entry of the record? -/
def PkgRec.forcedSpare (r : PkgRec) (b n : Nat) : Bool := r.forced.any (fun w => nfld w 15 13 == b && nfld w 12 11 == n)

/-- One block's row: gain +8, offset 0, unforced spares 0, the checksum code. -/
def PkgRec.rowOk (r : PkgRec) (row b : Nat) : Bool :=
  let at' (i : Nat) : Int := r.codeAt row (135 * b + i)
  at' 132 == 8 && at' 133 == 0 && (List.range 4).all (fun n => r.forcedSpare b n || at' (128 + n) == 0) &&
  at' 134 == checksumOf ((List.range 128).map at')

/-- Forced entries: reserved bits zero, each spare and each position of a block named once. -/
def forcedOk : List Nat → Bool
  | [] => true
  | w :: ws => nfld w 3 0 == 0 &&
    ws.all (fun v => nfld v 15 13 != nfld w 15 13 || (nfld v 12 11 != nfld w 12 11 && nfld v 10 4 != nfld w 10 4)) && forcedOk ws

/-- The facets that the records of a tile would take now, in their order: fewest programmings first, lowest number on a tie (R185). -/
def State.facetOrder (s : State) (c t : Nat) : List Nat :=
  sortBy (fun a b => decide ((s.facet c t a).count < (s.facet c t b).count ∨ (s.facet c t a).count = (s.facet c t b).count ∧ a ≤ b)) (s.freeFacets c t)

/-- A replicated record's group: exactly r records with one factor, on distinct tiles of one channel, with the same codes (R64). -/
def groupOk (l : List PkgRec) (r : PkgRec) : Bool :=
  let n := 2 ^ fld r.hdr 111 110
  let g := l.filter (fun q => fld q.hdr 111 110 != 0 && fld q.hdr 109 96 == fld r.hdr 109 96)
  n == 1 || (decide (g.length = n) && g.all (fun q => q.ch == r.ch && fld q.hdr 111 110 == fld r.hdr 111 110 && q.codes == r.codes) &&
    decide ((g.map PkgRec.tile).eraseDups.length = n))

/-- Facets a package may take on a tile: free ones, and those that refreshes hold (R185). -/
def State.facetsFor (s : State) (c t : Nat) : Nat :=
  (s.freeFacets c t).length +
  (s.host.pkgs.filter (fun p => p.refresh && p.recs.any (fun r => r.ch == c && r.tile == t && r.st != .waiting))).length

/-- Do a record's forced entries meet none of the facet it would take now (R183, R193)? Facets that refreshes hold are not judged. -/
def State.forcedFree (s : State) (l : List PkgRec) (i : Nat) (r : PkgRec) : Bool :=
  let n := ((l.take i).filter (fun q => q.ch == r.ch && q.tile == r.tile)).length
  match (s.facetOrder r.ch r.tile)[n]? with
  | some f => forcedFits (sget {} s.store.live.chans r.ch) r.tile f r.forced
  | none => true

/-- Does record `i` pass every check? -/
def State.recOk (s : State) (h : BitVec 128) (l : List PkgRec) (i : Nat) (r : PkgRec) : Bool :=
  let before := l.take i
  s.fitted r.ch && nfld (fld h 112 105) r.ch r.ch == 1 && decide (r.tile < 384) && fld r.hdr 111 110 != 3 &&
  decide (fld r.hdr 95 90 ≤ 32) && fld r.hdr 89 0 == 0 && r.codes.all (fun e => e.2 != 16) &&
  (List.range 1024).all (fun row => (List.range 8).all (fun b => r.rowOk row b)) && forcedOk r.forced && s.forcedFree l i r &&
  before.all (fun q => !(q.ch == r.ch && q.tile == r.tile && q.lfacet == r.lfacet)) && groupOk l r &&
  decide ((before.filter (fun q => q.ch == r.ch && q.tile == r.tile)).length < s.facetsFor r.ch r.tile)

/-! ### Table sections (R118, R181, R182, R186) -/

/-- Do the resident experts of a section name only valid logical facets? -/
def residentsOk (map : Sparse FMap) (bytes : List Byte) : Bool :=
  (List.range 4096).all (fun e => (List.range 256).all (fun p =>
    match Config.resident bytes e p with
    | some (t, l, _) => (sget {} map (16 * t + l)).valid
    | none => true))

/-- Bytes of the sections of a generation of a table store (R182). -/
def Tables.size (x : Tables) : Nat := (x.parts.map Prod.snd).sum + x.residents.length + (x.tensors.map Prod.snd).sum

/-- Reserved bits of the directory entries of a section are zero (R8, R123). -/
def directoryOk (bytes : List Byte) : Bool :=
  (List.range ((bytes.length + 7) / 8)).all (fun i =>
    let e := leNat ((bytes.drop (8 * i)).take 8)
    nfld e 53 48 == 0 && nfld e 35 0 == 0)

/-- Does section `i` pass? -/
def State.secOk (s : State) (h : BitVec 128) (l : List PkgSec) (i : Nat) (q : PkgSec) : Bool :=
  let c := fld q.hdr 123 121
  let off := fld q.hdr 95 64
  let len := fld q.hdr 63 32
  s.fitted c && nfld (fld h 112 105) c c == 1 && fld q.hdr 120 96 == 0 && fld q.hdr 31 0 == 0 && off % 64 == 0 &&
  (match fld q.hdr 127 124 with
    | 1 => decide (off + len ≤ 32768) && directoryOk q.bytes
    | 2 => decide (len ≤ 1048576) && residentsOk (s.chan c).arr.map q.bytes
    | 3 => decide (off + len ≤ 491520)
    | 4 => decide (len ≤ 4194304 ∧ off + len ≤ 536870912)
    | _ => false) &&
  decide ((((l.take (i + 1)).filter (fun e => fld e.hdr 123 121 == c)).foldl Tables.enter (s.store.tables' c)).size ≤ 67108864)

/-! ### The whole check -/

/-- Why a package is refused: nothing; before any record; at a record; at a section. -/
inductive PkgFault where
  | none | header | record (n : Nat) | tableSec (n : Nat)
deriving DecidableEq, Repr

/-- The check of R183, in its order. -/
def State.pkgFault (s : State) (l : List Byte) (sigOk : Bool) : PkgFault :=
  let p := readPkg l
  if !sigOk || !s.pkgHdrOk p.1 p.2.2.2 l.length then .header
  else
    match p.2.1.zipIdx.find? (fun e => !s.recOk p.1 p.2.1 e.2 e.1) with
    | some e => .record e.2
    | none =>
      match p.2.2.1.zipIdx.find? (fun e => !s.secOk p.1 p.2.2.1 e.2 e.1) with
      | some e => .tableSec e.2
      | none => .none

end Sys2Proof.Machine
end

