-- ==== Sys2Proof/Machine/Context.lean ====
section
/-! DEFINITION. Descriptors: their fetch and checks (R247, R250, R253, R254), contexts (R199 to R203), state movement (R211,
R212), loads (R183, R184, R130), sampling runs (R397), input and binding (R132, R236, R254), release (R202, R218, R282). -/

namespace Sys2Proof.Machine

/-! ### Fetching (R250, R254) -/

/-- Bus address of the descriptor at a count of a submission ring. -/
def Ring.descAddr (r : Ring) (pos : Nat) : Nat := fld r.cfg 127 76 * 4096 + 64 * (pos % r.size)

/-- The count at the head of the fetch queue, where it is one of ring `sq` of `fn`. -/
def State.fetchPos (s : State) (fn sq : Nat) : Option Nat :=
  match s.host.fetchQ with
  | (f, q, p) :: _ => if f = fn ∧ q = sq then some p else none
  | [] => none

/-- Take the head off the fetch queue. -/
def State.popFetch (s : State) : State := { s with host := { s.host with fetchQ := s.host.fetchQ.drop 1 } }

/-- After a function's last fetch of the frame its head block is written, or skipped and counted where denied (R250, R261). -/
def State.headBlock (s : State) (fn : Nat) : State :=
  if s.host.fetchQ.any (fun e => e.1 == fn) then s
  else
    let x := s.fn fn
    if s.dmaOk fn x.headAddr 128 true then s.hostWrite x.headAddr ((List.range 32).flatMap (fun n => leBytes 4 (x.sqRing n).count))
    else s.countAll 0x89

/-- What a fetch brought. -/
inductive Got where
  | failed (status cause : Nat)
  | desc (d : BitVec 512)

/-- The outcome of a fetch under the windows in force. -/
def State.got (s : State) (fn sq pos : Nat) (f : Fetch) : Got :=
  if s.dmaOk fn (((s.fn fn).sqRing sq).descAddr pos) 64 false then
    match if s.hostSecure then f else .ca with
    | .data d => .desc d
    | .ur | .ca => .failed stProtection 0x11
    | .poison => .failed stPoisoned 0x10
  else .failed stProtection 0x11

/-- A fetch that brought no descriptor completes its position (R254). -/
def State.failFetch (s : State) (fn sq pos status cause : Nat) : State :=
  (s.sqDone fn sq).complete
    { fn := fn, cq := ((s.fn fn).sqRing sq).cq, ver := (s.fn fn).ver, status := status, cause := cause, frame := s.frameN, sq := sq, pos := pos }

/-! ### Checks (R8, R247, R253, R254, R397) -/

/-- Fields that a kind uses. -/
def descFields (kind : Nat) : List (Nat × Nat) :=
  [(511, 500), (447, 416)] ++
  (match kind with
    | 1 => [(495, 478), (415, 301), (287, 173)]
    | 2 => [(495, 478), (351, 302), (287, 224)]
    | 3 | 4 => [(495, 478)]
    | 5 | 6 => [(495, 478), (415, 307)]
    | 7 => [(495, 478), (415, 352)]
    | 8 | 9 => [(415, 312)]
    | 10 => [(415, 277)]
    | _ => [])

/-- Are all other bits zero? -/
def descBitsOk (d : BitVec 512) (kind : Nat) : Bool :=
  (List.range 512).all (fun i => !bit d i || (descFields kind).any (fun e => decide (e.2 ≤ i ∧ i ≤ e.1)))

/-- b14 of an INFER descriptor: the input packed at offset 0 of the window (R132). -/
def inputBd (d : BitVec 512) : BitVec 128 := mkBd 0 (fld d 351 348) (fld d 347 336) (fld d 335 321) 0 0

/-- b15 of an INFER descriptor: the result buffer; bits 63:40 of its address stay with the job (notes/assumptions/30). -/
def resultBd (d : BitVec 512) : BitVec 128 := mkBd 4 (fld d 223 220) (fld d 219 208) (fld d 207 193) (fld d 192 173) (fld d 263 224)

/-- Is a code a channel-scope event (R390)? -/
def channelEvent (e : Nat) : Bool :=
  [(0x01, 0x08), (0x10, 0x17), (0x20, 0x26), (0x28, 0x2E), (0x30, 0x34), (0x38, 0x3E), (0x40, 0x48), (0x52, 0x58), (0x60, 0x68),
   (0x70, 0x74), (0x77, 0x7A), (0x83, 0x84), (0x90, 0x91)].any (fun r => decide (r.1 ≤ e ∧ e ≤ r.2))

/-- Are a kind's fields in range (R200, R253, R396)? -/
def State.descRangeOk (s : State) (d : BitVec 512) (kind : Nat) : Bool :=
  match kind with
  | 1 => decide (fld d 351 348 ≤ 8 ∧ fld d 223 220 ≤ 8) && decide (bdExtent (inputBd d) ≤ windowBytes)
  | 2 => decide (1 ≤ fld d 351 345 ∧ fld d 351 345 ≤ 64) && decide (fld d 344 338 ≤ fld d 351 345) && fld d 337 336 != 3 && fld d 335 320 != 0
  | 5 | 6 => fld d 351 330 % 64 == 0 && fld d 329 307 % 64 == 0 && decide (64 ≤ fld d 329 307 ∧ fld d 329 307 ≤ 4194304)
  | 10 => !s.light && fld d 415 352 % 4096 == 0 && decide (8 ≤ fld d 351 347 ∧ fld d 351 347 ≤ 20) && s.fitted (fld d 346 344) &&
      channelEvent (fld d 343 336) && fld d 335 312 != 0 && fld d 311 296 != 0
  | _ => decide (1 ≤ kind ∧ kind ≤ 9)

/-- Does a version serve the function and the kind (R247)? -/
def State.verOk (s : State) (fn ver kind : Nat) : Bool :=
  ver / 16 == 1 && decide (ver ≤ (s.fn fn).ver) && (kind != 10 || decide (0x12 ≤ ver))

/-- The checks of a job at its fetch, in the order version, fields, who may submit, channel, ownership, service, life, range, lost record: the status and cause of the first failure. -/
def State.verdictOf (s : State) (j : Job) : Option (Nat × Nat) :=
  let k := j.kind
  if !s.verOk j.fn j.ver k then some (stUnsupported, 0x20)
  else if k = 10 ∧ j.fn ≠ 0 then some (stProtection, 0x23)
  else if !descBitsOk j.desc k || !s.descRangeOk j.desc k then some (stUnsupported, 0x21)
  else if (k = 8 ∨ k = 9) ∧ !s.hasRight j.fn .installer (k - 8) then some (stProtection, 0x23)
  else if k ≤ 7 ∧ !s.fitted (j.ctx / 32768) then some (stUnsupported, 0x14)
  else if k ≤ 7 ∧ !s.owns j.fn j.ctx then some (stProtection, 0x22)
  else if (s.integ.svc = .draining ∨ s.integ.svc = .drained) ∧ !(k == 4 || k == 5 || k == 7) then some (stUnsupported, 0x27)
  else if k = 2 ∧ (s.ctx j.ctx).poisonSrc = 3 then some (stPoisoned, 0x10)
  else if 8 ≤ k ∨ k = 2 ∨ k = 7 then none
  else
    let x := s.ctx j.ctx
    if x.life ≠ .open then some (stNoContext, 0)
    else if k = 4 then none
    else if x.poisonSrc = 3 then some (stPoisoned, 0x10)
    else if (k = 5 ∨ k = 6) ∧ x.blobPages * 65536 < j.blobOff + j.length then some (stUnsupported, 0x25)
    else none

/-! ### What a taken descriptor becomes -/

/-- A new job with the next number. -/
def State.newJob (s : State) (fn sq pos : Nat) (d : BitVec 512) : Job :=
  { id := s.host.nextJob, fn := fn, sq := sq, pos := pos, desc := d, taken := s.frameN, stage := .ordered }

/-- Give the job its number. -/
def State.countJob (s : State) : State := { s with host := { s.host with nextJob := s.host.nextJob + 1 } }

/-- Complete a descriptor at its fetch. -/
def State.endFetched (s : State) (j : Job) (status cause : Nat) (detail : Nat := 0) : State :=
  (s.sqDone j.fn j.sq).complete { s.jobCpl j 0 status cause with detail := detail }

/-- Put a job into its context's sequence and run the sequence as far as it goes (R18). -/
def State.enqueue (s : State) (j : Job) : State :=
  (s.modChan (j.ctx / 32768) (fun k => { k with jobs := k.jobs ++ [j] })).advance j.ctx

/-- A failed descriptor: with a fitted context it takes its place in the sequence, else it completes at once (R254). -/
def State.refuse (s : State) (j : Job) (v : Nat × Nat) : State :=
  if 1 ≤ j.kind ∧ j.kind ≤ 7 ∧ s.fitted (j.ctx / 32768) then s.enqueue { j with verdict := some v }
  else s.endFetched j v.1 v.2

/-- The shared course of a descriptor command: the fetch, a failed fetch, the record read (R218), the checks, then `run` on the job. -/
def State.fetched (s : State) (fn sq : Nat) (f : Fetch) (kinds : List Nat) (run : State → Job → State) : State :=
  match s.fetchPos fn sq with
  | none => s
  | some pos =>
    match s.got fn sq pos f with
    | .failed a b => ((s.popFetch).failFetch fn sq pos a b).headBlock fn
    | .desc d =>
      let j := s.newJob fn sq pos d
      if !kinds.contains j.kind then s
      else
        let s := s.popFetch.countJob
        let s := if 1 ≤ j.kind ∧ j.kind ≤ 7 ∧ s.fitted (j.ctx / 32768) then s.readRec j.ctx else s
        let s := match s.verdictOf j with
          | some v => s.refuse j v
          | none => run s j
        s.headBlock fn

/-! ### INFER (R235, R241) -/

/-- Give back what intake took of a ring from a count on: its pool is full (R241). -/
def State.stopAt (s : State) (c : Nat) (j : Job) : State :=
  let rest := s.host.fetchQ.filter (fun e => e.1 == j.fn && e.2.1 == j.sq)
  let n := rest.length + 1
  let s : State := { s with host := { s.host with fetchQ := s.host.fetchQ.filter (fun e => !(e.1 == j.fn && e.2.1 == j.sq)) } }
  let q := ((s.fn j.fn).sqRing j.sq).cq
  let s := s.modSq j.fn j.sq (fun r => { r with count := j.pos, held := r.held - n })
  let s := s.modCq j.fn q (fun r => { r with held := r.held - n })
  s.count c 0x57

/-- Take an inference: carried, then admitted, or deferred (R235); after the end of compute nothing is admitted (R229). -/
def State.takeInfer (ecc : List Ecc) (s : State) (j : Job) : State :=
  let c := j.ctx / 32768
  let s := s.eccAll c 0 (ecc.filter Sys2Proof.Machine.Ecc.lpddr)
  if 8192 ≤ (s.chan c).carriedCount then s.stopAt c j
  else
    let j := { j with stage := .carried }
    let s := s.modChan c (fun k => { k with jobs := k.jobs ++ [j] })
    if s.clk.phase == .compute || s.clk.phase == .yieldMark then s.arrive c j else s.defer c j

/-- INFER: the descriptor is fetched and checked, then admitted, displacing, or deferred, with the memory errors that its prefetch meets (R210,
R214). Reserved kinds are refused here too. -/
def execInfer (fn sq : Nat) (f : InferFetch) (s : State) : Out :=
  go (s.fetched fn sq f.fetch [0, 1, 11, 12, 13, 14, 15] (State.takeInfer f.ecc))

/-- May every row of the input be read (R260)? -/
def State.inputOk (s : State) (j : Job) : Bool :=
  let b := inputBd j.desc
  let stride := if fld j.desc 320 301 = 0 then bdRowBytes b else fld j.desc 320 301
  (List.range (bdRows b)).all (fun i => s.dmaOk j.fn (j.addr + i * stride) (bdRowBytes b) false)

/-- INPUT_READ_DONE: the input of an admitted inference has been read, its rows given packed; a denied or failed read ends it (R254). -/
def execInputReadDone (ch id : Nat) (r : ReadRes) (s : State) : Out :=
  match (s.chan ch).job? id with
  | none => go s
  | some j =>
    if j.kind ≠ 1 ∨ j.stage ≠ .admitted ∨ j.input.isSome then go s
    else if s.inputOk j then
      match if s.hostSecure then r else .ca with
      | .data b => go (s.modJob ch id (fun j => { j with input := some (b.take (bdExtent (inputBd j.desc))) }))
      | .ur | .ca => go (s.endUnbound ch j stProtection 0x11)
      | .poison => go (s.endUnbound ch j stPoisoned 0x10)
    else go (s.endUnbound ch j stProtection 0x11)

/-! ### Binding (R131, R132, R200, R217, R236) -/

/-- A slot bound to a job that runs a program (R132): its window keeps its bytes but for the input. -/
def Slot.bindTo (x : Slot) (j : Job) (image : Nat) (p : Prog) (frame : Nat) : Slot :=
  let b := j.input.getD []
  let x : Slot := { win := x.win, winPoison := x.winPoison }
  let x := x.writeBytes 0 b
  { x with
    job := some j.id, image := image, boundAt := frame
    bds := (List.range 14).map (fun n => p.templates.getD n 0) ++ [inputBd j.desc, resultBd j.desc]
    use := { bytes := j.prefetched } }

/-- SLOT_BIND: the first admitted inference in R236 order binds to a free slot; one whose context is poisoned or whose program is not loaded completes without running (R200, R217). -/
def execSlotBind (ch slot : Nat) (s : State) : Out :=
  let ok := (s.clk.phase == .compute || s.clk.phase == .yieldMark) && s.inService && !(s.chan ch).held && decide (slot < 16) && (s.slot ch slot).job.isNone
  match ok, s.bindable ch with
  | true, j :: _ =>
    let s := s.readRec j.ctx
    let x := s.ctx j.ctx
    if x.poisonSrc = 1 ∨ x.poisonSrc = 3 then go (s.endUnbound ch j stPoisoned 0x10)
    else
      let cur := sget 0 (s.chan ch).seqr.current x.program
      if cur = 0 then go (s.endUnbound ch j stUnsupported 0x21)
      else
        let p := sget {} (s.chan ch).seqr.images (cur - 1)
        go ((s.modSlot ch slot (fun y => y.bindTo j (cur - 1) p s.frameN)).modJob ch j.id (fun j => { j with stage := .bound slot }))
  | _, _ => go s

/-! ### Contexts (R199 to R202) -/

/-- Open a context: refused where not free, where its class is below the function's (R262), or where the pool is short. -/
def State.openCtx (s : State) (j : Job) : State :=
  let c := j.ctx / 32768
  let d := j.desc
  let minClass := fld (sget 0 s.host.rules.rings j.fn) 33 32
  if (s.ctx j.ctx).life ≠ .free then s.endFetched j stUnsupported 0x21
  else if fld d 337 336 < minClass then s.endFetched j stProtection 0x22
  else
    match (s.chan c).mem.allocPages s.light (fld d 351 345) with
    | none => s.endFetched j stNoSpace 0
    | some ps =>
      let s := s.modChan c (fun k => { k with mem := { k.mem with usedPages := ps.foldl (fun m p => sput false m p true) k.mem.usedPages } })
      let s := s.modCtx j.ctx (fun _ =>
        { life := .open, blobPages := fld d 351 345, hotPages := fld d 344 338, prio := fld d 337 336, cadence := fld d 335 320
          program := fld d 319 314, routingBase := fld d 313 302, userTag := BitVec.ofNat 64 (fld d 287 224)
          pages := ps.map (fun p => { valid := true, zero := true, page := p }) })
      (s.count c 0x47 (some j.ctx)).endFetched j stOK 0

/-- CTX_OPEN: completes in the frame it is taken (R200). -/
def execCtxOpen (fn sq : Nat) (f : Fetch) (s : State) : Out := go (s.fetched fn sq f [2] State.openCtx)

/-- CTX_RESET: takes its place in the context's sequence (R201). -/
def execCtxReset (fn sq : Nat) (f : Fetch) (s : State) : Out := go (s.fetched fn sq f [3] State.enqueue)

/-- Take a release: the context is releasing from now on (R202). -/
def State.takeRelease (s : State) (j : Job) : State :=
  (s.modCtx j.ctx (fun x => { x with life := .releasing })).enqueue j

/-- CTX_RELEASE: takes effect when taken and completes by CTX_RELEASE_COMPLETE (R202). -/
def execCtxRelease (fn sq : Nat) (f : Fetch) (s : State) : Out := go (s.fetched fn sq f [4] State.takeRelease)

/-- The objects a context left behind, as argument2 values: vertices ascending, then barrier copies ascending (R282). -/
def Chan.residue (k : Chan) (ctx : Nat) : List Nat :=
  (k.sync.vtx.filter (fun e => e.2.value != 0 && e.2.signalled && e.2.lastCtx == ctx)).map (fun e => pack [(47, 16, e.2.value), (11, 0, e.1)]) ++
  (k.sync.bars.filter (fun e => e.2.orphaned && e.2.orphanCtx == ctx)).map (fun e => pack [(63, 63, 1), (47, 16, e.2.orphans), (11, 0, e.1)])

/-- Report and count the residue of a context. -/
def State.residueCheck (s : State) (c ctx : Nat) : State :=
  let l := (s.chan c).residue ctx
  let s := s.countN c 0x68 l.length (some ctx)
  ((l.take 16).zipIdx).foldl (fun s e =>
    s.event 0x09 1 c ctx (e.1 + if e.2 = 15 ∧ 16 < l.length then 2 ^ 62 else 0)) s

/-- Return a context's pages to the pool; a page whose entry is poisoned stays out and is reported (R202, R218). -/
def State.freeCtxPages (s : State) (c ctx : Nat) : State :=
  let x := s.ctx ctx
  x.pages.zipIdx.foldl (fun s e =>
    if !e.1.valid then s
    else if e.1.poisoned then s.event 0x02 4 c ctx e.2
    else s.modChan c (fun k => { k with mem := { k.mem.dropPages [e.1] with usedPages := sput false k.mem.usedPages e.1.page false } })) s

/-- Free a releasing context. -/
def State.freeCtx (s : State) (c ctx : Nat) : State :=
  let s := (s.residueCheck c ctx).freeCtxPages c ctx
  (s.setCtx ctx {}).count c 0x48 (some ctx)

/-- CTX_RELEASE_COMPLETE: after the last earlier descriptor the residue check runs, pages return, the record resets, the release completes (R202). -/
def execCtxReleaseComplete (ctx : Nat) (s : State) : Out :=
  let c := ctx / 32768
  match (s.chan c).jobs.find? (fun j => j.ctx == ctx) with
    | none => onlyIf ((s.ctx ctx).life == .releasing) s (s.freeCtx c ctx)
    | some j =>
      -- a record lost since the release was taken reads as open (R218): the release goes on
      if j.kind = 4 ∧ j.verdict.isNone then go (((s.freeCtx c ctx).finish c j stOK 0).advance ctx)
      else go s

/-- CTX_QUERY: writes the record to the host buffer in its turn (R199). -/
def execCtxQuery (fn sq : Nat) (f : Fetch) (s : State) : Out := go (s.fetched fn sq f [7] State.enqueue)

/-! ### State movement (R211, R212, R231) -/

/-- Take a get or put: charged its length at the fetch. -/
def State.takeMove (s : State) (j : Job) : State := (s.chargeMove (j.ctx / 32768) j.length).enqueue j

/-- STATE_GET: charged at its fetch, runs in its context's order (R211, R231). -/
def execStateGet (fn sq : Nat) (f : Fetch) (s : State) : Out := go (s.fetched fn sq f [5] State.takeMove)

/-- STATE_PUT: charged at its fetch, runs in its context's order (R211, R231). -/
def execStatePut (fn sq : Nat) (f : Fetch) (s : State) : Out := go (s.fetched fn sq f [6] State.takeMove)

/-- Copy a blob range to the host: poisoned granules are left unwritten; the first one's offset ends it POISONED (R211). -/
def State.getState (s : State) (c : Nat) (j : Job) : State :=
  let r := (s.chan c).mem.readBlob (s.ctx j.ctx) (16 + j.id) j.blobOff j.length
  let s := s.modChan c (fun k => { k with mem := r.mem })
  let s := (s.countN c 0x40 r.hits none).countN c 0x41 r.misses none
  let s := (List.range (j.length / 64)).foldl (fun s i =>
    if r.poison.contains (j.blobOff / 64 + i) then s else s.hostWrite (j.addr + 64 * i) ((r.bytes.drop (64 * i)).take 64)) s
  match r.poison with
  | [] => s.finish c j stOK 0
  | p :: ps => s.finish c j stPoisoned 0x10 (minOf p (p :: ps) * 64)

/-- Copy host bytes into a blob and commit them in one step, lines of a wholly staged set to LPDDR5X; a put of the whole blob clears poison and
taint (R211, R208, R302). -/
def State.putState (s : State) (c : Nat) (j : Job) (b : List Byte) : State :=
  let w := (s.chan c).mem.stageBlob (s.ctx j.ctx) (16 + j.id) j.blobOff (b.take j.length)
  let s := s.modChan c (fun k => { k with mem := ((s.ctx j.ctx).linesOf j.blobOff j.length).foldl Mem.fitLine (w.mem.commitStaged (16 + j.id)) })
  let s := (s.countN c 0x40 w.hits none).countN c 0x41 w.misses none
  let whole := j.blobOff == 0 && j.length == w.ctx.blobPages * 65536
  let s := s.modCtx j.ctx (fun _ => if whole then { w.ctx with poisoned := false, poisonGranule := 0, poisonSrc := 0, tainted := false } else w.ctx)
  s.finish c j stOK 0

/-- STATE_TRANSFER_END: the copy of a get or put ends, its ownership judged anew (R212); a record lost meanwhile leaves it nothing to read or write (R211, R218). -/
def execStateTransferEnd (ch id : Nat) (data : ReadRes) (s : State) : Out :=
  match (s.chan ch).job? id with
  | none => go s
  | some j =>
    if j.stage ≠ .moving then go s
    else if !s.owns j.fn j.ctx then go ((s.finish ch j stProtection 0x22).advance j.ctx)
    else if (s.ctx j.ctx).poisonSrc = 3 then go ((s.finish ch j stPoisoned 0x10).advance j.ctx)
    else if !s.dmaOk j.fn j.addr j.length (j.kind == 5) then go ((s.finish ch j stProtection 0x11).advance j.ctx)
    else if j.kind = 5 then go ((s.getState ch j).advance j.ctx)
    else
      match if s.hostSecure then data else .ca with
      | .data b => go ((s.putState ch j b).advance j.ctx)
      | .ur | .ca => go ((s.finish ch j stProtection 0x11).advance j.ctx)
      | .poison => go ((s.finish ch j stPoisoned 0x10).advance j.ctx)

/-! ### Loads (R130, R183, R184, R319, R333) -/

/-- Refuse a weight package with an audit entry. -/
def State.refusePkg (s : State) (j : Job) (digest : BitVec 256) (res detail : Nat) : State :=
  (s.audit 0x11 j.fn res (digestObject digest)).endFetched j stUnsupported 0x21 detail

/-- Take a LOAD_WEIGHTS: queue, audit and store allow it, its package is read and checked, and waits its turn. -/
def State.takeWeights (pkg : ReadRes) (sigOk : Bool) (s : State) (j : Job) : State :=
  if 5 ≤ (s.host.pkgs.filter (fun p => !p.refresh)).length then s.endFetched j stDeferred 0x26
  else if s.auditFull then s.endFetched j stDeferred 0x28
  else if s.store.fault then
    -- none of the package is read, so the entry's object is nothing that the manual states
    let d := s.draw
    (d.2.audit 0x11 j.fn 0x07 d.1).endFetched j stWeightFailed 0x29
  else if !s.dmaOk j.fn j.addr (fld j.desc 351 312) false then s.endFetched j stProtection 0x11
  else
    match pkg with
    | .ur | .ca => s.endFetched j stProtection 0x11
    | .poison => s.endFetched j stPoisoned 0x10
    | .data b =>
      let b := b.take (fld j.desc 351 312)
      let dg := Config.shake256 b
      match s.pkgFault b sigOk with
      | .header => let r := s.draw; r.2.refusePkg j dg (if sigOk then 0x06 else 0x03) r.1
      | .record n => s.refusePkg j dg 0x06 (n % 65536)
      | .tableSec n => s.refusePkg j dg 0x06 (65536 + n % 65536)
      | .none =>
        let p := readPkg b
        { s with host := { s.host with
          jobs := s.host.jobs ++ [j]
          pkgs := s.host.pkgs ++ [{ job := j.id, fn := j.fn, mask := fld p.1 112 105, digest := dg, recs := p.2.1, secs := p.2.2.1 }] } }

/-- LOAD_WEIGHTS: the package, read into the module, is verified whole and waits to be staged (R183, R184). -/
def execLoadWeights (fn sq : Nat) (f : Fetch) (pkg : ReadRes) (sigOk : Bool) (s : State) : Out :=
  go (s.fetched fn sq f [8] (State.takeWeights pkg sigOk))

/-- The first failing program of a package: the detail of the refusal (R130). -/
def State.progsFault (s : State) : List ProgFill → Option Nat
  | [] => none
  | p :: ps =>
    if !s.fitted p.ch || decide (64 ≤ p.number) then some 0xFFFF
    else match progFault p.number p.image (s.chan p.ch).arr.map with
      | some i => some i
      | none => s.progsFault ps

/-- Enter every program of a package. -/
def State.enterProgs (s : State) (l : List ProgFill) : State :=
  l.foldl (fun s p => s.modChan p.ch (fun k => k.enterProg (readProg p.number p.image))) s

/-- Take a LOAD_PROGRAM: checked whole; every store changes, or none (R128, R130, R131). -/
def State.takeProgs (progs : List ProgFill) (sigOk : Bool) (s : State) (j : Job) : State :=
  let dg := Config.shake256 (progs.flatMap (fun p => p.image))
  let no (s : State) (res detail : Nat) : State := (s.audit 0x13 j.fn res (digestObject dg)).endFetched j stUnsupported 0x21 detail
  if s.auditFull then s.endFetched j stDeferred 0x28
  else if !s.dmaOk j.fn j.addr (fld j.desc 351 312) false then s.endFetched j stProtection 0x11
  else if !sigOk then no s 0x03 0xFFFF
  else
    match s.progsFault progs with
    | some d => no s 0x06 d
    | none =>
      let t := s.enterProgs progs
      if (List.range s.channels).all (fun c => decide ((t.chan c).seqr.wordsHeld ≤ 32768)) then
        let chains := (List.range s.channels).foldl (fun m c =>
          if progs.any (fun p => p.ch == c) then smod 0 m (13 + c) (fun v => Config.sha3 (leBytes 64 v.toNat ++ leBytes 32 dg.toNat)) else m) t.sec.chains
        let t : State := { t with sec := { t.sec with chains := chains } }
        (t.audit 0x12 j.fn 0 (digestObject dg)).endFetched j stOK 0
      else no s 0x06 0xFFFF

/-- LOAD_PROGRAM: the package's programs are checked and entered together (R130, R131). -/
def execLoadProgram (fn sq : Nat) (f : Fetch) (progs : List ProgFill) (sigOk : Bool) (s : State) : Out :=
  go (s.fetched fn sq f [9] (State.takeProgs progs sigOk))

/-! ### Sampling runs (R397) -/

/-- Take a SAMPLE: the run starts at the next tick. -/
def State.takeSample (s : State) (j : Job) : State :=
  let c := fld j.desc 346 344
  if (s.chan c).dbg.sample.isSome then s.endFetched j stDeferred 0x26
  else
    let s : State := { s with host := { s.host with jobs := s.host.jobs ++ [j] } }
    s.modChan c (fun k => { k with dbg := { k.dbg with sample := some { job := j.id } } })

/-- SAMPLE: asks for a sampling run on one channel. -/
def execSample (fn sq : Nat) (f : Fetch) (s : State) : Out := go (s.fetched fn sq f [10] State.takeSample)

/-- SAMPLE_RUN_END: at the tick that ends the run its records are written and it completes (R397). -/
def execSampleRunEnd (ch : Nat) (s : State) : Out :=
  match (s.chan ch).dbg.sample with
  | none => go s
  | some r =>
    let d := ((s.hostJob? r.job).getD {}).desc
    onlyIf (r.started && decide (r.startFrame + fld d 311 296 ≤ s.frameN)) s (s.endSample ch stOK 0)

end Sys2Proof.Machine
end

