-- ==== Sys2Proof/Machine/Finish.lean ====
section
/-! DEFINITION. Instructions complete (R138 to R140), yields and halts issue (R159, R160, R237), and inferences commit
(R160, R207, R212, R218, R261, R293). -/

namespace Sys2Proof.Machine

/-! ### What INSTRUCTION_COMPLETE waits for -/

/-- The resident entry of an mvm.d's tensor. -/
def Chan.tensorAt (k : Chan) (o : Outst) : Option Resident :=
  match tensorOf o with
  | none => none
  | some d => k.seqr.streams.find? (fun r => r.names d)

/-- Has everything an mvm.d reads arrived? A tensor a switch has evicted arrived before it. -/
def Chan.streamIn (k : Chan) (o : Outst) : Bool :=
  match k.tensorAt o with
  | some r => !r.waiting && decide (r.blocks ≤ r.arrived)
  | none => true

/-- Is the lookback row an mvm.a reads still pending? -/
def Slot.rowPending (x : Slot) (o : Outst) : Bool := match x.rowAt (codeAddr o) with | some r => !r.done | none => false

/-- May a started instruction complete? -/
def Chan.canFinish (k : Chan) (sl : Nat) (o : Outst) : Bool :=
  let x := k.slot sl
  o.started &&
  match opOf o.word with
  | 0x20 =>
    if (x.handle (fld o.word 20 19)).remote then o.ready
    else o.pending == 0 && !x.rowPending o
  | 0x21 => k.streamIn o
  | 0x28 => !bit o.word 55 || (o.ready && !x.outs.any (fun e => streams e o))
  | 0x48 | 0x59 | 0x5A => false
  | 0x58 => !o.ready
  | _ => true

/-! ### Small effects -/

/-- Remove an instruction from the outstanding list. -/
def State.dropOut (s : State) (c sl seq : Nat) : State :=
  s.modSlot c sl (fun x => { x with outs := x.outs.filter (fun o => o.seq ≠ seq) })

/-- The instruction completes: it leaves the list and its samples take their run time. -/
def State.retire (s : State) (c sl : Nat) (o : Outst) : State := (s.dropOut c sl o.seq).sampleDone c o.seq (s.nowNs - o.startedAt)

/-- Nanoseconds as the divided clock stretches them (R340). -/
def State.stretch (s : State) (c ns : Nat) : Nat := let l := s.levelOf c; ns * 16 * divisor l / (16 - skipped16 l)

/-- Add to a running total and count each multiple of 100 ns it passes (R390). -/
def State.total (s : State) (c code ns : Nat) (get : Dbg → Nat) (put : Dbg → Nat → Dbg) : State :=
  let a := get (s.chan c).dbg
  let s := s.modChan c (fun k => { k with dbg := put k.dbg (a + ns) })
  s.countN c code ((a + ns) / 100 - a / 100) none

/-! ### The digital engine -/

/-- A pass of the engine is charged: its time shared by its rows, and the running totals (R115, R139, R232, R390). -/
def State.chargePass (s : State) (c : Nat) (l : List (Nat × Outst)) : State :=
  match l with
  | [] => s
  | (_, o) :: _ =>
    let d := dims o
    let m := (l.map (fun e => (dims e.2).1)).sum
    let fw := bdFmt (o.bd (bnum o.word 40))
    let e := engineNs (opFmt o) m d.2.1 d.2.2 fw.width
    let dec := decodeNs s.light fw d.2.1 d.2.2
    let ns := max e.1 dec
    let s := l.foldl (fun s x => s.used c x.1 { eng := ns * (dims x.2).1 / m }) s
    let bound := decide (0 < e.2)
    let s := s.total c 0x28 (s.stretch c (if bound then e.1 - 24 - e.2 else e.1)) Dbg.busyNs (fun d n => { d with busyNs := n })
    let s := s.total c 0x29 (s.stretch c (if bound then e.2 + 24 else 0)) Dbg.weightNs (fun d n => { d with weightNs := n })
    if s.light && fw == .cb256 then s.total c 0x26 (s.stretch c dec) Dbg.tableNs (fun d n => { d with tableNs := n }) else s

/-- One member of a pass completes: poison that its tensor carries is consumed, else its output is written. -/
def State.finishMember (s : State) (c sl : Nat) (o : Outst) : State :=
  let k := s.chan c
  match k.tensorAt o with
  | some r =>
    if r.poison.isEmpty then (s.modSlot c sl (fun x => engineDone { k with tables := s.tablesAt c o.gen } x o)).retire c sl o
    else s.endAt c sl o stPoisoned 0x10 .outside
  | none => (s.modSlot c sl (fun x => engineDone { k with tables := s.tablesAt c o.gen } x o)).retire c sl o

/-- Every member of a pass completes together (R139). -/
def State.finishPass (s : State) (c lead : Nat) : State :=
  let l := (s.chan c).allOuts.filter (fun e => opOf e.2.word == 0x21 && e.2.started && e.2.pass == lead)
  l.foldl (fun s e => s.finishMember c e.1 e.2) (s.chargePass c l)

/-! ### quant.row -/

/-- Write measured rows and count them. -/
def State.finishMeasured (s : State) (c sl : Nat) (o : Outst) : State :=
  let rows := measuredRows (s.slot c sl) o
  let s := s.modSlot c sl (fun x => x.quantised o rows 0)
  let s := if bit o.word 55 then s.modSlot c sl (fun x => x.putLook o ((rows.headD {}).scale)) else s
  let s := s.countBy c 0x20 rows.length sl o
  let s := s.countBy c 0x24 (rows.map QRow.clipped).sum sl o
  s.countBy c 0x25 (rows.map QRow.nans).sum sl o

/-! ### Movement -/

/-- The window granules that the elements of row `i` copied from blob granule `g` reach. -/
def poisonTargets (src dst : BitVec 128) (i g : Nat) : List Nat :=
  let ws := (bdFmt src).width
  let wd := (bdFmt dst).width
  let a := bdBase src + i * bdStride src
  let lo := max a (64 * g) - a
  let hi := min (a + bdRowBytes src) (64 * g + 64) - a
  let e0 := lo * 8 / ws
  let e1 := min (bdElems src) ((hi * 8 + ws - 1) / ws)
  let b := bdBase dst + i * bdStride dst
  let x := b + e0 * wd / 8
  let y := b + (e1 * wd + 7) / 8
  if e1 ≤ e0 then [] else (List.range ((y + 63) / 64 - x / 64)).map (fun j => x / 64 + j)

/-- Copy one row of state into the window with its poison (R157). -/
def State.loadRow (s : State) (c sl : Nat) (o : Outst) (i : Nat) : State :=
  let src := o.bd (bnum o.word 44)
  let dst := o.bd (bnum o.word 40)
  let r := (s.chan c).mem.readBlob (s.ctx (s.slotCtx c sl)) sl (bdBase src + i * bdStride src) (bdRowBytes src)
  let l := (unpackRow (bdFmt src) (bdElems src) r.bytes).map (convert (bdFmt src) (bdFmt dst))
  let s := s.modChan c (fun k => { k with mem := r.mem })
  s.modSlot c sl (fun x =>
    let x := (x.putElems dst i 0 (l.map Prod.fst)).flag (flagsOf l)
    r.poison.foldl (fun x g => (poisonTargets src dst i g).foldl (fun (x : Slot) n => { x with winPoison := sput .none x.winPoison n (if r.sram.contains g then .outside else .blob g) }) x) x)

/-- ctx.ld completes; the record fetched by ctx.ld.r is read, checked for ownership and for loss (R157, R212, R218). -/
def State.finishLoad (s : State) (c sl : Nat) (o : Outst) : State :=
  let n := s.slotCtx c sl
  if bit o.word 55 then
    let s := s.readRec n
    let j := ((s.chan c).job? ((s.slot c sl).job.getD 0)).getD {}
    if !s.owns j.fn n then s.endAt c sl o stProtection 0x22
    else if (s.ctx n).poisonSrc = 3 then s.endAt c sl o stPoisoned 0x10
    else (s.modSlot c sl (fun x => { x with recDone := true })).retire c sl o
  else
    let s := (List.range (bdRows (o.bd (bnum o.word 44)))).foldl (fun s i => s.loadRow c sl o i) s
    (s.modChan c (fun k => { k with mem := k.mem.endFills (s.ctx n).pages })).retire c sl o

/-- Stage a list of byte ranges of a context's blob for a slot; what staging moves is its inference's traffic (R207, R232). -/
def State.stageAll (s : State) (c sl n : Nat) : List (Nat × List Byte) → State
  | [] => s
  | (a, b) :: l =>
    let w := (s.chan c).mem.stageBlob (s.ctx n) sl a b
    State.stageAll (((s.modChan c (fun k => { k with mem := w.mem })).setCtx n w.ctx).used c sl { bytes := w.moved }) c sl n l

/-- ctx.st completes: its rows are staged lines (R157, R208). -/
def State.finishStore (s : State) (c sl : Nat) (o : Outst) : State :=
  let n := s.slotCtx c sl
  let src := o.bd (bnum o.word 44)
  let dst := o.bd (bnum o.word 40)
  let r := convertRows (bdFmt src) (bdFmt dst) (rowsIn (s.slot c sl).win src)
  let rows := r.1.map (packRow (bdFmt dst))
  let l := if bdStride dst = bdRowBytes dst then [(bdBase dst, rows.flatten)]
    else rows.zipIdx.map (fun e => (bdBase dst + e.2 * bdStride dst, e.1))
  let s := (s.flags c sl r.2).stageAll c sl n l
  (s.modChan c (fun k => { k with mem := k.mem.endFills (s.ctx n).pages })).retire c sl o

/-! ### Messages -/

/-- Fill the rows of a buffer with a message's bytes. -/
def Slot.putBytes (x : Slot) (d : BitVec 128) (b : List Byte) : Slot :=
  (List.range (bdRows d)).foldl (fun x i =>
    let l := (b.drop (i * bdRowBytes d)).take (bdRowBytes d)
    if l.isEmpty then x else x.writeBytes (bdBase d + i * bdStride d) l) x

/-- Fill the rows of a buffer with a received message and its poison (R157, R215). -/
def Slot.received (x : Slot) (d : BitVec 128) (m : Msg) : Slot :=
  let x := x.putBytes d m.bytes
  if !m.poisoned then x
  else
    let gs := (List.range (bdRows d)).flatMap (fun i =>
      let a := bdBase d + i * bdStride d
      (List.range ((a + bdRowBytes d + 63) / 64 - a / 64)).map (fun j => a / 64 + j))
    { x with winPoison := gs.foldl (fun p g => sput .none p g .outside) x.winPoison }

/-! ### INSTRUCTION_COMPLETE -/

/-- What completes an mvm.a: the scales its handle will apply are known (R147). -/
def State.finishMvmA (s : State) (c sl : Nat) (o : Outst) : State :=
  let w := o.word
  let h := fld w 20 19
  let s := if bit w 55 && !((s.slot c sl).handle h).remote && (!bit w 54 || bit w 50) then
      s.modSlot c sl (fun x => x.setHandle h { x.handle h with rowScale := rowScaleOf x o }) else s
  s.retire c sl o

/-- A consumer completes: the statistics of its handle's mvm.a, its own effect, and the handle closed where it says so (R79, R94). -/
def State.finishConsumer (s : State) (c sl : Nat) (o : Outst) (f : Slot → Slot) : State :=
  let k := s.chan c
  let s := s.modSlot c sl (fun x =>
    f (match handleOf o.word with | some h => if consumes o.word then statsOfHandle k x h else x | none => x))
  let s := match handleOf o.word with | some h => if closes o.word then s.closeHandle c sl h else s | none => s
  s.retire c sl o

/-- The effect of an instruction that completes. -/
def State.finishNow (s : State) (c sl : Nat) (o : Outst) : State :=
  let k := s.chan c
  match opOf o.word with
  | 0x0D =>
    (s.modSlot c sl (fun x => x.setReg (rdOf o.word) (BitVec.ofNat 64 (leNat (sgetList 0 x.win o.addr 8))))).retire c sl o
  | 0x0E => (s.modSlot c sl (fun x => x.writeBytes o.addr (leBytes 8 o.x.toNat))).retire c sl o
  | 0x20 => s.finishMvmA c sl o
  | 0x21 => s.finishPass c o.pass
  | 0x28 => if bit o.word 55 && ((s.slot c sl).prowOf o.seq).isSome then s.retire c sl o else (s.finishMeasured c sl o).retire c sl o
  | 0x29 => s.finishConsumer c sl o (fun x => deqDone k x o)
  | 0x30 | 0x31 => s.finishConsumer c sl o (fun x => reduceDone x o)
  | 0x32 => s.finishConsumer c sl o (fun x => normDone x o)
  | 0x38 | 0x39 => (s.modSlot c sl (fun x => vectorDone k x o)).retire c sl o
  | 0x40 => s.finishLoad c sl o
  | 0x41 => s.finishStore c sl o
  | 0x42 => s.finishConsumer c sl o (fun x => emitDone x o)
  | 0x49 => (s.modSlot c sl (fun x => x.received (o.bd (bnum o.word 44)) (o.msg.getD {}))).retire c sl o
  | 0x50 => ((s.spillHandle c sl (fld o.word 47 46) false false o.seq).countBy c 0x12 1 sl o).retire c sl o
  | _ => s.retire c sl o

/-- INSTRUCTION_COMPLETE: a started instruction ends and its results stand; a merged pass ends for all its members. A sig acts by its own completion, see execSig. -/
def State.complete1 (s : State) (c sl : Nat) (o : Outst) : State := if (s.chan c).canFinish sl o then s.finishNow c sl o else s

/-! ### yield and halt (R83, R106, R159, R160, R237) -/

/-- Does the scheduler ask the inference of a slot for a yield (R237)? -/
def State.yieldAsked (s : State) (c sl : Nat) : Bool :=
  let k := s.chan c
  let j := (k.job? ((k.slot sl).job.getD 0)).getD {}
  j.askYield || k.sched.marked || s.clk.phase == .endOfCompute || s.clk.phase == .checkDone || s.clk.phase == .guard ||
  decide (k.sched.deferredMin < (s.ctx j.ctx).prio) || k.test.phase == .due

/-- YIELD: without cond, or asked for, the slot spills its groups and waits to be resumed. -/
def execYield (ch slot : Nat) (s : State) : Out :=
  go (s.issueNow ch slot 0x60 (fun t o =>
    let t := t.modSlot ch slot (fun x => { x with sinceYield := 0 })
    if bit o.word 55 && !t.yieldAsked ch slot then t
    else
      let t := if bit o.word 55 then t.countBy ch 0x54 1 slot o else t
      let t := t.spillAll ch slot
      let id := (t.slot ch slot).job.getD 0
      (t.modSlot ch slot (fun x => { x with block := .yield })).modJob ch id (fun j => { j with stage := .yielded slot, askYield := false })))

/-- HALT: no further instruction issues; the commit follows once every outstanding one has completed. -/
def execHalt (ch slot : Nat) (s : State) : Out :=
  go (s.issue ch slot 0x61 (fun t o => t.modSlot ch slot (fun x => { x with block := .halt, haltCode := fld o.word 15 0, sinceYield := 0 })))

/-! ### The commit (R160, R212, R218, R261, R293) -/

/-- Write emit-stage rows in order; the first denied access stops them. Answers the state, the bytes written and whether all were. -/
def State.writeEmit (s : State) (fn : Nat) : List (Nat × List Byte) → Nat → State × Nat × Bool
  | [], n => (s, n, true)
  | (a, b) :: l, n => if s.dmaOk fn a b.length true then State.writeEmit (s.hostWrite a b) fn l (n + b.length) else (s, n, false)

/-- The bus addresses and bytes of a slot's emit stage, row by row; bits 63:40 of an address are those of the result buffer's. -/
def Slot.emitList (x : Slot) (j : Job) : List (Nat × List Byte) :=
  let hi := fld j.desc 287 264 * 2 ^ 40
  x.emit.flatMap (fun e => (List.range (bdRows e.1)).map (fun i =>
    (hi + bdBase e.1 + i * bdStride e.1, (e.2.drop (i * bdRowBytes e.1)).take (bdRowBytes e.1))))

/-- Clear the peers of a record whose outputs are confirmed, then add those this inference absorbed (R293). -/
def State.peerFields (s : State) (x : Ctx) (l : List (Nat × Nat)) : Ctx :=
  let keep := (List.range 64).filter (fun n => bit x.peerMask n && !older x.peerEpoch (s.peer n).heard)
  let ns := (keep ++ l.map Prod.fst).eraseDups
  let base := if keep.isEmpty then none else some x.peerEpoch
  let ep := l.foldl (fun (a : Option Nat) e => match a with | some b => some (if older b e.2 then e.2 else b) | none => some e.2) base
  { x with peerMask := BitVec.ofNat 64 ((ns.map (fun n => 2 ^ n)).sum), peerEpoch := ep.getD 0 }

/-- Pairs kept for one peer. -/
def pairLimit : Nat := 256

/-- Add a pair of local frame and epoch, keeping the newest epoch of a frame and merging the two oldest past the limit (R293). -/
def addPair (l : List (Nat × Nat)) (frame ep : Nat) : List (Nat × Nat) :=
  let l := if l.any (fun e => e.1 == frame) then l.map (fun e => if e.1 = frame then (frame, if older e.2 ep then ep else e.2) else e)
    else l ++ [(frame, ep)]
  if l.length ≤ pairLimit then l
  else match l with
    | a :: b :: r => (a.1, if older a.2 b.2 then b.2 else a.2) :: r
    | r => r

/-- The record of a committed inference. -/
def State.committed (s : State) (x : Ctx) (sl : Slot) : Ctx :=
  { s.peerFields x sl.absorbed with
    clipped := satAdd (2 ^ 32 - 1) x.clipped sl.clipped, inferences := (x.inferences + 1) % 2 ^ 48, lastFrame := s.frameN % 2 ^ 48,
    checkEpoch := s.frameN % 2 ^ 32, lastStatus := 0, lastCause := 0, tainted := x.tainted || sl.taint }

/-- The commit of a halted slot with nothing outstanding. -/
def State.commit (s : State) (c sl : Nat) (j : Job) : State :=
  let x := s.slot c sl
  let idx := x.pc - 1
  let open' := (List.range 4).any (fun h => (x.handle h).kind != .closed) || (s.chan c).seqr.spill.any (fun e => e.1 / 16 == sl)
  if open' then s.fault c sl 0x0B idx
  else
    let s := s.readRec j.ctx
    if (s.ctx j.ctx).poisonSrc = 3 then s.endInf c sl stPoisoned 0x10 idx
    else if !s.owns j.fn j.ctx then s.endInf c sl stProtection 0x22 idx
    else if x.emitPoison then s.endInf c sl stPoisoned 0x10 idx .outside
    else
      let w := s.writeEmit j.fn (x.emitList j) 0
      let s := w.1
      if !w.2.2 then s.endWith c sl stProtection 0x11 (idx % 65536 + w.2.1 / 64 * 65536)
      else
        let e := s.infCpl c sl j stOK 0 x.haltCode
        let s := s.modChan c (fun k => { k with
          mem := k.mem.commitStaged sl
          check := { k.check with pairs := x.absorbed.foldl (fun m e => smod [] m e.1 (fun l => addPair l s.frameN e.2)) k.check.pairs } })
        let s := (s.unbind c sl j).modCtx j.ctx (fun y => s.committed y x)
        (s.finishWith c j e).advance j.ctx

/-- INFERENCE_COMMIT: a halted inference with nothing outstanding writes its results, then its state, then its completion. -/
def execInferenceCommit (ch slot : Nat) (s : State) : Out :=
  let x := s.slot ch slot
  match (s.chan ch).job? (x.job.getD 0) with
  | none => go s
  | some j => onlyIf (x.job.isSome && x.block == .halt && x.outs.isEmpty) s (s.commit ch slot j)

end Sys2Proof.Machine
end

