-- ==== Sys2Proof/Machine/Exchange.lean ====
section
/-! DEFINITION. Exchange messages and expert rows inside the module and between modules: the ports, the holding channels, and the
Arant messages of types 0x0 to 0x4 and 0x6 (R123 to R126, R147, R158, R266 to R268, R293, R300 to R302, R306). -/

namespace Sys2Proof.Machine

/-! ### xch.rcv and delivery (R158) -/

/-- A slot blocks on an empty port: its groups are spilled and it waits in order. -/
def State.blockPort (s : State) (c sl p : Nat) (o : Outst) : State :=
  let s := (s.addOut c sl o).spillAll c sl
  let s := s.modSlot c sl (fun x => { x with block := .xrcv p, blockedSince := s.nowNs, blockedFrames := 0 })
  s.modPortX c p (fun x => { x with waiters := x.waiters ++ [sl] })

/-- XCH_RCV: takes the oldest message of its port, or blocks until one arrives; one that blocks waits for its pending rows first (R106). -/
def execXchRcv (ch slot : Nat) (s : State) : Out :=
  go (s.issue ch slot 0x49 (fun t o =>
    let p := fld o.word 34 27
    match t.operandsBad ch slot o with
    | some (st, cause) => t.endInf ch slot st cause o.idx
    | none => if (s.chan ch).portNow o.word then (t.addOut ch slot o).takeMessage ch slot o p else t.blockPort ch slot p o))

/-- A message of this module enters its port. -/
def State.deliver (s : State) (c : Nat) (m : Sending) : State :=
  let s := s.modChan c (fun k => { k with seqr := { k.seqr with sending := k.seqr.sending.filter (fun x => !(x.slot == m.slot && x.seq == m.seq)) } })
  let s := match (s.slot c m.slot).out? m.seq with | some o => s.retire c m.slot o | none => s
  match m.remote with
  | some _ => s
  | none => (s.modPortX m.dst m.port (fun p => { p with msgs := p.msgs ++ [{ bytes := m.bytes }] })).servePort m.dst m.port

/-- XCH_MESSAGE_DELIVERED: a sent message lands in its port, its xch.snd completes, and a blocked receiver wakes; a channel that a test holds refuses it. -/
def execXchMessageDelivered (ch slot seq : Nat) (s : State) : Out :=
  match (s.chan ch).seqr.sending.find? (fun m => m.slot == slot && m.seq == seq) with
  | none => go s
  | some m =>
    if m.remote.isSome then onlyIf (!m.undelivered) s (s.deliver ch m)
    else if (s.chan m.dst).held then
      match (s.slot ch slot).out? seq with
      | some o => go (s.endAt ch slot o stPeer 0x15)
      | none => go s
    else onlyIf (m.flits == 0 && (s.chan m.dst).portRoom m.port m.bytes.length) s (s.deliver ch m)

/-! ### Experts across the chord (R126, R147) -/

/-- A request joins the queues of the tiles that hold its part. -/
def State.queueExpert (s : State) (c : Nat) (e : ExpReq) (t l : Nat) : State :=
  let copies := (s.chan c).copiesOf t l
  copies.foldl (fun s x => s.request c x.1
    { why := .expert e.id, lfacet := x.2, word := e.word, codes := e.codes, r := copies.length, origin := 8 * e.slot + e.home }) s

/-- Copies of the part that a resident-expert table names. -/
def State.copyCount (s : State) (c t l : Nat) : Nat := ((s.chan c).copiesOf t l).length

/-- EXPERT_REQUEST_ARRIVAL: a part from another channel joins the tile queues; parts of a set arrive in order; a channel that a test holds refuses it. -/
def execExpertRequestArrival (ch id : Nat) (s : State) : Out :=
  match s.exp? ch id with
  | none => go s
  | some e =>
    let home := e.home
    let first := (s.chan home).seqr.experts.find? (fun x => !x.arrived && x.sameSet e)
    let next := match first with | some f => f.id == id | none => false
    let ok := e.peer.isNone && decide (id < peerIds) && e.dst == ch && !e.arrived && next && s.fitted ch && (e.flits == 0 || (s.chan ch).held)
    if (s.chan ch).held then
      match (s.slot home e.slot).out? e.seq with
      | some o => onlyIf ok s (s.endAt home e.slot o stPeer 0x15)
      | none => go s
    else
      match Config.resident (s.chan ch).tables.residents e.expert e.part with
      | none => go s
      | some (t, l, col) =>
        let s' := s.modExp ch id (fun e => { e with arrived := true, colScale := col, left := s.copyCount ch t l })
        let s' := s'.queueExpert ch e t l
        onlyIf ok s (if e.grp && !e.last then s'.modOut home e.slot e.seq (fun o => { o with ready := true }) else s')

/-- A reply fills the waiting handle, and its mvm.a may complete. -/
def State.fillHandle (s : State) (c : Nat) (e : ExpReq) (row : List (BitVec 16)) : State :=
  let wide := row.map (fun v => widen .bf16 v.toNat)
  let s := s.modSlot c e.slot (fun x =>
    let x := x.setHandle e.handle { x.handle e.handle with rows := some [wide], retained := some [wide], raw := wide }
    { x.flag e.flags with saturated := x.saturated || e.saturated })
  let s := s.modOut c e.slot e.seq (fun o => { o with ready := true })
  s.modChan c (fun k => { k with seqr := { k.seqr with experts := k.seqr.experts.filter (fun x => !x.sameSet e) } })

/-- EXPERT_REPLY_ARRIVAL: the reply of another channel reaches the home channel. -/
def execExpertReplyArrival (ch id : Nat) (s : State) : Out :=
  match s.exp? ch id with
  | none => go s
  | some e =>
    match e.reply with
    | some row => onlyIf (e.home == ch && e.peer.isNone && e.flits == 0) s (s.fillHandle ch e row)
    | none => go s

/-! ### Receiving a message of a peer (R266, R268, R293) -/

/-- A credit is owed for a message, undelivered if `bad`; 16 owed are returned at once. -/
def State.owe (s : State) (n : Nat) (h : Hdr) (bad : Bool) : State :=
  let s := s.modPeer n (fun p => { p with owed := p.owed ++ [(h.dstChan, h.seq, bad)] })
  if 16 ≤ (s.peer n).owed.length && !s.failed then s.sendCredit n else s

/-- A message is discarded: counted, and its credit returned with the message marked undelivered. -/
def State.discardMsg (s : State) (n : Nat) (h : Hdr) : State :=
  let s := s.countAll 0x8B
  if h.typ = 0 ∨ h.typ = 4 then s else s.owe n h true

/-- The watermark heard from a peer: pairs whose epoch it has passed are removed. -/
def State.hear (s : State) (n wm : Nat) : State :=
  (s.modPeer n (fun p => { p with heard := wm })).allChans (fun _ k => { k with check := { k.check with
    pairs := smod [] k.check.pairs n (fun l => l.filter (fun e => !older e.2 wm)) } })

/-- Is a message within the layout of the window: from the peer itself, body as long as its header says? -/
def Hdr.inLayout (h : Hdr) (n : Nat) (body : List Byte) : Bool :=
  h.srcModule == n && h.length == body.length && decide (body.length ≤ 16384)

/-- Is a message discarded: a sequence gap, another version, a wrong check, reserved bits set (R8), a reserved type or one its version lacks? -/
def Hdr.faulty (h : Hdr) (p : Peer) (body : List Byte) : Bool :=
  h.seq != p.seqIn || h.ver != p.ver || h.check != h.crc body || h.rsv != 0 || decide (6 < h.typ) || (h.typ == 5 && decide (p.ver < 0x11))

/-- A peer's message of the command's kind: `t` is what it does; one on an insecure IDE stream is lost and counted as refused (R329). -/
def State.fromPeer (s : State) (n : Nat) (ok : Bool) (t : State) : Out :=
  onlyIf (s.linkUp && ok) s (if s.peerSecure n then t else s.countAll 0x8A)

/-- A message arrives: refused, discarded, or accepted with its header. -/
def State.arantIn (s : State) (n : Nat) (h : Hdr) (body : List Byte) : State × Bool :=
  let p := s.peer n
  if p.st != .open || !h.inLayout n body then (s.countAll 0x8A, false)
  else
    let s := s.modPeer n (fun p => { p with seqIn := (h.seq + 1) % 65536 })
    if h.faulty p body || (s.failed && h.typ != 6) then (s.discardMsg n h, false)
    else (s.hear n h.watermark, true)

/-- Is the output a message carries unconfirmed (R293)? -/
def Hdr.unconfirmed (h : Hdr) (n : Nat) : Option (Nat × Nat) := if older h.epoch h.watermark then none else some (n, h.epoch)

/-! ### HELLO (R267) -/

/-- ARANT_HELLO: the peer's versions arrive, and its sequence goes on from there; the window opens once both have been exchanged. -/
def execArantHello (n : Nat) (hdr : BitVec 256) (s : State) : Out :=
  let h := readHdr hdr
  let t := if !s.peerValid n || h.srcModule != n || h.length != 0 then s.countAll 0x8A
    else if h.rsv ≠ 0 then s.countAll 0x8B
    else
      let s := s.modPeer n (fun p => { p with seqIn := (h.seq + 1) % 65536 })
      if (s.peer n).st == .closed || (s.peer n).st == .helloSent then
        (s.modPeer n (fun p => { p with helloIn := some (h.tag % 256, h.tag / 256) })).openPeer n
      else s
  s.fromPeer n (h.typ == 0) t

/-! ### Exchange (R158) -/

/-- A message of a peer reaches its port, or waits there for a place. -/
def State.portArrive (s : State) (c p : Nat) (m : Msg) : State :=
  ((s.modPortX c p (fun x => { x with inbound := x.inbound ++ [m] })).admitInbound c).servePort c p

/-- ARANT_EXCHANGE: a peer's message goes to its exchange port; a message of a reserved type is discarded. -/
def execArantExchange (n : Nat) (hdr : BitVec 256) (body : List Byte) (s : State) : Out :=
  let h := readHdr hdr
  let r := s.arantIn n h body
  let t := if !r.2 then r.1
    else if !s.fitted h.dstChan || (s.chan h.dstChan).held then r.1.discardMsg n h
    else (r.1.owe n h false).portArrive h.dstChan h.port { bytes := body, peer := h.unconfirmed n }
  s.fromPeer n (h.typ == 1 || decide (6 < h.typ)) t

/-! ### Expert requests and replies (R125, R126, R147) -/

/-- A peer's request as the holding channel keeps it: codes, then the row scale. The header of R268 carries no code format, signedness, width,
group size or interval, so by the model's choice every peer's codes are signed INT8, run at w = 8, g = 8 and p = 4 (notes/assumptions/99). -/
def peerRequest (id n : Nat) (h : Hdr) (body : List Byte) (col : List (BitVec 16)) (copies : Nat) : ExpReq :=
  let codes := (body.take (body.length - 2)).map (fun b => signed 8 b.toNat)
  { id := id, home := h.srcChan, slot := 16, peer := some n, tag := h.tag, dst := h.dstChan, expert := h.expert, part := h.part, grp := h.grp,
    last := h.last, word := analogWord 8, codes := codes, rowScale := BitVec.ofNat 16 (leNat (body.drop (body.length - 2))),
    arrived := true, colScale := col, left := copies }

/-- ARANT_EXPERT_REQUEST: a peer's row joins the tile queues of the channel that holds the expert; one it does not hold is discarded. -/
def execArantExpertRequest (n : Nat) (hdr : BitVec 256) (body : List Byte) (s : State) : Out :=
  let h := readHdr hdr
  let r := s.arantIn n h body
  let t := if !r.2 then r.1
    else if !s.fitted h.dstChan || (s.chan h.dstChan).held || body.length < 2 || 1026 < body.length then r.1.discardMsg n h
    else
      match Config.resident (s.chan h.dstChan).tables.residents h.expert h.part with
      | none => r.1.discardMsg n h
      | some (t, l, col) =>
        let s' := r.1.owe n h false
        let e := peerRequest (peerIds + (s.chan h.dstChan).arr.nextReq) n h body col (s'.copyCount h.dstChan t l)
        (s'.modChan h.dstChan (fun k => { k with seqr := { k.seqr with experts := k.seqr.experts ++ [e] } })).queueExpert h.dstChan e t l
  s.fromPeer n (h.typ == 2) t

/-- ARANT_EXPERT_REPLY: a peer's reply fills the handle whose request its tag names. -/
def execArantExpertReply (n : Nat) (hdr : BitVec 256) (body : List Byte) (s : State) : Out :=
  let h := readHdr hdr
  let r := s.arantIn n h body
  let t := if !r.2 then r.1
    else
      match (s.chan h.dstChan).seqr.experts.find? (fun e => e.peer.isNone && e.dst == 16 + n && e.tag == h.tag && (!e.grp || e.last)) with
      | some e =>
        if body.length ≠ 2048 then r.1.discardMsg n h
        else
          let s' := (r.1.owe n h false).fillHandle h.dstChan e ((List.range 1024).map (fun i => BitVec.ofNat 16 (leNat ((body.drop (2 * i)).take 2))))
          match h.unconfirmed n with
          | some a => s'.modSlot h.dstChan e.slot (fun x => { x with absorbed := x.absorbed ++ [a] })
          | none => s'
      | none => r.1.discardMsg n h
  s.fromPeer n (h.typ == 3) t

/-! ### Credits (R266, R268) -/

/-- Messages to peer `n` whose credits came back marked undelivered. -/
def Chan.undeliver (k : Chan) (n : Nat) (bad : List Nat) : Chan :=
  { k with seqr := { k.seqr with
      sending := k.seqr.sending.map (fun m => if m.remote = some n ∧ bad.contains m.msgSeq then { m with undelivered := true } else m)
      slots := k.seqr.slots.map (fun e => (e.1, { e.2 with outs := e.2.outs.map (fun o =>
        if opOf o.word == 0x5A && o.started && (k.barrier (fld o.word 47 40)).homeModule == n && bad.contains o.addr then { o with ready := true } else o) })) } }

/-- ARANT_CREDIT: credits return; messages marked undelivered stay so; what waited for credits is sent. -/
def execArantCredit (n : Nat) (hdr : BitVec 256) (body : List Byte) (s : State) : Out :=
  let h := readHdr hdr
  let r := s.arantIn n h body
  let got := leNat (body.take 4)
  let bad := (List.range (leNat ((body.drop 4).take 4) % 64)).map (fun i => leNat ((body.drop (8 + 2 * i)).take 2))
  let t := if !r.2 then r.1
    else ((r.1.modPeer n (fun p => { p with credits := min 32 (p.credits + got) })).allChans (fun _ k => k.undeliver n bad)).sendWaiting n
  s.fromPeer n (h.typ == 4) t

/-! ### Retraction (R300, R302) -/

/-- A running inference that has consumed a retracted output commits tainted. -/
def Slot.retracted (x : Slot) (n first : Nat) : Slot :=
  if x.absorbed.any (fun e => e.1 == n && !older e.2 first) then { x with taint := true } else x

/-- A peer's retraction in one channel: contexts tainted, pairs removed, the entries owed to the open functions. -/
def State.retractChan (s : State) (n first cause : Nat) (fns : List Nat) (c : Nat) : State :=
  let r := s.taint c (fun x => bit x.peerMask n && !older x.peerEpoch first)
  let gone := (sget [] (s.chan c).check.pairs n).filter (fun e => !older e.2 first)
  let from' := minOf 0 (gone.map Prod.fst)
  let s := r.1.modChan c (fun k => { k with
    check := { k.check with pairs := serase n k.check.pairs, taintedCount := r.2, firstRetracted := from' }
    seqr := { k.seqr with slots := k.seqr.slots.map (fun e => (e.1, e.2.retracted n first)) } })
  if r.2 = 0 then s
  else { s with integ := { s.integ with retract := s.integ.retract ++ fns.map (fun f => retractEntry f c s.frameN from' cause n true r.2) } }

/-- ARANT_RETRACTION: a peer withdraws its unconfirmed outputs. -/
def execArantRetraction (n : Nat) (hdr : BitVec 256) (body : List Byte) (s : State) : Out :=
  let h := readHdr hdr
  let r := s.arantIn n h body
  let b := leNat body
  let t := if !r.2 then r.1
    else if body.length ≠ 32 then r.1.discardMsg n h
    else
      let s' := (r.1.owe n h false).countAll 0x76
      let fns := s'.openFns
      let s' := (List.range s'.channels).foldl (fun s c => s.retractChan n (nfld b 215 184) (nfld b 223 216) fns c) s'
      if s'.writesNow then s'.flushRetract else s'
  s.fromPeer n (h.typ == 6) t

/-! ### Reads (R266) -/

/-- PEER_APERTURE_READ: a read of BAR4 completes with Unsupported Request status. -/
def execPeerApertureRead (s : State) : Out := onlyIf s.linkUp s { s with out := { s.out with ur := s.out.ur + 1 } }

end Sys2Proof.Machine
end

