-- ==== Sys2Proof/Machine/Integrity.lean ====
section
/-! DEFINITION. Residue checks (R290), the later steps of a drain (R295, R300), and the in-field test (R304 to R307). -/

namespace Sys2Proof.Machine

/-! ### Residue checks (R290) -/

/-- The residue unit's recomputation of a step sum modulo 127, from the residues of its products. -/
def residueOf (l : List Int) : Nat := l.foldl (fun a p => (a + (p % 127).toNat) % 127) 0

/-- Does a lane's step sum agree with the residue unit? -/
def ResidueStep.agrees (x : ResidueStep) : Bool := (x.sum % 127).toNat == residueOf x.products

/-- RESIDUE_CHECK_PASS: the rotation frame's next pass, one in each of the eight operating formats in turn; every step sum is compared with its
recomputation, and a mismatch is a detected failure. -/
def execResidueCheckPass (ch fmt : Nat) (steps : List ResidueStep) (s : State) : Out :=
  let t := (s.count ch 0x73).modChan ch (fun k => { k with check := { k.check with residue := k.check.residue.drop 1 } })
  onlyIf (s.fitted ch && (s.chan ch).check.residue.head? == some fmt && (s.chan ch).check.isRotation && s.inService) s
    (if steps.all (fun x => Sys2Proof.Machine.ResidueStep.agrees x) then t
     else (t.modChan ch (fun k => { k with check := { k.check with failed := true } })).drain 0x03 ch)

/-! ### The scan and the end of a drain (R295, R300, R308) -/

/-- Scan one channel at a drain: open contexts not confirmed are tainted, and each function that was open is owed an entry. -/
def State.scanChan (s : State) (c : Nat) : State :=
  let wm := s.integ.wm % 2 ^ 32
  let r := s.taint c (fun x => !older x.checkEpoch wm)
  { r.1 with integ := { r.1.integ with
      retract := r.1.integ.retract ++ r.1.integ.told.map (fun f => retractEntry f c s.integ.frame wm s.integ.cause s.hub.moduleId false r.2) } }

/-- TAINT_SCAN_DONE: every channel scanned; the retraction entries are written, then the completions that waited for them. -/
def execTaintScanDone (s : State) : Out :=
  let t := (List.range s.channels).foldl State.scanChan s
  let t : State := { t with integ := { t.integ with scanDone := true } }
  onlyIf (s.integ.svc == .draining && !s.integ.scanDone) s
    (if t.writesNow then t.flushRetract.flushWhere (fun e => !e.late) else t)

/-- Does no inference run in any channel? -/
def State.noneRunning (s : State) : Bool :=
  (List.range s.channels).all (fun c => (s.chan c).seqr.slots.all (fun e => e.2.job.isNone))

/-- Is every function closed, or held with every ring free? -/
def State.allClosed (s : State) : Bool :=
  s.host.fns.all (fun e => e.2.st == .closed || (e.2.st == .held && e.2.allFree))

/-- The module becomes drained; functions held by the drain may open at the next tick. -/
def State.becomeDrained (s : State) : State :=
  { s with integ := { s.integ with svc := .drained }
           host := { s.host with fns := s.host.fns.map (fun e => (e.1, if e.2.st == .held then e.2.proceed else e.2)) } }

/-- QUIESCENCE: nothing runs, every function is closed, every retraction entry and the record are written. An entry that has waited 1,000 frames is dropped and reported. -/
def execQuiescence (s : State) : Out :=
  let t := s.integ.retract.foldl (fun t e => t.event 0x07 3 0 e.fn) { s with integ := { s.integ with retract := [] } }
  onlyIf (s.integ.svc == .draining && s.integ.scanDone) s
    (if !s.integ.retract.isEmpty then (if s.integ.frame + 1000 ≤ s.frameN then t else s)
    else if s.noneRunning && s.allClosed && s.integ.recordDone then s.becomeDrained
    else s)

/-! ### The in-field test (R304 to R307) -/

/-- Nanoseconds in an hour. -/
def hourNs : Nat := 3600000000000

/-- When a channel's next test falls due, in ns of powered time: the first spread over the fitted channels, the next a period after the start of
the one before (R304). -/
def State.testDueAt (s : State) (c : Nat) : Nat :=
  match (s.chan c).test.began with
  | none => s.hub.period * hourNs * (c + 1) / s.channels
  | some b => b + s.hub.period * hourNs

/-- TEST_DUE: the channel's period of powered time has expired (R304). -/
def execTestDue (ch : Nat) (s : State) : Out :=
  onlyIf (s.apexUp && s.fitted ch && (s.chan ch).test.phase == .notDue && decide (s.testDueAt ch ≤ s.nowNs)) s
    (s.modChan ch (fun k => { k with test := { k.test with phase := .due, waited := 0, shedding := false } }))

/-- TEST_SHED: a test that has waited 1,000 frames makes its channel shed work; from 2,000 it admits nothing. -/
def execTestShed (ch : Nat) (s : State) : Out :=
  onlyIf (s.fitted ch && (s.chan ch).test.phase == .due && decide (1000 ≤ (s.chan ch).test.waited)) s
    (s.modChan ch (fun k => { k with test := { k.test with shedding := true } }))

/-- The lowest reading of a channel's nine sensors. -/
def State.coolest (s : State) (c : Nat) : Int :=
  (List.range 8).foldl (fun m k => min m (s.reading (9 * c + k))) (s.reading (9 * c + 8))

/-- Has heating ended: every sensor reads 85 °C, or 1,200 ms have passed since the tick (R305)? -/
def State.heatDone (s : State) (c : Nat) : Bool :=
  decide (1360 ≤ s.coolest c) || decide (((s.chan c).test.began.getD 0) + 1200000000 ≤ s.nowNs)

/-- TEST_HEATING_END: the later phases begin at the temperature reached (R305). -/
def execTestHeatingEnd (ch : Nat) (s : State) : Out :=
  onlyIf (s.fitted ch && (s.chan ch).test.phase == .running && s.heatDone ch) s
    (s.modChan ch (fun k => { k with test := { k.test with phase := .cooling, heated := s.nowNs, hot := decide (1360 ≤ s.coolest ch), temp := s.coolest ch } }))

/-- The bank and checksum sums of one check MVM of the test: vector `k` on physical facet `f` (R288, R305). -/
def State.testSums (s : State) (c t f k : Nat) (errs : List ConvErr) : List (BitVec 32) :=
  let codes := (checkVector t f k).map (clampCode 8)
  let out := runMvm ((s.chan c).arr.readCodes t f) (sget {} s.store.live.chans c).remap t f codes 8 4 1 ((List.range 8).map (s.gain c t f)) errs
  out.sums ++ out.checks

/-- The departures that the test found in one of its check MVMs. -/
def TestFound.errsOf (x : TestFound) (t l k : Nat) (retry : Bool) : List ConvErr :=
  (x.errs.filter (fun e => e.tile == t && e.lfacet == l && e.vector == k && e.retry == retry)).flatMap TestErr.errs

/-- One facet check of the test under R288: failed blocks are checked once more; whether a block failed twice. -/
def State.testCheck (s : State) (c t l k : Nat) (x : TestFound) : State × Bool :=
  let f := (s.chan c).physOf t l
  let bad (retry : Bool) (l' : List Nat) : List Nat :=
    l'.filter (fun b => !blockPasses (s.facet c t f) (s.testSums c t f k (Sys2Proof.Machine.TestFound.errsOf x t l k retry)) k b)
  let first := bad false (List.range 8)
  let u := s.count c 0x70
  if first.isEmpty then (u, false)
  else ((u.count c 0x70).countN c 0x71 (first.length - (bad true first).length) none, !(bad true first).isEmpty)

/-- All four check vectors on every mapped facet of a channel (R305); whether one failed. -/
def State.testChecks (s : State) (c : Nat) (x : TestFound) : State × Bool :=
  ((s.chan c).arr.map.filter (fun e => e.2.valid)).foldl (fun (a : State × Bool) e =>
    (List.range 4).foldl (fun (a : State × Bool) k =>
      let r := a.1.testCheck c (e.1 / 16) (e.1 % 16) k x
      (r.1, a.2 || r.2)) a) (s, false)

/-- TEST_VERDICT: the scan patterns, the check vectors, the DAC steps read back and the SRAM march are judged. The result is reported with its
temperature; a pass releases the channel at the next tick, a failed phase drains (R305, R307). -/
def execTestVerdict (ch : Nat) (found : TestFound) (s : State) : Out :=
  let r := s.testChecks ch found
  let failed := !found.scan || !found.march || found.dacs.any (fun d => d.code != d.read) || r.2
  let t := r.1.event 0x06 1 ch (bnat failed) (code 16 (s.chan ch).test.temp)
  onlyIf (s.fitted ch && (s.chan ch).test.phase == .cooling && decide ((s.chan ch).test.heated + 1990000000 ≤ s.nowNs)) s
    (if failed then t.drain 0x04 ch else t.modChan ch (fun k => { k with test := { k.test with phase := .passed } }))

end Sys2Proof.Machine
end

