-- ==== Sys2Proof/Machine/Lookback.lean ====
section
/-! DEFINITION. Lookback rows get their verdict and replayed rows their final codes (R104 to R107, R111). -/

namespace Sys2Proof.Machine

/-- The result that a row keeps: its lookback codes, or the codes at its measured scale. -/
def PRow.result (r : PRow) (replay : Bool) : QRow :=
  if replay then { scale := r.meas, codes := r.alt, clipped := r.altClipped, nans := r.nans, flags := r.altFlags }
  else { scale := r.scale, codes := r.codes, clipped := r.clipped, nans := r.nans, flags := r.flags }

/-- A row's final codes stand: codes, scale tensor, counts, flags and the lookback entry (R99, R100, R107, R111). -/
def State.rowFinal (s : State) (c sl : Nat) (o : Outst) (r : PRow) (replay : Bool) : State :=
  let q := r.result replay
  let s := s.modSlot c sl (fun x => ((x.quantised o [q] (bnat replay)).putLook o r.meas).modRow r.key (fun p => { p with done := true, replaying := false, granted := [] }))
  let s := s.countBy c 0x24 q.clipped sl o
  let s := s.countBy c 0x25 q.nans sl o
  s.modOut c sl o.seq (fun o => { o with ready := true })

/-- Reset the group of a handle, or its record, to +0 in every sum and compensation term (R105). -/
def State.resetGroup (s : State) (c sl h : Nat) : State :=
  let hd := (s.slot c sl).handle h
  let s := match hd.phys with
    | some i => s.modChan c (fun k => k.setGroup i { k.group i with sums := zeroLanes, comps := zeroLanes })
    | none => s
  let s := s.modSlot c sl (fun x => x.setHandle h { x.handle h with poisoned := false })
  match hd.record with
  | some n => s.modChan c (fun k => { k with seqr := { k.seqr with spill := smod {} k.seqr.spill n (fun r => { r with sums := zeroLanes, comps := zeroLanes, contributions := 0, poisoned := false }) } })
  | none => s

/-- Does a bank hold the MVM of request `id`? -/
def holdsReq (id : Nat) : BankSt → Bool
  | .full r _ => r.id == id && r.why.isWork
  | _ => false

/-- Discard an MVM granted on replaced codes: one still running drains nowhere, one in a bank is dropped, and one that had been taken is to be delivered again. -/
def State.discardMvm (s : State) (c sl t : Nat) (r : Req) : State :=
  let x := s.tile c t
  let again (s : State) : State :=
    match r.why with
    | .work _ seq h =>
      (s.modOut c sl seq (fun o => { o with pending := o.pending + 1 })).modSlot c sl (fun x =>
        x.setHandle h { x.handle h with waiting := (x.handle h).waiting + 1 })
    | _ => s
  if x.run.any (fun u => u.req.id == r.id && u.req.why.isWork) then
    s.modTile c t (fun x => { x with run := x.run.map (fun u => { u with req := { u.req with discard := true } }) })
  else if holdsReq r.id x.bank0 || holdsReq r.id x.bank1 then
    let s := s.modTile c t (fun x => x.freeBank (if holdsReq r.id x.bank0 then 0 else 1))
    -- a bank that its handle names directly had been delivered
    if bit r.word 54 then s else again s
  else again s

/-- The row is replayed: groups reset, granted MVMs discarded; the codes follow at REQUANT_DONE (R105). -/
def State.replayRow (s : State) (c sl : Nat) (r : PRow) : State :=
  let s := (List.range 4).foldl (fun s h => if ((s.slot c sl).handle h).pendingRow = some r.key then s.resetGroup c sl h else s) s
  let s := r.granted.foldl (fun s e => s.discardMvm c sl e.1 e.2) s
  -- every contribution of the groups is still to come (R81, R105)
  let s := s.modSlot c sl (fun x => (List.range 4).foldl (fun x h =>
    if (x.handle h).pendingRow = some r.key then x.setHandle h { x.handle h with named := (x.handle h).waiting, drained := 0 } else x) x)
  s.modSlot c sl (fun x => x.modRow r.key (fun p => { p with replaying := true }))

/-- LOOKBACK_VERDICT: the row's last element is coded: it stands, or a clip or range replay begins. -/
def execLookbackVerdict (ch slot seq : Nat) (s : State) : Out :=
  let x := s.slot ch slot
  match x.out? seq, x.prowOf seq with
  | some o, some r =>
    let v := lookbackVerdict r.thr r.clipped r.largest (qset o).qmax r.codes.length
    onlyIf (o.started && !r.done && !r.replaying && !x.outs.any (fun e => streams e o)) s
      (match v with
       | 0 => (s.countBy ch 0x21 1 slot o).rowFinal ch slot o r false
       | 1 => (s.countBy ch 0x22 1 slot o).replayRow ch slot r
       | _ => (s.countBy ch 0x23 1 slot o).replayRow ch slot r)
  | _, _ => go s

/-- The codes that an mvm.a's request carries now. -/
def State.codesNow (s : State) (c sl : Nat) (r : Req) : Req :=
  match r.why with
  | .work _ seq _ =>
    match (s.slot c sl).out? seq with
    | some o => { r with codes := inputCodes (s.slot c sl) o }
    | none => r
  | _ => r

/-- Requests of the row not yet granted take the new codes, and each discarded MVM is asked for anew. -/
def State.reissue (s : State) (c sl : Nat) (r : PRow) : State :=
  let mine (q : Req) : Bool := match q.why with | .work sl' seq _ => sl' == sl && q.row == some r.key && ((s.slot c sl).out? seq).isSome | _ => false
  let s' := s.modChan c (fun k => { k with
    arr := { k.arr with tiles := k.arr.tiles.map (fun e => (e.1, { e.2 with queue := e.2.queue.map (fun q => if mine q then s.codesNow c sl q else q) })) }
    check := { k.check with copies := k.check.copies.filter (fun e => !r.granted.any (fun g => g.2.copyKey == (e.1, e.2.1))) } })
  r.granted.foldl (fun s e => s.request c e.1 { s.codesNow c sl e.2 with row := none }) s'

/-- REQUANT_DONE: the row's new codes and measured scale are written and the replay MVMs issued. -/
def execRequantDone (ch slot seq : Nat) (s : State) : Out :=
  let x := s.slot ch slot
  match x.out? seq, x.prowOf seq with
  | some o, some r => onlyIf (r.replaying && !r.done) s ((s.rowFinal ch slot o r true).reissue ch slot r)
  | _, _ => go s

end Sys2Proof.Machine
end

