-- ==== Sys2Proof/Machine/Power.lean ====
section
/-! DEFINITION. Supply, power-up, PERST_N, warm reset, link and entry to service (R360 to R367, R322, R323, R326, R331). -/

namespace Sys2Proof.Machine

/-! ### Losing power (R220, R349, R360) -/

/-- The module without power: what the array dies' digital regions and the arrays hold survives, everything else is lost. -/
def State.powerDown (s : State) (sup : Supply) : State :=
  { pending := s.pending, variant := s.variant, pwr := { supply := sup, perstLow := s.pwr.perstLow }
    store := { bankA := s.store.bankA, bankB := s.store.bankB, writesA := s.store.writesA, writesB := s.store.writesB
               fw0 := s.store.fw0, fw1 := s.store.fw1, fwDig0 := s.store.fwDig0, fwDig1 := s.store.fwDig1
               tab0 := s.store.tab0, tab1 := s.store.tab1 }
    out := s.out, fresh := s.fresh
    chans := (List.range s.channels).foldl (fun m c => sput {} m c { arr := { codes := (s.chan c).arr.codes } }) [] }

/-! ### Firmware (R321 to R323) -/

/-- Does a firmware slot verify (R322)? -/
def Persist.fwOk (p : Persist) (w : FwSlot) : Bool :=
  w.valid && p.makerCert && fld w.hdr 255 248 == 1 && fld w.hdr 127 0 == 0 &&
  decide (p.svnFloor ≤ fld w.hdr 247 232 ∧ p.makerEpoch ≤ fld w.hdr 231 224 ∧ fld w.hdr 223 192 + 1312 ≤ 16777216)

/-- The firmware slot of a number. -/
def Store.fwSlot (x : Store) (n : Nat) : FwSlot := if n = 0 then x.fw0 else x.fw1

/-- The latest valid record's body: what the ROM goes by (R322). -/
def Store.recorded (x : Store) : Persist := (if x.bankIsB then x.bankB else x.bankA).body

/-- The slot the ROM prefers: the active one of the record, the other after three failed boots in a row (R322, R323). -/
def State.fwPrefer (s : State) : Nat := if 3 ≤ s.pwr.failedBoots then 1 - s.store.recorded.fwActive else s.store.recorded.fwActive

/-- The ROM verifies firmware against the record and boots a slot into state `b`, or answers the maker's firmware commands only (R322). -/
def State.verifyFw (s : State) (b : Boot) : State :=
  let p := s.fwPrefer
  let ok (n : Nat) : Bool := s.store.recorded.fwOk (s.store.fwSlot n)
  let run (n : Nat) : State := { s with pwr := { s.pwr with boot := b, fwRunning := n, fwOther := n != s.store.recorded.fwActive } }
  if ok p then run p
  else if ok (1 - p) then (run (1 - p)).event 0x08 1 0 p
  else { s with pwr := { s.pwr with boot := .romOnly } }

/-- A seed that is never zero: the noise read, else a free value (R85). -/
def seedOf (x : Word) (n : Nat) : Word := if x ≠ 0 then x else if Config.nonZeroSeed n ≠ 0 then Config.nonZeroSeed n else 1

/-- Seed each channel's generator from SRAM noise, forced non-zero (R85). -/
def State.seedAll (s : State) (seeds : List Word) : State :=
  let t := s.allChans (fun c k => { k with seqr := { k.seqr with rng := seedOf (seeds.getD c 0) (s.fresh + c), rngNext := none } })
  { t with fresh := s.fresh + 8 }

/-! ### Entry to service (R363) -/

/-- Is the link in a mode of R243? -/
def linkModeOk (m : LinkMode) : Bool := (m.gen == 6 || m.gen == 5 || m.gen == 4) && (m.width == 4 || m.width == 2 || m.width == 1)

/-- Sensors fitted: those of the fitted channels and the apex's (R342). -/
def State.sensorFitted (s : State) (n : Nat) : Bool := decide (n < 9 * s.channels) || n == 72 || n == 73

/-- Every fitted sensor's reading is at most 95 °C (R346). -/
def State.coolEnough (s : State) : Bool := (List.range 74).all (fun n => !s.sensorFitted n || decide (s.reading n ≤ 1520))

/-- The conditions of R363 other than boot and link, by number: 1 store, 2 identity key, 3 trims, 4 survey, 5 temperature after a thermal drain. -/
def State.failedConditions (s : State) : List Nat :=
  (if s.pwr.recordOk then [] else [1]) ++ (if s.pwr.keyOk then [] else [2]) ++ (if s.pwr.trimsOk then [] else [3]) ++
  (if s.pwr.surveyOk then [] else [4]) ++ (if s.integ.thermal && !s.coolEnough then [5] else [])

/-- Do all conditions of R363 hold? -/
def State.entryOk (s : State) : Bool :=
  s.integ.svc == .starting && s.pwr.boot == .booted && !s.integ.replacement && s.failedConditions.isEmpty &&
  (match s.pwr.link with | some m => linkModeOk m | none => false)

/-- Boot completes: the count of failed boots ends, a latched flag leads to drained, failed conditions are reported (R297, R323, R363). -/
def State.bootDone (s : State) : State :=
  let s := { s with pwr := { s.pwr with boot := .booted, failedBoots := 0 } }
  let s := s.failedConditions.foldl (fun s n => s.event 0x05 6 0 n) s
  if s.integ.replacement then { s with integ := { s.integ with svc := .drained } } else s

/-- Service begins: the rotation starts anew, and a newly activated image raises the floor of versions; one that the ROM fell back to does not
(R287, R324). -/
def State.enter (s : State) : State :=
  let svn := fld (s.store.fwSlot s.pwr.fwRunning).hdr 247 232
  let s := { s with integ := { s.integ with svc := .inService } }
  let s := s.allChans (fun _ k => { k with check := { k.check with i := 0, list := [], failed := false, isRotation := false } })
  if !s.pwr.fwOther && decide (s.store.live.svnFloor < svn) then ({ s with store := { s.store with live := { s.store.live with svnFloor := svn } } }).wantRecord else s

/-! ### Power-up -/

/-- POWER_UP: P12V rises through 10.8 V and the regulators start (R361). -/
def execPowerUp (s : State) : Out :=
  onlyIf (s.pwr.supply == .off) s { s with pwr := { s.pwr with supply := .rising } }

/-- POWER_GOOD: counters at 0, SVC_OK low, a record chosen, firmware verified, generators seeded (R361, R331, R322, R85). -/
def execPowerGood (seeds : List Word) (s : State) : Out :=
  let t := { s with pwr := { s.pwr with supply := .on, boot := .verifying, failedBoots := 0 }, clk := {} }
  let t := t.seedAll seeds
  let f := match t.store.choose with
    | none => { t with pwr := { t.pwr with boot := .romOnly, recordOk := false } }
    | some (b, r) =>
      let live := r.body.loaded
      let t : State := { t with
        pwr := { t.pwr with recordOk := true }
        store := { t.store with live := { live with boots := live.boots + 1 }, bankIsB := b, seq := r.seq, coalesced := true }
        -- the drain fields restart at 0; of them the register takes only the flag from the store (R297)
        integ := { t.integ with replacement := live.replacement } }
      t.verifyFw .verifying
  onlyIf (s.pwr.supply == .rising) s f

/-- The wrapping key: SHAKE256 of the PUF secret followed by the label "MVN-WRAP" (R325). -/
def wrapKey (secret : BitVec 256) : BitVec 256 := Config.shake256 (leBytes 32 secret.toNat ++ [0x4D, 0x56, 0x4E, 0x2D, 0x57, 0x52, 0x41, 0x50])

/-- APEX_RELEASE: settings applied, key unwrapped, LPDDR5X trained, trims loaded, tables copied, facets surveyed (R361, R326, R68, R182, R176). -/
def execApexRelease (gcmOk : Bool) (survey : List SurveyReading) (s : State) : Out :=
  let p := s.store.live
  let t : State := { s with
    pwr := { s.pwr with boot := .started, keyOk := gcmOk }
    sec := { s.sec with key := gcmOk, keyBytes := if gcmOk then Config.gcmUnwrap (wrapKey (Config.pufSecret p.helper)) p.wrappedKey else [] }
    clk := { s.clk with running := true, cfg := p.tickCfg, lastTick := s.nowNs, first := true }
    hub := { s.hub with frac := p.checkFrac, cap := p.capW, period := p.periodH, moduleId := p.moduleId } }
  let t := if gcmOk then t else t.event 0x08 2 0
  let t := t.allChans (fun c k => { k with
    tables := s.store.tables' c
    arr := { k.arr with map := (sget {} p.chans c).map } })
  let t := t.loadTrims
  onlyIf (s.pwr.supply == .on && s.pwr.boot == .verifying) s (t.survey survey)

/-- BOOT_COMPLETE: the firmware reports boot complete; the counts of CH_CAP_FACETS are taken (R323, R378). -/
def execBootComplete (s : State) : Out :=
  let t := s.allChans (fun c k =>
    let n := (sget {} s.store.live.chans c).facetCounts
    { k with capFacets := n, facetStatus := n })
  onlyIf (s.pwr.supply == .on && s.pwr.boot == .started) s t.bootDone

/-- BOOT_TIMEOUT: no boot complete within 5 s of release from reset (R323). -/
def execBootTimeout (s : State) : Out :=
  onlyIf (s.pwr.supply == .on && (s.pwr.boot == .started || s.pwr.boot == .warm)) s
    { s with pwr := { s.pwr with boot := .failed, failedBoots := s.pwr.failedBoots + 1 } }

/-- LINK_TRAINED: the link trains in a mode; one outside R243 is reported and keeps the module out of service (R243, R362). -/
def execLinkTrained (mode : LinkMode) (s : State) : Out :=
  let t := { s with pwr := { s.pwr with link := some mode } }
  onlyIf (s.apexUp && s.pwr.boot != .warm && !s.pwr.perstLow && s.pwr.link.isNone) s
    (if linkModeOk mode then t else t.event 0x05 3 0 (pack [(15, 8, mode.gen), (7, 0, mode.width)]))

/-- ENTER_SERVICE: at the first moment all conditions hold (R363). -/
def execEnterService (s : State) : Out := onlyIf s.entryOk s s.enter

/-! ### The supply -/

/-- POWER_LOSS: P12V below 10.5 V for 20 µs (R360). -/
def execPowerLoss (s : State) : Out :=
  onlyIf (s.pwr.supply == .on || s.pwr.supply == .rising) s (s.powerDown .off)

/-- OVERVOLTAGE_SHUTDOWN: P12V above 13.8 V for 20 µs; off until the supply falls below 1.0 V (R360). -/
def execOvervoltageShutdown (s : State) : Out :=
  onlyIf (s.pwr.supply == .on || s.pwr.supply == .rising) s (s.powerDown .latched)

/-- SUPPLY_LOW_ENTRY: reported once for the stay (R360). -/
def execSupplyLowEntry (s : State) : Out :=
  onlyIf (s.pwr.supply == .on && s.pwr.band == .normal) s ({ s with pwr := { s.pwr with band := .low } }.event 0x04 3 0)

/-- SUPPLY_HIGH_ENTRY: reported once for each entry (R360). -/
def execSupplyHighEntry (s : State) : Out :=
  onlyIf (s.pwr.supply == .on && s.pwr.band == .normal) s ({ s with pwr := { s.pwr with band := .high } }.event 0x04 4 0)

/-- SUPPLY_BAND_MS: 1 ms spent in a band counts (R360). -/
def execSupplyBandMs (s : State) : Out :=
  onlyIf (s.pwr.supply == .on && s.pwr.band != .normal) s (s.countAll (if s.pwr.band == .low then 0x8D else 0x8E))

/-- SUPPLY_RETURN_TO_RANGE: the supply comes back into 10.8 to 13.2 V (R360). -/
def execSupplyReturnToRange (s : State) : Out :=
  onlyIf (s.pwr.supply == .on && s.pwr.band != .normal) s { s with pwr := { s.pwr with band := .normal } }

/-- SUPPLY_BELOW_1V: the latch of an overvoltage switch-off clears (R360). -/
def execSupplyBelow1V (s : State) : Out :=
  onlyIf (s.pwr.supply == .latched) s { s with pwr := { s.pwr with supply := .off } }

/-! ### PERST_N (R362, R364, R365) -/

/-- Has boot complete been reported, or has the boot failed, so that PERST_N low starts a warm reset (R364, R323)? -/
def Boot.resets : Boot → Bool
  | .booted | .failed => true
  | _ => false

/-- PERST_ASSERT: the endpoint is held; after boot complete the 10 µs window opens (R362, R364). -/
def execPerstAssert (s : State) : Out :=
  onlyIf (!s.pwr.perstLow) s
    (if s.pwr.supply == .on && s.pwr.boot.resets then { s with pwr := { s.pwr with perstLow := true, window := true } }
     else { s with pwr := { s.pwr with perstLow := true, link := none } })

/-- PERST_GLITCH: a low pulse shorter than 10 µs changes nothing and is counted (R364). -/
def execPerstGlitch (s : State) : Out :=
  onlyIf s.pwr.window s ({ s with pwr := { s.pwr with perstLow := false, window := false } }.countAll 0x8C)

/-- Nothing stays staged or filling; committed dirty lines are written back (R219). -/
def Mem.warm (m : Mem) : Mem :=
  ({ m with cache := dropEmpty (m.cache.map (fun e => (e.1, { e.2 with staged := none, filling := false }))) } : Mem).flush

/-- A channel after the warm reset table: running work ended, carried work discarded, cache flushed, every tile idle at facet 0, RW fields at reset (R364, R219, R241, R270, R275, R375, R392). -/
def Chan.warm (k : Chan) (trim : Nat → Trim) (map : Sparse FMap) : Chan :=
  let k := k.abandonTest trim
  { k with
    jobs := []
    sched := { est := k.sched.est }
    seqr := { images := k.seqr.images.filter (fun e => k.seqr.current.any (fun cur => cur.2 == e.1 + 1))
              current := k.seqr.current, nextImage := k.seqr.nextImage, nextSeq := k.seqr.nextSeq, ports := k.seqr.ports.map (fun e => (e.1, { e.2 with waiters := [] })), rng := k.seqr.rng }
    arr := { k.arr with
      tiles := ((List.range tileCount).map (fun t => (t, ({} : Tile).trimmed (trim t)))).filter (fun e => decide (e.2 ≠ {}))
      map := map, copying := false }
    mem := k.mem.warm
    sync := { bars := (k.sync.bars.map (fun e => (e.1, ({ cfg := e.2.cfg } : Bar)))).filter (fun e => e.2 != {}) }
    check := { k.check with list := [], failed := false, isRotation := false, disagree := [] }
    dbg := { cycles := k.dbg.cycles, cyclePhase := k.dbg.cyclePhase, busyNs := k.dbg.busyNs, weightNs := k.dbg.weightNs, tableNs := k.dbg.tableNs } }

/-- WARM_RESET: PERST_N low for 10 µs after boot complete: the warm reset table (R364, R366, R375). -/
def execWarmReset (seeds : List Word) (s : State) : Out :=
  -- a drain's record, and a write in progress, complete first (R366, R332)
  let t := if s.integ.svc == .draining && !s.integ.recordDone && s.store.writing.isNone then s.recordStart else s
  let t := if t.store.writing.isSome then t.recordDone true else t
  let t := t.abandonLoads stUnsupported 0x27
  -- settings take the values last accepted for the store; what no record holds yet waits on with its audit entry (R318)
  let p := t.store.live
  let t : State := { t with
    pwr := { t.pwr with window := false, link := none }
    store := { t.store with fault := false, coalesced := false, urgent := false, flush := [] }
    hub := { t.hub with smbInstaller := true, smbClearNext := false, setupDone := false, frac := p.checkFrac, fracNext := none
                        cap := p.capW, capNext := none, period := p.periodH, periodNext := none, moduleId := p.moduleId
                        debugNext := if t.hub.debug then some false else none }
    host := { t.host with fns := [], ports := [], staged := t.host.rules, order := [], ownQueue := [], fetchQ := [], jobs := [], cpls := []
                          halves := [] }
    clk := { t.clk with cfg := p.tickCfg, cfgNext := none }
    integ := { t.integ with svc := .starting, replacement := p.replacement, retract := [], told := [], tested := none, scanDone := false, recordDone := false }
    sec := { t.sec with conns := [], sessions := [], secrets := [], insecure := [], keyed := [] }
    therm := { t.therm with sensors := t.therm.sensors.map (fun e => (e.1, { e.2 with broken := false })) } }
  let t := t.allChans (fun c k => k.warm (fun n => t.trim c n) (sget {} p.chans c).map)
  onlyIf (s.pwr.window && s.pwr.supply == .on) s ((t.seedAll seeds).verifyFw .warm)

/-- What the store still owes after a warm reset falls due again: waiting entries and the settings, firmware changes and map changes that no record
holds (R318, R324, R332). -/
def State.redue (s : State) : State :=
  let p := s.store.live
  let r := s.store.recorded
  let urgent := p.fwActive != r.fwActive || p.svnFloor != r.svnFloor || p.replacement != r.replacement || !s.host.unmaps.isEmpty ||
    decide (192 ≤ s.store.waiting.length)
  let settings := p.capW != r.capW || p.tickCfg != r.tickCfg || p.checkFrac != r.checkFrac || p.periodH != r.periodH || p.moduleId != r.moduleId
  let due := urgent || settings || !s.store.waiting.isEmpty || !s.host.auths.isEmpty
  if due then { s with store := { s.store with coalesced := true, urgent := urgent } } else s

/-- PERST_RELEASE: PERST_N rises; after a warm reset the remaining steps run and boot completes (R365), otherwise only the endpoint is freed (R362). -/
def execPerstRelease (survey : List SurveyReading) (s : State) : Out :=
  let t := { s with pwr := { s.pwr with perstLow := false } }
  let warm :=
    let t := t.loadTrims
    let t := t.allChans (fun c k => { k with tables := { k.tables with shared := (s.store.tables' c).shared }, sharedPoison := [] })
    (t.survey survey).redue.bootDone
  onlyIf (s.pwr.perstLow && !s.pwr.window) s (if s.pwr.supply == .on && s.pwr.boot == .warm then warm else t)

end Sys2Proof.Machine
end

