-- ==== Sys2Proof/Machine/Mailbox.lean ====
section
/-! DEFINITION. The management mailbox (R384 to R389) and its commands: role tokens (R311 to R316), the audit and error logs (R320,
R380), store requests (R330, R332), facet unmapping (R186, R388) and the maker's commands (R297, R321 to R325, R394). -/

namespace Sys2Proof.Machine

/-! ### Running a command (R384 to R386) -/

/-- Code of a command and the version that introduces it (R386). -/
def mbxFrom (op : Nat) : Option Nat :=
  if op = 6 then some 0x11
  else if op = 0x0A then some 0x12
  else if op ≤ 0x0B ∨ (0x10 ≤ op ∧ op ≤ 0x15) then some 0x10
  else none

/-- The ROM alone answers the SMBus mailbox: without a valid record the maker's commands, without firmware that verifies the maker's firmware
commands (R322, R331). -/
def State.romHears (s : State) (op : Nat) : Bool :=
  s.answers && !s.apexUp && (if s.pwr.recordOk then op == 0x10 || op == 0x11 else decide (0x10 ≤ op ∧ op ≤ 0x15))

/-- Does a command reach the port: functions over the link, SMBus from apex release, and before it what the ROM answers (R322, R331, R358)? -/
def State.portHears (s : State) (p op : Nat) : Bool :=
  if p = smbPort then s.apexUp || s.romHears op
  else decide (p < 32) && s.linkUp && s.hostSecure

/-- The command register as a request sets it. -/
def cmdWord (r : MbxReq) (op : Nat) : BitVec 64 :=
  BitVec.ofNat 64 (pack [(63, 56, op), (55, 48, r.ver), (47, 32, r.data.length), (31, 0, r.tag)])

/-- Run a command of a port by `f`, or refuse it: busy, closed, unknown, above the version, too long. The ROM's mailbox needs no opening, since the
ROM answers nothing that could open it (notes/assumptions/108). -/
def State.command (s : State) (p op : Nat) (r : MbxReq) (f : State → State) : State :=
  let x := s.port p
  if x.busy then s.errlog p 0x04 0x38 0 (cmdWord r op)
  else
    let s := s.modPort p (fun x => { x with busy := true, cmd := cmdWord r op, data := overlay (r.data.take 4096) x.data })
    if op = 0 ∧ p = smbPort then f s
    else if p = smbPort ∧ s.romHears op then f s
    else if !x.mbxOpen then s.mbxDone p stUnsupported 0x20
    else
      match mbxFrom op with
      | none => s.mbxDone p stUnsupported 0x21
      | some v =>
        if x.mbxVer < r.ver ∨ x.mbxVer < v then s.mbxDone p stUnsupported 0x20
        else if 4096 < r.data.length then s.mbxDone p stUnsupported 0x21
        else f s

/-- A command that reaches its port. -/
def State.mailbox (s : State) (p op : Nat) (r : MbxReq) (f : State → State) : Out :=
  onlyIf (s.portHears p op) s (s.command p op r f)

/-- A command without its right completes PROTECTION and is audited; one that needs an audit entry while 256 wait is DEFERRED; else `f` (R319, R386). -/
def State.withRight (s : State) (p : Nat) (res : Nat) (f : State → State) : State :=
  if res ≠ 0 then let d := s.draw; (d.2.audit 0x40 p res d.1).mbxDone p stProtection res
  else if s.auditFull then s.mbxDone p stDeferred 0x28
  else f s

/-- A role action that changes persistent settings is refused under a store fault (R333). -/
def State.unlessFault (s : State) (p action : Nat) (f : State → State) : State :=
  if s.store.fault then let d := s.draw; (d.2.audit action p 0x07 d.1).mbxDone p stUnsupported 0x07 else f s

/-- A command refused for its fields, with its audit entry (R388). -/
def State.refuseField (s : State) (p action : Nat) : State :=
  let d := s.draw
  (d.2.audit action p 0x06 d.1).mbxDone p stUnsupported 0x06

/-- A command's audit entry where R317 names no object for the action. -/
def State.auditDraw (s : State) (action p : Nat) : State := let d := s.draw; d.2.audit action p 0 d.1

/-! ### Version and roles -/

/-- OPEN_MAILBOX: opens the SMBus mailbox at the settled version, or leaves it closed; a function mailbox refuses it (R384). -/
def execOpenMailbox (port : Nat) (r : MbxReq) (s : State) : Out :=
  s.mailbox port 0x00 r (fun s =>
    if port ≠ smbPort ∨ r.data.length ≠ 2 then s.mbxDone port stUnsupported 0x21
    else
      let v := settle ((r.data.getD 0 0).toNat) ((r.data.getD 1 0).toNat)
      (s.modPort port (fun x => { x with mbxOpen := v != 0, mbxVer := v })).mbxDone port stOK 0 [BitVec.ofNat 8 v])

/-- GET_CHALLENGE: a nonce drawn from the apex generator becomes the port's challenge (R311). -/
def execGetChallenge (port : Nat) (r : MbxReq) (s : State) : Out :=
  s.mailbox port 0x01 r (fun s =>
    let n := Config.apexRandom s.fresh
    let s : State := { s with fresh := s.fresh + 1 }
    (s.modPort port (fun x => { x with challenge := some n })).mbxDone port stOK 0 (leBytes 16 n.toNat))

/-- Rights bits of a role. -/
def roleRights (role : Nat) : Nat := if role = 1 then 0x00FF else 0x1F00

/-- The first check that a token fails, by its audit result; 0 where it passes (R312, R376). -/
def State.tokenResult (s : State) (p : Nat) (t : BitVec 1024) (sigOk : Bool) : Nat :=
  let role := fld t 1015 1014
  let maker := role == 2
  let rights := fld t 878 863
  let x := s.store.live
  let slot := sget {} x.auth (fld t 1011 1010)
  if fld t 1023 1016 ≠ 1 ∨ role = 0 ∨ role = 3 ∨ fld t 1009 1008 ≠ 0 ∨ fld t 670 0 ≠ 0 ∨ rights &&& roleRights role ≠ rights ∨
      (maker && (!bit t 1012 || fld t 1011 1010 != 0)) then 0x06
  else if nfld (fld t 911 879) (if p = smbPort then 32 else p) (if p = smbPort then 32 else p) = 0 ∨
      (maker && p != 0 && p != smbPort) ∨ (p = smbPort ∧ !maker ∧ !s.hub.smbInstaller) then 0x04
  else if (!bit t 1013 && fld t 975 912 != x.serial.toNat) ∨
      (bit t 1012 && (s.port p).challenge != some (BitVec.ofNat 128 (fld t 862 735))) then 0x04
  else if (if maker then decide (fld t 1007 976 < x.makerEpoch) else slot.key.isNone || decide (fld t 1007 976 < slot.epoch)) then 0x05
  else if !sigOk then 0x03
  else 0

/-- The role and rights of a token. -/
def tokenRole (t : BitVec 1024) (digest : BitVec 256) : RoleState :=
  { role := if fld t 1015 1014 = 2 then .maker else .installer, rights := fld t 878 863, signer := fld t 1011 1010
    epoch := fld t 1007 976, tokenId := BitVec.ofNat 64 (fld t 734 671), digest := digest }

/-- Status of a refused token by its audit result. -/
def tokenStatus (res : Nat) : Nat := if res = 0x06 then stUnsupported else stProtection

/-- ASSUME_ROLE: the token's checks in order; an accepted one gives the port its role from the next tick, and a bound challenge is consumed either way (R312, R319). -/
def execAssumeRole (port : Nat) (r : MbxReq) (sigOk : Bool) (s : State) : Out :=
  s.mailbox port 0x02 r (fun s =>
    if r.data.length ≠ 1408 then s.mbxDone port stUnsupported 0x21
    else
      let t : BitVec 1024 := BitVec.ofNat 1024 (leNat (r.data.take 128))
      let dg := Config.shake256 r.data
      let res := s.tokenResult port t sigOk
      let full := s.auditFull
      let s := if bit t 1012 then s.modPort port (fun x => { x with challenge := none }) else s
      if res ≠ 0 then
        let s := s.audit 0x03 port res (digestObject dg)
        if full then s.mbxDone port stDeferred 0x28 else s.mbxDone port (tokenStatus res) res
      else if full then s.mbxDone port stDeferred 0x28
      else (s.modPort port (fun x => { x with roleNext := some (tokenRole t dg) })).mbxDone port stOK 0)

/-- RELEASE_ROLE: the port holds operator rights only (R313). -/
def execReleaseRole (port : Nat) (r : MbxReq) (s : State) : Out :=
  s.mailbox port 0x03 r (fun s => (s.endRole port).mbxDone port stOK 0)

/-- CHALLENGE_EXPIRE: 60 s of powered time have passed since the port's challenge was drawn (R311). -/
def execChallengeExpire (port : Nat) (s : State) : Out :=
  onlyIf (s.apexUp && (s.port port).challenge.isSome) s (s.modPort port (fun x => { x with challenge := none }))

/-! ### Reading -/

/-- READ_EVENTS: up to 128 records, oldest first, leave the queue (R389). -/
def execReadEvents (port : Nat) (r : MbxReq) (s : State) : Out :=
  s.mailbox port 0x04 r (fun s =>
    let l := s.hub.events.take 128
    let s : State := { s with hub := { s.hub with events := s.hub.events.drop 128 } }
    s.mbxDone port stOK 0 (l.flatMap (fun e => leBytes 32 e.toNat)))

/-- READ_AUDIT: up to 64 entries, stored and waiting alike, from a sequence number on (R320). -/
def execReadAudit (port : Nat) (r : MbxReq) (s : State) : Out :=
  s.mailbox port 0x05 r (fun s =>
    if r.data.length ≠ 8 then s.mbxDone port stUnsupported 0x21
    else
      let l := ((s.store.live.audit ++ s.store.waiting).filter (fun e => decide (leNat r.data ≤ e.seq))).take 64
      s.mbxDone port stOK 0 (l.flatMap (fun e => leBytes 64 e.bits.toNat)))

/-- The error log's entries, oldest first (R380). -/
def Hub.errors (h : Hub) : List (BitVec 256) :=
  let n := min 256 h.errHead
  (List.range n).map (fun i => sget 0 h.errlog ((h.errHead - n + i) % 256))

/-- READ_ERRLOG: up to 128 entries from an entry number on (R380, R386). -/
def execReadErrlog (port : Nat) (r : MbxReq) (s : State) : Out :=
  s.mailbox port 0x06 r (fun s =>
    if r.data.length ≠ 4 then s.mbxDone port stUnsupported 0x21
    else
      let l := (s.hub.errors.filter (fun e => decide (leNat r.data ≤ fld e 255 224))).take 128
      s.mbxDone port stOK 0 (l.flatMap (fun e => leBytes 32 e.toNat)))

/-- The value of HUB_MODULE_ID (R379). -/
def State.moduleIdReg (s : State) : Nat :=
  pack [(31, 31, bnat (s.store.live.moduleId != s.hub.moduleId)), (13, 8, s.store.live.moduleId), (5, 0, s.hub.moduleId)]

/-- READ_MODULE_ID (R379). -/
def execReadModuleId (port : Nat) (r : MbxReq) (s : State) : Out :=
  s.mailbox port 0x0B r (fun s => s.mbxDone port stOK 0 (leBytes 4 s.moduleIdReg))

/-! ### The store and the installer's commands -/

/-- FLUSH_STORE: a record is wanted urgently; the command completes when it is written (R332). -/
def execFlushStore (port : Nat) (r : MbxReq) (s : State) : Out :=
  s.mailbox port 0x07 r (fun s =>
    if (s.port port).roleNow.role == .operator then let d := s.draw; (d.2.audit 0x40 port 1 d.1).mbxDone port stProtection 1
    else if s.store.fault then s.mbxDone port stUnsupported 0x29
    else ({ s with store := { s.store with flush := s.store.flush ++ [port] } } : State).wantRecord)

/-- SET_MODULE_ID: stored now, in force from the next warm reset (R330). -/
def execSetModuleId (port : Nat) (r : MbxReq) (s : State) : Out :=
  s.mailbox port 0x08 r (fun s =>
    s.withRight port (s.rightResult port .installer 4) (fun s =>
      if r.data.length ≠ 1 ∨ 64 ≤ leNat r.data then s.refuseField port 0x22
      else s.unlessFault port 0x22 (fun s =>
        (({ s with store := { s.store with live := { s.store.live with moduleId := leNat r.data } } } : State).auditDraw 0x22 port).mbxDone port stOK 0)))

/-- An authority slot as accepted changes leave it. -/
def State.authNow (s : State) (n : Nat) : AuthSlot :=
  (s.host.auths.filter (fun a => a.1 == n)).foldl (fun _ a => a.2.1) (sget {} s.store.live.auth n)

/-- What an AUTH_SLOT makes of a slot; `none`: refused (R316, R388). -/
def authChange (x : AuthSlot) (d : List Byte) : Option AuthSlot :=
  let op := (d.getD 1 0).toNat
  let ep := leNat ((d.drop 4).take 4)
  if 4 ≤ (d.getD 0 0).toNat ∨ d.length ≠ (if op = 1 then 1801 else 8) ∨ leNat ((d.drop 2).take 2) ≠ 0 then none
  else
    match op with
    | 1 => if ep = 0 ∧ x.key.isNone then some { key := some (d.drop 8), epoch := 0 } else none
    | 2 => if ep = 0 ∧ x.key.isSome then some { x with key := none } else none
    | 3 => if x.epoch < ep then some { x with epoch := ep } else none
    | _ => none

/-- AUTH_SLOT: takes effect at the tick after its record is written (R316, R388). -/
def execAuthSlot (port : Nat) (r : MbxReq) (s : State) : Out :=
  s.mailbox port 0x09 r (fun s =>
    let res := if (s.port port).roleNow.role == .maker then 0 else s.rightResult port .installer 7
    s.withRight port res (fun s =>
      let n := (r.data.getD 0 0).toNat
      match authChange (s.authNow n) r.data with
      | none => s.refuseField port 0x25
      | some x => s.unlessFault port 0x25 (fun s =>
          (({ s with host := { s.host with auths := s.host.auths ++ [(n, x, false)] } } : State).auditDraw 0x25 port).mbxDone port stOK 0)))

/-- UNMAP_FACET: the valid bit is cleared by an urgent record, and the command completes once the map has changed (R186, R388). -/
def execUnmapFacet (port : Nat) (r : MbxReq) (s : State) : Out :=
  s.mailbox port 0x0A r (fun s =>
    let d := r.data
    let c := (d.getD 0 0).toNat
    let t := leNat ((d.drop 1).take 2)
    let l := (d.getD 3 0).toNat
    -- the manual gives no action code for an unmap request
    s.withRight port (s.rightResult port .installer 0) (fun s =>
      let a := s.draw
      if d.length ≠ 8 ∨ leNat (d.drop 4) ≠ 0 ∨ !s.fitted c ∨ 384 ≤ t ∨ 16 ≤ l ∨ s.facetNamed c t l then a.2.refuseField port a.1
      else if !(sget {} (s.chan c).arr.map (16 * t + l)).valid then s.mbxDone port stOK 0
      else a.2.unlessFault port a.1 (fun s =>
        (({ s with host := { s.host with unmaps := s.host.unmaps ++ [(port, c, t, l, false)] } } : State).auditDraw a.1 port).wantRecord)))

/-! ### The maker's commands (R386) -/

/-- Run a maker command by `f`. To the ROM no role can be shown, and it asks for none (notes/assumptions/108). -/
def State.maker (s : State) (p op bitNo : Nat) (r : MbxReq) (f : State → State) : Out :=
  s.mailbox p op r (fun s => s.withRight p (if p == smbPort && s.romHears op then 0 else s.rightResult p .maker bitNo) f)

/-- FIRMWARE_STAGE: an image goes into the inactive slot and is verified there (R321, R324). -/
def execFirmwareStage (port : Nat) (r : MbxReq) (hdr : BitVec 256) (sigOk : Bool) (s : State) : Out :=
  s.maker port 0x10 8 r (fun s =>
    let dg := Config.shake256 (leBytes 32 hdr.toNat ++ r.data)
    let w : FwSlot := { hdr := hdr, valid := sigOk }
    let ok := s.store.live.fwOk w
    let s : State := { s with store :=
      (if s.store.live.fwActive = 0 then { s.store with fw1 := { w with valid := ok }, fwDig1 := dg, fwStaged := ok }
       else { s.store with fw0 := { w with valid := ok }, fwDig0 := dg, fwStaged := ok }) }
    let res := if ok then 0 else if !sigOk then 0x03 else 0x06
    (s.audit 0x30 port res (digestObject dg)).mbxDone port (if res = 0 then stOK else tokenStatus res) res)

/-- FIRMWARE_ACTIVATE: an urgent record names the staged slot, which runs from the next warm reset (R324, R332). -/
def execFirmwareActivate (port : Nat) (r : MbxReq) (s : State) : Out :=
  s.maker port 0x11 8 r (fun s =>
    let n := 1 - s.store.live.fwActive
    let dg := if n = 0 then s.store.fwDig0 else s.store.fwDig1
    if !s.store.fwStaged then (s.audit 0x31 port 0x06 (digestObject dg)).mbxDone port stUnsupported 0x06
    else s.unlessFault port 0x31 (fun s =>
      let s : State := { s with store := { s.store with fwStaged := false, live := { s.store.live with fwActive := n } } }
      ((s.audit 0x31 port 0 (digestObject dg)).wantRecord).mbxDone port stOK 0))

/-- CALIBRATE: a calibration run, entered in the audit log; R386 gives its body to the maker's tools. -/
def execCalibrate (port : Nat) (r : MbxReq) (s : State) : Out :=
  s.maker port 0x12 9 r (fun s => (s.auditDraw 0x32 port).mbxDone port stOK 0)

/-- PROVISION: a new key pair is generated, its private key wrapped under the key that the PUF secret gives, both stored with the helper data, and
the public key returned; the certificate chain that the maker then sends is stored (R325). -/
def execProvision (port : Nat) (r : MbxReq) (s : State) : Out :=
  s.maker port 0x13 10 r (fun s => s.unlessFault port 0x33 (fun s =>
    if r.data.isEmpty then
      let secret := Config.signature s.fresh
      let pub := Config.falconPublic secret
      let helper := Config.pufHelper (s.fresh + 1)
      let wrap := Config.gcmWrap (wrapKey (Config.pufSecret helper)) secret
      let s : State := { s with
        fresh := s.fresh + 2, sec := { s.sec with key := true, keyBytes := secret }
        store := { s.store with live := { s.store.live with publicKey := pub, wrappedKey := wrap, helper := helper, chain := [] } } }
      (s.auditDraw 0x33 port).mbxDone port stOK 0 pub
    else
      (({ s with store := { s.store with live := { s.store.live with chain := r.data } } } : State).auditDraw 0x33 port).mbxDone port stOK 0))

/-- CLEAR_REPLACEMENT_FLAG: the stored flag is cleared, effective at the next warm reset (R297). -/
def execClearReplacementFlag (port : Nat) (r : MbxReq) (s : State) : Out :=
  s.maker port 0x14 11 r (fun s => s.unlessFault port 0x34 (fun s =>
    ((({ s with store := { s.store with live := { s.store.live with replacement := false } } } : State).auditDraw 0x34 port).wantRecord).mbxDone port stOK 0))

/-- OPEN_DEBUG_WINDOW: data byte 0 asks that debug mode begin (1) or end (0) at the next tick (R394). -/
def execOpenDebugWindow (port : Nat) (r : MbxReq) (s : State) : Out :=
  s.maker port 0x15 12 r (fun s =>
    match r.data.head? with
    | some b =>
      if b = 1 then
        (({ s with hub := { s.hub with debugNext := some true, debugPort := port } } : State).auditDraw 0x35 port).mbxDone port stOK 0
      else if b = 0 then s.endDebug.mbxDone port stOK 0
      else s.refuseField port 0x35
    | none => s.refuseField port 0x35)

end Sys2Proof.Machine
end

