-- ==== Sys2Proof/Machine/Setup.lean ====
section
/-! DEFINITION. Writes to the hub and channel registers that have rows of their own (R85, R223, R240, R274, R275, R280, R286, R303,
R336, R376, R392, R395). -/

namespace Sys2Proof.Machine

/-! ### Shared rules (R8, R314, R319, R333, R374, R381) -/

/-- A register access of function `fn` reaches the module while its link is up. -/
def State.regCmd (s : State) (fn : Nat) (f : State → State) : Out := onlyIf (s.linkUp && s.hostSecure && decide (fn < 32)) s (f s)

/-- Log a write that sets reserved bits; they stay as they are. -/
def State.rsvBits (s : State) (fn off mask v : Nat) : State :=
  if v &&& mask = 0 then s else s.errlog fn 0x02 off 0 (BitVec.ofNat 64 v)

/-- A register that the physical function alone writes. -/
def State.pfOnly (s : State) (fn off v : Nat) (f : State → State) : State :=
  if fn ≠ 0 then s.errlog fn 0x0A off 0 (BitVec.ofNat 64 v) else f s

/-- A write that needs an installer right: denied and audited, refused with result 0x06 or 0x07, held off while the log is full, or applied and entered. -/
def State.roleWrite (s : State) (fn right action off v : Nat) (ok : Bool) (f : State → State) : State :=
  let obj := regObject off (BitVec.ofNat 64 v)
  if s.rightResult fn .installer right ≠ 0 then s.audit 0x40 fn (s.rightResult fn .installer right) obj
  else if !ok then s.audit action fn 0x06 obj
  else if s.auditFull then s
  else if s.store.fault then s.audit action fn 0x07 obj
  else (f s).audit action fn 0 obj

/-- The mask of bits `hi:lo`. -/
def maskBits (hi lo : Nat) : Nat := (2 ^ (hi + 1 - lo) - 1) * 2 ^ lo

/-- Offset of a channel's register block. -/
def chanOff (c : Nat) : Nat := 0x100000 + 0x10000 * c

/-- A write into the block of a channel that is not fitted (R373). -/
def State.inChan (s : State) (fn c off v : Nat) (f : State → State) : State :=
  if s.fitted c then f s else s.errlog fn 0x09 off 0 (BitVec.ofNat 64 v)

/-- A value of a sparse map as a pending write leaves it. -/
def withNext {α : Type} (d : α) (m next : Sparse α) (k : Nat) : α :=
  match next.find? (fun e => e.1 == k) with
  | some e => e.2
  | none => sget d m k

/-! ### HUB_SETUP (R376) -/

/-- Write HUB_SETUP. DESIGN CHOICE (notes/assumptions/102): after set-up a write counts as one to the locked field, and is logged, only where its
smb_installer bit differs from the value held; the bit written as it stands, beside a 1 for setup_done, is logged as nothing. -/
def State.wrSetup (s : State) (fn v : Nat) : State :=
  s.pfOnly fn 0x18 v (fun s =>
    let s := s.rsvBits fn 0x18 (maskBits 63 2) v
    let smb := nfld v 1 1 == 1
    if s.hub.setupDone then
      if smb != s.hub.smbInstaller then s.errlog fn 0x05 0x18 0 (BitVec.ofNat 64 v)
      else if nfld v 0 0 = 0 then s.errlog fn 0x04 0x18 0 (BitVec.ofNat 64 v)
      else s
    else { s with hub := { s.hub with
      smbInstaller := smb, setupDone := nfld v 0 0 == 1
      smbClearNext := s.hub.smbClearNext || (s.hub.smbInstaller && !smb) } })

/-- SETUP_DONE: setup_done is written 1. -/
def execSetupDone (fn : Nat) (s : State) : Out := s.regCmd fn (fun s => s.wrSetup fn (2 * bnat s.hub.smbInstaller + 1))

/-- SMB_INSTALLER_CLEAR: smb_installer is written 0. -/
def execSmbInstallerClear (fn : Nat) (s : State) : Out := s.regCmd fn (fun s => s.wrSetup fn (bnat s.hub.setupDone))

/-! ### Installer settings (R223, R286, R303, R336) -/

/-- Write HUB_TICK_CFG. -/
def State.wrTickCfg (s : State) (fn v : Nat) : State :=
  (s.rsvBits fn 0x30 (maskBits 29 20) v).roleWrite fn 3 0x21 0x30 v (decide (250 ≤ nfld v 19 0 ∧ nfld v 19 0 ≤ 1000000)) (fun s =>
    let x : BitVec 32 := BitVec.ofNat 32 (pack [(31, 30, nfld v 31 30), (19, 0, nfld v 19 0)])
    { s with clk := { s.clk with cfgNext := some x }, store := { s.store with live := { s.store.live with tickCfg := x } } })

/-- TICK_CFG_WRITE: in force from the next tick. -/
def execTickCfgWrite (fn : Nat) (v : BitVec 32) (s : State) : Out := s.regCmd fn (fun s => s.wrTickCfg fn v.toNat)

/-- Write HUB_CHECK_CFG. -/
def State.wrCheckCfg (s : State) (fn v : Nat) : State :=
  (s.rsvBits fn 0x38 (maskBits 28 0) v).roleWrite fn 5 0x23 0x38 v (decide (nfld v 31 29 ≤ 4)) (fun s =>
    { s with hub := { s.hub with fracNext := some (nfld v 31 29) }, store := { s.store with live := { s.store.live with checkFrac := nfld v 31 29 } } })

/-- CHECK_CFG_WRITE: in force from the next tick. -/
def execCheckCfgWrite (fn : Nat) (v : BitVec 32) (s : State) : Out := s.regCmd fn (fun s => s.wrCheckCfg fn v.toNat)

/-- Write HUB_PWR_CFG. -/
def State.wrPwrCfg (s : State) (fn v : Nat) : State :=
  (s.rsvBits fn 0x3C (maskBits 23 0) v).roleWrite fn 2 0x20 0x3C v (decide (25 ≤ nfld v 31 24 ∧ nfld v 31 24 ≤ 75)) (fun s =>
    { s with hub := { s.hub with capNext := some (nfld v 31 24) }, store := { s.store with live := { s.store.live with capW := nfld v 31 24 } } })

/-- PWR_CFG_WRITE: in force from the next control step. -/
def execPwrCfgWrite (fn : Nat) (v : BitVec 32) (s : State) : Out := s.regCmd fn (fun s => s.wrPwrCfg fn v.toNat)

/-- Write HUB_TEST_CFG: period_h, and run_now for the fitted channels it names. -/
def State.wrTestCfg (s : State) (fn v : Nat) : State :=
  (s.rsvBits fn 0x50 (maskBits 43 0) v).roleWrite fn 6 0x24 0x50 v (decide (24 ≤ nfld v 55 44 ∧ nfld v 55 44 ≤ 2160)) (fun s =>
    let s : State := { s with hub := { s.hub with periodNext := some (nfld v 55 44) }, store := { s.store with live := { s.store.live with periodH := nfld v 55 44 } } }
    s.allChans (fun c k => if nfld v (56 + c) (56 + c) = 1 then { k with test := { k.test with runNext := true } } else k))

/-- TEST_PERIOD_WRITE: a write of HUB_TEST_CFG, in force from the next tick. -/
def execTestPeriodWrite (fn : Nat) (v : BitVec 64) (s : State) : Out := s.regCmd fn (fun s => s.wrTestCfg fn v.toNat)

/-- TEST_RUN_NOW: a write of HUB_TEST_CFG with run_now bits; the channels fall due at the next tick. -/
def execTestRunNow (fn : Nat) (v : BitVec 64) (s : State) : Out := s.regCmd fn (fun s => s.wrTestCfg fn v.toNat)

/-! ### Channel settings (R103, R240, R274, R275, R280) -/

/-- A field written, or kept where the write gives 0. -/
def orKeep (v cur hi lo : Nat) : Nat × Nat × Nat := (hi, lo, if nfld v hi lo = 0 then nfld cur hi lo else nfld v hi lo)

/-- Write CH_SCHED_CFG. -/
def State.wrSchedCfg (s : State) (fn c v : Nat) : State :=
  s.inChan fn c (chanOff c + 0x18) v (fun s => s.pfOnly fn (chanOff c + 0x18) v (fun s =>
    let k := s.chan c
    let cur := (k.sched.cfgNext.getD k.sched.cfg).toNat
    let x := pack [orKeep v cur 31 24, orKeep v cur 23 16, orKeep v cur 15 8, (7, 0, nfld v 7 0)]
    let s := if nfld v 31 24 = 0 ∨ nfld v 23 16 = 0 ∨ nfld v 15 8 = 0 then s.errlog fn 0x03 (chanOff c + 0x18) 0 (BitVec.ofNat 64 v) else s
    s.modChan c (fun k => { k with sched := { k.sched with cfgNext := some (BitVec.ofNat 32 x) } })))

/-- SCHED_CFG_WRITE. -/
def execSchedCfgWrite (fn ch : Nat) (v : BitVec 32) (s : State) : Out := s.regCmd fn (fun s => s.wrSchedCfg fn ch v.toNat)

/-- Write CH_SYNC_CFG. -/
def State.wrSyncCfg (s : State) (fn c v : Nat) : State :=
  s.inChan fn c (chanOff c + 0x1C) v (fun s => s.pfOnly fn (chanOff c + 0x1C) v (fun s =>
    let s := s.rsvBits fn (chanOff c + 0x1C) (maskBits 23 0) v
    if nfld v 31 24 = 0 then s.errlog fn 0x03 (chanOff c + 0x1C) 0 (BitVec.ofNat 64 v)
    else s.modChan c (fun k => { k with sync := { k.sync with cfgNext := some (BitVec.ofNat 32 (pack [(31, 24, nfld v 31 24)])) } })))

/-- SYNC_CFG_WRITE. -/
def execSyncCfgWrite (fn ch : Nat) (v : BitVec 32) (s : State) : Out := s.regCmd fn (fun s => s.wrSyncCfg fn ch v.toNat)

/-- Is a write of a vertex link refused, whatever its valid bit: to its own channel, to one not fitted, or of a vertex another valid link names? -/
def State.linkRefused (s : State) (c i v : Nat) : Bool :=
  let k := (s.chan c).sync
  nfld v 18 16 == c || !s.fitted (nfld v 18 16) ||
    (List.range 32).any (fun j => j != i && bit (withNext 0 k.link k.linkNext j) 31 && fld (withNext 0 k.link k.linkNext j) 30 19 == nfld v 30 19)

/-- Write CH_VTX_LINK[i]. -/
def State.wrVtxLink (s : State) (fn c i v : Nat) : State :=
  let off := chanOff c + 0x100 + 4 * i
  s.inChan fn c off v (fun s => s.pfOnly fn off v (fun s =>
    let s := s.rsvBits fn off 15 v
    if s.linkRefused c i v then s.errlog fn 0x03 off 0 (BitVec.ofNat 64 v)
    else s.modChan c (fun k => { k with sync := { k.sync with linkNext := sinsert i (BitVec.ofNat 32 (v / 16 * 16)) k.sync.linkNext } })))

/-- VTX_LINK_WRITE: in force from the next tick. -/
def execVtxLinkWrite (fn ch i : Nat) (v : BitVec 32) (s : State) : Out := s.regCmd fn (fun s => if i < 32 then s.wrVtxLink fn ch i v.toNat else s)

/-- Does a barrier set-up, whatever its valid bit, name a home that does not exist or cannot be reached (R275)? -/
def State.homeRefused (s : State) (v : Nat) : Bool :=
  if nfld v 62 57 = s.hub.moduleId then !s.fitted (nfld v 56 54)
  else (s.peer (nfld v 62 57)).st != .open || decide ((s.peer (nfld v 62 57)).ver < 0x11)

/-- Write CH_BAR_CFG[b]. -/
def State.wrBarCfg (s : State) (fn c b v : Nat) : State :=
  let off := chanOff c + 0x800 + 8 * b
  s.inChan fn c off v (fun s => s.pfOnly fn off v (fun s =>
    let s := s.rsvBits fn off (maskBits 53 44) v
    let x := (s.chan c).barrier b
    if !x.waiters.isEmpty || x.arrived != 0 then s.errlog fn 0x04 off 0 (BitVec.ofNat 64 v)
    else if s.homeRefused v then s.errlog fn 0x03 off 0 (BitVec.ofNat 64 v)
    else s.modChan c (fun k => { k with sync := { k.sync with
      barNext := sinsert b (BitVec.ofNat 64 (pack [(63, 54, nfld v 63 54), (43, 32, nfld v 43 32)])) k.sync.barNext } })))

/-- BAR_CFG_WRITE: in force from the next tick. -/
def execBarCfgWrite (fn ch b : Nat) (v : BitVec 64) (s : State) : Out := s.regCmd fn (fun s => if b < 256 then s.wrBarCfg fn ch b v.toNat else s)

/-- Write CH_QUANT_THRESH: a quant.row started later reads it (R103). -/
def State.wrQuantThresh (s : State) (fn c v : Nat) : State :=
  s.inChan fn c (chanOff c + 0x10) v (fun s => s.pfOnly fn (chanOff c + 0x10) v (fun s =>
    s.modChan c (fun k => { k with seqr := { k.seqr with quantThresh := BitVec.ofNat 64 v } })))

/-! ### Counters (R6, R392) -/

/-- Offset of a channel's telemetry block in BAR2. -/
def telOff (c : Nat) : Nat := 0x1000 + 0x100 * c

/-- Write CH_CNT_SEL[n]; a counter the variant lacks ignores it. -/
def State.wrCntSel (s : State) (fn c n v : Nat) : State :=
  let off := telOff c + 0x40 + 8 * n
  s.inChan fn c off v (fun s => s.pfOnly fn off v (fun s =>
    if s.counters ≤ n then s
    else
      (s.rsvBits fn off (maskBits 43 8) v).modChan c (fun k => { k with dbg := { k.dbg with
        cntSelNext := sinsert n (BitVec.ofNat 64 (pack [(63, 44, nfld v 63 44), (7, 0, nfld v 7 0)])) k.dbg.cntSelNext } })))

/-- CNT_SEL_WRITE: in force from the next tick. -/
def execCntSelWrite (fn ch n : Nat) (v : BitVec 64) (s : State) : Out := s.regCmd fn (fun s => s.wrCntSel fn ch n v.toNat)

/-- Write CH_CNT[n]. -/
def State.wrCnt (s : State) (fn c n v : Nat) : State :=
  let off := telOff c + 0x80 + 8 * n
  s.inChan fn c off v (fun s => s.pfOnly fn off v (fun s =>
    if s.counters ≤ n then s else s.modChan c (fun k => { k with dbg := { k.dbg with cnt := sput 0 k.dbg.cnt n (BitVec.ofNat 64 v) } })))

/-- CNT_WRITE: the counter takes the value at once. -/
def execCntWrite (fn ch n : Nat) (v : BitVec 64) (s : State) : Out := s.regCmd fn (fun s => s.wrCnt fn ch n v.toNat)

/-! ### Debug registers (R393 to R395) -/

/-- May the function write the debug part: the maker, in debug mode? -/
def State.debugOk (s : State) (fn : Nat) : Bool := fn == 0 && s.hub.debug && (s.port fn).roleNow.role == .maker

/-- Offset of a channel's debug block in BAR2. -/
def dbgOff (c : Nat) : Nat := 0x1000000 + 0x1000000 * c

/-- Inside the debug part, or logged. -/
def State.inDebug (s : State) (fn c off v : Nat) (f : State → State) : State :=
  s.inChan fn c off v (fun s => if s.debugOk fn then f s else s.errlog fn 0x0A off 0 (BitVec.ofNat 64 v))

/-- Write CH_RNG_SEED. -/
def State.wrSeed (s : State) (fn c v : Nat) : State :=
  s.inDebug fn c (dbgOff c) v (fun s =>
    if v = 0 then s.errlog fn 0x07 (dbgOff c) 0 0
    else s.modChan c (fun k => { k with seqr := { k.seqr with rngNext := some (BitVec.ofNat 64 v) } }))

/-- RNG_SEED_WRITE: in force from the next word drawn. -/
def execRngSeedWrite (fn ch : Nat) (v : BitVec 64) (s : State) : Out := s.regCmd fn (fun s => s.wrSeed fn ch v.toNat)

/-- Write CH_MAP_CMD: the tile and facet fields, and go. -/
def State.wrMapCmd (s : State) (fn c v : Nat) : State :=
  s.inDebug fn c (dbgOff c + 8) v (fun s =>
    let s := s.rsvBits fn (dbgOff c + 8) (maskBits 61 61 + maskBits 47 0) v
    let go' := nfld v 63 63 == 1
    if go' && (s.chan c).dbg.mapRunning then s.errlog fn 0x04 (dbgOff c + 8) 0 (BitVec.ofNat 64 v)
    else if 384 ≤ nfld v 60 52 then s.errlog fn 0x03 (dbgOff c + 8) 0 (BitVec.ofNat 64 v)
    else
      let done := if go' then 0 else fld (s.chan c).dbg.mapCmd 62 62
      let s := s.modChan c (fun k => { k with dbg := { k.dbg with
        mapRunning := k.dbg.mapRunning || go'
        mapCmd := if k.dbg.mapRunning then k.dbg.mapCmd
          else BitVec.ofNat 64 (pack [(62, 62, done), (60, 52, nfld v 60 52), (51, 48, nfld v 51 48)]) } })
      s.startMap c)

/-- MAP_READBACK_GO: a write of CH_MAP_CMD. -/
def execMapReadbackGo (fn ch : Nat) (v : BitVec 64) (s : State) : Out := s.regCmd fn (fun s => s.wrMapCmd fn ch v.toNat)

/-- A facet's codes as 1,024 rows of 675 bytes. -/
def mapRows (codes : Sparse Nat) : List Byte :=
  (List.range 1024).flatMap (fun r => packRow .aw5 (sgetList 0 codes (1080 * r) 1080))

/-- MAP_READBACK_DONE: 160 cycles of reading have ended; the codes, rounded and clamped, stand in the buffer and done is set. -/
def execMapReadbackDone (ch : Nat) (readings : List (Nat × Int)) (s : State) : Out :=
  let t := fld (s.chan ch).dbg.mapCmd 60 52
  match (s.tile ch t).pv with
  | none => go s
  | some v =>
    let u := s.modTile ch t (fun x => { x with pv := none, st := .idle })
    onlyIf (s.fitted ch && (s.chan ch).dbg.mapRunning && v.why == .debug && (s.tile ch t).st == .programming && decide (160 ≤ v.cycle)) s
      (u.modChan ch (fun k => { k with dbg := { k.dbg with
        mapRunning := false, mapCmd := setFld k.dbg.mapCmd 62 62 1, mapBuf := mapRows (readBack (k.arr.readCodes t v.facet) readings) } }))

end Sys2Proof.Machine
end

