-- ==== Sys2Proof/Machine/Rings.lean ====
section
/-! DEFINITION. Opening and closing functions, their rings, protection set-up, and the mailbox of a function (R245, R248, R259 to R267,
R308, R382 to R384). -/

namespace Sys2Proof.Machine

/-! ### Functions (R245, R264, R265, R308) -/

/-- Reserved bits of HUB_FN_OPEN and HUB_FN_MBX_OPEN. -/
def openRsv : Nat := maskBits 39 34 + maskBits 31 1

/-- Write HUB_FN_OPEN. -/
def State.wrFnOpen (s : State) (fn v : Nat) : State :=
  let s := s.rsvBits fn 0x0 openRsv v
  let lo := nfld v 55 48
  let hi := nfld v 63 56
  let x := s.fn fn
  if nfld v 0 0 = 1 then
    match x.st with
    | .closed =>
      let ver := settle lo hi
      let s := s.modFn fn (fun x => { x with drvMin := lo, drvMax := hi, ver := ver, openNext := ver != 0 })
      if ver = 0 then s.errlog fn 0x03 0x0 0 (BitVec.ofNat 64 v) else s
    | .closing => s.modFn fn (fun x => { x with st := .held, waitFrom := some s.frameN })
    | .open | .held => s
  else
    let s := if x.st = .closed then s.modFn fn (fun x => { x with drvMin := lo, drvMax := hi }) else s
    s.closeFn fn

/-- FUNCTION_OPEN: a write of HUB_FN_OPEN with open = 1; the function opens at the next tick, or is held while it closes. -/
def execFunctionOpen (fn : Nat) (v : BitVec 64) (s : State) : Out := s.regCmd fn (fun s => s.wrFnOpen fn v.toNat)

/-- FUNCTION_CLOSE: a write of open = 0. -/
def execFunctionClose (fn : Nat) (s : State) : Out := s.regCmd fn (fun s => s.closeFn fn)

/-- A function-level reset that is under way reports itself done, once its function is closed (R264). -/
def State.reportFlr (s : State) (fn : Nat) : State :=
  if (s.fn fn).flr then { s.modFn fn (fun x => { x with flr := false }) with out := { s.out with flrDone := s.out.flrDone ++ [fn] } } else s

/-- FUNCTION_LEVEL_RESET: acts as open = 0, and reports itself done when the function is closed (R264). -/
def execFunctionLevelReset (fn : Nat) (s : State) : Out :=
  s.regCmd fn (fun s =>
    let t := (s.closeFn fn).modFn fn (fun x => { x with flr := true })
    if (s.fn fn).st = .closed then t.reportFlr fn else t)

/-- FUNCTION_CLOSED: every ring is free: the function is closed, and a held open proceeds unless a drain still holds it (R264, R265, R308). -/
def execFunctionClosed (fn : Nat) (s : State) : Out :=
  let x := s.fn fn
  match x.st with
  | .closing => onlyIf x.allFree s ((s.modFn fn (fun x => { x with st := .closed, ver := 0 })).reportFlr fn)
  | .held => onlyIf (x.allFree && s.integ.svc != .draining) s ((s.modFn fn Fn.proceed).reportFlr fn)
  | .closed | .open => go s

/-! ### Rings (R248) -/

/-- Change a ring. -/
def State.modRing (s : State) (f : Nat) (isCq : Bool) (n : Nat) (g : Ring → Ring) : State := if isCq then s.modCq f n g else s.modSq f n g

/-- A ring of a function. -/
def State.ring (s : State) (f : Nat) (isCq : Bool) (n : Nat) : Ring := if isCq then (s.fn f).cqRing n else (s.fn f).sqRing n

/-- Writable bits of a ring register. -/
def ringMask (isCq : Bool) : Nat :=
  if isCq then maskBits 127 72 + maskBits 69 69 + maskBits 47 36 else maskBits 127 72 + maskBits 69 48

/-- Reserved bits of a ring register. -/
def ringRsv (isCq : Bool) : Nat := if isCq then maskBits 68 48 + maskBits 35 0 else maskBits 47 0

/-- A ring write whose fields the ring's state does not take. -/
def State.ringErr (s : State) (f : Nat) (isCq : Bool) (n reason v : Nat) : State :=
  s.errlog f reason (ringOff isCq n + 8) 0 (BitVec.ofNat 64 (v / 2 ^ 64))

/-- Does a submission ring that is not free name the completion ring? -/
def Fn.cqNamed (x : Fn) (n : Nat) : Bool := x.sqs.any (fun e => e.2.st != .free && e.2.cq == n)

/-- Write HUB_FN_SQ[n] or HUB_FN_CQ[n]. -/
def State.wrRing (s : State) (f : Nat) (isCq : Bool) (n v : Nat) : State :=
  let s := s.rsvBits f (ringOff isCq n) (ringRsv isCq % 2 ^ 64) (v % 2 ^ 64)
  let s := s.rsvBits f (ringOff isCq n + 8) (ringRsv isCq / 2 ^ 64) (v / 2 ^ 64)
  let w : BitVec 128 := BitVec.ofNat 128 (v &&& ringMask isCq)
  let x := s.fn f
  let r := s.ring f isCq n
  if x.st != .open then s.ringErr f isCq n 0x04 v
  else
    match r.st with
    | .free => s.modRing f isCq n (fun r => { r with cfg := w, want := bit w 69 })
    | .active | .stopped =>
      if bit w 69 || (isCq && x.cqNamed n) then s.ringErr f isCq n 0x04 v
      else
        let t := s.modRing f isCq n (fun r => { r.stop with cfg := setFld r.cfg 69 69 0 })
        if setFld r.cfg 69 69 0 = w then t else t.ringErr f isCq n 0x04 v
    | .stopping => s.ringErr f isCq n 0x04 v

/-- RING_ENABLE: a write of a ring register; enable = 1 makes a free ring active at the next tick. -/
def execRingEnable (fn : Nat) (isCq : Bool) (n : Nat) (v : BitVec 128) (s : State) : Out :=
  s.regCmd fn (fun s => if n < 32 then s.wrRing fn isCq n v.toNat else s)

/-- RING_DISABLE: enable = 0 is written, the other fields as they stand. -/
def execRingDisable (fn : Nat) (isCq : Bool) (n : Nat) (s : State) : Out :=
  s.regCmd fn (fun s => if n < 32 then s.wrRing fn isCq n (setFld (s.ring fn isCq n).cfg 69 69 0).toNat else s)

/-- RING_FREED: every descriptor taken from a stopping ring has completed and every entry due to it is written: it is free. The vector of a
completion ring written in the frame goes now, after its last entry (R252). -/
def execRingFreed (fn : Nat) (isCq : Bool) (n : Nat) (s : State) : Out :=
  let t := if isCq then s.sendVector fn n else s
  onlyIf (s.ringDone fn isCq n) s (t.modRing fn isCq n (fun r => { cfg := setFld r.cfg 69 69 0 }))

/-! ### Protection set-up (R259 to R263, R267, R382, R383) -/

/-- A write of a protection register by the physical function; another function's changes nothing and is audited. -/
def State.protWrite (s : State) (fn off v : Nat) (f : State → State) : State :=
  if fn ≠ 0 then s.audit 0x40 fn 1 (regObject off (BitVec.ofNat 64 v)) else f s

/-- Offset of HUB_PROT_OWN. -/
def ownOff : Nat := 0x10010

/-- A later staged write of the same register replaces the earlier. -/
def State.stage (s : State) (off : Nat) (g : Rules → Rules) : State :=
  { s with host := { s.host with staged := g s.host.staged, order := s.host.order.filter (fun o => o != off) ++ [off] } }

/-- Write HUB_PROT_WIN, its index 16 f + w. -/
def State.wrWin (s : State) (fn i v : Nat) : State :=
  s.protWrite fn (0x12000 + 16 * i) (v / 2 ^ 64) (fun s =>
    (s.rsvBits fn (0x12000 + 16 * i) (maskBits 51 3) (v % 2 ^ 64)).stage (0x12000 + 16 * i) (fun r =>
      { r with wins := sput 0 r.wins i (BitVec.ofNat 128 (v &&& (maskBits 127 52 + 7))) }))

/-- Write HUB_PROT_RINGS[f]. -/
def State.wrRings (s : State) (fn f v : Nat) : State :=
  s.protWrite fn (0x10100 + 8 * f) v (fun s =>
    (s.rsvBits fn (0x10100 + 8 * f) (maskBits 63 34) v).stage (0x10100 + 8 * f) (fun r =>
      { r with rings := sput 0 r.rings f (BitVec.ofNat 64 (v &&& maskBits 33 0)) }))

/-- Write HUB_PROT_PEER[n]. -/
def State.wrPeer (s : State) (fn n v : Nat) : State :=
  s.protWrite fn (0x11000 + 16 * n) (v / 2 ^ 64) (fun s =>
    let s := s.rsvBits fn (0x11000 + 16 * n) (maskBits 63 1) (v % 2 ^ 64)
    (s.rsvBits fn (0x11000 + 16 * n + 8) (maskBits 5 0) (v / 2 ^ 64)).stage (0x11000 + 16 * n) (fun r =>
      { r with peers := sput 0 r.peers n (BitVec.ofNat 128 (v &&& (maskBits 127 76 + 1))) }))

/-- Write HUB_PROT_OWN: the value joins the queue, which holds 256. -/
def State.wrOwn (s : State) (fn v : Nat) : State :=
  s.protWrite fn ownOff v (fun s =>
    let s := s.rsvBits fn ownOff (maskBits 57 36) v
    if 256 ≤ s.host.ownQueue.length then s.errlog fn 0x03 ownOff 0 (BitVec.ofNat 64 v)
    else { s with host := { s.host with ownQueue := s.host.ownQueue ++ [BitVec.ofNat 64 (pack [(63, 58, nfld v 63 58), (35, 0, nfld v 35 0)])]
                                        order := s.host.order ++ [ownOff] } })

/-- PROT_OWN_WRITE. -/
def execProtOwnWrite (fn : Nat) (v : BitVec 64) (s : State) : Out := s.regCmd fn (fun s => s.wrOwn fn v.toNat)

/-- First and last context of an ownership value. -/
def ownRange (v : BitVec 64) : Nat × Nat := (fld v 35 18, fld v 35 18 + fld v 17 0)

/-- Does an ownership value run past the last context, or name a channel not fitted (R262)? -/
def State.ownBad (s : State) (v : BitVec 64) : Bool :=
  let r := ownRange v
  decide (0x3FFFF < r.2) || (List.range 8).any (fun c => decide (r.1 / 32768 ≤ c ∧ c ≤ r.2 / 32768) && !s.fitted c)

/-- Does the staged write at an offset break a rule; for an ownership value its place in the queue? -/
def State.stagedBad (s : State) (off own : Nat) : Bool :=
  if off = ownOff then match s.host.ownQueue[own]? with | some v => s.ownBad v | none => false
  else if off < 0x11000 then false
  else if off < 0x12000 then
    let n := (off - 0x11000) / 16
    let w := sget 0 s.host.staged.peers n
    n == s.hub.moduleId || fld w 127 76 % 16384 != 0
  else
    let w := sget 0 s.host.staged.wins ((off - 0x12000) / 16)
    bit w 0 && fld w 75 52 == 0

/-- Index of the first staged write that breaks a rule. -/
def State.firstStagedBad (s : State) : List Nat → Nat → Nat → Option Nat
  | [], _, _ => none
  | off :: l, i, own => if s.stagedBad off own then some i else s.firstStagedBad l (i + 1) (if off = ownOff then own + 1 else own)

/-- A window that a commit clears or changes closes at once (R267). -/
def Peer.close (p : Peer) : Peer :=
  { p with st := .closed, ver := 0, helloIn := none, outQ := [], owed := [], credits := 32, seqOut := 0, seqIn := 0 }

/-- Assign or remove the ownership of a range of contexts (R262, R383). -/
def State.assign (s : State) (v : BitVec 64) : State :=
  let r := ownRange v
  let o : Own := { first := r.1, last := r.2, owner := if bit v 63 then some (fld v 62 58) else none, gen := s.host.gen }
  let s : State := { s with host := { s.host with own := o :: s.host.own.filter (fun x => !decide (r.1 ≤ x.first ∧ x.last ≤ r.2)) } }
  s.allChans (fun c k => { k with mem := { k.mem with ctxs :=
    (k.mem.ctxs.map (fun e => (e.1, if r.1 ≤ 32768 * c + e.1 ∧ 32768 * c + e.1 ≤ r.2 then { e.2 with genLost := false } else e.2))).filter (fun e => e.2 != {}) } })

/-- Apply every staged change as one step. -/
def State.applyStaged (s : State) : State :=
  let old := s.host.rules
  let new := s.host.staged
  let q := s.host.ownQueue
  let s : State := { s with host := { s.host with
    rules := new, order := [], ownQueue := [], gen := if s.host.gen = 2 ^ 32 - 1 then 1 else s.host.gen + 1 } }
  let s := (List.range 64).foldl (fun s n => if sget 0 old.peers n = sget 0 new.peers n then s else s.modPeer n Peer.close) s
  q.foldl State.assign s

/-- Write HUB_PROT_COMMIT (R259, R382). -/
def State.wrCommit (s : State) (fn v : Nat) : State :=
  s.protWrite fn 0x10000 v (fun s =>
    let s := s.rsvBits fn 0x10000 (maskBits 63 2) v
    match nfld v 0 0, nfld v 1 1 with
    | 0, 0 => s
    | 0, _ => { s with host := { s.host with staged := s.host.rules, order := [], ownQueue := [] } }
    | _, 0 =>
      if s.host.order.isEmpty then s
      else match s.firstStagedBad s.host.order 0 0 with
        | some i => s.errlog fn 0x06 0x10000 i (BitVec.ofNat 64 v)
        | none => s.applyStaged
    | _, _ => s.errlog fn 0x03 0x10000 0 (BitVec.ofNat 64 v))

/-- PROT_COMMIT. -/
def execProtCommit (fn : Nat) (s : State) : Out := s.regCmd fn (fun s => s.wrCommit fn 1)

/-- PROT_DISCARD: staging is reloaded from the rules in force and the ownership queue emptied. -/
def execProtDiscard (fn : Nat) (s : State) : Out := s.regCmd fn (fun s => s.wrCommit fn 2)

/-! ### HUB_FN_MBX_OPEN (R384) -/

/-- Write HUB_FN_MBX_OPEN: the rules of R245 for the function's mailbox. -/
def State.wrMbxOpen (s : State) (fn v : Nat) : State :=
  let s := s.rsvBits fn 0x30 openRsv v
  let lo := nfld v 55 48
  let hi := nfld v 63 56
  let p := s.port fn
  if nfld v 0 0 = 1 then
    if p.mbxOpen then s
    else if (s.fn fn).st != .open then s.errlog fn 0x04 0x30 0 (BitVec.ofNat 64 v)
    else
      let ver := settle lo hi
      let s := s.modPort fn (fun p => { p with drvMin := lo, drvMax := hi, mbxVer := ver, mbxNext := ver != 0 })
      if ver = 0 then s.errlog fn 0x03 0x30 0 (BitVec.ofNat 64 v) else s
  else
    s.modPort fn (fun p => { p with
      drvMin := if p.mbxOpen then p.drvMin else lo, drvMax := if p.mbxOpen then p.drvMax else hi
      mbxOpen := false, mbxNext := false, mbxVer := 0 })

/-- MAILBOX_OPEN: the mailbox of an open function settles its version and opens at the next tick. -/
def execMailboxOpen (fn : Nat) (v : BitVec 64) (s : State) : Out := s.regCmd fn (fun s => s.wrMbxOpen fn v.toNat)

end Sys2Proof.Machine
end

