-- ==== Sys2Proof/Machine/Registers.lean ====
section
/-! DEFINITION. The register spaces (R369 to R373, R393) and a write to any address of them (R5 to R8, R370, R381). -/

namespace Sys2Proof.Machine

/-! ### The registers -/

/-- What an address holds. -/
inductive Reg where
  /-- read-only -/
  | ro
  /-- a counter the variant lacks: writes are ignored -/
  | absent
  | setup | tickCfg | checkCfg | pwrCfg | testCfg | protCommit | protOwn
  | protRings (f : Nat)
  | protPeer (n : Nat)
  | protWin (i : Nat)
  | quantThresh (c : Nat)
  | schedCfg (c : Nat)
  | syncCfg (c : Nat)
  | vtxLink (c i : Nat)
  | barCfg (c b : Nat)
  | fnOpen | dbell | mbxOpen | mbxCmd
  | ring (isCq : Bool) (n : Nat)
  | cntSel (c n : Nat)
  | cnt (c n : Nat)
  | rngSeed (c : Nat)
  | mapCmd (c : Nat)
deriving DecidableEq, Repr

/-- A register or an array of registers: first offset, how many, bytes from one to the next, width in bits, which. -/
abbrev RegRow := Nat × Nat × Nat × Nat × (Nat → Reg)

/-- Hub and protection registers of BAR0 (R371). -/
def hubRegs : List RegRow :=
  [(0x0000, 3, 8, 64, fun _ => .ro), (0x0018, 1, 8, 64, fun _ => .setup), (0x0020, 2, 8, 64, fun _ => .ro),
   (0x0030, 1, 4, 32, fun _ => .tickCfg), (0x0034, 1, 4, 32, fun _ => .ro), (0x0038, 1, 4, 32, fun _ => .checkCfg),
   (0x003C, 1, 4, 32, fun _ => .pwrCfg), (0x0040, 2, 8, 64, fun _ => .ro), (0x0050, 1, 8, 64, fun _ => .testCfg),
   (0x0058, 2, 4, 32, fun _ => .ro), (0x0100, 74, 4, 32, fun _ => .ro), (0x0400, 256, 32, 256, fun _ => .ro),
   (0x10000, 1, 8, 64, fun _ => .protCommit), (0x10008, 1, 8, 64, fun _ => .ro), (0x10010, 1, 8, 64, fun _ => .protOwn),
   (0x10100, 32, 8, 64, .protRings), (0x11000, 64, 16, 128, .protPeer), (0x11400, 64, 8, 64, fun _ => .ro),
   (0x12000, 512, 16, 128, .protWin)]

/-- Registers of channel `c`'s block (R371). -/
def chanRegs (c : Nat) : List RegRow :=
  [(0x0000, 2, 8, 64, fun _ => .ro), (0x0010, 1, 8, 64, fun _ => .quantThresh c), (0x0018, 1, 4, 32, fun _ => .schedCfg c),
   (0x001C, 1, 4, 32, fun _ => .syncCfg c), (0x0020, 1, 8, 64, fun _ => .ro), (0x0100, 32, 4, 32, .vtxLink c),
   (0x0800, 256, 8, 64, .barCfg c)]

/-- Registers of a function page (R372). -/
def pageRegs : List RegRow :=
  [(0x0000, 1, 8, 64, fun _ => .fnOpen), (0x0008, 1, 8, 64, fun _ => .ro), (0x0010, 1, 16, 128, fun _ => .dbell),
   (0x0020, 2, 8, 64, fun _ => .ro), (0x0030, 1, 8, 64, fun _ => .mbxOpen), (0x0038, 1, 8, 64, fun _ => .mbxCmd),
   (0x0040, 1, 8, 64, fun _ => .ro), (0x0100, 32, 16, 128, .ring false), (0x0300, 32, 16, 128, .ring true)]

/-- Registers of channel `c`'s telemetry block (R392, R393); counters past `n` are absent. -/
def telRegs (c n : Nat) : List RegRow :=
  [(0x00, 1, 8, 64, fun _ => .ro), (0x40, 8, 8, 64, fun i => if i < n then .cntSel c i else .absent),
   (0x80, 8, 8, 64, fun i => if i < n then .cnt c i else .absent), (0xC0, 1, 8, 64, fun _ => .ro)]

/-- The register at an offset: which, its width and its first byte. -/
def findReg (l : List RegRow) (off : Nat) : Option (Reg × Nat × Nat) :=
  l.findSome? (fun r =>
    if r.1 ≤ off ∧ off < r.1 + r.2.1 * r.2.2.1 ∧ (off - r.1) % r.2.2.1 < r.2.2.2.1 / 8 then
      some (r.2.2.2.2 ((off - r.1) / r.2.2.1), r.2.2.2.1, off - (off - r.1) % r.2.2.1)
    else none)

/-- A register with the offset of its table added. -/
def atBase (base : Nat) (x : Option (Reg × Nat × Nat)) : Except Nat (Reg × Nat × Nat) :=
  match x with
  | some (r, w, o) => .ok (r, w, base + o)
  | none => .error 0x02

/-- What an address holds, or the error reason of a write there (R369, R373, R393). -/
def State.regAt (s : State) (fn : Nat) (space : RegSpace) (off : Nat) : Except Nat (Reg × Nat × Nat) :=
  match space with
  | .fnPage => atBase 0 (findReg pageRegs off)
  | .bar0 =>
    if 0x20000 ≤ off ∧ off < 0x30000 then atBase 0x20000 (findReg pageRegs (off - 0x20000))
    else if 0x100000 ≤ off ∧ off < 0x180000 then
      let c := (off - 0x100000) / 0x10000
      if s.fitted c then atBase (chanOff c) (findReg (chanRegs c) (off - chanOff c)) else .error 0x09
    else atBase 0 (findReg hubRegs off)
  | .bar2 =>
    if off < 8 then .ok (.ro, 64, 0)
    else if 0x1000 ≤ off ∧ off < 0x1800 then
      let c := (off - 0x1000) / 0x100
      if s.fitted c then atBase (telOff c) (findReg (telRegs c s.counters) (off - telOff c)) else .error 0x09
    else if 0x1000000 ≤ off ∧ off < 0xB800000 then
      let c := if off < 0x9000000 then (off - 0x1000000) / 0x1000000 else if off < 0xB000000 then (off - 0x9000000) / 0x400000 else (off - 0xB000000) / 0x100000
      if !s.fitted c then .error 0x09
      else if !s.debugOk fn then .error 0x0A
      else if off / 8 = dbgOff c / 8 then .ok (.rngSeed c, 64, dbgOff c)
      else if off / 8 = dbgOff c / 8 + 1 then .ok (.mapCmd c, 64, dbgOff c + 8)
      else .error 0x0A
    else .error 0x02

/-! ### Applying a value -/

/-- The state a command leaves. -/
def stateOf (o : Out) (s : State) : State :=
  match o with
  | .next t => t
  | .fault _ => s
  | .refused _ => s

/-- The `n` first bytes of a mailbox's data buffer. -/
def Port.bytes (p : Port) (n : Nat) : List Byte := (List.range n).map (fun i => p.data.getD i 0)

/-- Write HUB_FN_MBX_CMD: the command that its opcode names starts, with its data from HUB_FN_MBX_DATA (R385, R386). -/
def State.wrMbxCmd (s : State) (fn v : Nat) : State :=
  let d := (s.port fn).bytes (nfld v 47 32)
  let r : MbxReq := { ver := nfld v 55 48, tag := nfld v 31 0, data := d }
  match nfld v 63 56 with
  | 0x00 => stateOf (execOpenMailbox fn r s) s
  | 0x01 => stateOf (execGetChallenge fn r s) s
  | 0x02 => stateOf (execAssumeRole fn r (Config.signed d) s) s
  | 0x03 => stateOf (execReleaseRole fn r s) s
  | 0x04 => stateOf (execReadEvents fn r s) s
  | 0x05 => stateOf (execReadAudit fn r s) s
  | 0x06 => stateOf (execReadErrlog fn r s) s
  | 0x07 => stateOf (execFlushStore fn r s) s
  | 0x08 => stateOf (execSetModuleId fn r s) s
  | 0x09 => stateOf (execAuthSlot fn r s) s
  | 0x0A => stateOf (execUnmapFacet fn r s) s
  | 0x0B => stateOf (execReadModuleId fn r s) s
  | 0x10 => stateOf (execFirmwareStage fn r (Config.imageHeader d) (Config.signed d) s) s
  | 0x11 => stateOf (execFirmwareActivate fn r s) s
  | 0x12 => stateOf (execCalibrate fn r s) s
  | 0x13 => stateOf (execProvision fn r s) s
  | 0x14 => stateOf (execClearReplacementFlag fn r s) s
  | 0x15 => stateOf (execOpenDebugWindow fn r s) s
  | op => s.command fn op r id

/-- Write HUB_FN_DBELL (R248). -/
def State.wrDbell (s : State) (fn v : Nat) : State :=
  (s.rsvBits fn 0x10 (maskBits 15 0) (v % 2 ^ 64)).modFn fn (fun x => { x with dbell := BitVec.ofNat 128 (v / 65536 * 65536) })

/-- A whole value takes effect in a register. -/
def State.wrReg (s : State) (fn : Nat) (r : Reg) (off v : Nat) : State :=
  match r with
  | .ro => s.errlog fn 0x01 off 0 (BitVec.ofNat 64 v)
  | .absent => s
  | .setup => s.wrSetup fn v
  | .tickCfg => s.wrTickCfg fn v
  | .checkCfg => s.wrCheckCfg fn v
  | .pwrCfg => s.wrPwrCfg fn v
  | .testCfg => s.wrTestCfg fn v
  | .protCommit => s.wrCommit fn v
  | .protOwn => s.wrOwn fn v
  | .protRings f => s.wrRings fn f v
  | .protPeer n => s.wrPeer fn n v
  | .protWin i => s.wrWin fn i v
  | .quantThresh c => s.wrQuantThresh fn c v
  | .schedCfg c => s.wrSchedCfg fn c v
  | .syncCfg c => s.wrSyncCfg fn c v
  | .vtxLink c i => s.wrVtxLink fn c i v
  | .barCfg c b => s.wrBarCfg fn c b v
  | .fnOpen => s.wrFnOpen fn v
  | .dbell => s.wrDbell fn v
  | .mbxOpen => s.wrMbxOpen fn v
  | .mbxCmd => s.wrMbxCmd fn v
  | .ring q n => s.wrRing fn q n v
  | .cntSel c n => s.wrCntSel fn c n v
  | .cnt c n => s.wrCnt fn c n v
  | .rngSeed c => s.wrSeed fn c v
  | .mapCmd c => s.wrMapCmd fn c v

/-! ### Accesses (R370) -/

/-- Does an access of `acc` bits at byte `rel` fit a register of `w` bits? -/
def fits (w acc rel : Nat) : Bool :=
  match w with
  | 32 => acc == 32 && rel == 0
  | 64 => (acc == 64 && rel == 0) || (acc == 32 && (rel == 0 || rel == 4))
  | _ => acc == 64 && rel % 8 == 0

/-- Bytes of a register space (R244). -/
def spaceBytes : RegSpace → Nat
  | .bar0 => 0x1000000
  | .fnPage => 0x10000
  | .bar2 => 0x10000000

/-- The key of a held lower half. -/
def halfKey (fn : Nat) (space : RegSpace) (start : Nat) : Nat :=
  (4 * fn + (match space with | .bar0 => 0 | .fnPage => 1 | .bar2 => 2)) * 2 ^ 28 + start

/-- A write of part of a register: the lower half is held, the upper makes both take effect; with no lower half held, its value is open. -/
def State.wrHalf (s : State) (fn : Nat) (r : Reg) (acc rel off key v : Nat) : State :=
  if rel = 0 then { s with host := { s.host with halves := sinsert key (BitVec.ofNat 64 v) s.host.halves } }
  else
    let low := match s.host.halves.find? (fun e => e.1 == key) with
      | some e => (e.2.toNat, s)
      | none => s.draw
    let t := low.2
    let t : State := { t with host := { t.host with halves := serase key t.host.halves } }
    t.wrReg fn r off (v * 2 ^ acc + low.1 % 2 ^ acc)

/-- Write bytes of HUB_FN_MBX_DATA. -/
def State.wrMbxData (s : State) (fn at' n v : Nat) : State :=
  s.modPort fn (fun p => { p with data := p.bytes at' ++ leBytes n v ++ p.data.drop (at' + n) })

/-- The page offset of an address of HUB_FN_MBX_DATA. -/
def mbxDataAt (space : RegSpace) (off : Nat) : Option Nat :=
  let o := match space with | .bar0 => off - 0x20000 | _ => off
  let inPage := match space with | .bar0 => decide (0x20000 ≤ off) | .fnPage => true | .bar2 => false
  if inPage && decide (0x1000 ≤ o ∧ o < 0x2000) then some (o - 0x1000) else none

/-- A write of `acc` bits at an offset of a register space. -/
def State.wrAt (s : State) (fn : Nat) (space : RegSpace) (off acc v : Nat) : State :=
  let v := v % 2 ^ acc
  let err (r : Nat) : State := s.errlog fn r off 0 (BitVec.ofNat 64 v)
  match mbxDataAt space off with
  | some a => if (acc = 32 ∨ acc = 64) ∧ a % (acc / 8) = 0 then s.wrMbxData fn a (acc / 8) v else err 0x08
  | none =>
    match s.regAt fn space off with
    | .error r => err r
    | .ok (r, w, start) =>
      let key := halfKey fn space start
      if !fits w acc (off - start) then err 0x08
      else if r = .ro then err 0x01
      else if acc < w then s.wrHalf fn r acc (off - start) off key v
      else ({ s with host := { s.host with halves := serase key s.host.halves } } : State).wrReg fn r off v

/-- REGISTER_WRITE: applied, ignored or logged as the register's access code gives; beyond its space there is no byte to write. -/
def execRegisterWrite (fn : Nat) (space : RegSpace) (off width : Nat) (v : BitVec 64) (s : State) : Out :=
  if spaceBytes space ≤ off then .fault .outsideBar
  else s.regCmd fn (fun s => s.wrAt fn space off width v.toNat)

end Sys2Proof.Machine
end

