-- ==== Sys2Proof/Machine/Security.lean ====
section
/-! DEFINITION. Attestation over SPDM (R327, R328), PCIe IDE streams (R329), and the two ends of a configuration record write
(R332, R333). -/

namespace Sys2Proof.Machine

/-! ### The service status (R297) -/

/-- HUB_SVC_STATUS. -/
def State.svcStatus (s : State) : BitVec 64 :=
  let st := match s.integ.svc with | .starting => 0 | .inService => 1 | .draining => 2 | .drained => 3
  BitVec.ofNat 64 (pack [(63, 62, st), (61, 61, bnat s.integ.replacement), (60, 60, bnat s.integ.thermal), (59, 52, s.integ.cause),
    (51, 49, s.integ.channel), (47, 0, s.integ.frame)])

/-! ### SPDM answers (R327) -/

/-- Does an SPDM request reach the module: over DOE on the physical function, or over MCTP on the SMBus port? -/
def State.spdmHears (s : State) (p : Nat) : Bool := (p == 0 && s.linkUp) || (p == smbPort && s.apexUp)

/-- The connection of a port. -/
def State.conn (s : State) (p : Nat) : SpdmConn := sget {} s.sec.conns p

/-- Change the connection of a port. -/
def State.setConn (s : State) (p : Nat) (x : SpdmConn) : State :=
  { s with sec := { s.sec with conns := sput {} s.sec.conns p x } }

/-- Send an answer: its response code and what it carries. -/
def State.answer (s : State) (p code : Nat) (body : List Byte) : State :=
  { s with out := { s.out with spdm := s.out.spdm ++ [(p, code, body)] } }

/-- The error answer of SPDM: a request out of its order, or one the module does not support. -/
def State.answerError (s : State) (p : Nat) : State := s.answer p 0x7F []

/-- A request of a port: `f` where it is in order, else the error answer. -/
def State.spdm (s : State) (p : Nat) (ok : Bool) (f : State → State) : Out :=
  onlyIf (s.spdmHears p) s (if ok then f s else s.answerError p)

/-- A signature under the identity key, drawn as a free value. -/
def State.sign (s : State) : List Byte × State := (Config.signature s.fresh, { s with fresh := s.fresh + 1 })

/-- GET_VERSION: versions 1.2 and 1.3; the connection starts anew. -/
def execGetVersion (port : Nat) (s : State) : Out :=
  s.spdm port true (fun s => (s.setConn port { version := 0x10 }).answer port 0x04 [0x12, 0x13])

/-- GET_CAPABILITIES at version `ver`: CTExponent 16. -/
def execGetCapabilities (port ver : Nat) (s : State) : Out :=
  s.spdm port (decide ((s.conn port).version ≠ 0) && (ver == 0x12 || ver == 0x13))
    (fun s => (s.setConn port { version := ver, caps := true }).answer port 0x61 [BitVec.ofNat 8 ver, 16])

/-- The one ExtAsym entry of the module: registry PCI-SIG, Grirdano's vendor ID, algorithm 0x0001 (Falcon-1024 with SHAKE256). -/
def falconEntry : Nat × Nat × Nat := (3, Config.vendorId.toNat, 1)

/-- Does an offer hold all that the module supports: its signature entry, SHA3-512, secp384r1 and AES-256-GCM? -/
def AlgOffer.ok (x : AlgOffer) : Bool :=
  x.extAsym.contains falconEntry && nfld x.hash 5 5 == 1 && nfld x.dhe 4 4 == 1 && nfld x.aead 1 1 == 1

/-- What the module selects: its ExtAsym entry, then the bits of SHA3-512, secp384r1 and AES-256-GCM (notes/assumptions/110). -/
def algsBody : List Byte :=
  leBytes 1 falconEntry.1 ++ leBytes 2 falconEntry.2.1 ++ leBytes 2 falconEntry.2.2 ++ leBytes 4 0x20 ++ leBytes 2 0x10 ++ leBytes 2 0x2

/-- NEGOTIATE_ALGORITHMS: an offer that holds the module's algorithms is answered with them; another has no answer but the error. -/
def execNegotiateAlgorithms (offer : AlgOffer) (s : State) : Out :=
  s.spdm offer.port ((s.conn offer.port).caps && Sys2Proof.Machine.AlgOffer.ok offer)
    (fun s => (s.setConn offer.port { s.conn offer.port with algs := true }).answer offer.port 0x63 algsBody)

/-- GET_DIGESTS: the SHA3-512 digest of slot 0's chain. -/
def execGetDigests (port : Nat) (s : State) : Out :=
  s.spdm port (s.conn port).algs (fun s => s.answer port 0x01 (leBytes 64 (Config.sha3 s.store.live.chain).toNat))

/-- GET_CERTIFICATE: a part of slot 0's chain; there is no other slot. -/
def execGetCertificate (port slot off len : Nat) (s : State) : Out :=
  s.spdm port ((s.conn port).algs && slot == 0) (fun s => s.answer port 0x02 ((s.store.live.chain.drop off).take len))

/-- CHALLENGE: the chain's digest under a signature of the identity key. -/
def execChallenge (port slot : Nat) (s : State) : Out :=
  s.spdm port ((s.conn port).algs && slot == 0 && s.sec.key)
    (fun s => s.sign.2.answer port 0x03 (leBytes 64 (Config.sha3 s.store.live.chain).toNat ++ s.sign.1))

/-! ### Measurements (R328) -/

/-- The persistent settings as bytes: module ID, power cap, tick, checking fraction, test schedule, authority keys and epochs. -/
def Persist.settingBytes (p : Persist) : List Byte :=
  leBytes 1 p.moduleId ++ leBytes 1 p.capW ++ leBytes 4 p.tickCfg.toNat ++ leBytes 1 p.checkFrac ++ leBytes 2 p.periodH ++
  (List.range 4).flatMap (fun n => ((sget {} p.auth n).key.getD []) ++ leBytes 4 (sget {} p.auth n).epoch)

/-- The digest of the running firmware image. -/
def Store.fwDigest (x : Store) (n : Nat) : BitVec 256 := if n = 0 then x.fwDig0 else x.fwDig1

/-- A measurement block by its index. -/
def State.measure (s : State) (index : Nat) : List Byte :=
  let h := (s.store.fwSlot s.pwr.fwRunning).hdr
  if index = 1 then leBytes 32 Config.romDigest.toNat
  else if index = 2 then leBytes 32 (s.store.fwDigest s.pwr.fwRunning).toNat ++ leBytes 2 (fld h 247 232) ++ leBytes 8 (fld h 191 128)
  else if index = 3 then leBytes 32 (Config.shake256 s.store.live.settingBytes).toNat
  else if index = 4 then leBytes 8 s.svcStatus.toNat
  else leBytes 64 (sget 0 s.sec.chains index).toNat

/-- GET_MEASUREMENTS: one block, signed where the request asks for it. -/
def execGetMeasurements (port index : Nat) (signedReq : Bool) (s : State) : Out :=
  s.spdm port ((s.conn port).algs && decide (1 ≤ index ∧ index ≤ 20) && (!signedReq || s.sec.key))
    (fun s => if signedReq then s.sign.2.answer port 0x60 (s.measure index ++ s.sign.1) else s.answer port 0x60 (s.measure index))

/-! ### Sessions (R327) -/

/-- The state of a port's session. -/
def State.session? (s : State) (p n : Nat) : Option Spdm :=
  (s.sec.sessions.find? (fun e => e.1 == p && e.2.1 == n)).map (fun e => e.2.2.1)

/-- Change a port's session. -/
def State.modSession (s : State) (p n : Nat) (f : Spdm × Nat → Spdm × Nat) : State :=
  { s with sec := { s.sec with sessions := s.sec.sessions.map (fun e => if e.1 = p ∧ e.2.1 = n then (e.1, e.2.1, f e.2.2) else e) } }

/-- A port's session is gone, with its secret. -/
def State.dropSession (s : State) (p n : Nat) : State :=
  { s with sec := { s.sec with sessions := s.sec.sessions.filter (fun e => !(e.1 == p && e.2.1 == n))
                               secrets := s.sec.secrets.filter (fun e => !(e.1 == p && e.2.1 == n)) } }

/-- Bytes of a secp384r1 share. -/
def shareBytes : Nat := 96

/-- KEY_EXCHANGE: a new session, of four at most, opens its handshake: the module answers with its own ECDHE share, signed, and both shares give
the session's secret. -/
def execKeyExchange (port : Nat) (x : KeyOffer) (s : State) : Out :=
  s.spdm port ((s.conn port).algs && s.sec.key && decide (s.sec.sessions.length < 4) && (s.session? port x.session).isNone && x.share.length == shareBytes)
    (fun s =>
      let mine := Config.dheShare s.fresh
      let secret := Config.dheSecret s.fresh x.share
      let t := ({ s with fresh := s.fresh + 1 } : State)
      let u := t.sign.2
      ({ u with sec := { u.sec with sessions := u.sec.sessions ++ [(port, x.session, .handshake, 0)]
                                    secrets := u.sec.secrets ++ [(port, x.session, secret)] } } : State).answer port 0x64 (mine ++ t.sign.1))

/-- FINISH: a session whose MAC holds is established; one whose MAC fails ends. -/
def execFinish (port session : Nat) (macOk : Bool) (s : State) : Out :=
  onlyIf (s.spdmHears port) s
    (if s.session? port session ≠ some .handshake then s.answerError port
    else if macOk then (s.modSession port session (fun e => (.established, e.2))).answer port 0x65 []
    else (s.dropSession port session).answerError port)

/-- HEARTBEAT: acknowledged in an established session. -/
def execHeartbeat (port session : Nat) (s : State) : Out :=
  s.spdm port (s.session? port session == some .established) (fun s => s.answer port 0x68 [])

/-- KEY_UPDATE: the session goes on with its next keys. -/
def execKeyUpdate (port session : Nat) (s : State) : Out :=
  s.spdm port (s.session? port session == some .established)
    (fun s => (s.modSession port session (fun e => (e.1, e.2 + 1))).answer port 0x69 [])

/-- END_SESSION: the session ends. -/
def execEndSession (port session : Nat) (s : State) : Out :=
  s.spdm port (s.session? port session == some .established)
    (fun s => (s.dropSession port session).answer port 0x6C [])

/-! ### IDE streams (R329) -/

/-- IDE_INTEGRITY_FAIL: a keyed stream becomes insecure and is reported; the write of a peer lost with it counts as refused. -/
def execIdeIntegrityFail (stream : Nat) (s : State) : Out :=
  let t := ({ s with sec := { s.sec with insecure := s.sec.insecure ++ [stream] } } : State).event 0x08 3 0 stream
  onlyIf (s.linkUp && s.sec.keyed.contains stream && !s.sec.insecure.contains stream) s
    (if stream = 0 ∨ stream = s.hub.moduleId + 1 then t else t.countAll 0x8A)

/-- IDE_KM_KEY_PROGRAM: inside an established session of the physical function, keys for a stream: it is keyed and secure. -/
def execIdeKmKeyProgram (stream session : Nat) (s : State) : Out :=
  onlyIf (s.linkUp && s.session? 0 session == some .established && decide (stream ≤ 64)) s
    { s with sec := { s.sec with insecure := s.sec.insecure.filter (fun n => n != stream)
                                 keyed := if s.sec.keyed.contains stream then s.sec.keyed else s.sec.keyed ++ [stream] } }

/-! ### Record writes (R332, R333) -/

/-- CONFIG_RECORD_WRITE_START: an urgent write, or a coalesced one whose time has come, begins once no write is under way. -/
def execConfigRecordWriteStart (s : State) : Out := onlyIf (s.answers && s.recordDue && s.store.writing.isNone) s s.recordStart

/-- CONFIG_RECORD_WRITE_DONE: the write and its read-back finish; a failed read-back repeats the write once. -/
def execConfigRecordWriteDone (readBackOk : Bool) (s : State) : Out :=
  onlyIf (s.answers && s.store.writing.isSome) s (s.recordDone readBackOk)

end Sys2Proof.Machine
end

