-- ==== Sys2Proof/Machine/Stream.lean ====
section
/-! DEFINITION. Streamed weights arrive in the working buffer (R118 to R120), and the patrol scrubber reads LPDDR5X (R216). -/

namespace Sys2Proof.Machine

/-- The part of the working buffer kept for streamed tensors (R118). -/
def reserveBytes : Nat := 8388608

/-- Space a tensor takes. -/
def Resident.space (r : Resident) : Nat := upTo 64 r.bytes

/-- Space that started streams and resident tensors take. -/
def usedSpace (l : List Resident) : Nat := ((l.filter (fun r => !r.waiting)).map Resident.space).sum

/-- Is a tensor being read by a started mvm.d? -/
def Chan.reading (k : Chan) (r : Resident) : Bool :=
  k.allOuts.any (fun e => e.2.started && (match tensorOf e.2 with | some d => r.names d | none => false))

/-- May a tensor be evicted: whole, and read by no started mvm.d? -/
def Chan.evictable (k : Chan) (r : Resident) : Bool := !r.waiting && decide (r.blocks ≤ r.arrived) && !k.reading r

/-- Evict the least recently named tensors until `n` bytes are free: what is left, and whether one used in this frame went. -/
def evictFor (k : Chan) (frame n : Nat) : Nat → List Resident → Option (List Resident × Bool)
  | 0, _ => none
  | fuel + 1, l =>
    if usedSpace l + n ≤ reserveBytes then some (l, false)
    else
      match (sortBy (fun a b => decide (a.lastUse ≤ b.lastUse)) (l.filter k.evictable)).head? with
      | none => none
      | some v => (evictFor k frame n fuel (l.filter (fun r => r != v))).map (fun e => (e.1, e.2 || v.usedFrame == frame))

/-- WEIGHT_STREAM_START: the first waiting stream takes the space of its tensor, evicting what may go (R118, R119). -/
def execWeightStreamStart (ch : Nat) (s : State) : Out :=
  let k := s.chan ch
  match k.seqr.streams.find? (fun r => r.waiting) with
  | none => go s
  | some w =>
    match evictFor k s.frameN w.space (k.seqr.streams.length + 1) k.seqr.streams with
    | none => go s
    | some (l, again) =>
      let l := l.map (fun r => if r = w then { r with waiting := false } else r)
      let t := s.modChan ch (fun k => { k with seqr := { k.seqr with streams := l } })
      onlyIf (s.fitted ch) s (if again then t.count ch 0x2B else t)

/-- The copy of a granule that the streamer uses: the first, else the second with the first rewritten, else poison stays (R120). -/
def State.streamGranule (s : State) (c base g : Nat) : State :=
  let k := s.chan c
  if !sget false k.copy1Poison g then s
  else if !sget false k.copy2Poison g then
    let s := s.modChan c (fun k => { k with copy1Poison := sput false k.copy1Poison g false })
    (s.count c 0x2C).event 0x02 1 c (64 * g)
  else s.modChan c (fun k => { k with seqr := { k.seqr with streams := k.seqr.streams.map (fun r => if r.base = base ∧ !r.waiting ∧ !r.poison.contains g then { r with poison := r.poison ++ [g] } else r) } })

/-- WEIGHT_BLOCK_ARRIVAL: the next weight block of the stream in turn arrives, in the order in which the engine walks the tensor; streams are served
in the order they were first wanted (R115, R118, R119). An mvm.d computes the block once it has arrived; what it computes is seen as it completes. -/
def execWeightBlockArrival (ch base : Nat) (ecc : List Ecc) (s : State) : Out :=
  match (s.chan ch).seqr.streams.find? (fun r => !r.waiting && decide (r.arrived < r.blocks)) with
  | none => go s
  | some r =>
    let t := (r.blockGranules r.arrived).foldl (fun t g => t.streamGranule ch base g) (s.eccAll ch 0 ecc)
    let t := t.modChan ch (fun k => { k with seqr := { k.seqr with streams := k.seqr.streams.map (fun q =>
      if q.base = r.base ∧ q.bytes = r.bytes ∧ q.lastUse = r.lastUse ∧ q.arrived = r.arrived ∧ !q.waiting then { q with arrived := q.arrived + 1 } else q) } })
    onlyIf (s.fitted ch && r.base == base) s (t.countN ch 0x2A (r.delivered (r.arrived + 1) / 1024 - r.delivered r.arrived / 1024) none)

/-- Does a memory error lie in LPDDR5X granule `g`? -/
def Ecc.at (g : Nat) : Ecc → Bool
  | .single n => n == g
  | .double n => n == g
  | .linkSingle n => n == g
  | .linkFail n _ => n == g
  | _ => false

/-- Is a granule cached: a line of the line area, or a context record, which the cache always holds (R207)? -/
def State.granuleCached (s : State) (c g : Nat) : Bool :=
  let l := sget {} (s.chan c).mem.cache (g / 4)
  let sys := systemArea s.light / 64
  l.data.isSome || l.staged.isSome || decide (sys ≤ g ∧ g < sys + 65536)

/-- PATROL_SCRUB: the scrubber reads a granule whose line is not cached, correcting or poisoning it (R216). -/
def execPatrolScrub (ch granule : Nat) (ecc : List Ecc) (s : State) : Out :=
  onlyIf (s.fitted ch && !s.granuleCached ch granule) s (s.eccAll ch 0 (ecc.filter (Sys2Proof.Machine.Ecc.at granule)))

end Sys2Proof.Machine
end

