-- ==== Sys2Proof/Machine/Sync.lean ====
section
/-! DEFINITION. The sync commands: sig, wait and bar, the completion of outstanding instructions, forwarded signals, and barrier
arrivals and releases (R138, R140, R159, R270 to R279, R306). -/

namespace Sys2Proof.Machine

/-! ### sig (R159, R271, R274) -/

/-- SIG: outstanding; it starts once every earlier memory-writing and exchange instruction of its slot has completed. -/
def execSig (ch slot : Nat) (s : State) : Out := go (s.issueUnit ch slot 0x58 (fun _ _ _ _ => none))

/-- A sig acts on a vertex of its own channel; one that would pass 2^32 − 1 leaves it unchanged and ends its inference. -/
def State.finishSig (s : State) (c sl : Nat) (o : Outst) : State :=
  match s.applySig c (fld o.word 47 36) (amountOf o) (s.slotCtx c sl) sl c with
  | none => s.fault c sl 0x0A o.idx
  | some t => (t.countBy c 0x60 1 sl o).retire c sl o

/-- Does a sig of the channel's own act on its vertex store first: one that started earlier or, in one cycle, was issued earlier (R271)? -/
def Chan.sigFirst (k : Chan) (before : Nat) (seq : Option Nat) : Bool :=
  k.allOuts.any (fun e => opOf e.2.word == 0x58 && e.2.started && !e.2.ready &&
    (decide (e.2.startedAt < before) || (e.2.startedAt == before && (match seq with | some n => decide (e.2.seq < n) | none => false))))

/-- INSTRUCTION_COMPLETE: a started instruction of a slot ends and its results stand; the sigs of a channel act in issue order (R271). -/
def execInstructionComplete (ch slot seq : Nat) (s : State) : Out :=
  match (s.slot ch slot).out? seq with
  | none => go s
  | some o =>
    if opOf o.word = 0x58 then onlyIf (o.started && !o.ready && !(s.chan ch).sigFirst o.startedAt (some o.seq)) s (s.finishSig ch slot o)
    else go (s.complete1 ch slot o)

/-- A forwarded signal is applied at its destination vertex; its sig completes, or on overflow ends its inference. -/
def State.forwarded (s : State) (d : Nat) (m : Signal) : State :=
  match s.applySig d m.vertex m.amount m.ctx m.slot m.src with
  | none =>
    match (s.slot m.src m.slot).out? m.seq with
    | some o => s.fault m.src m.slot 0x0A o.idx
    | none => s
  | some t =>
    let t := t.count d 0x60 (some m.ctx)
    match (t.slot m.src m.slot).out? m.seq with
    | some o => t.retire m.src m.slot o
    | none => t

/-- LINKED_VERTEX_SIGNAL: the first signal that has crossed the chord is applied, after the channel's own sigs of that nanosecond, which take 2 ns
(R140, R271, R274); a channel that a test holds keeps it waiting. -/
def execLinkedVertexSignal (ch : Nat) (s : State) : Out :=
  match (s.chan ch).sync.sigIn with
  | [] => go s
  | m :: l => onlyIf (!(s.chan ch).held && m.flits == 0 && !(s.chan ch).sigFirst (s.nowNs - 1) none) s
      ((s.modChan ch (fun k => { k with sync := { k.sync with sigIn := l } })).forwarded ch m)

/-! ### wait (R159, R272) -/

/-- A wait reaches the vertex store: satisfied it completes, else the slot waits in order. -/
def State.waitAt (s : State) (c sl : Nat) (o : Outst) : State :=
  let v := fld o.word 47 36
  let thr := amountOf o
  let eat := bit o.word 55
  if ((s.chan c).linkOf v).isSome then s.fault c sl 0x0A o.idx
  else
    let s := s.spillAll c sl
    if ((s.chan c).vtx v).passes thr eat then
      let s := if eat then s.modVtx c v (fun x => { x with value := x.value - thr }) else s
      (s.sampleDone c o.seq 1).resumeAll c sl
    else
      let s := s.addOut c sl { o with started := true }
      let s := s.modSlot c sl (fun x => { x with block := .wait v thr eat, blockedSince := s.nowNs, blockedFrames := 0 })
      s.modVtx c v (fun x => { x with waiters := x.waiters ++ [{ slot := sl, thr := thr, consume := eat }] })

/-- WAIT: spills the slot's groups and waits for the vertex; lookback rows have their verdicts first (R106). -/
def execWait (ch slot : Nat) (s : State) : Out :=
  go (s.issue ch slot 0x59 (fun t o => t.waitAt ch slot { o with x := t.reg ch slot (operandReg o.word) }))

/-! ### bar (R275 to R277) -/

/-- A bar issues: its groups are spilled and the slot blocks; the arrival is sent when it starts. -/
def State.barAt (s : State) (c sl : Nat) (o : Outst) : State :=
  let b := fld o.word 47 40
  let x := (s.chan c).barrier b
  if !x.valid then s.fault c sl 0x0A o.idx
  else
    let s := (s.spillAll c sl).addOut c sl o
    s.modSlot c sl (fun y => { y with block := .bar b x.gen.toNat, blockedSince := s.nowNs, blockedFrames := 0 })

/-- BAR: spills, then arrives once every earlier memory-writing and exchange instruction of the slot has completed. -/
def execBar (ch slot : Nat) (s : State) : Out :=
  go (s.issue ch slot 0x5A (fun t o => t.barAt ch slot o))

/-! ### Barrier messages (R276, R279) -/

/-- An arrival takes effect at a copy, or is discarded there. -/
def State.arriveAt (s : State) (c : Nat) (m : BMsg) : State :=
  let x := (s.chan c).barrier m.b
  if x.valid && x.homeModule == s.hub.moduleId && x.homeChan == c then s.takeArrival c m.b m.gen m.src else s.count c 0x66

/-- A release takes effect at a copy whose home is its sender, or is discarded there. -/
def State.releaseAt (s : State) (c : Nat) (m : BMsg) : State :=
  let x := (s.chan c).barrier m.b
  let home := match m.src.peer with | some n => n | none => s.hub.moduleId
  if x.valid && x.homeModule == home && x.homeChan == m.src.chan then s.barRelease c m.b m.gen else s.count c 0x66

/-- The barrier message that a body from peer `n` spells. -/
def readBar (n : Nat) (body : List Byte) : BMsg :=
  let b := leNat body
  { release := nfld b 255 248 == 2, b := nfld b 247 240, gen := BitVec.ofNat 32 (nfld b 239 208), ctx := nfld b 207 189,
    src := { peer := some n, chan := nfld b 188 186 } }

/-- A barrier message of a peer: refused, discarded, or answered by `f`. -/
def State.peerBar (s : State) (n : Nat) (h : Hdr) (body : List Byte) (f : State → BMsg → State) : State :=
  let r := s.arantIn n h body
  if !r.2 then r.1
  else if body.length ≠ 32 || nfld (leNat body) 255 248 = 0 || 2 < nfld (leNat body) 255 248 || !s.fitted h.dstChan then r.1.discardMsg n h
  else f (r.1.owe n h false) (readBar n body)

/-- Take the first barrier message of one kind that has reached a channel. -/
def State.nextBar (s : State) (c : Nat) (release : Bool) (f : State → BMsg → State) : State :=
  match (s.chan c).sync.barIn.find? (fun m => m.release == release && m.flits == 0) with
  | none => s
  | some m => f (s.modChan c (fun k => { k with sync := { k.sync with barIn := k.sync.barIn.erase m } })) m

/-- BARRIER_ARRIVAL: an arrival reaches a copy; a channel that a test holds keeps it waiting. -/
def execBarrierArrival (ch : Nat) (src : BarSource) (s : State) : Out :=
  match src with
  | .own => onlyIf (!(s.chan ch).held) s (s.nextBar ch false (fun t m => t.arriveAt ch m))
  | .peer n hdr body =>
    let h := readHdr hdr
    s.fromPeer n (h.typ == 5 && h.dstChan == ch && nfld (leNat body) 255 248 != 2)
      (s.peerBar n h body (fun t m => if (t.chan ch).held then t.barSend ch m else t.arriveAt ch m))

/-- BARRIER_RELEASE: a release reaches a copy, which wakes its waiters or holds it; a channel that a test holds keeps it waiting. -/
def execBarrierRelease (ch : Nat) (src : BarSource) (s : State) : Out :=
  match src with
  | .own => onlyIf (!(s.chan ch).held) s (s.nextBar ch true (fun t m => t.releaseAt ch m))
  | .peer n hdr body =>
    let h := readHdr hdr
    s.fromPeer n (h.typ == 5 && h.dstChan == ch && nfld (leNat body) 255 248 == 2)
      (s.peerBar n h body (fun t m => if (t.chan ch).held then t.barSend ch m else t.releaseAt ch m))

/-- HELD_RELEASE_WAKE: the last waiter of the previous generation has left, and the held release wakes its own (R277). -/
def execHeldReleaseWake (ch b : Nat) (s : State) : Out :=
  let x := (s.chan ch).barrier b
  match x.heldRel with
  | none => go s
  | some g => onlyIf (!x.leaving.any (fun w => before32 w.tag g)) s (s.release ch b g)

end Sys2Proof.Machine
end

