-- ==== Sys2Proof/Machine/Thermal.lean ====
section
/-! DEFINITION. Temperature sensors and their limits (R169, R342 to R348), the power meter and the throttle (R336 to R339). -/

namespace Sys2Proof.Machine

/-! ### Sensors (R342 to R344) -/

/-- A sensor. -/
def State.sensor (s : State) (n : Nat) : Sensor := sget {} s.therm.sensors n

/-- Change a sensor. -/
def State.setSensor (s : State) (n : Nat) (x : Sensor) : State :=
  { s with therm := { s.therm with sensors := sput {} s.therm.sensors n x } }

/-- The neighbours of a sensor (R343). -/
def State.neighbours (s : State) (n : Nat) : List Nat :=
  if n = 72 ∨ n = 73 then (145 - n) :: (List.range s.channels).map (fun c => 9 * c + 8)
  else if n % 9 = 8 then (List.range 8).map (fun k => n - 8 + k)
  else (if n % 9 = 0 then [] else [n - 1]) ++ (if n % 9 = 7 then [] else [n + 1]) ++ [n / 9 * 9 + 8]

/-- The readings of those of a list of sensors that are sound and have been sampled. -/
def State.sound (s : State) (l : List Nat) : List Int :=
  (l.filter (fun n => s.sensorFitted n && (s.sensor n).sampled && !(s.sensor n).broken)).map s.reading

/-- Twice the median of a list that is not empty: of an even number, the sum of the middle two. -/
def median2 (l : List Int) : Int :=
  let m := sortBy (fun a b => decide (a ≤ b)) l
  let n := m.length
  if n % 2 = 1 then 2 * m.getD (n / 2) 0 else m.getD (n / 2 - 1) 0 + m.getD (n / 2) 0

/-- The sensors of a sensor's own die. -/
def ownDie (n : Nat) : List Nat :=
  if n = 72 ∨ n = 73 then [72, 73] else if n % 9 = 8 then [n] else (List.range 8).map (fun k => n / 9 * 9 + k)

/-- The highest of a list. -/
def highest : List Int → Option Int
  | [] => none
  | a :: l => some (l.foldl max a)

/-- What replaces a broken sensor's reading; a median between two steps takes one of them, and what the manual leaves open is drawn (R344). -/
def State.substitute (s : State) (n : Nat) : Int × State :=
  let l := s.sound (s.neighbours n)
  if l ≠ [] then
    let m := median2 l
    if m % 2 = 0 then (m / 2, s) else let d := s.draw; (m / 2 + ((d.1 % 2 : Nat) : Int), d.2)
  else
    match highest (s.sound (ownDie n)) with
    | some v => (v, s)
    | none =>
      match highest (s.sound ((List.range s.channels).map (fun c => 9 * c + 8))) with
      | some v => (v + 160, s)
      | none => let d := s.draw; (signed 16 d.1, d.2)

/-- Does a sample depart from the median of its sound neighbours by more than 8 °C (R344)? -/
def State.departs (s : State) (n : Nat) (r : Int) : Bool :=
  let l := s.sound (s.neighbours n)
  l != [] && decide (256 < (2 * r - median2 l).natAbs)

/-- The sampling rate after a reading: 90 °C and 97 °C raise it, ten samples in a row below 90 °C let it fall back (R343). -/
def Sensor.paced (x : Sensor) (r : Int) : Sensor :=
  let below := if r < 1440 then x.below + 1 else 0
  if 1552 ≤ r then { x with rate := 2, below := 0 }
  else if 1440 ≤ r then { x with rate := max x.rate 1, below := 0 }
  else if 10 ≤ below then { x with rate := 0, below := 0 }
  else { x with below := below }

/-- The cold regime of a sensor's cluster after a reading (R169). -/
def coldAfter (l : List Nat) (cl : Nat) (r : Int) : List Nat :=
  if r ≤ -320 then (if l.contains cl then l else insertBy (fun a b => decide (a ≤ b)) cl l)
  else if -272 ≤ r then l.filter (fun x => x != cl)
  else l

/-- A reading comes into use: the sampling rate, the cold regime of its cluster, an abandoned test at 100 °C, a thermal drain when it reaches 110 °C (R169, R343, R346, R348). -/
def State.useReading (s : State) (n : Nat) (r : Int) : State :=
  let crossed := decide (s.reading n < 1760 ∧ 1760 ≤ r)
  let s := s.setSensor n { ((s.sensor n).paced r) with reading := r, sampled := true }
  let s := if n < 72 ∧ n % 9 ≠ 8 then s.modChan (n / 9) (fun k => { k with arr := { k.arr with cold := coldAfter k.arr.cold (n % 9) r } }) else s
  let s := if n < 72 ∧ s.integ.tested = some (n / 9) ∧ 1600 ≤ r ∧ (s.chan (n / 9)).test.phase ≠ .passed then
      let t := (s.modChan (n / 9) (fun k => k.abandonTest (s.trim (n / 9)))).event 0x06 2 (n / 9)
      { t with integ := { t.integ with tested := none } }
    else s
  if crossed then s.drain 0x09 0 else s

/-- A sensor is declared broken: reported and counted once (R344). -/
def State.breakSensor (s : State) (n : Nat) : State :=
  let s := s.setSensor n { s.sensor n with broken := true }
  let s := s.event 0x04 2 (if n < 72 then n / 9 else 0) n
  if n < 72 then s.count (n / 9) 0x84 else s

/-- SENSOR_SAMPLE: a sample in 1/16 °C passes the cross-check, or is replaced, and comes into use. -/
def execSensorSample (n : Nat) (reading : Int) (s : State) : Out :=
  let t := if !(s.sensor n).broken && s.departs n reading then s.breakSensor n else s
  let u := if (t.sensor n).broken then t.substitute n else (reading, t)
  onlyIf (s.apexUp && s.sensorFitted n) s (u.2.useReading n u.1)

/-! ### Thermal throttling (R345) -/

/-- Is a reading of the channel, or of the apex, at 100 °C or above? -/
def State.hotAt (s : State) (c : Nat) : Bool :=
  ((List.range 9).map (fun k => 9 * c + k) ++ [72, 73]).any (fun n => decide (1600 ≤ s.reading n))

/-- Are all the channel's readings at 97 °C or lower? -/
def State.coolAt (s : State) (c : Nat) : Bool := (List.range 9).all (fun k => decide (s.reading (9 * c + k) ≤ 1552))

/-- THERMAL_LEVEL_STEP: at its 1 ms a hot channel's level rises by one; at its 10 ms a cool one's falls by one. -/
def execThermalLevelStep (ch : Nat) (s : State) : Out :=
  let l := (s.chan ch).thermal
  let t := if s.hotAt ch then
      (if l < 11 then (s.modChan ch (fun k => { k with thermal := l + 1 })).countAll 0x82 else s)
    else if s.coolAt ch then s.modChan ch (fun k => { k with thermal := l - 1 })
    else s
  onlyIf (s.apexUp && s.fitted ch) s t

/-! ### The power meter and the throttle (R336 to R339) -/

/-- POWER_METER_SAMPLE: one sample of the 12 V input in 0.01 W; those of the latest 10 ms are kept. -/
def execPowerMeterSample (centiwatts : Nat) (s : State) : Out :=
  onlyIf s.apexUp s { s with therm := { s.therm with samples := (centiwatts :: s.therm.samples).take 10000 } }

/-- Sum and number of the samples of the latest `n` µs. -/
def Therm.window (x : Therm) (n : Nat) : Nat × Nat :=
  let l := x.samples.take n
  (l.foldl (· + ·) 0, l.length)

/-- One control step at a cap in W: the level, what the hundredth steps remember, and cap_not_held (R338, R339). -/
def Therm.control (x : Therm) (cap : Nat) (hundredth : Bool) : Therm :=
  let a := x.window 100
  let b := x.window 10000
  let above := decide (100 * cap * b.2 < b.1)
  let low := decide (b.1 + 200 * b.2 ≤ 100 * cap * b.2)
  let rise := decide (11 * (100 * cap * a.2) < 10 * a.1) || (hundredth && above)
  let rises := rise && decide (x.level < 11)
  let fall := hundredth && low && x.prevLow && !x.rose && !rise
  let level := if rises then x.level + 1 else if fall then x.level - 1 else x.level
  let above11 := if above && level == 11 then x.above11 + 1 else 0
  let under := if above then 0 else x.under + 1
  { x with
    level := level
    rose := rises || (x.rose && !hundredth)
    prevLow := if hundredth then low else x.prevLow
    above11 := above11, under := under
    capNotHeld := if 100 ≤ above11 then true else if 100 ≤ under then false else x.capNotHeld }

/-- CONTROL_STEP: at each multiple of 100,000 ns the cap written last takes effect and the level changes by at most one. -/
def execControlStep (s : State) : Out :=
  let n := s.nowNs / 100000
  let cap := s.hub.capNext.getD s.hub.cap
  let x := s.therm.control cap (n % 100 == 0)
  let t : State := { s with therm := { x with step := n + 1 }, hub := { s.hub with cap := cap, capNext := none } }
  let t := if s.therm.level < x.level then t.countAll 0x80 else if x.level < s.therm.level then t.countAll 0x81 else t
  let t := if x.capNotHeld && !s.therm.capNotHeld then t.event 0x04 1 0 else t
  onlyIf (s.apexUp && s.nowNs % 100000 == 0 && s.therm.step != n + 1) s t

end Sys2Proof.Machine
end

