-- ==== Sys2Proof/Machine/Dispatch.lean ====
section
/-! DEFINITION. The meaning of each command: one arm for each constructor, each one call of its meaning. -/

namespace Sys2Proof.Machine

/-- A command's effect on everything but the queue. -/
def exec (i : Instr) (s : State) : Host.Outcome State Fault Refusal :=
  match i with
  | .powerUp => Sys2Proof.Machine.execPowerUp s
  | .powerGood seeds => Sys2Proof.Machine.execPowerGood seeds s
  | .apexRelease gcmOk survey => Sys2Proof.Machine.execApexRelease gcmOk survey s
  | .bootComplete => Sys2Proof.Machine.execBootComplete s
  | .bootTimeout => Sys2Proof.Machine.execBootTimeout s
  | .linkTrained mode => Sys2Proof.Machine.execLinkTrained mode s
  | .enterService => Sys2Proof.Machine.execEnterService s
  | .powerLoss => Sys2Proof.Machine.execPowerLoss s
  | .overvoltageShutdown => Sys2Proof.Machine.execOvervoltageShutdown s
  | .supplyLowEntry => Sys2Proof.Machine.execSupplyLowEntry s
  | .supplyHighEntry => Sys2Proof.Machine.execSupplyHighEntry s
  | .supplyBandMs => Sys2Proof.Machine.execSupplyBandMs s
  | .perstAssert => Sys2Proof.Machine.execPerstAssert s
  | .perstGlitch => Sys2Proof.Machine.execPerstGlitch s
  | .warmReset seeds => Sys2Proof.Machine.execWarmReset seeds s
  | .perstRelease survey => Sys2Proof.Machine.execPerstRelease survey s
  | .tickInEdge => Sys2Proof.Machine.execTickInEdge s
  | .holdoverTimeout => Sys2Proof.Machine.execHoldoverTimeout s
  | .internalTick => Sys2Proof.Machine.execInternalTick s
  | .tick => Sys2Proof.Machine.execTick s
  | .intakeClose x => Sys2Proof.Machine.execIntakeClose x s
  | .yieldMark => Sys2Proof.Machine.execYieldMark s
  | .endOfCompute => Sys2Proof.Machine.execEndOfCompute s
  | .checkSlot => Sys2Proof.Machine.execCheckSlot s
  | .emissionClose refused => Sys2Proof.Machine.execEmissionClose refused s
  | .lateCompletionWrite => Sys2Proof.Machine.execLateCompletionWrite s
  | .infer fn sq f => Sys2Proof.Machine.execInfer fn sq f s
  | .inputReadDone ch id r => Sys2Proof.Machine.execInputReadDone ch id r s
  | .slotBind ch slot => Sys2Proof.Machine.execSlotBind ch slot s
  | .ctxOpen fn sq f => Sys2Proof.Machine.execCtxOpen fn sq f s
  | .ctxReset fn sq f => Sys2Proof.Machine.execCtxReset fn sq f s
  | .ctxRelease fn sq f => Sys2Proof.Machine.execCtxRelease fn sq f s
  | .ctxReleaseComplete ctx => Sys2Proof.Machine.execCtxReleaseComplete ctx s
  | .stateGet fn sq f => Sys2Proof.Machine.execStateGet fn sq f s
  | .statePut fn sq f => Sys2Proof.Machine.execStatePut fn sq f s
  | .ctxQuery fn sq f => Sys2Proof.Machine.execCtxQuery fn sq f s
  | .loadWeights fn sq f pkg sigOk => Sys2Proof.Machine.execLoadWeights fn sq f pkg sigOk s
  | .loadProgram fn sq f progs sigOk => Sys2Proof.Machine.execLoadProgram fn sq f progs sigOk s
  | .sample fn sq f => Sys2Proof.Machine.execSample fn sq f s
  | .sampleRunEnd ch => Sys2Proof.Machine.execSampleRunEnd ch s
  | .add ch slot => Sys2Proof.Machine.execAdd ch slot s
  | .sub ch slot => Sys2Proof.Machine.execSub ch slot s
  | .and ch slot => Sys2Proof.Machine.execAnd ch slot s
  | .or ch slot => Sys2Proof.Machine.execOr ch slot s
  | .xor ch slot => Sys2Proof.Machine.execXor ch slot s
  | .shl ch slot => Sys2Proof.Machine.execShl ch slot s
  | .shr ch slot => Sys2Proof.Machine.execShr ch slot s
  | .sra ch slot => Sys2Proof.Machine.execSra ch slot s
  | .mul ch slot => Sys2Proof.Machine.execMul ch slot s
  | .slt ch slot => Sys2Proof.Machine.execSlt ch slot s
  | .sltu ch slot => Sys2Proof.Machine.execSltu ch slot s
  | .li ch slot => Sys2Proof.Machine.execLi ch slot s
  | .ldS ch slot => Sys2Proof.Machine.execLdS ch slot s
  | .stS ch slot => Sys2Proof.Machine.execStS ch slot s
  | .bdSet ch slot => Sys2Proof.Machine.execBdSet ch slot s
  | .rdSys ch slot => Sys2Proof.Machine.execRdSys ch slot s
  | .beq ch slot => Sys2Proof.Machine.execBeq ch slot s
  | .bne ch slot => Sys2Proof.Machine.execBne ch slot s
  | .blt ch slot => Sys2Proof.Machine.execBlt ch slot s
  | .bge ch slot => Sys2Proof.Machine.execBge ch slot s
  | .jmp ch slot => Sys2Proof.Machine.execJmp ch slot s
  | .mvmA ch slot => Sys2Proof.Machine.execMvmA ch slot s
  | .mvmD ch slot => Sys2Proof.Machine.execMvmD ch slot s
  | .quantRow ch slot => Sys2Proof.Machine.execQuantRow ch slot s
  | .deq ch slot => Sys2Proof.Machine.execDeq ch slot s
  | .redTopk ch slot => Sys2Proof.Machine.execRedTopk ch slot s
  | .redMm ch slot => Sys2Proof.Machine.execRedMm ch slot s
  | .normRow ch slot => Sys2Proof.Machine.execNormRow ch slot s
  | .actTab ch slot => Sys2Proof.Machine.execActTab ch slot s
  | .vecOp ch slot => Sys2Proof.Machine.execVecOp ch slot s
  | .ctxLd ch slot ecc => Sys2Proof.Machine.execCtxLd ch slot ecc s
  | .ctxSt ch slot ecc => Sys2Proof.Machine.execCtxSt ch slot ecc s
  | .emit ch slot => Sys2Proof.Machine.execEmit ch slot s
  | .xchSnd ch slot => Sys2Proof.Machine.execXchSnd ch slot s
  | .xchRcv ch slot => Sys2Proof.Machine.execXchRcv ch slot s
  | .spill ch slot => Sys2Proof.Machine.execSpill ch slot s
  | .resume ch slot => Sys2Proof.Machine.execResume ch slot s
  | .sig ch slot => Sys2Proof.Machine.execSig ch slot s
  | .wait ch slot => Sys2Proof.Machine.execWait ch slot s
  | .bar ch slot => Sys2Proof.Machine.execBar ch slot s
  | .yield ch slot => Sys2Proof.Machine.execYield ch slot s
  | .halt ch slot => Sys2Proof.Machine.execHalt ch slot s
  | .inferenceCommit ch slot => Sys2Proof.Machine.execInferenceCommit ch slot s
  | .unitStart ch slot seq ecc => Sys2Proof.Machine.execUnitStart ch slot seq ecc s
  | .instructionComplete ch slot seq => Sys2Proof.Machine.execInstructionComplete ch slot seq s
  | .tileGrant ch tile => Sys2Proof.Machine.execTileGrant ch tile s
  | .facetSwitchDone ch tile => Sys2Proof.Machine.execFacetSwitchDone ch tile s
  | .mvmComplete ch tile err dacFault => Sys2Proof.Machine.execMvmComplete ch tile err dacFault s
  | .bankDrain ch tile bank => Sys2Proof.Machine.execBankDrain ch tile bank s
  | .autoSpill ch slot handle => Sys2Proof.Machine.execAutoSpill ch slot handle s
  | .groupGrant ch => Sys2Proof.Machine.execGroupGrant ch s
  | .lookbackVerdict ch slot seq => Sys2Proof.Machine.execLookbackVerdict ch slot seq s
  | .requantDone ch slot seq => Sys2Proof.Machine.execRequantDone ch slot seq s
  | .weightStreamStart ch => Sys2Proof.Machine.execWeightStreamStart ch s
  | .weightBlockArrival ch base ecc => Sys2Proof.Machine.execWeightBlockArrival ch base ecc s
  | .cacheSetWaitEnd ch slot seq => Sys2Proof.Machine.execCacheSetWaitEnd ch slot seq s
  | .patrolScrub ch granule ecc => Sys2Proof.Machine.execPatrolScrub ch granule ecc s
  | .xchMessageDelivered ch slot seq => Sys2Proof.Machine.execXchMessageDelivered ch slot seq s
  | .expertRequestArrival ch id => Sys2Proof.Machine.execExpertRequestArrival ch id s
  | .expertReplyArrival ch id => Sys2Proof.Machine.execExpertReplyArrival ch id s
  | .linkedVertexSignal ch => Sys2Proof.Machine.execLinkedVertexSignal ch s
  | .barrierArrival ch src => Sys2Proof.Machine.execBarrierArrival ch src s
  | .barrierRelease ch src => Sys2Proof.Machine.execBarrierRelease ch src s
  | .heldReleaseWake ch b => Sys2Proof.Machine.execHeldReleaseWake ch b s
  | .arantHello n hdr => Sys2Proof.Machine.execArantHello n hdr s
  | .arantExchange n hdr body => Sys2Proof.Machine.execArantExchange n hdr body s
  | .arantExpertRequest n hdr body => Sys2Proof.Machine.execArantExpertRequest n hdr body s
  | .arantExpertReply n hdr body => Sys2Proof.Machine.execArantExpertReply n hdr body s
  | .arantCredit n hdr body => Sys2Proof.Machine.execArantCredit n hdr body s
  | .arantRetraction n hdr body => Sys2Proof.Machine.execArantRetraction n hdr body s
  | .peerApertureRead => Sys2Proof.Machine.execPeerApertureRead s
  | .ideIntegrityFail stream => Sys2Proof.Machine.execIdeIntegrityFail stream s
  | .functionLevelReset fn => Sys2Proof.Machine.execFunctionLevelReset fn s
  | .functionOpen fn v => Sys2Proof.Machine.execFunctionOpen fn v s
  | .functionClose fn => Sys2Proof.Machine.execFunctionClose fn s
  | .functionClosed fn => Sys2Proof.Machine.execFunctionClosed fn s
  | .ringEnable fn isCq n v => Sys2Proof.Machine.execRingEnable fn isCq n v s
  | .ringDisable fn isCq n => Sys2Proof.Machine.execRingDisable fn isCq n s
  | .ringFreed fn isCq n => Sys2Proof.Machine.execRingFreed fn isCq n s
  | .protCommit fn => Sys2Proof.Machine.execProtCommit fn s
  | .protDiscard fn => Sys2Proof.Machine.execProtDiscard fn s
  | .protOwnWrite fn v => Sys2Proof.Machine.execProtOwnWrite fn v s
  | .setupDone fn => Sys2Proof.Machine.execSetupDone fn s
  | .smbInstallerClear fn => Sys2Proof.Machine.execSmbInstallerClear fn s
  | .tickCfgWrite fn v => Sys2Proof.Machine.execTickCfgWrite fn v s
  | .checkCfgWrite fn v => Sys2Proof.Machine.execCheckCfgWrite fn v s
  | .pwrCfgWrite fn v => Sys2Proof.Machine.execPwrCfgWrite fn v s
  | .testPeriodWrite fn v => Sys2Proof.Machine.execTestPeriodWrite fn v s
  | .testRunNow fn v => Sys2Proof.Machine.execTestRunNow fn v s
  | .schedCfgWrite fn ch v => Sys2Proof.Machine.execSchedCfgWrite fn ch v s
  | .syncCfgWrite fn ch v => Sys2Proof.Machine.execSyncCfgWrite fn ch v s
  | .vtxLinkWrite fn ch n v => Sys2Proof.Machine.execVtxLinkWrite fn ch n v s
  | .barCfgWrite fn ch b v => Sys2Proof.Machine.execBarCfgWrite fn ch b v s
  | .cntSelWrite fn ch n v => Sys2Proof.Machine.execCntSelWrite fn ch n v s
  | .cntWrite fn ch n v => Sys2Proof.Machine.execCntWrite fn ch n v s
  | .rngSeedWrite fn ch v => Sys2Proof.Machine.execRngSeedWrite fn ch v s
  | .mapReadbackGo fn ch v => Sys2Proof.Machine.execMapReadbackGo fn ch v s
  | .mapReadbackDone ch readings => Sys2Proof.Machine.execMapReadbackDone ch readings s
  | .registerWrite fn space off width v => Sys2Proof.Machine.execRegisterWrite fn space off width v s
  | .mailboxOpen fn v => Sys2Proof.Machine.execMailboxOpen fn v s
  | .openMailbox port r => Sys2Proof.Machine.execOpenMailbox port r s
  | .getChallenge port r => Sys2Proof.Machine.execGetChallenge port r s
  | .assumeRole port r sigOk => Sys2Proof.Machine.execAssumeRole port r sigOk s
  | .releaseRole port r => Sys2Proof.Machine.execReleaseRole port r s
  | .readEvents port r => Sys2Proof.Machine.execReadEvents port r s
  | .readAudit port r => Sys2Proof.Machine.execReadAudit port r s
  | .readErrlog port r => Sys2Proof.Machine.execReadErrlog port r s
  | .flushStore port r => Sys2Proof.Machine.execFlushStore port r s
  | .setModuleId port r => Sys2Proof.Machine.execSetModuleId port r s
  | .authSlot port r => Sys2Proof.Machine.execAuthSlot port r s
  | .unmapFacet port r => Sys2Proof.Machine.execUnmapFacet port r s
  | .readModuleId port r => Sys2Proof.Machine.execReadModuleId port r s
  | .firmwareStage port r hdr sigOk => Sys2Proof.Machine.execFirmwareStage port r hdr sigOk s
  | .firmwareActivate port r => Sys2Proof.Machine.execFirmwareActivate port r s
  | .calibrate port r => Sys2Proof.Machine.execCalibrate port r s
  | .provision port r => Sys2Proof.Machine.execProvision port r s
  | .clearReplacementFlag port r => Sys2Proof.Machine.execClearReplacementFlag port r s
  | .openDebugWindow port r => Sys2Proof.Machine.execOpenDebugWindow port r s
  | .getVersion port => Sys2Proof.Machine.execGetVersion port s
  | .getCapabilities port ver => Sys2Proof.Machine.execGetCapabilities port ver s
  | .negotiateAlgorithms offer => Sys2Proof.Machine.execNegotiateAlgorithms offer s
  | .getDigests port => Sys2Proof.Machine.execGetDigests port s
  | .getCertificate port slot off len => Sys2Proof.Machine.execGetCertificate port slot off len s
  | .challenge port slot => Sys2Proof.Machine.execChallenge port slot s
  | .getMeasurements port index signedReq => Sys2Proof.Machine.execGetMeasurements port index signedReq s
  | .keyExchange port x => Sys2Proof.Machine.execKeyExchange port x s
  | .finish port session macOk => Sys2Proof.Machine.execFinish port session macOk s
  | .heartbeat port session => Sys2Proof.Machine.execHeartbeat port session s
  | .keyUpdate port session => Sys2Proof.Machine.execKeyUpdate port session s
  | .endSession port session => Sys2Proof.Machine.execEndSession port session s
  | .challengeExpire port => Sys2Proof.Machine.execChallengeExpire port s
  | .configRecordWriteStart => Sys2Proof.Machine.execConfigRecordWriteStart s
  | .configRecordWriteDone readBackOk => Sys2Proof.Machine.execConfigRecordWriteDone readBackOk s
  | .packageStagingStart => Sys2Proof.Machine.execPackageStagingStart s
  | .pvCycleEnd ch tile dacFault => Sys2Proof.Machine.execPvCycleEnd ch tile dacFault s
  | .facetProgramDone ch tile o => Sys2Proof.Machine.execFacetProgramDone ch tile o s
  | .facetFreed ch tile facet => Sys2Proof.Machine.execFacetFreed ch tile facet s
  | .ageAccrue => Sys2Proof.Machine.execAgeAccrue s
  | .refreshOverdue ch tile facet => Sys2Proof.Machine.execRefreshOverdue ch tile facet s
  | .refreshReadbackDone ch tile facet readings stuck => Sys2Proof.Machine.execRefreshReadbackDone ch tile facet readings stuck s
  | .facetCheckResult ch tile => Sys2Proof.Machine.execFacetCheckResult ch tile s
  | .residueCheckPass ch fmt steps => Sys2Proof.Machine.execResidueCheckPass ch fmt steps s
  | .taintScanDone => Sys2Proof.Machine.execTaintScanDone s
  | .quiescence => Sys2Proof.Machine.execQuiescence s
  | .testDue ch => Sys2Proof.Machine.execTestDue ch s
  | .testShed ch => Sys2Proof.Machine.execTestShed ch s
  | .testHeatingEnd ch => Sys2Proof.Machine.execTestHeatingEnd ch s
  | .testVerdict ch found => Sys2Proof.Machine.execTestVerdict ch found s
  | .sensorSample n reading => Sys2Proof.Machine.execSensorSample n reading s
  | .thermalLevelStep ch => Sys2Proof.Machine.execThermalLevelStep ch s
  | .powerMeterSample centiwatts => Sys2Proof.Machine.execPowerMeterSample centiwatts s
  | .controlStep => Sys2Proof.Machine.execControlStep s
  | .supplyReturnToRange => Sys2Proof.Machine.execSupplyReturnToRange s
  | .supplyBelow1V => Sys2Proof.Machine.execSupplyBelow1V s
  | .ideKmKeyProgram stream session => Sys2Proof.Machine.execIdeKmKeyProgram stream session s
  | .stateTransferEnd ch id data => Sys2Proof.Machine.execStateTransferEnd ch id data s
  | .sharedTablesCopyEnd ch => Sys2Proof.Machine.execSharedTablesCopyEnd ch s

end Sys2Proof.Machine
end

