-- ==== Sys2Proof/Machine/Read.lean ====
section
/-! DEFINITION. What a read of a register or of the debug window returns (R5, R6, R369 to R375, R377 to R380, R382, R393 to R397). A read changes
nothing, so no command stands for it: State.readReg says the value that the state shows. -/

namespace Sys2Proof.Machine

/-! ### Capability registers (R377) -/

/-- HUB_CAP_UNITS. -/
def State.capUnits (s : State) : Nat :=
  let v := match s.variant with | .mvn8A => 1 | .mvn4A => 2 | .mvn4L => 3
  pack [(63, 56, v), (55, 48, 2 ^ s.channels - 1), (47, 40, if s.light then 16 else 32), (39, 32, Config.revision.toNat),
    (31, 31, bnat (!s.light)), (30, 30, bnat (!s.light)), (29, 28, if s.light then 0 else 2), (27, 24, s.counters), (15, 0, 0x7FFF)]

/-- HUB_CAP_VER. -/
def capVer : Nat := 0x1013101310130000

/-! ### Hub registers (R297, R334, R337, R344, R379) -/

/-- HUB_SETUP (R376). -/
def State.setupReg (s : State) : Nat := pack [(1, 1, bnat s.hub.smbInstaller), (0, 0, bnat s.hub.setupDone)]

/-- HUB_STORE_STATUS (R334): pending while a record write is due or running. -/
def State.storeStatus (s : State) : Nat :=
  pack [(63, 63, bnat s.store.fault), (62, 62, bnat (s.store.coalesced || s.store.urgent || s.store.writing.isSome)),
    (61, 61, bnat s.store.bankIsB), (60, 52, s.store.waiting.length), (47, 0, s.store.seq)]

/-- A signed number in `n` bits, two's complement, saturating. -/
def signedBits (n : Nat) (i : Int) : Nat :=
  let m : Int := 2 ^ (n - 1)
  let j := if i < -m then -m else if m - 1 < i then m - 1 else i
  (j % (2 ^ n : Int)).toNat

/-- HUB_TICK_STATUS (R223, R224): the offset saturates at plus and minus 32,767 ns. -/
def State.tickStatus (s : State) : Nat :=
  let o := if s.clk.offset < -32767 then -32767 else if 32767 < s.clk.offset then 32767 else s.clk.offset
  pack [(31, 31, bnat s.clk.holdover), (30, 30, bnat s.clk.locked), (23, 16, min 255 s.clk.noEdge), (15, 0, signedBits 16 o)]

/-- HUB_CHECK_WM (R292). -/
def State.checkWm (s : State) : Nat := pack [(63, 63, bnat s.integ.held), (47, 0, s.integ.wm)]

/-- An average over the latest `n` samples, in units of 0.01 W, rounded down. -/
def Therm.average (x : Therm) (n : Nat) : Nat := (x.window n).1 / max 1 (x.window n).2

/-- HUB_PWR_STATUS (R337). -/
def State.pwrStatus (s : State) : Nat :=
  pack [(63, 60, s.therm.level), (59, 59, bnat s.therm.capNotHeld),
    (55, 48, ((List.range s.channels).map (fun c => if (s.chan c).thermal = 0 then 0 else 2 ^ c)).sum),
    (47, 32, min 65535 (s.therm.average 10000)), (31, 16, min 65535 (s.therm.average 100))]

/-- HUB_TEMP[n] (R344). -/
def State.tempReg (s : State) (n : Nat) : Nat :=
  if s.sensorFitted n then
    pack [(31, 31, 1), (30, 30, bnat (s.sensor n).broken), (29, 28, (s.sensor n).rate), (15, 0, signedBits 16 (s.reading n))]
  else 0

/-- HUB_PROT_GEN (R382). -/
def State.protGen (s : State) : Nat := pack [(63, 48, s.host.ownQueue.length), (31, 0, s.host.gen)]

/-- HUB_PEER_STATUS[n] (R382). -/
def State.peerStatus (s : State) (n : Nat) : Nat :=
  let p := s.peer n
  let st := match p.st with | .closed => 0 | .helloSent => 1 | .open => 2 | .noVersion => 3
  pack [(63, 32, p.heard), (9, 8, st), (7, 0, if p.st = .open then p.ver else 0)]

/-- A register of the hub and protection regions by its first byte (R371); a setting reads as last written (R374). -/
def State.hubValue (s : State) (fn off : Nat) : Nat :=
  if off = 0x0 then s.store.live.serial.toNat
  else if off = 0x8 then s.capUnits
  else if off = 0x10 then capVer
  else if off = 0x18 then s.setupReg
  else if off = 0x20 then s.svcStatus.toNat
  else if off = 0x28 then s.storeStatus
  else if off = 0x30 then (s.clk.cfgNext.getD s.clk.cfg).toNat
  else if off = 0x34 then s.tickStatus
  else if off = 0x38 then pack [(31, 29, s.hub.fracNext.getD s.hub.frac)]
  else if off = 0x3C then pack [(31, 24, s.hub.capNext.getD s.hub.cap)]
  else if off = 0x40 then s.checkWm
  else if off = 0x48 then s.pwrStatus
  else if off = 0x50 then pack [(55, 44, s.hub.periodNext.getD s.hub.period)]
  else if off = 0x58 then s.hub.errHead % 2 ^ 32
  else if off = 0x5C then s.moduleIdReg
  else if 0x100 ≤ off ∧ off < 0x228 then s.tempReg ((off - 0x100) / 4)
  else if 0x400 ≤ off ∧ off < 0x2400 then (if fn = 0 then (sget 0 s.hub.errlog ((off - 0x400) / 32)).toNat else 0)
  else if off = 0x10008 then s.protGen
  else if 0x10100 ≤ off ∧ off < 0x10200 then (sget 0 s.host.staged.rings ((off - 0x10100) / 8)).toNat
  else if 0x11000 ≤ off ∧ off < 0x11400 then (sget 0 s.host.staged.peers ((off - 0x11000) / 16)).toNat
  else if 0x11400 ≤ off ∧ off < 0x11600 then s.peerStatus ((off - 0x11400) / 8)
  else if 0x12000 ≤ off ∧ off < 0x14000 then (sget 0 s.host.staged.wins ((off - 0x12000) / 16)).toNat
  else 0

/-! ### Channel registers -/

/-- CH_TEST_STATUS (R304). -/
def Test.status (t : Test) : Nat :=
  let st := match t.phase with | .notDue => 0 | .due => if t.shedding then 3 else 1 | .running => 2 | .cooling => 2 | .passed => 2
  pack [(63, 62, st), (61, 50, min 4095 t.waited), (47, 0, t.lastPass)]

/-- A register of channel `c`'s block by its offset in the block (R371). -/
def Chan.value (k : Chan) (off : Nat) : Nat :=
  if off = 0x0 then k.capFacets.toNat
  else if off = 0x8 then k.facetStatus.toNat
  else if off = 0x10 then k.seqr.quantThresh.toNat
  else if off = 0x18 then (k.sched.cfgNext.getD k.sched.cfg).toNat
  else if off = 0x1C then (k.sync.cfgNext.getD k.sync.cfg).toNat
  else if off = 0x20 then k.test.status
  else if 0x100 ≤ off ∧ off < 0x180 then (withNext 0 k.sync.link k.sync.linkNext ((off - 0x100) / 4)).toNat
  else if 0x800 ≤ off ∧ off < 0x1000 then
    let b := (off - 0x800) / 8
    let cfg := match k.sync.barNext.find? (fun e => e.1 == b) with | some e => e.2 | none => (k.barrier b).cfg
    (setFld cfg 31 0 (k.barrier b).gen.toNat).toNat
  else 0

/-! ### Function pages (R245, R248, R315, R385) -/

/-- HUB_FN_OPEN (R245). -/
def Fn.openReg (x : Fn) : Nat :=
  let st := match x.st with | .closed => 0 | .open => 1 | .closing => 2 | .held => 3
  pack [(63, 56, x.drvMax), (55, 48, x.drvMin), (47, 40, x.ver), (33, 32, st),
    (0, 0, bnat (x.st == .open || x.st == .held || x.openNext))]

/-- HUB_FN_MBX_OPEN (R384). -/
def Port.openReg (p : Port) : Nat :=
  pack [(63, 56, p.drvMax), (55, 48, p.drvMin), (47, 40, p.mbxVer), (33, 32, bnat p.mbxOpen), (0, 0, bnat (p.mbxOpen || p.mbxNext))]

/-- HUB_FN_ROLE (R315). That of the SMBus port stands in its `roleNow`; no command of R386 returns it (notes/assumptions/107). -/
def RoleState.reg (r : RoleState) : Nat :=
  let v := match r.role with | .operator => 0 | .installer => 1 | .maker => 2
  pack [(63, 62, v), (61, 46, r.rights), (45, 44, r.signer), (31, 0, r.tokenId.toNat)]

/-- HUB_FN_SQ[n] or HUB_FN_CQ[n] (R248). -/
def Ring.reg (r : Ring) : Nat :=
  let st := match r.st with | .free => 0 | .active => 1 | .stopping => 2 | .stopped => 3
  (setFld r.cfg 71 70 st).toNat

/-- A register of a function's page by its first byte (R372). -/
def State.pageValue (s : State) (fn off : Nat) : Nat :=
  if off = 0x0 then (s.fn fn).openReg
  else if off = 0x8 then (s.port fn).roleNow.reg
  else if off = 0x10 then (s.fn fn).dbell.toNat
  else if off = 0x20 then s.checkWm
  else if off = 0x28 then s.protGen
  else if off = 0x30 then (s.port fn).openReg
  else if off = 0x38 then (s.port fn).cmd.toNat
  else if off = 0x40 then (setFld (s.port fn).status 63 63 (bnat (s.port fn).busy)).toNat
  else if 0x100 ≤ off ∧ off < 0x300 then ((s.fn fn).sqRing ((off - 0x100) / 16)).reg
  else if 0x300 ≤ off ∧ off < 0x500 then ((s.fn fn).cqRing ((off - 0x300) / 16)).reg
  else 0

/-! ### Telemetry (R391, R392, R397) -/

/-- CH_SAMPLE_STATUS of channel `c`. -/
def State.sampleStatus (s : State) (c : Nat) : Nat :=
  match (s.chan c).dbg.sample with
  | none => 0
  | some r =>
    match s.host.jobs.find? (fun j => j.id == r.job) with
    | none => 0
    | some j => pack [(63, 63, bnat r.started), (55, 48, fld j.desc 343 336), (47, 0, r.seq)]

/-- A register of channel `c`'s telemetry block; counters that the variant lacks read zero (R6). -/
def State.telValue (s : State) (c off : Nat) : Nat :=
  let d := (s.chan c).dbg
  if off = 0x0 then d.cycles.toNat
  else if 0x40 ≤ off ∧ off < 0x80 then (if (off - 0x40) / 8 < s.counters then (withNext 0 d.cntSel d.cntSelNext ((off - 0x40) / 8)).toNat else 0)
  else if 0x80 ≤ off ∧ off < 0xC0 then (if (off - 0x80) / 8 < s.counters then (sget 0 d.cnt ((off - 0x80) / 8)).toNat else 0)
  else if off = 0xC0 then s.sampleStatus c
  else 0

/-! ### The debug part (R82, R283, R284, R393 to R395) -/

/-- One bit for each slot that a list names. -/
def slotBits (l : List Nat) : Nat := ((List.range 16).map (fun n => if l.contains n then 2 ^ n else 0)).sum

/-- A vertex debug record (R283). -/
def Vtx.debug (v : Vtx) : Nat :=
  pack [(127, 96, v.value), (95, 80, slotBits (v.waiters.map VWait.slot)), (79, 64, slotBits ((v.waiters.filter VWait.consume).map VWait.slot)),
    (63, 46, v.lastCtx), (45, 42, v.lastSlot), (41, 39, v.lastChan), (31, 0, v.lastFrame)]

/-- A barrier debug record (R284): a participant with a tag older than the generation collected has not left yet; one whose tag is not older waits at entry (R277). -/
def Bar.debug (x : Bar) : Nat :=
  let late (w : BWait) : Bool := before32 w.tag x.gen
  pack [(127, 96, x.gen.toNat), (95, 84, x.arrived), (83, 68, slotBits (((x.leaving ++ x.waiters).filter late).map BWait.slot)),
    (67, 52, slotBits ((x.waiters.filter (fun w => !late w)).map BWait.slot)), (51, 51, bnat x.heldRel.isSome), (50, 33, x.orphanCtx),
    (32, 25, min 255 x.orphans)]

/-- A spill record's tag (R82). -/
def SpillRec.tag (r : SpillRec) : Nat :=
  pack [(63, 46, r.ctx), (45, 42, r.slot), (41, 40, r.handle), (39, 29, r.lanes), (28, 22, r.contributions), (21, 21, bnat r.precise),
    (20, 20, bnat r.fallback), (19, 19, bnat r.saturated), (18, 18, bnat r.implicit), (17, 17, bnat r.valid), (16, 0, r.frameLo)]

/-- One lane of a group or record: its sum below its compensation term. -/
def laneBits (sums comps : List (BitVec 32)) (i : Nat) : Nat := (sums.getD i 0).toNat + (comps.getD i 0).toNat * 2 ^ 32

/-- Eight bytes of the TILE_ space of a tile. Lanes stand at zero outside an MVM, since every promotion resets them (R74). Those of a bank
being filled, and its sums promoted so far, rest on conversions that the model learns only as the MVM ends: each is read as a free value
(notes/assumptions/71). -/
def State.tileSpace (s : State) (c t off : Nat) : Nat :=
  let x := s.tile c t
  let free := Config.unstated (s.fresh + off) % 2 ^ 64
  let filling (b : Nat) : Bool := match x.run with | some r => r.bank == b | none => false
  let at' (base : Nat) (l : List (BitVec 32)) : Nat := (l.getD ((off - base) / 4) 0).toNat + (l.getD ((off - base) / 4 + 1) 0).toNat * 2 ^ 32
  if off < 0x21C0 then (if filling (off / 0x10E0) then free else 0)
  else if 0x4400 ≤ off ∧ off < 0x5400 then (if filling 0 then free else at' 0x4400 x.sums0)
  else if 0x5400 ≤ off ∧ off < 0x6400 then (if filling 1 then free else at' 0x5400 x.sums1)
  else 0

/-- Eight bytes of channel `c`'s debug block. -/
def State.debugValue (s : State) (c off : Nat) : Nat :=
  let k := s.chan c
  let part (v : Nat) : Nat := v / 2 ^ (8 * (off % 16)) % 2 ^ 64
  if off = 0x0 then k.seqr.rng.toNat
  else if off = 0x8 then k.dbg.mapCmd.toNat
  else if 0x10000 ≤ off ∧ off < 0x20000 then part (sget {} k.sync.vtx ((off - 0x10000) / 16)).debug
  else if 0x20000 ≤ off ∧ off < 0x21000 then part (k.barrier ((off - 0x20000) / 16)).debug
  else if 0x21000 ≤ off ∧ off < 0x21800 then (k.record ((off - 0x21000) / 8)).tag
  else if 0x40000 ≤ off ∧ off < 0x60000 then
    let g := k.group ((off - 0x40000) / 8192)
    laneBits g.sums g.comps ((off - 0x40000) % 8192 / 8)
  else if 0x200000 ≤ off ∧ off < 0x400000 then
    let r := k.record ((off - 0x200000) / 8192)
    laneBits r.sums r.comps ((off - 0x200000) % 8192 / 8)
  else if 0x400000 ≤ off ∧ off < 0x1000000 then s.tileSpace c ((off - 0x400000) / 0x8000) ((off - 0x400000) % 0x8000)
  else 0

/-- Eight bytes of the debug part of the window, for the maker in debug mode. -/
def State.debugPart (s : State) (off : Nat) : Nat :=
  if off < 0x9000000 then
    let c := (off - 0x1000000) / 0x1000000
    if s.fitted c then s.debugValue c ((off - 0x1000000) % 0x1000000) else 0
  else if off < 0xB000000 then
    let c := (off - 0x9000000) / 0x400000
    let o := (off - 0x9000000) % 0x400000
    if s.fitted c then (s.ctxBits (c * 32768 + o / 128)).toNat / 2 ^ (8 * (o % 128)) % 2 ^ 64 else 0
  else
    let c := (off - 0xB000000) / 0x100000
    let o := (off - 0xB000000) % 0x100000
    if s.fitted c then leNat ((List.range 8).map (fun i => (s.chan c).dbg.mapBuf.getD (o + i) 0)) else 0

/-! ### A read (R370) -/

/-- The whole value of the register whose first byte is `start`. -/
def State.wholeValue (s : State) (fn : Nat) (space : RegSpace) (start : Nat) : Nat :=
  match space with
  | .fnPage => s.pageValue fn start
  | .bar0 =>
    if 0x20000 ≤ start ∧ start < 0x30000 then s.pageValue 0 (start - 0x20000)
    else if 0x100000 ≤ start then (s.chan ((start - 0x100000) / 0x10000)).value (start % 0x10000)
    else s.hubValue fn start
  | .bar2 =>
    if start = 0 then pack [(63, 63, bnat s.hub.debug), (47, 0, s.hub.debugSince)]
    else s.telValue ((start - 0x1000) / 0x100) (start % 0x100)

/-- What an access of `acc` bits at an offset returns: zero for an address that holds nothing, for a width or alignment that does not fit, and in
the debug part for any but the maker in debug mode. -/
def State.readReg (s : State) (fn : Nat) (space : RegSpace) (off acc : Nat) : BitVec 64 :=
  match mbxDataAt space off with
  | some a =>
    BitVec.ofNat 64 (if (acc = 32 ∨ acc = 64) ∧ a % (acc / 8) = 0 then leNat (((s.port fn).data.drop a).take (acc / 8)) else 0)
  | none =>
    if space = .bar2 ∧ 0x1000000 ≤ off ∧ off < 0xB800000 then
      BitVec.ofNat 64 (if s.debugOk fn && (acc == 64 || acc == 32) && off % (acc / 8) == 0 then
        s.debugPart (off / 8 * 8) / 2 ^ (8 * (off % 8)) % 2 ^ acc else 0)
    else
      match s.regAt fn space off with
      | .error _ => 0
      | .ok (_, w, start) =>
        BitVec.ofNat 64 (if fits w acc (off - start) then s.wholeValue fn space start / 2 ^ (8 * (off - start)) % 2 ^ acc else 0)

end Sys2Proof.Machine
end

