-- ==== Sys2Proof/Safety.lean ====
section
/-! DEFINITION. What counts as a safe run: a step that neither faults nor is refused, and a state whose logs, queues and levels
stay inside the sizes the manual gives them. -/

namespace Sys2Proof.Machine

/-- The step goes on: it answers a next state. -/
def Runs (s : State) : Prop := ∃ t, step s = .next t

/-- Every bounded store of the apex is within its bound. -/
structure Bounded (s : State) : Prop where
  /-- the mailbox event queue holds 1,024 records (R389) -/
  events : s.hub.events.length ≤ 1024
  /-- 256 audit entries may wait to be stored (R318) -/
  waiting : s.store.waiting.length ≤ 256
  /-- the stored audit log holds 8,192 entries (R317), in work, under way and in both banks -/
  audit : s.store.live.audit.length ≤ 8192
  auditWriting : ∀ p, s.store.writing = some p → p.1.audit.length ≤ 8192
  auditA : s.store.bankA.body.audit.length ≤ 8192
  auditB : s.store.bankB.body.audit.length ≤ 8192
  /-- the ownership queue holds 256 values (R383) -/
  owners : s.host.ownQueue.length ≤ 256
  /-- throttle levels are 0 to 11 (R338) -/
  level : s.therm.level ≤ 11
  /-- the samples of the latest 10 ms, one each microsecond (R336) -/
  samples : s.therm.samples.length ≤ 10000
  /-- four SPDM sessions at most (R327) -/
  sessions : s.sec.sessions.length ≤ 4

/-- What an instruction that acts on its own slot leaves as it was: every part of the state but the channels; every other channel;
every other slot of its own channel; of that channel everything but the issue bookkeeping (the next number, the slot issued last),
the counters and samples, and the mark of a woken slot that has now left its barrier's generation (R276). What happens in the slot
itself is said beside it. -/
structure IssueFrame (s t : State) (c sl : Nat) : Prop where
  rest : t = { s with chans := t.chans }
  others : ∀ d, d ≠ c → t.chan d = s.chan d
  slots : ∀ n, n ≠ sl → t.slot c n = s.slot c n
  chan : t.chan c = { s.chan c with seqr := (t.chan c).seqr, sync := (t.chan c).sync, dbg := (t.chan c).dbg }
  seqr : (t.chan c).seqr = { (s.chan c).seqr with
    slots := (t.chan c).seqr.slots, nextSeq := (s.chan c).seqr.nextSeq + 1, lastIssued := sl }
  sync : (t.chan c).sync = { (s.chan c).sync with bars := (t.chan c).sync.bars }
  bars : ∀ b, (t.chan c).barrier b =
    { (s.chan c).barrier b with leaving := ((s.chan c).barrier b).leaving.filter (fun w => w.slot != sl) }

end Sys2Proof.Machine
end

