-- ==== Sys2Proof/Certificates/Slice0/Obligations.lean ====
section
/-! DEFINITION. The statements about the model. Each docstring names the rule of the manual it formalises, or says that it is the
model's own choice. -/

namespace Sys2Proof.Claims

open Sys2Proof.Machine

/-! ### Words the statements use -/

/-- Slot `sl` of channel `c` is ready to issue the word `w` of opcode `op`, and the inference is within the limit of R160. -/
def Issues (s : State) (c sl op : Nat) (w : Word) : Prop :=
  s.atIssue c sl op = some w ∧ (s.slot c sl).sinceYield + 1 < runawayLimit

/-- From `s` to `t` slot `sl` of channel `c` issued an instruction that reached only its registers and program counter: register `r`
reads `regs r`, the program counter is `pc`, one more instruction was issued since the last yield, and all else in the slot stands;
outside the slot the issue frame holds. -/
structure Wrote (s t : State) (c sl : Nat) (regs : Nat → Word) (pc : Nat) : Prop where
  regs : ∀ r, (t.slot c sl).reg r = regs r
  slot : t.slot c sl = { s.slot c sl with regs := (t.slot c sl).regs, pc := pc, sinceYield := (s.slot c sl).sinceYield + 1 }
  frame : IssueFrame s t c sl

/-- The register file with `v` in `rd`; x0 takes no value (R132). -/
def Slot.file (x : Slot) (rd : Nat) (v : Word) (r : Nat) : Word := if r = rd ∧ rd ≠ 0 then v else x.reg r

/-- The second operand of the scalar form (R142): the signed immediate, or a register. -/
def second (x : Slot) (w : Word) : Word := if bit w 48 then BitVec.ofInt 64 (signed 24 (fld w 23 0)) else x.reg (fld w 37 33)

/-- The eleven arithmetic rows: command, opcode, function of the two operands (R141). -/
def arith : List ((Nat → Nat → Instr) × Nat × (Word → Word → Word)) :=
  [(Instr.add, 0x01, fun a b => a + b), (Instr.sub, 0x02, fun a b => a - b), (Instr.and, 0x03, fun a b => a &&& b),
   (Instr.or, 0x04, fun a b => a ||| b), (Instr.xor, 0x05, fun a b => a ^^^ b),
   (Instr.shl, 0x06, fun a b => a <<< (b.toNat % 64)), (Instr.shr, 0x07, fun a b => a >>> (b.toNat % 64)),
   (Instr.sra, 0x08, fun a b => a.sshiftRight (b.toNat % 64)), (Instr.mul, 0x09, fun a b => a * b),
   (Instr.slt, 0x0A, fun a b => if a.toInt < b.toInt then 1 else 0),
   (Instr.sltu, 0x0B, fun a b => if a.toNat < b.toNat then 1 else 0)]

/-- The five branch rows: command, opcode, condition on x[rs1] and x[rs2] (R141). -/
def branches : List ((Nat → Nat → Instr) × Nat × (Word → Word → Bool)) :=
  [(Instr.beq, 0x18, fun a b => a == b), (Instr.bne, 0x19, fun a b => a != b), (Instr.blt, 0x1A, fun a b => decide (a.toInt < b.toInt)),
   (Instr.bge, 0x1B, fun a b => decide (b.toInt ≤ a.toInt)), (Instr.jmp, 0x1C, fun _ _ => true)]

/-- The rows whose instructions a unit runs, with their opcodes and the checks at issue (R136, R146 to R158). -/
def unitRows : List ((Nat → Nat → Instr) × Nat × (State → Nat → Nat → Outst → Bad)) :=
  [(Instr.mvmA, 0x20, State.mvmABad), (Instr.mvmD, 0x21, State.mvmDBad), (Instr.quantRow, 0x28, State.quantBad),
   (Instr.deq, 0x29, State.deqBad), (Instr.redTopk, 0x30, State.reduceBad), (Instr.redMm, 0x31, State.reduceBad),
   (Instr.normRow, 0x32, State.normBad), (Instr.actTab, 0x38, State.actBad), (Instr.vecOp, 0x39, State.vecBad),
   (Instr.emit, 0x42, State.emitBad), (Instr.xchSnd, 0x48, State.sendBad), (Instr.spill, 0x50, State.spillBad),
   (Instr.resume, 0x51, State.resumeBad), (Instr.sig, 0x58, fun _ _ _ _ => none)]

/-- The outstanding entry of an instruction that issues with the scalar `x`. -/
def entryWith (s : State) (c sl : Nat) (w : Word) : Outst :=
  { seq := (s.chan c).seqr.nextSeq, idx := (s.slot c sl).pc, word := w, bds := (s.slot c sl).bds
    x := (s.slot c sl).reg (operandReg w), issuedAt := s.clk.nanos.toNat, startedAt := s.clk.nanos.toNat }

/-- From `s` to `t` slot `sl` of channel `c` issued an instruction that is now outstanding as `o`. -/
structure Queued (s t : State) (c sl : Nat) (o : Outst) : Prop where
  slot : t.slot c sl = { s.slot c sl with
    pc := (s.slot c sl).pc + 1, sinceYield := (s.slot c sl).sinceYield + 1, outs := (s.slot c sl).outs ++ [o] }
  frame : IssueFrame s t c sl

/-- From `s` to `t` one occurrence of `code` was counted in every fitted channel: each of its counters that selects the code for no
context gained one and stays at its greatest value; nothing else changed (R392). -/
structure Counted (s t : State) (code : Nat) : Prop where
  rest : t = { s with chans := t.chans }
  absent : ∀ c, s.channels ≤ c → t.chan c = s.chan c
  chan : ∀ c, t.chan c = { s.chan c with dbg := { (s.chan c).dbg with cnt := (t.chan c).dbg.cnt } }
  cnt : ∀ c, c < s.channels → ∀ j, sget 0 (t.chan c).dbg.cnt j =
    if j < (if s.variant = .mvn4L then 4 else 8) ∧ selects (sget 0 (s.chan c).dbg.cntSel j) code none = true
    then BitVec.ofNat 64 (min ((sget 0 (s.chan c).dbg.cnt j).toNat + 1) (2 ^ 64 - 1)) else sget 0 (s.chan c).dbg.cnt j

/-- From `s` to `t` an event was reported: its record joined the queue, or is counted as lost where 1,024 wait; nothing but the queue
changed (R389). -/
structure Reported (s t : State) (cls sub chan arg arg2 : Nat) : Prop where
  rest : t = { s with hub := { s.hub with events := t.hub.events, evSeq := t.hub.evSeq, evLost := t.hub.evLost } }
  queued : s.hub.evLost = 0 → s.hub.events.length < 1024 →
    t.hub.events = s.hub.events ++ [eventBits s.hub.evSeq s.frameN cls sub chan arg arg2] ∧ t.hub.evSeq = (s.hub.evSeq + 1) % 2 ^ 32 ∧
    t.hub.evLost = 0
  lost : 1024 ≤ s.hub.events.length → t.hub.events = s.hub.events ∧ t.hub.evLost = s.hub.evLost + 1

/-- From `s` to `t` only the channels changed, and of channel `c` only what `f` says. -/
structure InChan (s t : State) (c : Nat) (f : Chan → Chan) : Prop where
  rest : t = { s with chans := t.chans }
  others : ∀ d, d ≠ c → t.chan d = s.chan d
  chan : t.chan c = f (s.chan c)

/-- The conditions of R363 besides the service state: boot, link, store record, identity key, trims, survey, and after a thermal drain
every fitted sensor at 95 °C or less. -/
def EntryConditions (s : State) : Prop :=
  s.pwr.boot = .booted ∧ s.integ.replacement = false ∧
  (∃ m, s.pwr.link = some m ∧ m.gen ∈ [4, 5, 6] ∧ m.width ∈ [1, 2, 4]) ∧
  s.pwr.recordOk = true ∧ s.pwr.keyOk = true ∧ s.pwr.trimsOk = true ∧ s.pwr.surveyOk = true ∧
  (s.integ.thermal = true → ∀ n, n < 74 → s.sensorFitted n = true → s.reading n ≤ 95 * 16)

/-- The head of the fetch queue is count `pos` of ring `sq` of function `fn`, and the windows and the link's streams let its read through
(R250, R254). -/
def Fetches (s : State) (fn sq pos : Nat) : Prop :=
  s.host.fetchQ.head? = some (fn, sq, pos) ∧ s.dmaOk fn (((s.fn fn).sqRing sq).descAddr pos) 64 false = true ∧ s.hostSecure = true

/-- The state as the checks of a fetched descriptor find it: the fetch is off the queue, its number used, its context's record read (R218). -/
def fetchedFor (s : State) (j : Job) : State :=
  let t := s.popFetch.countJob
  if 1 ≤ j.kind ∧ j.kind ≤ 7 ∧ s.fitted (j.ctx / 32768) = true then t.readRec j.ctx else t

/-- The completion entry `e` waits for its time, has been written to its ring, or was lost to a denial of the ring's tail (R251, R261). -/
def Completed (s t : State) (e : Cpl) : Prop :=
  e ∈ t.host.cpls ∨ (∃ pos phase, (e.fn, e.cq, pos, e.bits phase s.integ.wm) ∈ t.out.cpl) ∨
  s.dmaOk e.fn ((s.fn e.fn).cqRing e.cq).tailAddr 32 true = false

/-- The ten rows that fetch a descriptor, each as a function of what the fetch brought, with its kind (R253). -/
def descriptorRows : List ((Nat → Nat → Fetch → Instr) × Nat) :=
  [(fun fn sq f => Instr.infer fn sq { fetch := f, ecc := [] }, 1), (Instr.ctxOpen, 2), (Instr.ctxReset, 3), (Instr.ctxRelease, 4), (Instr.stateGet, 5), (Instr.statePut, 6),
   (Instr.ctxQuery, 7), (fun fn sq f => Instr.loadWeights fn sq f .ur false, 8), (fun fn sq f => Instr.loadProgram fn sq f [] false, 9),
   (Instr.sample, 10)]

/-- Slot `sl` of channel `c` holds no accumulation group and awaits none (R79, R83). -/
def NoGroups (s : State) (c sl : Nat) : Prop :=
  ∀ h, h < 4 → ((s.slot c sl).handle h).phys = none ∧ ((s.slot c sl).handle h).implicit = false

/-- The record of context `raw` is sound: its cached copy reads, and so does every entry of its page list (R218). -/
def SoundRecord (s : State) (raw : Nat) : Prop :=
  (s.ctx raw).cacheBad = false ∧ ∀ p ∈ (s.ctx raw).pages, p.poisoned = false

/-- A message of peer `n` is accepted: the link is up, the peer's stream secure, its window open and the module in service or starting; the
message lies in the window's layout and is the next of the window, with its version, its check and a type that version has (R266 to R268,
R302, R329). -/
def Accepts (s : State) (n : Nat) (h : Hdr) (body : List Byte) : Prop :=
  s.linkUp = true ∧ s.peerSecure n = true ∧ (s.peer n).st = .open ∧ s.failed = false ∧ h.inLayout n body = true ∧ h.faulty (s.peer n) body = false

/-- A register access of function `fn` reaches the module: the link is up, the root port's stream secure, and there is such a function. -/
def Heard (s : State) (fn : Nat) : Prop := s.linkUp = true ∧ s.hostSecure = true ∧ fn < 32

/-- From `s` to `t` only function `fn` changed, as `f` says. -/
structure InFn (s t : State) (fn : Nat) (f : Fn → Fn) : Prop where
  rest : t = { s with host := { s.host with fns := t.host.fns } }
  others : ∀ n, n ≠ fn → t.fn n = s.fn n
  fn : t.fn fn = f (s.fn fn)

/-- From `s` to `t` only port `p` changed, as `f` says. -/
structure InPort (s t : State) (p : Nat) (f : Port → Port) : Prop where
  rest : t = { s with host := { s.host with ports := t.host.ports } }
  others : ∀ n, n ≠ p → t.port n = s.port n
  port : t.port p = f (s.port p)

/-- From `s` to `t` only one ring of function `fn` changed, as `f` says. -/
structure InRing (s t : State) (fn : Nat) (isCq : Bool) (n : Nat) (f : Ring → Ring) : Prop where
  rest : t = { s with host := { s.host with fns := t.host.fns } }
  fns : ∀ m, m ≠ fn → t.fn m = s.fn m
  self : t.fn fn = { s.fn fn with sqs := (t.fn fn).sqs, cqs := (t.fn fn).cqs }
  others : ∀ q m, (q, m) ≠ (isCq, n) → t.ring fn q m = s.ring fn q m
  ring : t.ring fn isCq n = f (s.ring fn isCq n)

/-- From `s` to `t` a refused write was logged, and nothing else changed: one entry more, with its port, reason and offset (R380). -/
structure Logged (s t : State) (port reason off : Nat) : Prop where
  rest : t = { s with hub := { s.hub with errlog := t.hub.errlog, errHead := (s.hub.errHead + 1) % 2 ^ 32 } }
  others : ∀ k, k ≠ s.hub.errHead % 256 → sget 0 t.hub.errlog k = sget 0 s.hub.errlog k
  port : fld (sget 0 t.hub.errlog (s.hub.errHead % 256)) 175 170 = port % 64
  reason : fld (sget 0 t.hub.errlog (s.hub.errHead % 256)) 169 162 = reason % 256
  off : fld (sget 0 t.hub.errlog (s.hub.errHead % 256)) 161 138 = off % 2 ^ 24

/-- From `s` to `t` a role action was entered in the audit log, and nothing else changed: one waiting entry more, with the next sequence
number, the action, the port and the result (R317, R318). -/
structure Audited (s t : State) (action port result : Nat) : Prop where
  rest : t = { s with store := { s.store with waiting := t.store.waiting, coalesced := true
                                              urgent := s.store.urgent || decide (192 ≤ s.store.waiting.length + 1) } }
  entry : ∃ e : Audit, t.store.waiting = s.store.waiting ++ [e] ∧ e.seq = s.store.live.auditNext + s.store.waiting.length ∧
    fld e.bits 367 360 = action % 256 ∧ fld e.bits 357 352 = port % 64 ∧ fld e.bits 351 344 = result % 256

/-- The audit log takes an entry: fewer than 256 wait and none was dropped (R318, R319). -/
def AuditRoom (s : State) : Prop := s.store.waiting.length < 256 ∧ s.store.dropped = 0

/-- Port `p` takes command `op` of a request: it hears it, is not busy, its mailbox is open at a version that has the command, or it is the SMBus
port and the ROM answers the command there (R322, R331; notes/assumptions/108), and the data fit the buffer (R384 to R386). -/
def Takes (s : State) (p op : Nat) (r : MbxReq) : Prop :=
  s.portHears p op = true ∧ (s.port p).busy = false ∧ r.data.length ≤ 4096 ∧
  (((s.port p).mbxOpen = true ∧ r.ver ≤ (s.port p).mbxVer ∧ ∃ v, mbxFrom op = some v ∧ v ≤ (s.port p).mbxVer) ∨
   (p = 63 ∧ s.romHears op = true))

/-- The audit result of the right that command `op` needs on port `p`, 0 where the port has it; the ROM asks for no role (notes/assumptions/108). -/
def rightHere (s : State) (p op : Nat) (role : Role) (n : Nat) : Nat :=
  if p = 63 ∧ s.romHears op = true then 0 else s.rightResult p role n

/-- A port that has completed a command: the request over the start of its buffer, the response over that, and the status (R385). -/
def answered (x : Port) (op : Nat) (r : MbxReq) (status detail : Nat) (resp : List Byte) : Port :=
  { x with busy := false, cmd := cmdWord r op, data := overlay resp (overlay r.data x.data)
           status := BitVec.ofNat 64 (pack [(55, 48, status), (47, 40, detail), (31, 16, resp.length), (15, 0, r.tag)]) }

/-- The mailbox commands that R386 opens to every role or that check it themselves, with their codes. -/
def openCommands : List ((Nat → MbxReq → Instr) × Nat) :=
  [(Instr.getChallenge, 0x01), (fun p r => Instr.assumeRole p r true, 0x02), (Instr.releaseRole, 0x03), (Instr.readEvents, 0x04),
   (Instr.readAudit, 0x05), (Instr.readErrlog, 0x06), (Instr.flushStore, 0x07), (Instr.readModuleId, 0x0B)]

/-- The mailbox commands that need one right: command, code, role and right (R311, R386). -/
def roleCommands : List ((Nat → MbxReq → Instr) × Nat × Role × Nat) :=
  [(Instr.setModuleId, 0x08, .installer, 4), (Instr.unmapFacet, 0x0A, .installer, 0),
   (fun p r => Instr.firmwareStage p r 0 true, 0x10, .maker, 8), (Instr.firmwareActivate, 0x11, .maker, 8),
   (Instr.calibrate, 0x12, .maker, 9), (Instr.provision, 0x13, .maker, 10), (Instr.clearReplacementFlag, 0x14, .maker, 11),
   (Instr.openDebugWindow, 0x15, .maker, 12)]

/-- From `s` to `t` a detected failure of channel `c` has begun a drain: the module is draining, with the cause, the channel and the frame, and
the replacement flag is latched (R294, R295, R297). -/
def Drains (s t : State) (cause c : Nat) : Prop :=
  t.integ.svc = .draining ∧ t.integ.cause = cause ∧ t.integ.channel = c ∧ t.integ.frame = s.frameN ∧ t.integ.replacement = true ∧
  t.integ.thermal = false ∧ t.integ.scanDone = false

/-- From `s` to `t` one occurrence of `code`, of no context, was counted in channel `c`, and nothing else changed (R392). -/
structure CountedIn (s t : State) (c code : Nat) : Prop where
  chan : InChan s t c (fun k => { k with dbg := { k.dbg with cnt := (t.chan c).dbg.cnt } })
  cnt : ∀ j, sget 0 (t.chan c).dbg.cnt j =
    if j < s.counters ∧ selects (sget 0 (s.chan c).dbg.cntSel j) code none = true
    then BitVec.ofNat 64 (min ((sget 0 (s.chan c).dbg.cnt j).toNat + 1) (2 ^ 64 - 1)) else sget 0 (s.chan c).dbg.cnt j

end Sys2Proof.Claims

open Sys2Proof Sys2Proof.Machine Sys2Proof.Claims

/-! ### The machine -/

/-- Commands are served first in, first out (the model's queue, notes/assumptions/1): a step runs the command at the front on the rest. -/
def Obligations.StepRunsTheCommandInFront : Prop :=
  ∀ (s : State) (i : Instr) (rest : List Instr), s.pending = i :: rest → step s = exec i { s with pending := rest }

/-- On an empty queue (the model's choice, notes/assumptions/3) one nanosecond passes in a powered module: the nanosecond counter advances, and
nothing changes but the counters and the channels' clocks and chords (R14, notes/assumptions/106); without power nothing advances. -/
def Obligations.IdleStepsPassTime : Prop :=
  (∀ s : State, s.pending = [] → s.pwr.supply = .on → s.pwr.boot ≠ .off →
    ∃ t, step s = .next t ∧ t = { s with clk := { s.clk with nanos := s.clk.nanos + 1 }, chans := t.chans }) ∧
  (∀ s : State, s.pending = [] → s.pwr.supply ≠ .on → step s = .next s)

/-- No command changes the queue or the variant of the module.
The queue is the model's own (notes/assumptions/1). -/
def Obligations.CommandsLeaveTheQueue : Prop :=
  ∀ (i : Instr) (s t : State), exec i s = .next t → t.pending = s.pending ∧ t.variant = s.variant

/-- Every command completes, but a register write beyond its space, which faults; none is refused.
That an event out of place changes nothing, and that such a write faults, are the model's choices (notes/assumptions/4, 90). -/
def Obligations.OnlyWritesBeyondTheirSpaceStop : Prop :=
  ∀ (i : Instr) (s : State), (∃ t, exec i s = .next t) ∨
    (exec i s = .fault .outsideBar ∧ ∃ fn sp off w v, i = .registerWrite fn sp off w v ∧ spaceBytes sp ≤ off)

/-- From every state within the bounds of the manual's logs, queues and levels, a step leads to one within them. -/
def Obligations.EveryStepKeepsTheBounds : Prop :=
  ∀ s t : State, Bounded s → step s = .next t → Bounded t

/-- The reset state is within the bounds. -/
def Obligations.ResetIsWithinTheBounds : Prop := Bounded State.reset

/-- R223, R286, R303, R336 with R297 and R355: the factory settings of the reset state, which holds no power and is not in service.
That reset is the module without power is the model's choice (notes/assumptions/8). -/
def Obligations.ResetHoldsTheFactorySettings : Prop :=
  State.reset.clk.cfg = 0x800003E8 ∧ State.reset.hub.frac = 1 ∧ State.reset.hub.period = 168 ∧ State.reset.hub.cap = 75 ∧
  State.reset.clk.frame = 0 ∧ State.reset.clk.nanos = 0 ∧ State.reset.svcOk = .highImpedance ∧ State.reset.inService = false ∧
  State.reset.pending = []

/-! ### The sequencer: scalar instructions -/

/-- R141, R142, R132: the eleven arithmetic instructions write their function of x[rs1] and the second operand to rd, and change nothing else. -/
def Obligations.ArithmeticWritesItsResult : Prop :=
  ∀ e ∈ arith, ∀ (c sl : Nat) (w : Word) (s : State), Issues s c sl e.2.1 w →
    ∃ t, exec (e.1 c sl) s = .next t ∧
      Wrote s t c sl (Slot.file (s.slot c sl) (fld w 47 43) (e.2.2 ((s.slot c sl).reg (fld w 42 38)) (second (s.slot c sl) w)))
        ((s.slot c sl).pc + 1)

/-- R142, R144: li writes its sign-extended immediate, or with hi its immediate over the register's low half; rd.sys writes the system value its
selector names: the context, the frame counter, the nanosecond counter, the slot, the routing base once the record is fetched, the
module number, the user word; the routing base before that ends the inference with NO_RECORD, and a program whose rd.sys names another
selector is refused at load. -/
def Obligations.ImmediatesAndSystemValuesAreWritten : Prop :=
  (∀ (c sl : Nat) (w : Word) (s : State), Issues s c sl 0x0C w →
    ∃ t, exec (.li c sl) s = .next t ∧
      Wrote s t c sl (Slot.file (s.slot c sl) (fld w 47 43)
        (if bit w 49 then BitVec.ofNat 64 (fld w 31 0 * 2 ^ 32 + fld ((s.slot c sl).reg (fld w 47 43)) 31 0)
         else BitVec.ofInt 64 (signed 32 (fld w 31 0)))) ((s.slot c sl).pc + 1)) ∧
  (∀ (c sl : Nat) (w : Word) (s : State), Issues s c sl 0x10 w → (fld w 23 0 = 4 → (s.slot c sl).recDone = true) →
    ∃ t v, exec (.rdSys c sl) s = .next t ∧ Wrote s t c sl (Slot.file (s.slot c sl) (fld w 47 43) v) ((s.slot c sl).pc + 1) ∧
      (∀ j, (s.chan c).job? ((s.slot c sl).job.getD 0) = some j →
        (fld w 23 0 = 0 → v = BitVec.ofNat 64 j.ctx) ∧ (fld w 23 0 = 4 → v = BitVec.ofNat 64 (s.ctx j.ctx).routingBase) ∧
        (6 ≤ fld w 23 0 → v = BitVec.ofNat 64 j.user)) ∧
      (fld w 23 0 = 1 → v = s.frameNow) ∧ (fld w 23 0 = 2 → v = s.clk.nanos) ∧ (fld w 23 0 = 3 → v = BitVec.ofNat 64 sl) ∧
      (fld w 23 0 = 5 → v = BitVec.ofNat 64 s.hub.moduleId)) ∧
  (∀ (c sl : Nat) (w : Word) (s : State), Issues s c sl 0x10 w → fld w 23 0 = 4 → (s.slot c sl).recDone = false →
    exec (.rdSys c sl) s = .next (((s.issued c sl w).sampleDone c (s.chan c).seqr.nextSeq 1).fault c sl 0x08 (s.slot c sl).pc)) ∧
  (∀ (s : State) (fn sq pos : Nat) (d : BitVec 512) (j : Job) (l : List ProgFill), Fetches s fn sq pos → j = s.newJob fn sq pos d → j.kind = 9 →
    s.popFetch.countJob.verdictOf j = none → s.store.waiting.length < 256 → s.dmaOk fn j.addr (fld d 351 312) false = true →
    (∃ p ∈ l, ∃ w ∈ (readProg p.number p.image).words, opOf w = 0x10 ∧ 6 < fld w 23 0) →
      ∃ t n, exec (.loadProgram fn sq (.data d) l true) s = .next t ∧ Completed s t { s.jobCpl j 0 5 0x21 with detail := n } ∧
        ∀ c, (t.chan c).seqr = (s.chan c).seqr)

/-- R143: bd.set writes x[rs1] + imm24 to the field its selector names, less one for rows and elements. -/
def Obligations.SetDescriptorWritesTheField : Prop :=
  ∀ (c sl : Nat) (w : Word) (s : State), Issues s c sl 0x0F w →
    ∀ v, v = ((s.slot c sl).reg (fld w 42 38) + BitVec.ofInt 64 (signed 24 (fld w 23 0))).toNat →
      ((fld w 29 28 = 0 ∧ v % 64 = 0 ∧ v < 2 ^ 40) ∨ (fld w 29 28 = 1 ∧ 1 ≤ v ∧ v ≤ 4096) ∨ (fld w 29 28 = 2 ∧ 1 ≤ v ∧ v ≤ 32768) ∨
        (fld w 29 28 = 3 ∧ v < 2 ^ 20)) →
      ∃ t, exec (.bdSet c sl) s = .next t ∧ IssueFrame s t c sl ∧
        t.slot c sl = { s.slot c sl with
          pc := (s.slot c sl).pc + 1, sinceYield := (s.slot c sl).sinceYield + 1
          bds := (s.slot c sl).bds.set (fld w 27 24)
            (match fld w 29 28 with
             | 0 => setFld ((s.slot c sl).bd (fld w 27 24)) 39 0 v
             | 1 => setFld ((s.slot c sl).bd (fld w 27 24)) 107 96 (v - 1)
             | 2 => setFld ((s.slot c sl).bd (fld w 27 24)) 95 81 (v - 1)
             | _ => setFld ((s.slot c sl).bd (fld w 27 24)) 80 61 v) }

/-- R141, R142: a branch goes to its offset, counted in instructions from the branch itself, where its condition holds, else on. -/
def Obligations.BranchesGoWhereTheyHold : Prop :=
  ∀ e ∈ branches, ∀ (c sl : Nat) (w : Word) (s : State), Issues s c sl e.2.1 w →
    ∃ t, exec (e.1 c sl) s = .next t ∧
      Wrote s t c sl (s.slot c sl).reg
        (if e.2.2 ((s.slot c sl).reg (fld w 42 38)) ((s.slot c sl).reg (fld w 37 33)) = true
         then (((s.slot c sl).pc : Int) + signed 24 (fld w 23 0)).toNat else (s.slot c sl).pc + 1)

/-- R143: ld.s and st.s on an aligned address inside the window are outstanding with that address; when ld.s completes, rd holds the eight bytes of
the window there, least significant first; when st.s completes, the eight bytes hold its value and every other byte stands.
A byte nothing has written reads 0, the model's choice (notes/assumptions/10). -/
def Obligations.WindowWordsIssueAndComplete : Prop :=
  (∀ e ∈ [(Instr.ldS, 0x0D), (Instr.stS, 0x0E)], ∀ (c sl : Nat) (w : Word) (s : State), Issues s c sl e.2 w →
    ∀ a, a = (BitVec.ofNat 64 (bdBase ((s.slot c sl).bd (fld w 27 24))) + (s.slot c sl).reg (fld w 42 38) +
        BitVec.ofInt 64 (signed 24 (fld w 23 0))).toNat → a % 8 = 0 → a + 8 ≤ windowBytes →
      ∃ t, exec (e.1 c sl) s = .next t ∧
        Queued s t c sl { entryWith s c sl w with addr := a, x := (s.slot c sl).reg (fld w 47 43) }) ∧
  (∀ (c sl seq : Nat) (s : State) (o : Outst), (s.slot c sl).out? seq = some o → o.started = true →
    (opOf o.word = 0x0D → ∃ t, exec (.instructionComplete c sl seq) s = .next t ∧
      (∀ r, (t.slot c sl).reg r = Slot.file (s.slot c sl) (fld o.word 47 43) (BitVec.ofNat 64 (leNat (sgetList 0 (s.slot c sl).win o.addr 8))) r) ∧
      (t.slot c sl).win = (s.slot c sl).win ∧ (t.slot c sl).outs = (s.slot c sl).outs.filter (fun e => e.seq ≠ seq)) ∧
    (opOf o.word = 0x0E → ∃ t, exec (.instructionComplete c sl seq) s = .next t ∧
      (∀ b, sget 0 (t.slot c sl).win b = if o.addr ≤ b ∧ b < o.addr + 8 then (leBytes 8 o.x.toNat).getD (b - o.addr) 0 else sget 0 (s.slot c sl).win b) ∧
      (∀ r, (t.slot c sl).reg r = (s.slot c sl).reg r) ∧ (t.slot c sl).outs = (s.slot c sl).outs.filter (fun e => e.seq ≠ seq)))

/-- R160, R136, R161: an arithmetic instruction that would be the 2^20th since the last yield or halt ends the inference with RUNAWAY instead of
acting; an instruction whose check fails ends it at itself with the status and cause of the check.
The index and the count are the model's reading (notes/assumptions/34). -/
def Obligations.RunawayAndFailedChecksEndTheInference : Prop :=
  (∀ e ∈ arith, ∀ (c sl : Nat) (w : Word) (s : State), s.atIssue c sl e.2.1 = some w → runawayLimit ≤ (s.slot c sl).sinceYield + 1 →
    exec (e.1 c sl) s = .next ((s.issued c sl w).fault c sl 0x0C (s.slot c sl).pc)) ∧
  (∀ e ∈ unitRows, ∀ (c sl : Nat) (w : Word) (s : State) (st cause : Nat), Issues s c sl e.2.1 w →
    e.2.2 (s.issued c sl w) c sl (entryWith s c sl w) = some (st, cause) →
      exec (e.1 c sl) s = .next ((s.issued c sl w).endInf c sl st cause (s.slot c sl).pc))

/-! ### The sequencer: instructions that units run -/

/-- R136, R137, R157: an instruction that a unit runs and whose checks pass is outstanding, with its descriptors and scalar operand as they stood at
issue, and so are ctx.ld and ctx.st; nothing else happens yet, but that ctx.ld.r is noted.
The order of checks is the model's reading (notes/assumptions/34). -/
def Obligations.UnitInstructionsIssue : Prop :=
  (∀ e ∈ unitRows, ∀ (c sl : Nat) (w : Word) (s : State), Issues s c sl e.2.1 w →
    e.2.2 (s.issued c sl w) c sl (entryWith s c sl w) = none →
      ∃ t, exec (e.1 c sl) s = .next t ∧ Queued s t c sl (entryWith s c sl w)) ∧
  (∀ (c sl : Nat) (w : Word) (ecc : List Ecc) (s : State),
    (Issues s c sl 0x40 w → State.moveBad (s.issued c sl w) c sl (entryWith s c sl w) = none →
      ∃ t, exec (.ctxLd c sl ecc) s = .next t ∧ IssueFrame s t c sl ∧
        t.slot c sl = { s.slot c sl with
          pc := (s.slot c sl).pc + 1, sinceYield := (s.slot c sl).sinceYield + 1, recIssued := (s.slot c sl).recIssued || bit w 55
          outs := (s.slot c sl).outs ++ [{ entryWith s c sl w with ecc := ecc }] }) ∧
    (Issues s c sl 0x41 w → State.moveBad (s.issued c sl w) c sl (entryWith s c sl w) = none →
      ∃ t, exec (.ctxSt c sl ecc) s = .next t ∧ Queued s t c sl { entryWith s c sl w with ecc := ecc }))

/-- R160: halt blocks the slot and keeps its code; R160's count starts anew. -/
def Obligations.HaltBlocksTheSlot : Prop :=
  ∀ (c sl : Nat) (w : Word) (s : State), s.atIssue c sl 0x61 = some w →
    ∃ t, exec (.halt c sl) s = .next t ∧ IssueFrame s t c sl ∧
      t.slot c sl = { s.slot c sl with pc := (s.slot c sl).pc + 1, sinceYield := 0, block := .halt, haltCode := fld w 15 0 }

/-! ### Registers -/

/-- R376, R314, R223, R286, R303, R336: the set-up register, by the physical function until setup_done; and the installer's settings: held
to their ranges and to the role and right, entered in the audit log, in work at once and in force from the next tick or control step.
The audit codes of refusals and the rule for run_now are the model's reading (notes/assumptions/51, 57, 72, 102). -/
def Obligations.SetUpAndSettingsAreWritten : Prop :=
  ∀ (s : State) (fn : Nat) (w : BitVec 32) (v : BitVec 64), Heard s fn →
    (fn = 0 → s.hub.setupDone = false → exec (.setupDone fn) s = .next { s with hub := { s.hub with setupDone := true } } ∧
      exec (.smbInstallerClear fn) s = .next { s with hub := { s.hub with
        smbInstaller := false, smbClearNext := s.hub.smbClearNext || s.hub.smbInstaller } }) ∧
    (fn = 0 → s.hub.setupDone = true → exec (.setupDone fn) s = .next s ∧
      (s.hub.smbInstaller = true → ∃ t, exec (.smbInstallerClear fn) s = .next t ∧ Logged s t fn 5 0x18)) ∧
    (fn ≠ 0 → ∀ i ∈ [Instr.setupDone fn, Instr.smbInstallerClear fn], ∃ t, exec i s = .next t ∧ Logged s t fn 0x0A 0x18) ∧
    (AuditRoom s → ∀ e ∈ [(Instr.tickCfgWrite fn w, 3, 0x21, w.toNat &&& maskBits 29 20, decide (250 ≤ fld w 19 0 ∧ fld w 19 0 ≤ 1000000)),
        (Instr.checkCfgWrite fn w, 5, 0x23, w.toNat &&& maskBits 28 0, decide (fld w 31 29 ≤ 4)),
        (Instr.pwrCfgWrite fn w, 2, 0x20, w.toNat &&& maskBits 23 0, decide (25 ≤ fld w 31 24 ∧ fld w 31 24 ≤ 75)),
        (Instr.testPeriodWrite fn v, 6, 0x24, v.toNat &&& maskBits 43 0, decide (24 ≤ fld v 55 44 ∧ fld v 55 44 ≤ 2160)),
        (Instr.testRunNow fn v, 6, 0x24, v.toNat &&& maskBits 43 0, decide (24 ≤ fld v 55 44 ∧ fld v 55 44 ≤ 2160))], e.2.2.2.1 = 0 →
      (s.rightResult fn .installer e.2.1 ≠ 0 → ∃ t, exec e.1 s = .next t ∧ Audited s t 0x40 fn (s.rightResult fn .installer e.2.1)) ∧
      (s.rightResult fn .installer e.2.1 = 0 → e.2.2.2.2 = false → ∃ t, exec e.1 s = .next t ∧ Audited s t e.2.2.1 fn 6) ∧
      (s.rightResult fn .installer e.2.1 = 0 → e.2.2.2.2 = true → s.store.fault = false → ∃ t u, exec e.1 s = .next t ∧ Audited u t e.2.2.1 fn 0 ∧
        (e.2.1 = 3 → u = { s with clk := { s.clk with cfgNext := some (BitVec.ofNat 32 (pack [(31, 30, fld w 31 30), (19, 0, fld w 19 0)])) }
                                  store := { s.store with live := { s.store.live with
                                    tickCfg := BitVec.ofNat 32 (pack [(31, 30, fld w 31 30), (19, 0, fld w 19 0)]) } } }) ∧
        (e.2.1 = 5 → u = { s with hub := { s.hub with fracNext := some (fld w 31 29) }
                                  store := { s.store with live := { s.store.live with checkFrac := fld w 31 29 } } }) ∧
        (e.2.1 = 2 → u = { s with hub := { s.hub with capNext := some (fld w 31 24) }
                                  store := { s.store with live := { s.store.live with capW := fld w 31 24 } } }) ∧
        (e.2.1 = 6 → u = { s with hub := { s.hub with periodNext := some (fld v 55 44) }, chans := u.chans
                                  store := { s.store with live := { s.store.live with periodH := fld v 55 44 } } } ∧
          (∀ c, c < s.channels → u.chan c = (if bit v (56 + c) then { s.chan c with test := { (s.chan c).test with runNext := true } } else s.chan c)) ∧
          (∀ c, s.channels ≤ c → u.chan c = s.chan c))))

/-- R240, R280, R274, R275, R392, R395: the registers of a fitted channel, written by the physical function: limits, stall limit, links,
barriers and selections wait for the next tick, a counter takes its value at once, the seed waits for the next word; what the rules
refuse is logged and changes nothing. The stall limit is 4 at reset, and a tick puts the limit that waits in force. -/
def Obligations.ChannelRegistersAreWritten : Prop :=
  ∀ (s : State) (c n : Nat) (w : BitVec 32) (v : BitVec 64), Heard s 0 → s.fitted c = true →
    (fld w 31 24 ≠ 0 → fld w 23 16 ≠ 0 → fld w 15 8 ≠ 0 → ∃ t, exec (.schedCfgWrite 0 c w) s = .next t ∧
      InChan s t c (fun k => { k with sched := { k.sched with cfgNext := some w } })) ∧
    (w.toNat &&& maskBits 23 0 = 0 →
      (fld w 31 24 ≠ 0 → ∃ t, exec (.syncCfgWrite 0 c w) s = .next t ∧
        InChan s t c (fun k => { k with sync := { k.sync with cfgNext := some (BitVec.ofNat 32 (pack [(31, 24, fld w 31 24)])) } })) ∧
      (fld w 31 24 = 0 → ∃ t, exec (.syncCfgWrite 0 c w) s = .next t ∧ Logged s t 0 3 (chanOff c + 0x1C))) ∧
    (State.reset.chan c).sync.cfg = 0x04000000 ∧
    (∀ ts, s.clk.due = some ts → ∃ t, exec .tick s = .next t ∧ (t.chan c).sync.cfgNext = none ∧
      (t.chan c).sync.cfg = (s.chan c).sync.cfgNext.getD (s.chan c).sync.cfg) ∧
    (n < 32 → w.toNat &&& 15 = 0 →
      (s.linkRefused c n w.toNat = false → ∃ t, exec (.vtxLinkWrite 0 c n w) s = .next t ∧
        InChan s t c (fun k => { k with sync := { k.sync with linkNext := sinsert n (BitVec.ofNat 32 (w.toNat / 16 * 16)) k.sync.linkNext } })) ∧
      (s.linkRefused c n w.toNat = true → ∃ t, exec (.vtxLinkWrite 0 c n w) s = .next t ∧ Logged s t 0 3 (chanOff c + 0x100 + 4 * n))) ∧
    (n < 256 → v.toNat &&& maskBits 53 44 = 0 →
      (((s.chan c).barrier n).waiters = [] → ((s.chan c).barrier n).arrived = 0 → s.homeRefused v.toNat = false →
        ∃ t, exec (.barCfgWrite 0 c n v) s = .next t ∧ InChan s t c (fun k => { k with sync := { k.sync with
          barNext := sinsert n (BitVec.ofNat 64 (pack [(63, 54, fld v 63 54), (43, 32, fld v 43 32)])) k.sync.barNext } })) ∧
      (((s.chan c).barrier n).waiters ≠ [] → ∃ t, exec (.barCfgWrite 0 c n v) s = .next t ∧ Logged s t 0 4 (chanOff c + 0x800 + 8 * n))) ∧
    (n < s.counters →
      (v.toNat &&& maskBits 43 8 = 0 → ∃ t, exec (.cntSelWrite 0 c n v) s = .next t ∧ InChan s t c (fun k => { k with dbg := { k.dbg with
        cntSelNext := sinsert n (BitVec.ofNat 64 (pack [(63, 44, fld v 63 44), (7, 0, fld v 7 0)])) k.dbg.cntSelNext } })) ∧
      (∃ t, exec (.cntWrite 0 c n v) s = .next t ∧ InChan s t c (fun k => { k with dbg := { k.dbg with cnt := sput 0 k.dbg.cnt n v } }))) ∧
    (s.debugOk 0 = true → v ≠ 0 → ∃ t, exec (.rngSeedWrite 0 c v) s = .next t ∧
      InChan s t c (fun k => { k with seqr := { k.seqr with rngNext := some v } })) ∧
    (s.debugOk 0 = false → ∃ t, exec (.rngSeedWrite 0 c v) s = .next t ∧ Logged s t 0 0x0A (dbgOff c)) ∧
    (s.debugOk 0 = true → v.toNat &&& (maskBits 61 61 + maskBits 47 0) = 0 → bit v 63 = true → fld v 60 52 < 384 → (s.chan c).dbg.mapRunning = false →
      (s.tile c (fld v 60 52)).pv = none → (s.tile c (fld v 60 52)).st ≠ .testing → ∃ t, exec (.mapReadbackGo 0 c v) s = .next t ∧
        t = { s with chans := t.chans } ∧ (t.chan c).dbg.mapRunning = true ∧ bit (t.chan c).dbg.mapCmd 62 = false ∧
        (∃ e, (t.tile c (fld v 60 52)).pv = some { why := .debug, facet := fld v 51 48, erasing := e })) ∧
    (∀ l p, (s.tile c (fld (s.chan c).dbg.mapCmd 60 52)).pv = some p → p.why = .debug → (s.tile c (fld (s.chan c).dbg.mapCmd 60 52)).st = .programming →
      (s.chan c).dbg.mapRunning = true → 160 ≤ p.cycle → ∃ t, exec (.mapReadbackDone c l) s = .next t ∧ t = { s with chans := t.chans } ∧
        (t.chan c).dbg.mapRunning = false ∧ (t.chan c).dbg.mapCmd = setFld (s.chan c).dbg.mapCmd 62 62 1 ∧
        (t.tile c (fld (s.chan c).dbg.mapCmd 60 52)).pv = none ∧
        (t.chan c).dbg.mapBuf = mapRows (readBack ((s.chan c).arr.readCodes (fld (s.chan c).dbg.mapCmd 60 52) p.facet) l))

/-- R370, R381, R369, R103: a register write by address: a threshold register takes its value, the doorbell its writable fields in two halves
of which the upper makes both take effect, a read-only register and an offset without one log reasons 1 and 2, and so does reason 8 an
access of a width that the register does not take. -/
def Obligations.RegisterWritesGoWhereTheyPoint : Prop :=
  ∀ (s : State) (fn : Nat) (v : BitVec 64), Heard s fn →
    (∀ c, fn = 0 → s.fitted c = true → ∃ t, exec (.registerWrite 0 .bar0 (chanOff c + 0x10) 64 v) s = .next t ∧
      t = { s with chans := t.chans, host := { s.host with halves := t.host.halves } } ∧ (∀ d, d ≠ c → t.chan d = s.chan d) ∧
      t.chan c = { s.chan c with seqr := { (s.chan c).seqr with quantThresh := v } }) ∧
    (∃ t, exec (.registerWrite fn .fnPage 0x10 64 v) s = .next t ∧ t = { s with host := { s.host with halves := t.host.halves } } ∧
      ∀ u (w : BitVec 64), v.toNat &&& maskBits 15 0 = 0 → exec (.registerWrite fn .fnPage 0x18 64 w) t = .next u →
        (u.fn fn).dbell = BitVec.ofNat 128 (w.toNat * 2 ^ 64 + v.toNat) ∧ (∀ n, n ≠ fn → u.fn n = s.fn n)) ∧
    (∃ t, exec (.registerWrite fn .fnPage 8 64 v) s = .next t ∧ Logged s t fn 1 8) ∧
    (∀ off, 8 ≤ off → off < 0x1000 → ∃ t, exec (.registerWrite fn .bar2 off 64 v) s = .next t ∧ Logged s t fn 2 off) ∧
    (∃ t, exec (.registerWrite fn .fnPage 0x14 32 v) s = .next t ∧ Logged s t fn 8 0x14)

/-! ### The mailbox -/

/-- R384, R385, R386: a command written while its port is busy is logged with reason 4; on a closed mailbox it completes UNSUPPORTED, cause
VERSION; one that needs a right the port lacks completes PROTECTION and is entered in the audit log; a role action completes DEFERRED
while 256 entries wait.
The audit codes and the cause are the model's reading (notes/assumptions/51, 52, 54). -/
def Obligations.MailboxRefusesByItsRules : Prop :=
  ∀ (s : State) (p : Nat) (r : MbxReq),
    (∀ e ∈ openCommands ++ roleCommands.map (fun e => (e.1, e.2.1)), s.portHears p e.2 = true →
      ((s.port p).busy = true → ∃ t, exec (e.1 p r) s = .next t ∧ Logged s t p 4 0x38) ∧
      ((s.port p).busy = false → (s.port p).mbxOpen = false → (p = 63 → s.romHears e.2 = false) → r.data.length ≤ 4096 → ∃ t, exec (e.1 p r) s = .next t ∧
        InPort s t p (fun x => answered x e.2 r 5 0x20 []))) ∧
    (∀ e ∈ roleCommands, Takes s p e.2.1 r →
      (rightHere s p e.2.1 e.2.2.1 e.2.2.2 ≠ 0 → AuditRoom s → ∃ t u, exec (e.1 p r) s = .next t ∧
        Audited { s with fresh := s.fresh + 1 } u 0x40 p (rightHere s p e.2.1 e.2.2.1 e.2.2.2) ∧
        InPort u t p (fun x => answered x e.2.1 r 4 (rightHere s p e.2.1 e.2.2.1 e.2.2.2) [])) ∧
      (rightHere s p e.2.1 e.2.2.1 e.2.2.2 = 0 → 256 ≤ s.store.waiting.length → ∃ t, exec (e.1 p r) s = .next t ∧
        InPort s t p (fun x => answered x e.2.1 r 1 0x28 [])))

/-- R384, R311 to R313, R320, R332, R379, R380, R389: what the commands open to every port do: the SMBus mailbox opens at the settled version;
a challenge is kept until it expires; a token that passes gives its role at the next tick; a release ends it; events leave the queue as
they are read, and the logs stay; a flush asks for a record and waits for it.
Challenges are free values (notes/assumptions/14). -/
def Obligations.MailboxCommandsAnswer : Prop :=
  ∀ (s : State) (p : Nat) (r : MbxReq),
    (∀ lo hi v, s.portHears 63 0 = true → (s.port 63).busy = false → r.data = [lo, hi] → v = settle lo.toNat hi.toNat →
      ∃ t, exec (.openMailbox 63 r) s = .next t ∧
        InPort s t 63 (fun x => { answered x 0 r 0 0 [BitVec.ofNat 8 v] with mbxOpen := v != 0, mbxVer := v })) ∧
    (Takes s p 1 r → ∃ t n, exec (.getChallenge p r) s = .next t ∧
      InPort { s with fresh := s.fresh + 1 } t p (fun x => { answered x 1 r 0 0 (leBytes 16 n) with challenge := some (BitVec.ofNat 128 n) })) ∧
    (s.apexUp = true → (s.port p).challenge ≠ none → ∃ t, exec (.challengeExpire p) s = .next t ∧
      InPort s t p (fun x => { x with challenge := none })) ∧
    (∀ tok, Takes s p 2 r → r.data.length = 1408 → tok = BitVec.ofNat 1024 (leNat (r.data.take 128)) → s.tokenResult p tok true = 0 →
      s.store.waiting.length < 256 → ∃ t, exec (.assumeRole p r true) s = .next t ∧
        InPort s t p (fun x => { answered x 2 r 0 0 [] with
          roleNext := some (tokenRole tok (Config.shake256 r.data)), challenge := if bit tok 1012 then none else x.challenge })) ∧
    (Takes s p 3 r → ∃ t, exec (.releaseRole p r) s = .next t ∧
      t.port p = { answered (s.port p) 3 r 0 0 [] with roleNow := {}, roleNext := none } ∧
      ((s.port p).roleNow.role = .operator → t = { s with host := t.host }) ∧
      ((s.port p).roleNow.role = .installer → AuditRoom s → ∃ u, Audited s u 2 p 0 ∧ t = { u with host := t.host })) ∧
    (Takes s p 4 r → ∃ t, exec (.readEvents p r) s = .next t ∧
      InPort { s with hub := { s.hub with events := s.hub.events.drop 128 } } t p
        (fun x => answered x 4 r 0 0 ((s.hub.events.take 128).flatMap (fun e => leBytes 32 e.toNat)))) ∧
    (Takes s p 5 r → r.data.length = 8 → ∃ t, exec (.readAudit p r) s = .next t ∧ InPort s t p (fun x => answered x 5 r 0 0
      ((((s.store.live.audit ++ s.store.waiting).filter (fun e => decide (leNat r.data ≤ e.seq))).take 64).flatMap (fun e => leBytes 64 e.bits.toNat)))) ∧
    (Takes s p 6 r → r.data.length = 4 → ∃ t, exec (.readErrlog p r) s = .next t ∧ InPort s t p (fun x => answered x 6 r 0 0
      (((s.hub.errors.filter (fun e => decide (leNat r.data ≤ fld e 255 224))).take 128).flatMap (fun e => leBytes 32 e.toNat)))) ∧
    (Takes s p 7 r → (s.port p).roleNow.role ≠ .operator → s.store.fault = false → ∃ t, exec (.flushStore p r) s = .next t ∧
      (t.port p).busy = true ∧ t = { s with host := { s.host with ports := t.host.ports }
                                            store := { s.store with flush := s.store.flush ++ [p], urgent := true, coalesced := true } }) ∧
    (Takes s p 0x0B r → ∃ t, exec (.readModuleId p r) s = .next t ∧ InPort s t p (fun x => answered x 0x0B r 0 0 (leBytes 4 s.moduleIdReg)))

/-- R186, R297, R316, R324, R325, R330, R388, R394: what the role commands do for a port with their right: the module number is kept for the next
warm reset; an authority slot's change, and an unmapping, wait for a record; firmware is staged in the inactive slot, and activation makes
a record name it; a calibration is entered; provisioning makes a key and keeps the chain sent; the replacement flag is cleared in the
store; debug mode begins at the next tick.
What a calibration and a provisioning do is the model's reading (notes/assumptions/55). -/
def Obligations.RoleCommandsAct : Prop :=
  ∀ (s : State) (p : Nat) (r : MbxReq), AuditRoom s →
    (s.store.fault = false →
      (∀ b, Takes s p 8 r → s.rightResult p .installer 4 = 0 → r.data = [b] → b.toNat < 64 → ∃ t u, exec (.setModuleId p r) s = .next t ∧
        Audited { s with fresh := s.fresh + 1, store := { s.store with live := { s.store.live with moduleId := b.toNat } } } u 0x22 p 0 ∧
        InPort u t p (fun x => answered x 8 r 0 0 [])) ∧
      (∀ x, Takes s p 9 r → ((s.port p).roleNow.role = .maker ∨ s.rightResult p .installer 7 = 0) →
        authChange (s.authNow ((r.data.getD 0 0).toNat)) r.data = some x → ∃ t u, exec (.authSlot p r) s = .next t ∧
        Audited { s with fresh := s.fresh + 1, host := { s.host with auths := s.host.auths ++ [((r.data.getD 0 0).toNat, x, false)] } } u 0x25 p 0 ∧
        InPort u t p (fun x => answered x 9 r 0 0 [])) ∧
      (∀ c l, Takes s p 0x0A r → s.rightResult p .installer 0 = 0 → r.data.length = 8 → leNat (r.data.drop 4) = 0 → c = (r.data.getD 0 0).toNat →
        l = (r.data.getD 3 0).toNat → s.fitted c = true → leNat ((r.data.drop 1).take 2) < 384 → l < 16 →
        s.facetNamed c (leNat ((r.data.drop 1).take 2)) l = false →
        (sget {} (s.chan c).arr.map (16 * leNat ((r.data.drop 1).take 2) + l)).valid = true → ∃ t, exec (.unmapFacet p r) s = .next t ∧
        t.host.unmaps = s.host.unmaps ++ [(p, c, leNat ((r.data.drop 1).take 2), l, false)] ∧ t.store.urgent = true ∧ (t.port p).busy = true ∧
        t = { s with host := t.host, store := t.store, fresh := t.fresh }) ∧
      (∀ n, Takes s p 0x11 r → rightHere s p 0x11 .maker 8 = 0 → s.store.fwStaged = true → n = 1 - s.store.live.fwActive →
        ∃ t u, exec (.firmwareActivate p r) s = .next t ∧
        Audited { s with store := { s.store with fwStaged := false, live := { s.store.live with fwActive := n } } } u 0x31 p 0 ∧
        InPort u.wantRecord t p (fun x => answered x 0x11 r 0 0 [])) ∧
      (Takes s p 0x13 r → rightHere s p 0x13 .maker 10 = 0 → r.data = [] → ∃ t pub, exec (.provision p r) s = .next t ∧
        t.sec = { s.sec with key := true, keyBytes := t.sec.keyBytes } ∧ pub = Config.falconPublic t.sec.keyBytes ∧
        t.store.live.wrappedKey = Config.gcmWrap (wrapKey (Config.pufSecret t.store.live.helper)) t.sec.keyBytes ∧
        t.store.live.publicKey = pub ∧ t.store.live.chain = [] ∧ t.port p = answered (s.port p) 0x13 r 0 0 pub) ∧
      (Takes s p 0x13 r → rightHere s p 0x13 .maker 10 = 0 → r.data ≠ [] → ∃ t u, exec (.provision p r) s = .next t ∧
        Audited { s with fresh := s.fresh + 1, store := { s.store with live := { s.store.live with chain := r.data } } } u 0x33 p 0 ∧
        InPort u t p (fun x => answered x 0x13 r 0 0 [])) ∧
      (Takes s p 0x14 r → rightHere s p 0x14 .maker 11 = 0 → ∃ t u, exec (.clearReplacementFlag p r) s = .next t ∧
        Audited { s with fresh := s.fresh + 1, store := { s.store with live := { s.store.live with replacement := false } } } u 0x34 p 0 ∧
        InPort u.wantRecord t p (fun x => answered x 0x14 r 0 0 []))) ∧
    (∀ hdr w, Takes s p 0x10 r → rightHere s p 0x10 .maker 8 = 0 → w = { hdr := hdr, valid := true } → s.store.live.fwOk w = true →
      ∃ t u v, exec (.firmwareStage p r hdr true) s = .next t ∧ v.fwStaged = true ∧
        (s.store.live.fwActive = 0 → v = { s.store with fw1 := w, fwDig1 := v.fwDig1, fwStaged := true }) ∧
        (s.store.live.fwActive ≠ 0 → v = { s.store with fw0 := w, fwDig0 := v.fwDig0, fwStaged := true }) ∧
        Audited { s with store := v } u 0x30 p 0 ∧ InPort u t p (fun x => answered x 0x10 r 0 0 [])) ∧
    (Takes s p 0x12 r → rightHere s p 0x12 .maker 9 = 0 → ∃ t u, exec (.calibrate p r) s = .next t ∧
      Audited { s with fresh := s.fresh + 1 } u 0x32 p 0 ∧ InPort u t p (fun x => answered x 0x12 r 0 0 [])) ∧
    (Takes s p 0x15 r → rightHere s p 0x15 .maker 12 = 0 →
      (r.data.head? = some 1 → ∃ t u, exec (.openDebugWindow p r) s = .next t ∧
        Audited { s with fresh := s.fresh + 1, hub := { s.hub with debugNext := some true, debugPort := p } } u 0x35 p 0 ∧
        InPort u t p (fun x => answered x 0x15 r 0 0 [])) ∧
      (r.data.head? = some 0 → s.hub.debug = true → ∃ t, exec (.openDebugWindow p r) s = .next t ∧
        InPort { s with hub := { s.hub with debugNext := some false } } t p (fun x => answered x 0x15 r 0 0 [])))

/-! ### Attestation -/

/-- R327, R328 (orders, response codes and bodies: the model's, notes/assumptions/45, 110): over a port that SPDM reaches, the version answers 1.2
and 1.3 and starts the connection anew; capabilities, algorithms, digests, certificate, challenge and measurements answer in their order,
slot 0's chain and its digest among them; an offer without the module's algorithms takes the error answer; a key exchange opens one of four
sessions with the module's share and keeps its secret, a finish establishes it, heartbeats and key updates go on in it, and an end removes
it; a request out of order takes the error answer and changes nothing else. -/
def Obligations.AttestationAnswers : Prop :=
  ∀ (s : State) (p : Nat), s.spdmHears p = true →
    (exec (.getVersion p) s = .next ((s.setConn p { version := 0x10 }).answer p 0x04 [0x12, 0x13])) ∧
    (∀ v, (v = 0x12 ∨ v = 0x13) → (s.conn p).version ≠ 0 →
      exec (.getCapabilities p v) s = .next ((s.setConn p { version := v, caps := true }).answer p 0x61 [BitVec.ofNat 8 v, 16])) ∧
    (∀ offer : AlgOffer, offer.port = p → (s.conn p).caps = true →
      (Sys2Proof.Machine.AlgOffer.ok offer = true →
        exec (.negotiateAlgorithms offer) s = .next ((s.setConn p { s.conn p with algs := true }).answer p 0x63 algsBody)) ∧
      (Sys2Proof.Machine.AlgOffer.ok offer = false → exec (.negotiateAlgorithms offer) s = .next (s.answerError p))) ∧
    ((s.conn p).algs = true →
      exec (.getDigests p) s = .next (s.answer p 0x01 (leBytes 64 (Config.sha3 s.store.live.chain).toNat)) ∧
      (∀ off len, exec (.getCertificate p 0 off len) s = .next (s.answer p 0x02 ((s.store.live.chain.drop off).take len))) ∧
      (∀ slot off len, slot ≠ 0 → exec (.getCertificate p slot off len) s = .next (s.answer p 0x7F [])) ∧
      (∀ i, 1 ≤ i → i ≤ 20 → exec (.getMeasurements p i false) s = .next (s.answer p 0x60 (s.measure i))) ∧
      (s.sec.key = true → ∃ sig,
        exec (.challenge p 0) s = .next (State.answer { s with fresh := s.fresh + 1 } p 0x03 (leBytes 64 (Config.sha3 s.store.live.chain).toNat ++ sig)) ∧
        (∀ i, 1 ≤ i → i ≤ 20 → exec (.getMeasurements p i true) s = .next (State.answer { s with fresh := s.fresh + 1 } p 0x60 (s.measure i ++ sig))) ∧
        (∀ n share, s.sec.sessions.length < 4 → s.session? p n = none → share.length = 96 → ∃ sig', exec (.keyExchange p { session := n, share := share }) s = .next
          (State.answer { s with fresh := s.fresh + 2, sec := { s.sec with
            sessions := s.sec.sessions ++ [(p, n, .handshake, 0)]
            secrets := s.sec.secrets ++ [(p, n, Config.dheSecret s.fresh share)] } } p 0x64 (Config.dheShare s.fresh ++ sig'))))) ∧
    (∀ n, s.session? p n = some .handshake → ∃ t, exec (.finish p n true) s = .next t ∧ t.session? p n = some .established ∧
      (∀ q m, (q, m) ≠ (p, n) → t.session? q m = s.session? q m) ∧ t.out.spdm = s.out.spdm ++ [(p, 0x65, [])]) ∧
    (∀ n, s.session? p n = some .established →
      exec (.heartbeat p n) s = .next (s.answer p 0x68 []) ∧
      (∃ t, exec (.keyUpdate p n) s = .next t ∧ (∀ q m, t.session? q m = s.session? q m) ∧ t.out.spdm = s.out.spdm ++ [(p, 0x69, [])]) ∧
      (∃ t, exec (.endSession p n) s = .next t ∧ t.session? p n = none ∧ (∀ q m, (q, m) ≠ (p, n) → t.session? q m = s.session? q m) ∧
        t.out.spdm = s.out.spdm ++ [(p, 0x6C, [])])) ∧
    (∀ n, s.session? p n ≠ some .established → ∀ i ∈ [Instr.heartbeat p n, Instr.keyUpdate p n, Instr.endSession p n],
      exec i s = .next (s.answer p 0x7F []))

/-! ### The store, programming and ageing -/

/-- R331, R332, R333: a record that is due begins with the body as it stands; written, it stands in the other bank with the next sequence number,
the bank's writes counted; a failed read-back repeats the write once, and a second one latches the store fault and leaves both banks. -/
def Obligations.RecordsAreWritten : Prop :=
  ∀ s : State, s.answers = true →
    (s.recordDue = true → s.store.writing = none → ∃ t, exec .configRecordWriteStart s = .next t ∧
      t.store = { s.store with writing := some (s.body, false), lastStart := s.clk.nanos.toNat, coalesced := false, urgent := false
                               carried := t.store.carried } ∧
      t = { s with store := t.store, host := { s.host with pkgs := t.host.pkgs } }) ∧
    (∀ p second, s.store.writing = some (p, second) →
      (∃ t, exec (.configRecordWriteDone true) s = .next t ∧ t.store.writing = none ∧ t.store.seq = s.store.seq + 1 ∧
        t.store.bankIsB = !s.store.bankIsB ∧
        (s.store.bankIsB = false → t.store.bankB = { seq := s.store.seq + 1, valid := true, body := p } ∧ t.store.bankA = s.store.bankA ∧
          t.store.writesB = s.store.writesB + 1) ∧
        (s.store.bankIsB = true → t.store.bankA = { seq := s.store.seq + 1, valid := true, body := p } ∧ t.store.bankB = s.store.bankB ∧
          t.store.writesA = s.store.writesA + 1)) ∧
      (second = false → exec (.configRecordWriteDone false) s = .next { s with store := { s.store with writing := some (p, true) } }) ∧
      (second = true → ∃ t, exec (.configRecordWriteDone false) s = .next t ∧ t.store.fault = true ∧ t.store.writing = none ∧ t.store.flush = [] ∧
        t.store.bankA = s.store.bankA ∧ t.store.bankB = s.store.bankB ∧ (∀ g ∈ t.host.pkgs, g.recorded = true)))

/-- R184, R190, R192, R194, R174, R187, R188, R195, R196: the oldest waiting package is staged where none is; a cycle of program and verify writes
its cells and goes on with the next; a facet whose 64 calibration MVMs are accepted holds their gains and thresholds, at age 0; failed columns
that find spares wait for a second programming, the rest retire the facet; a facet that a switch unmapped is free, or worn at its limit, with
the columns that a read-back found stuck mapped; and a shared table's copy ends.
The joining of R192 to R195 and what R174 leaves open are the model's reading (notes/assumptions/84, 119, 124). -/
def Obligations.FacetsAreProgrammed : Prop :=
  ∀ (s : State) (c tl f : Nat), s.fitted c = true →
    (∀ p g, s.apexUp = true → s.host.staging = false → (s.host.pkgs.zipIdx).find? (fun e => !e.1.refresh && !e.1.staged) = some (p, g) →
      (∀ q ∈ s.host.pkgs, q.refresh = false) → (∃ r ∈ p.recs, r.st ≠ .done) →
      ∃ t, exec .packageStagingStart s = .next t ∧ t.host = { s.host with staging := true } ∧ t = { s with host := t.host, chans := t.chans }) ∧
    (∀ v, (s.tile c tl).st = .programming → (s.tile c tl).pv = some v →
      ((s.tile c tl).dacsSound = true → ∃ t, exec (.pvCycleEnd c tl false) s = .next t ∧ t = { s with chans := t.chans } ∧
        (∀ d, d ≠ c → t.chan d = s.chan d) ∧ (∀ n, n ≠ tl → t.tile c n = s.tile c n) ∧
        t.tile c tl = { s.tile c tl with
          pv := some { v with cycle := v.cycle + 1 }, dacPv := .of (s.trim c tl).idle, st := if (s.tile c tl).wanted then .idle else .programming } ∧
        (v.why.reads = true → (t.chan c).arr.codes = (s.chan c).arr.codes) ∧
        (∀ g i r, v.why.reads = false → s.recOf c tl v = some (g, i, r) → (t.chan c).arr.codes =
          ((s.chan c).arr.pvCells (sget {} s.store.live.chans c).remap tl v.facet (v.cycle + 1) r.codes).codes)) ∧
      (∀ g i r o, s.recOf c tl v = some (g, i, r) → 1600 ≤ v.cycle → ∀ (x : ChanStore) (k : Calib) (out : List BlockCal × Bool),
        x = sget {} s.store.live.chans c →
        k = { codes := (s.chan c).arr.readCodes tl v.facet, remap := x.remap, tile := tl, facet := v.facet } → out = k.run o.errs (s.kappa c tl) →
        (o.failed = [] → out.2 = true → ∃ t, exec (.facetProgramDone c tl o) s = .next t ∧ (t.tile c tl).pv = none ∧ (t.tile c tl).st = .idle ∧
          t.facet c tl v.facet = { s.facet c tl v.facet with
            cal := out.1, env := envelopes k.codes, age := 0, due := false, overdue := false, needsPackage := false, drift := false, stuck := [] } ∧
          (∀ b, b < 8 → (t.chan c).block tl v.facet b = {})) ∧
        (¬ (o.failed = [] ∧ out.2 = true) → ∀ m, m = mapAllFailed c tl v.facet x (o.failed.map (fun e => (e.1, bnat e.2))) →
          ((v.second = true ∨ m = none) →
            ((∃ n ∈ s.freeFacets c tl, n ≠ v.facet) ∨ (∀ p ∈ s.host.pkgs, p.refresh = false) ∨ (∃ p, s.host.pkgs[g]? = some p ∧ p.refresh = true)) →
            ∃ t, exec (.facetProgramDone c tl o) s = .next t ∧ (t.facet c tl v.facet).st = .retired ∧ (t.tile c tl).pv = none) ∧
          (∀ y, v.second = false → m = some y → ∃ t p, exec (.facetProgramDone c tl o) s = .next t ∧ (t.tile c tl).pv = none ∧
            (sget {} t.store.live.chans c).remap = y.remap ∧ (sget {} t.store.live.chans c).badCols = y.badCols ∧
            t.host.pkgs[g]? = some p ∧ p.recs[i]? = some { r with st := .waiting, again := true })))) ∧
    ((s.facet c tl f).st = .mapped → mapNames (s.chan c).arr.map tl f = false → (s.tile c tl).run = none → f < 16 →
      ∀ m, m = mapAllFailed c tl f (sget {} s.store.live.chans c) ((s.facet c tl f).stuck.map (fun col => (col, 3))) →
      ∃ t, exec (.facetFreed c tl f) s = .next t ∧ t = { s with store := t.store, chans := t.chans, hub := t.hub } ∧
        (∀ y, m = some y → (sget {} t.store.live.chans c).remap = y.remap ∧ (sget {} t.store.live.chans c).badCols = y.badCols ∧
          t.facet c tl f = { s.facet c tl f with
            st := if 3000 ≤ (s.facet c tl f).count then .worn else .free, due := false, overdue := false, needsPackage := false, drift := false, stuck := [] }) ∧
        (m = none → (t.facet c tl f).st = .retired) ∧
        (∀ x, x < 16 → x ≠ f → t.facet c tl x = s.facet c tl x)) ∧
    ((s.chan c).arr.copying = true → ∃ t, exec (.sharedTablesCopyEnd c) s = .next t ∧
      InChan s t c (fun k => { k with arr := { k.arr with copying := false } }))

/-- R171, R172, R173, R196: each second of power every facet ages by the factor of its cluster's reading, and one that has reached
180 days at 85 °C is due; one due too long is overdue; a sound read-back of a facet still in its place becomes a package of one record, an
unsound one makes the facet need its package, and one whose logical facet has moved changes no package.
That every physical facet ages, and the argument of the report, are the model's (notes/assumptions/73, 77). -/
def Obligations.FacetsAgeAndAreRefreshed : Prop :=
  ∀ s : State,
    (s.apexUp = true → ∃ t, exec .ageAccrue s = .next t ∧ ∀ c tl f, c < s.channels → tl < 384 → f < 16 →
      t.facet c tl f = { s.facet c tl f with
        age := (s.facet c tl f).age + arrhenius (s.reading (9 * c + tl / 48))
        due := (s.facet c tl f).due || decide (refreshAge ≤ (s.facet c tl f).age + arrhenius (s.reading (9 * c + tl / 48))) }) ∧
    (∀ c tl f, s.fitted c = true → (s.facet c tl f).due = true → (s.facet c tl f).st = .mapped → ∃ t, exec (.refreshOverdue c tl f) s = .next t ∧
      t = { s with store := t.store } ∧ t.facet c tl f = { s.facet c tl f with overdue := true }) ∧
    (∀ c tl f l v rd (stuck : List Nat) (e : FMap) (codes : Sparse Nat), s.fitted c = true → (s.tile c tl).st = .programming →
      (s.tile c tl).pv = some v → v.why = .readback l → v.facet = f → 160 ≤ v.cycle → e = sget {} (s.chan c).arr.map (16 * tl + l) →
      codes = logicalCodes (sget {} s.store.live.chans c).remap tl f (readBack ((s.chan c).arr.readCodes tl f) rd) →
      ∃ t, exec (.refreshReadbackDone c tl f rd stuck) s = .next t ∧ (t.tile c tl).pv = none ∧
        (stuck ≠ [] → (t.facet c tl f).stuck = stuck) ∧ (stuck = [] → (t.facet c tl f).stuck = (s.facet c tl f).stuck) ∧
        ((e.phys ≠ f ∨ e.valid = false) → t.host = s.host ∧ (t.facet c tl f).needsPackage = (s.facet c tl f).needsPackage) ∧
        (e.phys = f → e.valid = true →
          ((readingsClose rd = true ∧ checksumsHold codes = true) → t.host = { s.host with pkgs := s.host.pkgs ++ [refreshPkg e c tl l f codes] }) ∧
          (¬ (readingsClose rd = true ∧ checksumsHold codes = true) → t.host = s.host ∧ (t.facet c tl f).needsPackage = true)))

/-! ### Checks, drains and tests -/

/-- R288, R290, R294, R295, R298, R300, R70, R346: a check whose blocks pass frees its bank, one whose blocks fail is run again, and a block that fails twice
drains the module; so does a residue mismatch, a failed test and a faulty DAC load; a reading that reaches 110 °C drains it without the
replacement flag; a drain's scan taints what was not confirmed, and with all written and closed the module is drained.
The moment of the thermal drain and the exact residual are the model's reading (notes/assumptions/40, 65, 68). -/
def Obligations.DetectedFailuresDrain : Prop :=
  (∀ (s : State) (c : Nat), s.fitted c = true →
    (∀ tl r n k failed, (s.tile c tl).bank0 = .full r n → r.why = .check k failed →
      let bad := ((List.range 8).filter (fun i => failed == 0 || nfld failed i i == 1)).filter
        (fun i => !blockPasses (s.facet c tl r.origin) (s.tile c tl).sums0 k i)
      (bad = [] → ∃ t, exec (.facetCheckResult c tl) s = .next t ∧ t = { s with chans := t.chans } ∧ t.tile c tl = (s.tile c tl).freeBank 0) ∧
      (bad ≠ [] → failed = 0 → s.failed = false → ∃ t, exec (.facetCheckResult c tl) s = .next t ∧ t = { s with chans := t.chans } ∧
        t.tile c tl = { (s.tile c tl).freeBank 0 with
          wantCheck := (k + 4 * (bad.map (fun i => 2 ^ i)).sum, r.lfacet) :: ((s.tile c tl).freeBank 0).wantCheck }) ∧
      (bad ≠ [] → failed ≠ 0 → s.integ.svc = .inService → ∃ t, exec (.facetCheckResult c tl) s = .next t ∧ Drains s t 1 c)) ∧
    (∀ fmt l, (s.chan c).check.residue.head? = some fmt → (s.chan c).check.isRotation = true → s.integ.svc = .inService →
      ((∀ x ∈ l, Sys2Proof.Machine.ResidueStep.agrees x = true) → ∃ t u, exec (.residueCheckPass c fmt l) s = .next t ∧ CountedIn s u c 0x73 ∧
        InChan u t c (fun k => { k with check := { k.check with residue := k.check.residue.drop 1 } })) ∧
      ((∃ x ∈ l, Sys2Proof.Machine.ResidueStep.agrees x = false) → ∃ t, exec (.residueCheckPass c fmt l) s = .next t ∧ Drains s t 3 c)) ∧
    (∀ x, (s.chan c).test.phase = .cooling → (s.chan c).test.heated + 1990000000 ≤ s.nowNs → s.integ.svc = .inService →
      (x.scan = false ∨ x.march = false ∨ (∃ d ∈ x.dacs, d.code ≠ d.read) ∨ (s.testChecks c x).2 = true) →
        ∃ t, exec (.testVerdict c x) s = .next t ∧ Drains s t 4 c) ∧
    (∀ tl v, (s.tile c tl).st = .programming → (s.tile c tl).pv = some v → s.integ.svc = .inService →
      ∃ t, exec (.pvCycleEnd c tl true) s = .next t ∧ Drains s t 8 c) ∧
    (∀ n r, s.apexUp = true → s.sensorFitted n = true → (s.sensor n).broken = false → s.departs n r = false → s.reading n < 1760 → 1760 ≤ r →
      s.integ.svc = .inService → ∃ t, exec (.sensorSample n r) s = .next t ∧ t.integ.svc = .draining ∧ t.integ.cause = 9 ∧ t.integ.channel = 0 ∧
        t.integ.thermal = true ∧ t.integ.replacement = s.integ.replacement ∧ t.integ.frame = s.frameN)) ∧
  (∀ s : State, s.integ.svc = .draining →
    (s.integ.scanDone = false → ∃ t, exec .taintScanDone s = .next t ∧ t.integ.scanDone = true ∧ t.integ.svc = .draining ∧
      ∀ raw, raw / 32768 < s.channels → (s.ctx raw).life = .open → (s.ctx raw).cacheBad = false →
        older (s.ctx raw).checkEpoch (s.integ.wm % 2 ^ 32) = false → (t.ctx raw).tainted = true) ∧
    (s.integ.scanDone = true → s.integ.retract = [] →
      (s.noneRunning = true → s.allClosed = true → s.integ.recordDone = true → ∃ t, exec .quiescence s = .next t ∧
        t = { s with integ := { s.integ with svc := .drained }, host := { s.host with fns := t.host.fns } } ∧
        ∀ n, t.fn n = if (s.fn n).st = .held then { s.fn n with st := .closed, openNext := true, ver := settle (s.fn n).drvMin (s.fn n).drvMax } else s.fn n) ∧
      (¬ (s.noneRunning = true ∧ s.allClosed = true ∧ s.integ.recordDone = true) → exec .quiescence s = .next s)))

/-- R304, R305, R306, R307: a channel falls due at its time; one that has waited 1,000 frames sheds work; heating ends with the lowest reading of its
sensors, once all are hot or its time has passed; and after the later phases a test whose scan, march, DAC steps and check vectors pass is
reported with that temperature and ends.
The places of result and temperature in the report, and the times of the phases, are the model's choice (notes/assumptions/67, 116). -/
def Obligations.TestsRunTheirPhases : Prop :=
  ∀ (s : State) (c : Nat), s.fitted c = true →
    (s.apexUp = true → (s.chan c).test.phase = .notDue → s.testDueAt c ≤ s.nowNs → ∃ t, exec (.testDue c) s = .next t ∧
      InChan s t c (fun k => { k with test := { k.test with phase := .due, waited := 0, shedding := false } })) ∧
    ((s.chan c).test.phase = .due → 1000 ≤ (s.chan c).test.waited → ∃ t, exec (.testShed c) s = .next t ∧
      InChan s t c (fun k => { k with test := { k.test with shedding := true } })) ∧
    ((s.chan c).test.phase = .running → s.heatDone c = true → ∃ (t : State) (m : Int), exec (.testHeatingEnd c) s = .next t ∧
      InChan s t c (fun k => { k with test := { k.test with phase := .cooling, heated := s.nowNs, hot := decide (85 * 16 ≤ m), temp := m } }) ∧
      (∀ k, k < 9 → m ≤ s.reading (9 * c + k)) ∧ (∃ k, k < 9 ∧ m = s.reading (9 * c + k))) ∧
    (∀ x, (s.chan c).test.phase = .cooling → (s.chan c).test.heated + 1990000000 ≤ s.nowNs →
      x.scan = true → x.march = true → (∀ d ∈ x.dacs, d.code = d.read) → (s.testChecks c x).2 = false →
      ∃ t u v, exec (.testVerdict c x) s = .next t ∧ v = { s with chans := v.chans } ∧ v = (s.testChecks c x).1 ∧
        Reported v u 6 1 c 0 (code 16 (s.chan c).test.temp) ∧ InChan u t c (fun k => { k with test := { k.test with phase := .passed } }))

/-! ### Temperature and power -/

/-- R343, R344, R345: a sample within 8 °C of its sound neighbours comes into use at its rate; one further off declares its sensor broken, and the
neighbours' median stands for it; a hot channel's level rises by one to 11 at most, a cool one's falls.
The median of an even count and the broken sensor's own sample are the model's reading (notes/assumptions/64, 65). -/
def Obligations.SensorsAndThermalLevels : Prop :=
  ∀ s : State, s.apexUp = true →
    (∀ (n : Nat) (r : Int), s.sensorFitted n = true → (s.sensor n).broken = false →
      (s.departs n r = false → ∃ t, exec (.sensorSample n r) s = .next t ∧
        t.sensor n = { (s.sensor n).paced r with reading := r, sampled := true }) ∧
      (s.departs n r = true → median2 (s.sound (s.neighbours n)) % 2 = 0 → ∃ t, exec (.sensorSample n r) s = .next t ∧
        (t.sensor n).broken = true ∧ (t.sensor n).reading = median2 (s.sound (s.neighbours n)) / 2)) ∧
    (∀ c, s.fitted c = true →
      (s.hotAt c = true → (s.chan c).thermal < 11 → ∃ t u, exec (.thermalLevelStep c) s = .next t ∧
        InChan s u c (fun k => { k with thermal := k.thermal + 1 }) ∧ Counted u t 0x82) ∧
      (s.hotAt c = true → 11 ≤ (s.chan c).thermal → exec (.thermalLevelStep c) s = .next s) ∧
      (s.hotAt c = false → s.coolAt c = true → ∃ t, exec (.thermalLevelStep c) s = .next t ∧
        InChan s t c (fun k => { k with thermal := k.thermal - 1 })) ∧
      (s.hotAt c = false → s.coolAt c = false → exec (.thermalLevelStep c) s = .next s))

/-- R336 to R339: the latest 10 ms of samples are kept; at each multiple of 100,000 ns the cap written last is in force, the level rises by one where the
100 µs average is above 110 % of it, or at a hundredth step the 10 ms average above it, falls by one where at two hundredth steps the 10 ms
average stood 2 W below it with no rise between, and else stands; the hundredth step above the cap at level 11 sets cap_not_held.
Which step is a hundredth one is the model's reading (notes/assumptions/66). -/
def Obligations.PowerIsMeteredAndHeld : Prop :=
  ∀ s : State, s.apexUp = true →
    (∀ p, exec (.powerMeterSample p) s = .next { s with therm := { s.therm with samples := (p :: s.therm.samples).take 10000 } }) ∧
    (s.clk.nanos.toNat % 100000 = 0 → s.therm.step ≠ s.clk.nanos.toNat / 100000 + 1 →
      ∀ cap a na b nb (hundredth fast slow low : Bool), cap = s.hub.capNext.getD s.hub.cap → a = (s.therm.samples.take 100).sum →
        na = (s.therm.samples.take 100).length → b = (s.therm.samples.take 10000).sum → nb = (s.therm.samples.take 10000).length →
        hundredth = (s.clk.nanos.toNat / 100000 % 100 == 0) → fast = decide (11 * (100 * cap * na) < 10 * a) → slow = decide (100 * cap * nb < b) →
        low = decide (b + 200 * nb ≤ 100 * cap * nb) →
        ∃ t, exec .controlStep s = .next t ∧ t.hub.cap = cap ∧ t.hub.capNext = none ∧ t.therm.step = s.clk.nanos.toNat / 100000 + 1 ∧
          t.therm.samples = s.therm.samples ∧ t.therm.sensors = s.therm.sensors ∧
          t.therm.level = (if (fast = true ∨ (hundredth = true ∧ slow = true)) ∧ s.therm.level < 11 then s.therm.level + 1
            else if hundredth = true ∧ low = true ∧ s.therm.prevLow = true ∧ s.therm.rose = false ∧ fast = false ∧ slow = false then s.therm.level - 1
            else s.therm.level) ∧
          (t.therm.capNotHeld = true ↔ (slow = true ∧ t.therm.level = 11 ∧ 99 ≤ s.therm.above11) ∨
            (s.therm.capNotHeld = true ∧ ¬ (slow = false ∧ 99 ≤ s.therm.under))))

/-! ### Supply, reset and service -/

/-- R360, R361, R362, R364, R323, R389, R392: where the supply, the pin and the boot go, and the link's training; an entry into a band is reported
with subclass 3 or 4 of class 4, each millisecond in it and each short PERST_N pulse counted; a link mode outside R243 is reported.
The arguments of the reports are the model's choice (notes/assumptions/80). -/
def Obligations.SupplyAndPinsMoveAndReport : Prop :=
  (∀ s : State,
    (s.pwr.supply = .off → exec .powerUp s = .next { s with pwr := { s.pwr with supply := .rising } }) ∧
    (s.pwr.supply = .on → s.pwr.band ≠ .normal → exec .supplyReturnToRange s = .next { s with pwr := { s.pwr with band := .normal } }) ∧
    (s.pwr.supply = .latched → exec .supplyBelow1V s = .next { s with pwr := { s.pwr with supply := .off } }) ∧
    (s.pwr.perstLow = false → s.pwr.supply = .on → (s.pwr.boot = .booted ∨ s.pwr.boot = .failed) →
      exec .perstAssert s = .next { s with pwr := { s.pwr with perstLow := true, window := true } }) ∧
    (s.pwr.perstLow = false → ¬ (s.pwr.supply = .on ∧ (s.pwr.boot = .booted ∨ s.pwr.boot = .failed)) →
      exec .perstAssert s = .next { s with pwr := { s.pwr with perstLow := true, link := none } }) ∧
    (∀ l, s.pwr.perstLow = true → s.pwr.window = false → ¬ (s.pwr.supply = .on ∧ s.pwr.boot = .warm) →
      exec (.perstRelease l) s = .next { s with pwr := { s.pwr with perstLow := false } }) ∧
    (s.pwr.supply = .on → (s.pwr.boot = .started ∨ s.pwr.boot = .warm) →
      exec .bootTimeout s = .next { s with pwr := { s.pwr with boot := .failed, failedBoots := s.pwr.failedBoots + 1 } }) ∧
    (∀ m : LinkMode, s.apexUp = true → s.pwr.boot ≠ .warm → s.pwr.perstLow = false → s.pwr.link = none → m.gen ∈ [4, 5, 6] →
      m.width ∈ [1, 2, 4] → exec (.linkTrained m) s = .next { s with pwr := { s.pwr with link := some m } })) ∧
  (∀ s : State,
    (s.pwr.supply = .on → s.pwr.band = .normal →
      (∃ t, exec .supplyLowEntry s = .next t ∧ Reported { s with pwr := { s.pwr with band := .low } } t 4 3 0 0 0) ∧
      (∃ t, exec .supplyHighEntry s = .next t ∧ Reported { s with pwr := { s.pwr with band := .high } } t 4 4 0 0 0)) ∧
    (s.pwr.supply = .on → s.pwr.band = .low → ∃ t, exec .supplyBandMs s = .next t ∧ Counted s t 0x8D) ∧
    (s.pwr.supply = .on → s.pwr.band = .high → ∃ t, exec .supplyBandMs s = .next t ∧ Counted s t 0x8E) ∧
    (s.pwr.window = true → ∃ t, exec .perstGlitch s = .next t ∧
      Counted { s with pwr := { s.pwr with perstLow := false, window := false } } t 0x8C) ∧
    (∀ m : LinkMode, s.apexUp = true → s.pwr.boot ≠ .warm → s.pwr.perstLow = false → s.pwr.link = none →
      ¬ (m.gen ∈ [4, 5, 6] ∧ m.width ∈ [1, 2, 4]) → ∃ t, exec (.linkTrained m) s = .next t ∧
        Reported { s with pwr := { s.pwr with link := some m } } t 5 3 0 (m.gen % 256 * 256 + m.width % 256) 0))

/-- R360, R220: a module that loses power, by undervoltage or overvoltage, keeps the store's banks, firmware slots and table store, and
the arrays' codes, and nothing else; what had left it stays out.
That what has left the module stays is the model's choice (notes/assumptions/74). -/
def Obligations.PowerLossKeepsArraysAndStore : Prop :=
  ∀ s : State, (s.pwr.supply = .on ∨ s.pwr.supply = .rising) →
    ∀ e ∈ [(Instr.powerLoss, Supply.off), (Instr.overvoltageShutdown, Supply.latched)],
      ∃ t, exec e.1 s = .next t ∧
        t = { pending := s.pending, variant := s.variant, out := s.out, fresh := s.fresh, chans := t.chans
              pwr := { supply := e.2, perstLow := s.pwr.perstLow }
              store := { bankA := s.store.bankA, bankB := s.store.bankB, writesA := s.store.writesA, writesB := s.store.writesB
                         fw0 := s.store.fw0, fw1 := s.store.fw1, fwDig0 := s.store.fwDig0, fwDig1 := s.store.fwDig1
                         tab0 := s.store.tab0, tab1 := s.store.tab1 } } ∧
        (∀ c, c < s.channels → t.chan c = { arr := { codes := (s.chan c).arr.codes } }) ∧
        (∀ c, s.channels ≤ c → t.chan c = {})

/-- R361, R85, R331, R323, R326, R378: power-good clears the counters, seeds each channel's generator with no zero, and takes the
newest valid record, or none; apex release unwraps the identity key, puts the stored settings in force and starts the tick logic; boot complete
ends the count of failed boots and takes the facet counts, and a latched replacement flag leads to drained.
The seed made non-zero, the PUF secret and what unwrapping yields are free values (notes/assumptions/13, 128). -/
def Obligations.PowerUpReachesBootComplete : Prop :=
  ∀ s : State,
    (∀ seeds, s.pwr.supply = .rising → ∃ t, exec (.powerGood seeds) s = .next t ∧ t.pwr.supply = .on ∧ t.clk = {} ∧
      (∀ c, c < s.channels → (t.chan c).seqr.rng ≠ 0 ∧ (seeds.getD c 0 ≠ 0 → (t.chan c).seqr.rng = seeds.getD c 0)) ∧
      (s.store.choose = none → t.pwr.boot = .romOnly ∧ t.pwr.recordOk = false) ∧
      (∀ b r, s.store.choose = some (b, r) → t.pwr.recordOk = true ∧ t.store.seq = r.seq ∧ t.store.bankIsB = b ∧
        t.store.live = { r.body.loaded with boots := r.body.boots + 1 } ∧ t.integ.replacement = r.body.replacement)) ∧
    (∀ gcmOk l, s.pwr.supply = .on → s.pwr.boot = .verifying → ∃ t, exec (.apexRelease gcmOk l) s = .next t ∧
      t.pwr.boot = .started ∧ t.pwr.keyOk = gcmOk ∧ t.sec.key = gcmOk ∧
      t.sec.keyBytes = (if gcmOk then Config.gcmUnwrap (wrapKey (Config.pufSecret s.store.live.helper)) s.store.live.wrappedKey else []) ∧
      t.clk = { s.clk with running := true, cfg := s.store.live.tickCfg, lastTick := s.clk.nanos.toNat, first := true } ∧
      t.hub.frac = s.store.live.checkFrac ∧ t.hub.cap = s.store.live.capW ∧ t.hub.period = s.store.live.periodH ∧
      t.hub.moduleId = s.store.live.moduleId) ∧
    (s.pwr.supply = .on → s.pwr.boot = .started → ∃ t, exec .bootComplete s = .next t ∧
      t.pwr = { s.pwr with boot := .booted, failedBoots := 0 } ∧
      t.integ = (if s.integ.replacement then { s.integ with svc := .drained } else s.integ) ∧
      (∀ c, c < s.channels → (t.chan c).capFacets = (sget {} s.store.live.chans c).facetCounts))

/-- R363, R287: service begins where the module starts and every condition holds, and only there; each channel's rotation starts anew. -/
def Obligations.ServiceBeginsWhereAllConditionsHold : Prop :=
  ∀ s : State,
    (s.integ.svc = .starting → EntryConditions s → ∃ t, exec .enterService s = .next t ∧ t.integ = { s.integ with svc := .inService } ∧
      t = { s with integ := t.integ, chans := t.chans, store := t.store } ∧
      (∀ c, c < s.channels → t.chan c = { s.chan c with
        check := { (s.chan c).check with i := 0, list := [], failed := false, isRotation := false } })) ∧
    (¬ (s.integ.svc = .starting ∧ EntryConditions s) → exec .enterService s = .next s)

/-- R364, R365, R375: after a warm reset the link is down, no role, function, ring, session or staged rule is left, no carried work and no
slot is bound, the module is starting, and the counters run on; when PERST_N rises the boot completes.
The fields beyond R364's table are the model's reading (notes/assumptions/75). -/
def Obligations.WarmResetClearsTheHostSide : Prop :=
  ∀ s : State,
    (∀ seeds, s.pwr.window = true → s.pwr.supply = .on → ∃ t, exec (.warmReset seeds) s = .next t ∧
      t.pwr.window = false ∧ t.pwr.link = none ∧ (t.pwr.boot = .warm ∨ t.pwr.boot = .romOnly) ∧
      t.clk.nanos = s.clk.nanos ∧ t.clk.frame = s.clk.frame ∧ t.clk.running = s.clk.running ∧
      t.host.fns = [] ∧ t.host.ports = [] ∧ t.host.staged = t.host.rules ∧ t.host.order = [] ∧ t.host.ownQueue = [] ∧ t.host.cpls = [] ∧
      t.hub.smbInstaller = true ∧ t.hub.setupDone = false ∧ t.sec.sessions = [] ∧ t.integ.svc = .starting ∧
      (∀ c, c < s.channels → (t.chan c).jobs = [] ∧ (∀ n, t.slot c n = {}))) ∧
    (∀ l, s.pwr.perstLow = true → s.pwr.window = false → s.pwr.supply = .on → s.pwr.boot = .warm →
      ∃ t, exec (.perstRelease l) s = .next t ∧ t.pwr.perstLow = false ∧ t.pwr.boot = .booted ∧ t.pwr.failedBoots = 0 ∧
        t.integ = (if s.integ.replacement then { s.integ with svc := .drained } else s.integ))

/-! ### Ticks and the parts of a frame -/

/-- R223, R224, R225: an edge within 1.0 µs of its time opens the frame 12 ns after it and means lock; another edge is a glitch, counted;
no edge by 1.0 µs past the period brings the internal generator's tick and holdover, reported; without TICK_IN the generator ticks at
the period. -/
def Obligations.TicksComeFromEdgeOrGenerator : Prop :=
  ∀ (s : State) (p : Nat), p = fld s.clk.cfg 19 0 * 1000 → s.clk.running = true → s.clk.due = none → s.clk.holdover = false →
    (bit s.clk.cfg 30 = true → s.clk.first = false → s.clk.lastTick + p ≤ s.clk.nanos.toNat + 1000 → s.clk.nanos.toNat ≤ s.clk.lastTick + p + 1000 →
      ∃ t, exec .tickInEdge s = .next t ∧ t = { s with clk := t.clk } ∧ t.clk.due = some (s.clk.nanos.toNat + 12) ∧ t.clk.locked = true ∧
        t.clk.noEdge = 0 ∧ t.clk.holdover = false ∧ t.clk.offset = (s.clk.nanos.toNat : Int) - ((s.clk.lastTick + p : Nat) : Int)) ∧
    (bit s.clk.cfg 30 = true → s.clk.first = false → s.clk.lastTick + p > s.clk.nanos.toNat + 1000 →
      ∃ t u, exec .tickInEdge s = .next t ∧ u = { s with clk := u.clk } ∧ u.clk.due = none ∧ u.clk.holdover = false ∧ Counted u t 0x50) ∧
    (bit s.clk.cfg 30 = true → s.clk.lastTick + p + 1000 ≤ s.clk.nanos.toNat →
      ∃ t, exec .holdoverTimeout s = .next t ∧ Reported { s with clk := { s.clk with
        due := some (s.clk.lastTick + p + 1000), locked := false, noEdge := min (s.clk.noEdge + 1) 255, holdover := true, rejoin := false, good := 0 } } t 1 1 0 0 0) ∧
    (bit s.clk.cfg 30 = false → s.clk.rejoin = false → s.clk.lastTick + p ≤ s.clk.nanos.toNat →
      ∃ t, exec .internalTick s = .next t ∧ t = { s with clk := t.clk } ∧ t.clk.due = some (s.clk.lastTick + p) ∧ t.clk.locked = false)

/-- R227, R229, R374: a due tick opens the frame at its timestamp: the frame counter advances, the nanosecond counter stands, the intake
begins, and a tick configuration that waited is in force. -/
def Obligations.TickOpensTheFrame : Prop :=
  ∀ (s : State) (ts : Nat), s.clk.due = some ts → ∃ t, exec .tick s = .next t ∧
    t.clk.frame = s.clk.frame + 1 ∧ t.clk.nanos = s.clk.nanos ∧ t.clk.lastTick = ts ∧ t.clk.due = none ∧ t.clk.phase = .intake ∧
    t.clk.cfg = s.clk.cfgNext.getD s.clk.cfg ∧ t.clk.cfgNext = none ∧ t.clk.running = s.clk.running ∧ t.clk.locked = s.clk.locked ∧
    t.pwr = s.pwr ∧ t.therm = s.therm

/-- R229, R230, R240: the parts of a frame follow one another: intake, compute, each channel's yield mark, the end of compute, and after the check slot the
emission; where the host port refuses writes at its close, every entry that waits is late and none is written; one held up is written first
in a later frame, at its ring's tail with the late mark, and counted. -/
def Obligations.FramePartsFollowAndLateEntriesAreWritten : Prop :=
  (∀ s : State,
    (∀ x, s.clk.running = true → s.clk.phase = .intake → ∃ t, exec (.intakeClose x) s = .next t ∧ t.clk = { s.clk with phase := .compute }) ∧
    ((s.clk.phase = .compute ∨ s.clk.phase = .yieldMark) → (∃ c, s.fitted c = true ∧ s.markDue c = true) → ∃ t, exec .yieldMark s = .next t ∧
      t = { s with clk := { s.clk with phase := .yieldMark }, chans := t.chans } ∧
      (∀ c, s.fitted c = true → s.markDue c = true → t.chan c = { s.chan c with sched := { (s.chan c).sched with marked := true } }) ∧
      (∀ c, (s.fitted c = false ∨ s.markDue c = false) → t.chan c = s.chan c)) ∧
    ((s.clk.phase = .compute ∨ s.clk.phase = .yieldMark) → ∃ t, exec .endOfCompute s = .next t ∧ t.clk = { s.clk with phase := .endOfCompute }) ∧
    (∀ refused, s.clk.phase = .checkDone → ∃ t, exec (.emissionClose refused) s = .next t ∧ t.clk = { s.clk with phase := .guard } ∧
      (refused = true → (s.integ.svc ≠ .draining ∨ s.integ.scanDone = true) →
        t.out.cpl = s.out.cpl ∧ t.host.cpls = s.host.cpls.map (fun e => { e with late := true })))) ∧
  (∀ (s : State) (e : Cpl), s.host.cpls = [e] → e.late = true → s.clk.phase ≠ .guard → s.integ.svc ≠ .draining → s.integ.retract = [] → e.reserved = true →
    s.dmaOk e.fn ((s.fn e.fn).cqRing e.cq).tailAddr 32 true = true →
      ∃ t, exec .lateCompletionWrite s = .next t ∧ t.host.cpls = [] ∧
        t.out = { s.out with cpl := s.out.cpl ++ [(e.fn, e.cq, ((s.fn e.fn).cqRing e.cq).count % ((s.fn e.fn).cqRing e.cq).size,
          e.bits ((s.fn e.fn).cqRing e.cq).phase s.integ.wm)] } ∧
        ((t.fn e.fn).cqRing e.cq).count = (((s.fn e.fn).cqRing e.cq).count + 1) % 2 ^ 32 ∧
        ((t.fn e.fn).cqRing e.cq).held = ((s.fn e.fn).cqRing e.cq).held - 1)

/-- R292: in its check slot each channel adds a rotation frame that it passed, all its checks run, to its list of the latest D; its own mark is the oldest of
D of them; the module's watermark is the lowest own mark of the fitted channels.
That a frame whose checks have not all run joins no list is the model's choice (notes/assumptions/105). -/
def Obligations.WatermarkIsTheLowestOwnMark : Prop :=
  ∀ s : State, s.clk.phase = .endOfCompute → ∃ t, exec .checkSlot s = .next t ∧ t.clk = { s.clk with phase := .checkDone } ∧
    t.host = s.host ∧ t.out = s.out ∧ t.store = s.store ∧
    (∀ c, c < s.channels →
      let k := s.chan c
      let l := (k.check.list ++ [s.frameN]).drop (k.check.list.length + 1 - s.rotation)
      (t.chan c).check =
        if k.check.isRotation = true ∧ k.check.failed = false ∧ k.checksRan = true then
          { k.check with list := l, i := (k.check.i + 1) % s.rotation
                         ownMark := if s.rotation ≤ l.length then l.headD k.check.ownMark else k.check.ownMark }
        else k.check) ∧
    (s.integ.svc = .inService → (∀ c, c < s.channels → t.integ.wm ≤ (t.chan c).check.ownMark) ∧
      (∃ c, c < s.channels ∧ t.integ.wm = (t.chan c).check.ownMark)) ∧
    (s.integ.svc ≠ .inService → t.integ.wm = s.integ.wm)

/-! ### Descriptors and contexts -/

/-- R254: a descriptor whose fetch the windows deny, or that returns no data, completes its position PROTECTION with WINDOW_DENIED, or
POISONED where the data came poisoned.
The causes are the model's reading (notes/assumptions/31). -/
def Obligations.FailedFetchesComplete : Prop :=
  ∀ e ∈ descriptorRows, ∀ (s : State) (fn sq pos : Nat) (f : Fetch), s.host.fetchQ.head? = some (fn, sq, pos) →
    ∀ st cause, (st, cause) ∈ (if s.dmaOk fn (((s.fn fn).sqRing sq).descAddr pos) 64 false = true ∧ s.hostSecure = true then
        (match f with | .data _ => [] | .ur | .ca => [(4, 0x11)] | .poison => [(3, 0x10)]) else [(4, 0x11)]) →
      ∃ t, exec (e.1 fn sq f) s = .next t ∧ t.host.fetchQ = s.host.fetchQ.drop 1 ∧
        Completed s t { fn := fn, cq := ((s.fn fn).sqRing sq).cq, ver := (s.fn fn).ver, status := st, cause := cause
                        frame := s.frameN, sq := sq, pos := pos }

/-- R18, R199, R201, R202, R211: a reset, release, query or state move that passes its checks takes its place behind the work of its
context that is under way, and a release makes the context releasing at once. -/
def Obligations.ContextWorkWaitsItsTurn : Prop :=
  ∀ e ∈ [(Instr.ctxReset, 3), (Instr.ctxRelease, 4), (Instr.stateGet, 5), (Instr.statePut, 6), (Instr.ctxQuery, 7)],
    ∀ (s : State) (fn sq pos : Nat) (d : BitVec 512) (j j0 : Job), Fetches s fn sq pos → j = s.newJob fn sq pos d → j.kind = e.2 →
      (fetchedFor s j).verdictOf j = none →
      (s.chan (j.ctx / 32768)).jobs.find? (fun x => x.ctx == j.ctx) = some j0 → j0.stage ≠ .ordered →
        ∃ t, exec (e.1 fn sq (.data d)) s = .next t ∧ (t.chan (j.ctx / 32768)).jobs = (s.chan (j.ctx / 32768)).jobs ++ [j] ∧
          t.host.fetchQ = s.host.fetchQ.drop 1 ∧ t.host.nextJob = s.host.nextJob + 1 ∧
          (e.2 = 4 → (t.ctx j.ctx).life = .releasing)

/-- R200, R202: a context that is free, of a class its function may use, with pages enough, opens as its descriptor says, its pages valid and zero; one
that is not free refuses it; a releasing context with no work left is free, its record as at reset and its sound pages back in the pool. -/
def Obligations.ContextsOpenAndAreFreed : Prop :=
  (∀ (s : State) (fn sq pos : Nat) (d : BitVec 512) (j : Job), Fetches s fn sq pos → j = s.newJob fn sq pos d → j.kind = 2 →
    (fetchedFor s j).verdictOf j = none →
    ((s.ctx j.ctx).life = .free → (s.ctx j.ctx).cacheBad = false → fld (sget 0 s.host.rules.rings fn) 33 32 ≤ fld d 337 336 →
      ∀ ps, (s.chan (j.ctx / 32768)).mem.allocPages s.light (fld d 351 345) = some ps →
        ∃ t, exec (.ctxOpen fn sq (.data d)) s = .next t ∧ Completed s t { s.jobCpl j 0 0 0 with frame := s.frameN } ∧
          t.ctx j.ctx = { life := .open, blobPages := fld d 351 345, hotPages := fld d 344 338, prio := fld d 337 336, cadence := fld d 335 320
                          program := fld d 319 314, routingBase := fld d 313 302, userTag := BitVec.ofNat 64 (fld d 287 224)
                          pages := ps.map (fun p => { valid := true, zero := true, page := p }) } ∧
          (∀ p, sget false (t.chan (j.ctx / 32768)).mem.usedPages p = true ↔ (p ∈ ps ∨ sget false (s.chan (j.ctx / 32768)).mem.usedPages p = true))) ∧
    ((s.ctx j.ctx).life ≠ .free → (s.ctx j.ctx).cacheBad = false →
      ∃ t, exec (.ctxOpen fn sq (.data d)) s = .next t ∧ Completed s t { s.jobCpl j 0 5 0x21 with frame := s.frameN })) ∧
  (∀ (s : State) (raw : Nat),
    ((s.ctx raw).life = .releasing → (s.chan (raw / 32768)).jobs.find? (fun j => j.ctx == raw) = none → ∃ t, exec (.ctxReleaseComplete raw) s = .next t ∧ t.ctx raw = {} ∧
      ∀ p ∈ (s.ctx raw).pages, p.valid = true → p.poisoned = false → sget false (t.chan (raw / 32768)).mem.usedPages p.page = false) ∧
    (∀ j, (s.chan (raw / 32768)).jobs.find? (fun j => j.ctx == raw) = some j → j.kind = 4 → j.verdict = none →
      (∀ x ∈ (s.chan (raw / 32768)).jobs, x.ctx = raw → x.id = j.id) →
      ∃ t, exec (.ctxReleaseComplete raw) s = .next t ∧ t.ctx raw = {} ∧
        (t.chan (raw / 32768)).jobs = (s.chan (raw / 32768)).jobs.filter (fun x => x.id ≠ j.id)))

/-- R201, R199, R211: with no earlier work of its context, a reset clears the record's poison, taint and epochs and makes every page zero,
a query writes the 128-byte record to the host, and a state move begins to copy.
That such work runs at once where nothing waits before it is the model's reading (notes/assumptions/89). -/
def Obligations.ContextWorkRunsInTurn : Prop :=
  ∀ (s : State) (fn sq pos : Nat) (d : BitVec 512) (j : Job), Fetches s fn sq pos → j = s.newJob fn sq pos d →
    (fetchedFor s j).verdictOf j = none → (∀ x ∈ (s.chan (j.ctx / 32768)).jobs, x.ctx ≠ j.ctx ∧ x.id < s.host.nextJob) →
    (s.ctx j.ctx).cacheBad = false → (∀ p ∈ (s.ctx j.ctx).pages, p.poisoned = false) →
    (j.kind = 3 → ∃ t, exec (.ctxReset fn sq (.data d)) s = .next t ∧
      t.ctx j.ctx = { s.ctx j.ctx with poisoned := false, tainted := false, clipped := 0, poisonGranule := 0, poisonSrc := 0, checkEpoch := 0
                                       peerMask := 0, peerEpoch := 0, sysBad := 0
                                       pages := (s.ctx j.ctx).pages.map (fun p => if p.valid then { p with zero := true } else p) }) ∧
    (j.kind = 7 → s.dmaOk fn j.addr 128 true = true → ∃ t, exec (.ctxQuery fn sq (.data d)) s = .next t ∧
      (j.addr, leBytes 128 (s.ctxBits j.ctx).toNat) ∈ t.out.writes ++ t.host.heldWrites ∧ (t.chan (j.ctx / 32768)).jobs = (s.chan (j.ctx / 32768)).jobs) ∧
    (∀ e ∈ [(Instr.stateGet, 5), (Instr.statePut, 6)], j.kind = e.2 → ∃ t, exec (e.1 fn sq (.data d)) s = .next t ∧
      { j with stage := .moving } ∈ (t.chan (j.ctx / 32768)).jobs)

/-- R211, R212, R218: a state get or put that nothing of its context waits behind ends and completes: PROTECTION where the ownership or the window no
longer holds or the host's data did not come, POISONED where the record was lost, the data came poisoned or a get met a poisoned granule,
whose offset it gives, else OK; a get sends the blob's bytes to the host, 64 at a time; a put of a whole blob clears poison and taint.
Writes made in the guard wait for the next intake, and lines of a wholly staged set go to LPDDR5X: the model's reading
(notes/assumptions/118, 127). -/
def Obligations.ContextWorkEnds : Prop :=
  ∀ (s : State) (c : Nat) (j : Job), (s.chan c).job? j.id = some j → j.ctx / 32768 = c → j.stage = .moving →
    (∀ x ∈ (s.chan c).jobs, x.ctx = j.ctx → x.id = j.id) →
    (∀ (data : ReadRes) (status cause detail : Nat),
      (status, cause, detail) =
        (if s.owns j.fn j.ctx = false then (4, 0x22, 0)
         else if (s.ctx j.ctx).poisonSrc = 3 then (3, 0x10, 0)
         else if s.dmaOk j.fn j.addr j.length (j.kind == 5) = false then (4, 0x11, 0)
         else if j.kind = 5 then
           match ((s.chan c).mem.readBlob (s.ctx j.ctx) (16 + j.id) j.blobOff j.length).poison with
           | [] => (0, 0, 0)
           | p :: ps => (3, 0x10, minOf p (p :: ps) * 64)
         else if s.hostSecure = false then (4, 0x11, 0)
         else match data with | .data _ => (0, 0, 0) | .ur | .ca => (4, 0x11, 0) | .poison => (3, 0x10, 0)) →
      ∃ t, exec (.stateTransferEnd c j.id data) s = .next t ∧ (t.chan c).jobs = (s.chan c).jobs.filter (fun x => x.id ≠ j.id) ∧
        Completed s t { s.jobCpl j c status cause with detail := detail }) ∧
    (s.owns j.fn j.ctx = true → (s.ctx j.ctx).poisonSrc ≠ 3 → j.kind = 5 → s.dmaOk j.fn j.addr j.length true = true → ∀ data r, r = (s.chan c).mem.readBlob (s.ctx j.ctx) (16 + j.id) j.blobOff j.length →
      r.poison = [] → ∃ t, exec (.stateTransferEnd c j.id data) s = .next t ∧
        t.out.writes ++ t.host.heldWrites = s.out.writes ++ s.host.heldWrites ++
          (List.range (j.length / 64)).map (fun i => (j.addr + 64 * i, (r.bytes.drop (64 * i)).take 64))) ∧
    (s.owns j.fn j.ctx = true → (s.ctx j.ctx).poisonSrc ≠ 3 → j.kind = 6 → s.dmaOk j.fn j.addr j.length false = true → s.hostSecure = true → ∀ b w,
      w = (s.chan c).mem.stageBlob (s.ctx j.ctx) (16 + j.id) j.blobOff (b.take j.length) →
      j.blobOff = 0 → j.length = w.ctx.blobPages * 65536 → ∃ t, exec (.stateTransferEnd c j.id (.data b)) s = .next t ∧
        t.ctx j.ctx = { w.ctx with poisoned := false, poisonGranule := 0, poisonSrc := 0, tainted := false, sysBad := 0 } ∧
        (∀ m, m = ((s.ctx j.ctx).linesOf j.blobOff j.length).foldl Mem.fitLine (w.mem.commitStaged (16 + j.id)) →
          (t.chan c).mem.cache = m.cache ∧ (t.chan c).mem.lpddr = m.lpddr))

/-! ### Inferences, loads and sampling runs -/

/-- R234, R235, R239, R254, R132: an inference that passes its checks while its channel admits its class, and whose charges fit, is admitted and charged;
one taken after the end of compute is deferred once; the input read in full stays with its job; at binding the slot runs the program from
its first instruction, registers zero, templates in b0 to b13, input and result in b14 and b15, the input in its window.
b15's address and the state of the slot are the model's reading (notes/assumptions/24, 30). -/
def Obligations.InferencesAreAdmittedAndBound : Prop :=
  (∀ (s u : State) (fn sq pos c : Nat) (d : BitVec 512) (j : Job), Fetches s fn sq pos → j = s.newJob fn sq pos d → j.kind = 1 →
    u = fetchedFor s j → u.verdictOf j = none → c = j.ctx / 32768 → (s.chan c).carriedCount < 8192 →
    ∀ ecc : List Ecc, (∀ e ∈ ecc, Sys2Proof.Machine.Ecc.lpddr e = false) →
    ((s.clk.phase = .compute ∨ s.clk.phase = .yieldMark) → s.integ.svc = .inService → (s.chan c).held = false →
      (s.chan c).sheds (u.ctx j.ctx).prio = false → (u.ctx j.ctx).prio < (s.chan c).sched.blockedFrom →
      ∀ q, q = u.chargeOf c { j with stage := .carried } →
        q.tile ≤ (s.chan c).sched.left.tile ∧ q.eng ≤ (s.chan c).sched.left.eng ∧ q.bytes ≤ (s.chan c).sched.left.bytes →
        ∃ t, exec (.infer fn sq { fetch := .data d, ecc := ecc }) s = .next t ∧
          (∃ x ∈ (t.chan c).jobs, x.id = j.id ∧ x.desc = d ∧ x.fn = fn ∧ x.sq = sq ∧ x.pos = pos ∧ x.stage = .admitted ∧ x.charge = q) ∧
          (t.chan c).sched.left = { tile := (s.chan c).sched.left.tile - q.tile, eng := (s.chan c).sched.left.eng - q.eng
                                    bytes := (s.chan c).sched.left.bytes - q.bytes } ∧
          t.host.fetchQ = s.host.fetchQ.drop 1) ∧
    (s.clk.phase ≠ .compute → s.clk.phase ≠ .yieldMark → ∃ t, exec (.infer fn sq { fetch := .data d, ecc := ecc }) s = .next t ∧
      (∃ x ∈ (t.chan c).jobs, x.id = j.id ∧ x.desc = d ∧ x.stage = .carried ∧ x.deferrals = 1) ∧
      (t.chan c).sched.left = (s.chan c).sched.left)) ∧
  ((∀ (s : State) (c : Nat) (j : Job) (b : List Byte), (s.chan c).job? j.id = some j → j.kind = 1 → j.stage = .admitted → j.input = none →
    s.inputOk j = true → s.hostSecure = true →
      ∃ t, exec (.inputReadDone c j.id (.data b)) s = .next t ∧ InChan s t c (fun k => { k with
        jobs := k.jobs.map (fun x => if x.id = j.id then { x with input := some (b.take (bdExtent (inputBd j.desc))) } else x) })) ∧
  (∀ (s : State) (c sl : Nat) (j : Job) (rest : List Job) (p : Prog) (n : Nat) (inp : List Byte),
    (s.clk.phase = .compute ∨ s.clk.phase = .yieldMark) → s.integ.svc = .inService → (s.chan c).held = false → sl < 16 →
    (s.slot c sl).job = none → s.bindable c = j :: rest → SoundRecord s j.ctx → (s.ctx j.ctx).poisonSrc ≠ 1 → (s.ctx j.ctx).poisonSrc ≠ 3 →
    sget 0 (s.chan c).seqr.current (s.ctx j.ctx).program = n + 1 → p = sget {} (s.chan c).seqr.images n → j.input = some inp →
      ∃ t, exec (.slotBind c sl) s = .next t ∧ t = { s with chans := t.chans } ∧ (∀ d, d ≠ c → t.chan d = s.chan d) ∧
        (∀ m, m ≠ sl → t.slot c m = s.slot c m) ∧
        (t.slot c sl).job = some j.id ∧ (t.slot c sl).image = n ∧ (t.slot c sl).pc = 0 ∧ (∀ r, (t.slot c sl).reg r = 0) ∧
        (t.slot c sl).outs = [] ∧
        (∀ i, i < 14 → (t.slot c sl).bd i = p.templates.getD i 0) ∧ (t.slot c sl).bd 14 = inputBd j.desc ∧
        (t.slot c sl).bd 15 = resultBd j.desc ∧
        (∀ a, sget 0 (t.slot c sl).win a = if a < inp.length then inp.getD a 0 else sget 0 (s.slot c sl).win a) ∧
        (t.chan c).jobs = (s.chan c).jobs.map (fun x => if x.id = j.id then { x with stage := .bound sl } else x)))

/-- R184, R130, R131, R397: a weight package that passes every check waits its turn after those already there; a program package that passes
enters every program under its number; a sampling run starts with its channel's buffer empty, is refused DEFERRED while another runs there,
and ends once its frames are over with the records it dropped.
A program package comes as a list, and the count of waiting packages is the model's reading (notes/assumptions/32, 33). -/
def Obligations.PackagesProgramsAndRunsAreTaken : Prop :=
  (∀ (s u : State) (fn sq pos : Nat) (d : BitVec 512) (j : Job), Fetches s fn sq pos → j = s.newJob fn sq pos d → u = s.popFetch.countJob →
    u.verdictOf j = none →
    (∀ (b : List Byte) (sigOk : Bool), j.kind = 8 → (s.host.pkgs.filter (fun p => !p.refresh)).length < 5 → s.store.waiting.length < 256 →
      s.store.fault = false → s.dmaOk fn j.addr (fld d 351 312) false = true → u.pkgFault (b.take (fld d 351 312)) sigOk = .none →
      ∃ t p, exec (.loadWeights fn sq (.data d) (.data b) sigOk) s = .next t ∧ t.host.pkgs = s.host.pkgs ++ [p] ∧ p.job = j.id ∧ p.fn = fn ∧
        p.digest = Config.shake256 (b.take (fld d 351 312)) ∧ p.staged = false ∧ p.refresh = false ∧ t.host.jobs = s.host.jobs ++ [j]) ∧
    (∀ (l : List ProgFill), j.kind = 9 → s.store.waiting.length < 256 → s.dmaOk fn j.addr (fld d 351 312) false = true →
      u.progsFault l = none → (∀ c, c < s.channels → ((u.enterProgs l).chan c).seqr.wordsHeld ≤ 32768) →
      ∃ t, exec (.loadProgram fn sq (.data d) l true) s = .next t ∧ Completed s t (s.jobCpl j 0 0 0) ∧
        (∀ c, (t.chan c).seqr = ((u.enterProgs l).chan c).seqr)) ∧
    (j.kind = 10 → (s.chan (fld d 346 344)).dbg.sample = none →
      ∃ t, exec (.sample fn sq (.data d)) s = .next t ∧ (t.chan (fld d 346 344)).dbg.sample = some { job := j.id } ∧
        t.host.jobs = s.host.jobs ++ [j]) ∧
    (j.kind = 10 → (s.chan (fld d 346 344)).dbg.sample ≠ none →
      ∃ t, exec (.sample fn sq (.data d)) s = .next t ∧ Completed s t (s.jobCpl j 0 1 0x26))) ∧
  (∀ (s : State) (c : Nat) (r : Sampling) (j : Job), (s.chan c).dbg.sample = some r → r.started = true → r.die = [] →
    s.host.jobs.find? (fun x => x.id == r.job) = some j → r.startFrame + fld j.desc 311 296 ≤ s.frameN →
      ∃ t, exec (.sampleRunEnd c) s = .next t ∧ (t.chan c).dbg.sample = none ∧
        t.host.jobs = s.host.jobs.filter (fun x => x.id ≠ r.job) ∧
        Completed s t { s.jobCpl j 0 0 0 with detail := min r.dropped (2 ^ 32 - 1) })
/-! ### The sequencer: blocking, starting, committing -/

/-- R272, R273, R276, R158, R237: a wait on a vertex that has its threshold goes on, taking it where it consumes, else the slot waits
behind the others; a bar blocks its slot at the copy's generation; an xch.rcv takes the oldest message of its port or blocks behind the
others; an unconditional yield leaves the slot to be resumed. -/
def Obligations.WaitsBlockTheirSlots : Prop :=
  ∀ (s : State) (c sl : Nat) (w : Word), NoGroups s c sl →
    (Issues s c sl 0x59 w → (s.chan c).linkOf (fld w 47 36) = none →
      ∀ thr, thr = (((s.slot c sl).reg (fld w 35 31)).toNat + fld w 15 0) % 2 ^ 32 →
      (((s.chan c).vtx (fld w 47 36)).passes thr (bit w 55) = true → ∃ t, exec (.wait c sl) s = .next t ∧ (t.slot c sl).block = .none ∧
        (t.slot c sl).pc = (s.slot c sl).pc + 1 ∧ (t.slot c sl).outs = (s.slot c sl).outs ∧
        ((t.chan c).vtx (fld w 47 36)).value = ((s.chan c).vtx (fld w 47 36)).value - (if bit w 55 then thr else 0)) ∧
      (((s.chan c).vtx (fld w 47 36)).passes thr (bit w 55) = false → ∃ t, exec (.wait c sl) s = .next t ∧
        (t.slot c sl).block = .wait (fld w 47 36) thr (bit w 55) ∧ (t.slot c sl).pc = (s.slot c sl).pc + 1 ∧
        (t.chan c).vtx (fld w 47 36) = { (s.chan c).vtx (fld w 47 36) with
          waiters := ((s.chan c).vtx (fld w 47 36)).waiters ++ [{ slot := sl, thr := thr, consume := bit w 55 }] })) ∧
    (Issues s c sl 0x5A w → ((s.chan c).barrier (fld w 47 40)).valid = true → ∃ t, exec (.bar c sl) s = .next t ∧
      (t.slot c sl).block = .bar (fld w 47 40) ((s.chan c).barrier (fld w 47 40)).gen.toNat ∧
      (t.slot c sl).outs = (s.slot c sl).outs ++ [s.entryOf c sl w]) ∧
    (Issues s c sl 0x49 w → State.operandsBad (s.issued c sl w) c sl (s.entryOf c sl w) = none →
      ∀ x, x = sget {} (s.chan c).seqr.ports (fld w 34 27) →
      (x.msgs = [] → ∃ t, exec (.xchRcv c sl) s = .next t ∧ (t.slot c sl).block = .xrcv (fld w 34 27) ∧
        (t.slot c sl).outs = (s.slot c sl).outs ++ [s.entryOf c sl w] ∧
        sget {} (t.chan c).seqr.ports (fld w 34 27) = { x with waiters := x.waiters ++ [sl] }) ∧
      (∀ m l, x.msgs = m :: l → x.waiters = [] → m.bytes.length ≤ dataBytes ((s.slot c sl).bd (fld w 47 44)) →
        (∀ o ∈ (s.slot c sl).outs, o.seq < (s.chan c).seqr.nextSeq) → ∃ t, exec (.xchRcv c sl) s = .next t ∧ (t.slot c sl).block = .none ∧
        (t.slot c sl).outs = (s.slot c sl).outs ++ [{ s.entryOf c sl w with ready := true, msg := some m }])) ∧
    (Issues s c sl 0x60 w → bit w 55 = false → ∃ t, exec (.yield c sl) s = .next t ∧ (t.slot c sl).block = .yield ∧
      (t.slot c sl).sinceYield = 0 ∧ (t.slot c sl).pc = (s.slot c sl).pc + 1 ∧
      (∀ j ∈ (s.chan c).jobs, j.id = (s.slot c sl).job.getD 0 → { j with stage := .yielded sl, askYield := false } ∈ (t.chan c).jobs))

/-- R138, R139, R217: a unit starts an instruction of a slot whose earlier instructions it depends on have completed: it is marked, and
nothing else happens yet; one that would read poison ends its inference POISONED.
The time of a start is the sender's choice (notes/assumptions/5). -/
def Obligations.UnitsStartInstructions : Prop :=
  ∀ (s : State) (c sl : Nat) (o : Outst), (s.slot c sl).out? o.seq = some o → s.canStart c sl o = true → o.ecc = [] →
    (opOf o.word = 0x39 ∨ (opOf o.word = 0x28 ∧ bit o.word 55 = false) ∨ (opOf o.word = 0x58 ∧ (s.chan c).linkOf (fld o.word 47 36) = none)) →
    ((s.slot c sl).readsPoisoned o.word = false → poisonIn (s.chan c) (s.slot c sl) ((s.chan c).readsOf c sl o) = .none →
      ∃ t, exec (.unitStart c sl o.seq []) s = .next t ∧ t = { s with chans := t.chans } ∧ (∀ d, d ≠ c → t.chan d = s.chan d) ∧
        (∀ n, n ≠ sl → t.slot c n = s.slot c n) ∧
        t.slot c sl = { s.slot c sl with outs := (s.slot c sl).outs.map (fun e => if e.seq = o.seq then
          { e with started := true, startedAt := s.clk.nanos.toNat, gen := s.liveGen c, setWait := false } else e) }) ∧
    ((s.slot c sl).readsPoisoned o.word = false → ∀ p, p = poisonIn (s.chan c) (s.slot c sl) ((s.chan c).readsOf c sl o) → p ≠ .none →
      exec (.unitStart c sl o.seq []) s = .next (s.endInf c sl 3 0x10 o.idx p))

/-- R160, R161, R212, R218, R261: a halted inference with nothing outstanding and no group or record left, whose context is still owned
and sound, writes its results row by row in order, then its record: one more inference, the frame, status OK; the slot is free and the
job gone. -/
def Obligations.CommitsWriteResultsThenState : Prop :=
  ∀ (s : State) (c sl : Nat) (j : Job), (s.slot c sl).job = some j.id → (s.chan c).job? j.id = some j → c = j.ctx / 32768 →
    (s.slot c sl).block = .halt → (s.slot c sl).outs = [] → (∀ h, h < 4 → ((s.slot c sl).handle h).kind = .closed) →
    (∀ e ∈ (s.chan c).seqr.spill, e.1 / 16 ≠ sl) → SoundRecord s j.ctx → (s.ctx j.ctx).poisonSrc ≠ 3 → s.owns j.fn j.ctx = true →
    (s.slot c sl).emitPoison = false → (∀ e ∈ (s.slot c sl).emitList j, s.dmaOk j.fn e.1 e.2.length true = true) →
    (∀ x ∈ (s.chan c).jobs, x.ctx = j.ctx → x.id = j.id) →
      ∃ t, exec (.inferenceCommit c sl) s = .next t ∧
        t.out.writes ++ t.host.heldWrites = s.out.writes ++ s.host.heldWrites ++ (s.slot c sl).emitList j ∧
        (t.slot c sl).job = none ∧ (t.chan c).jobs = (s.chan c).jobs.filter (fun x => x.id ≠ j.id) ∧
        (t.ctx j.ctx).inferences = ((s.ctx j.ctx).inferences + 1) % 2 ^ 48 ∧
        (t.ctx j.ctx).lastFrame = s.frameN % 2 ^ 48 ∧ (t.ctx j.ctx).checkEpoch = s.frameN % 2 ^ 32 ∧
        (t.ctx j.ctx).lastStatus = 0 ∧ (t.ctx j.ctx).lastCause = 0 ∧
        (t.ctx j.ctx).clipped = min ((s.ctx j.ctx).clipped + (s.slot c sl).clipped) (2 ^ 32 - 1) ∧
        Completed s t (s.infCpl c sl j 0 0 (s.slot c sl).haltCode)

/-! ### Tiles, groups and lookback rows -/

/-- R58, R60, R69, R78: an idle tile with no reference MVM or check owed serves a request of the facet it holds while fewer than 16 were
served in a row or none waits for another: it computes into the bank not filled last, within the throttle's limit; with requests for
other facets only, it begins to switch; and once switched it holds the facet at its trimmed read bias.
Ties and the charge of a switch are the model's reading (notes/assumptions/42, 46). -/
def Obligations.TilesServeTheirRequests : Prop :=
  ∀ (s : State) (c tl : Nat), s.fitted c = true → s.failed = false →
    ((s.tile c tl).st = .idle → (s.tile c tl).wantRef = false → (s.tile c tl).wantCheck = [] →
      (∀ r ∈ (s.tile c tl).queue, s.codesReady c r = true) →
      ((s.tile c tl).nextBank = .free → (s.chan c).computing < s.tileLimit c →
        (∃ r ∈ (s.tile c tl).queue, (s.chan c).physOf tl r.lfacet = (s.tile c tl).held) →
        ((s.tile c tl).served < 16 ∨ ∀ r ∈ (s.tile c tl).queue, (s.chan c).physOf tl r.lfacet = (s.tile c tl).held) →
        ∃ t r run, exec (.tileGrant c tl) s = .next t ∧ r ∈ (s.tile c tl).queue ∧ (s.chan c).physOf tl r.lfacet = (s.tile c tl).held ∧
          (t.tile c tl).st = .computing ∧ (t.tile c tl).run = some run ∧ run.req.id = r.id ∧ run.facet = (s.tile c tl).held ∧
          (t.tile c tl).queue = (s.tile c tl).queue.filter (fun q => q.id ≠ r.id) ∧
          (t.tile c tl).lastBank = (if (s.tile c tl).lastBank = 0 then 1 else 0)) ∧
      ((s.tile c tl).queue ≠ [] → (∀ r ∈ (s.tile c tl).queue, (s.chan c).physOf tl r.lfacet ≠ (s.tile c tl).held) →
        ∃ t r, exec (.tileGrant c tl) s = .next t ∧ r ∈ (s.tile c tl).queue ∧
          t.tile c tl = { s.tile c tl with st := .switching ((s.chan c).physOf tl r.lfacet) })) ∧
    (∀ f, (s.tile c tl).st = .switching f → (s.tile c tl).pv = none → ∃ t, exec (.facetSwitchDone c tl) s = .next t ∧
      t = { s with chans := t.chans } ∧
      t.tile c tl = { s.tile c tl with st := .idle, held := f, served := 0, dacRead := .of ((s.trim c tl).read.getD f 0)
                                       wantRef := (s.tile c tl).wantRef || (s.chan c).arr.cold.contains (tl / 48) })

/-- R74, R78, R80, R84, R85: an MVM of a group that ends with no saturated lane and no excursion leaves its 1,024 lane sums and eight
checksums in its bank and its tile idle; the bank drains into the handle's group with the channel's next draw, one contribution more,
and is free.
One advance of the generator for a contribution is the model's reading (notes/assumptions/43). -/
def Obligations.BanksHoldAndDrainTheirSums : Prop :=
  (∀ (s : State) (c tl : Nat) (err : List ConvErr) (r : Run) (sl seq h : Nat) (o : MvmOut), s.fitted c = true → (s.tile c tl).st = .computing →
    (s.tile c tl).run = some r → (s.tile c tl).pv = none → r.req.why = .work sl seq h → bit r.req.word 54 = true → r.req.r < 2 →
    r.req.discard = false → s.reqAlive c r.req = true → (s.tile c tl).dacsSound = true →
    o = runMvm ((s.chan c).arr.readCodes tl r.facet) (sget {} s.store.live.chans c).remap tl r.facet r.req.codes r.req.w r.req.p r.req.r r.gains err →
    o.satLanes = 0 →
    (∀ b, b < 8 → ∀ v ∈ (o.sums.drop (128 * b)).take 128, aboveEnvelope v ((s.facet c tl r.facet).env.getD b 15) 4 (fullScale r.req.codes) = false) →
      ∃ t, exec (.mvmComplete c tl err false) s = .next t ∧ t = { s with chans := t.chans } ∧ (t.tile c tl).st = .idle ∧ (t.tile c tl).run = none ∧
        (if r.bank = 0 then (t.tile c tl).bank0 = .full r.req false ∧ (t.tile c tl).sums0 = o.sums ++ o.checks
         else (t.tile c tl).bank1 = .full r.req false ∧ (t.tile c tl).sums1 = o.sums ++ o.checks)) ∧
  (∀ (s : State) (c tl sl seq h i : Nat) (q : Req) (sat : Bool), (s.tile c tl).bank0 = .full q sat → q.why = .work sl seq h → bit q.word 54 = true →
    s.reqAlive c q = true → s.drainTurn c tl 0 q = true → ((s.slot c sl).handle h).phys = some i → ((s.slot c sl).handle h).drained < s.depthOf c sl →
      ∃ t, exec (.bankDrain c tl 0) s = .next t ∧ t = { s with chans := t.chans } ∧ (t.tile c tl).bank0 = .free ∧
        (t.chan c).seqr.rng = advance64 ((s.chan c).seqr.rngNext.getD (s.chan c).seqr.rng) ∧
        (t.chan c).group i = ((s.chan c).group i).addTo (t.chan c).seqr.rng ((s.tile c tl).sums0.take bankLanes) ∧
        ((t.slot c sl).handle h).drained = ((s.slot c sl).handle h).drained + 1)

/-- R79, R81, R82, R83: a group at its depth with a contribution still named moves to a record and back into the lowest free group with
its sums, its count of drained contributions at zero; the slot that has waited longest takes the groups it waits for once as many are free,
all at once, and until then nothing.
That they come all at once is the model's reading (notes/assumptions/120). -/
def Obligations.GroupsSpillAndReturn : Prop :=
  ∀ (s : State) (c sl h : Nat) (x : Handle), x = (s.slot c sl).handle h →
    (∀ i, (s.slot c sl).job.isSome = true → x.kind ≠ .closed → x.phys = some i → x.precise = false → i < 16 → s.depthOf c sl ≤ x.drained →
      x.drained < x.named → (s.chan c).quotaShort sl = false → (s.chan c).seqr.groupQ = [] →
      ∃ t i', exec (.autoSpill c sl h) s = .next t ∧ ((t.slot c sl).handle h).phys = some i' ∧ i' ≤ i ∧
        ((t.chan c).group i').sums = ((s.chan c).group i).sums ∧ ((t.chan c).group i').holder = some (sl, h) ∧
        ((t.slot c sl).handle h).drained = 0 ∧ ((t.slot c sl).handle h).named = x.named - x.drained) ∧
    (∀ (w : GWait) rest needs, s.fitted c = true → (s.chan c).seqr.groupQ = w :: rest → w.slot = sl → needs = (s.chan c).groupNeeds sl →
      ((s.chan c).freeGroups < needs.length → exec (.groupGrant c) s = .next s) ∧
      (needs.length ≤ (s.chan c).freeGroups →
        (∀ a ∈ needs, ∃ n, ((s.slot c sl).handle a).record = some n ∧ ((s.chan c).record n).precise = false) →
        (∀ a ∈ needs, ∀ b ∈ needs, ((s.slot c sl).handle a).record = ((s.slot c sl).handle b).record → a = b) →
        ∃ t, exec (.groupGrant c) s = .next t ∧ (t.chan c).seqr.groupQ = (s.chan c).seqr.groupQ.filter (fun e => e.slot ≠ sl) ∧
          ∀ a ∈ needs, ∃ i, ((t.slot c sl).handle a).phys = some i ∧ ((t.slot c sl).handle a).record = none ∧
            ∀ n, ((s.slot c sl).handle a).record = some n → ((t.chan c).group i).sums = ((s.chan c).record n).sums))

/-- R103, R104, R105, R107: a lookback row whose codes stand is done and its instruction's result ready; a row to be replayed waits for its
new codes; and once these are written it is done too.
Which instruction a row streams to is the model's reading (notes/assumptions/36). -/
def Obligations.LookbackRowsGetTheirVerdict : Prop :=
  ∀ (s : State) (c sl seq : Nat) (o : Outst) (r : PRow), (s.slot c sl).out? seq = some o → (s.slot c sl).prowOf seq = some r →
    r.done = false →
    (∀ v, v = lookbackVerdict r.thr r.clipped r.largest (qset o).qmax r.codes.length → o.started = true → r.replaying = false →
      (s.slot c sl).outs.any (fun e => streams e o) = false → ∃ t, exec (.lookbackVerdict c sl seq) s = .next t ∧
        (v = 0 → { r with done := true, replaying := false, granted := [] } ∈ (t.slot c sl).prows ∧
          (∀ p ∈ (t.slot c sl).prows, p.key ≠ r.key → p ∈ (s.slot c sl).prows) ∧
          (t.slot c sl).outs = (s.slot c sl).outs.map (fun e => if e.seq = o.seq then { e with ready := true } else e)) ∧
        (v ≠ 0 → (t.slot c sl).prows = (s.slot c sl).prows.map (fun p => if p.key = r.key then { p with replaying := true } else p))) ∧
    (r.replaying = true → ∃ t, exec (.requantDone c sl seq) s = .next t ∧
      { r with done := true, replaying := false, granted := [] } ∈ (t.slot c sl).prows ∧
      (∀ p ∈ (t.slot c sl).prows, p.key ≠ r.key → p ∈ (s.slot c sl).prows))

/-! ### Streams and memory errors -/

/-- R118, R119, R120, R209, R214, R216: a waiting stream whose tensor fits takes its space; each arrival brings the next weight block
of the tensor in turn; a miss that waited for its set starts once the set has a way; and the scrubber poisons and reports an uncached granule it cannot
correct, and leaves a sound one alone.
The unit of arrival and the cache's index are the model's (notes/assumptions/16, 47). -/
def Obligations.StreamsAndScrubsGoOn : Prop :=
  ∀ (s : State) (c : Nat), s.fitted c = true →
    (∀ r, (s.chan c).seqr.streams.find? (fun r => r.waiting) = some r → usedSpace (s.chan c).seqr.streams + r.space ≤ reserveBytes →
      ∃ t, exec (.weightStreamStart c) s = .next t ∧ InChan s t c (fun k => { k with seqr := { k.seqr with
        streams := k.seqr.streams.map (fun q => if q = r then { q with waiting := false } else q) } })) ∧
    (∀ r, (s.chan c).seqr.streams.find? (fun r => !r.waiting && decide (r.arrived < r.blocks)) = some r →
      (∀ g ∈ r.blockGranules r.arrived, sget false (s.chan c).copy1Poison g = false) →
      ∃ t, exec (.weightBlockArrival c r.base []) s = .next t ∧ t = { s with chans := t.chans } ∧
        { r with arrived := r.arrived + 1 } ∈ (t.chan c).seqr.streams ∧ (t.chan c).seqr.streams.length = (s.chan c).seqr.streams.length) ∧
    (∀ sl o, (s.slot c sl).out? o.seq = some o → o.setWait = true → o.started = false → opOf o.word = 0x40 → bit o.word 55 = false →
      ∀ f, f = Fill.all (s.chan c).mem (s.ctx (s.slotCtx c sl)) true (o.bd (fld o.word 47 44)) → f.full = false → f.wait = false →
      ∃ t, exec (.cacheSetWaitEnd c sl o.seq) s = .next t ∧ (t.chan c).mem = f.mem ∧
        (t.slot c sl).outs = (s.slot c sl).outs.map (fun e => if e.seq = o.seq then
          { o with started := true, startedAt := s.clk.nanos.toNat, gen := s.liveGen c, setWait := false } else e)) ∧
    (∀ g, s.granuleCached c g = true → ∀ ecc, exec (.patrolScrub c g ecc) s = .next s) ∧
    (∀ g, s.granuleCached c g = false →
      exec (.patrolScrub c g []) s = .next s ∧
      (sget false (s.chan c).mem.poison g = false → secondCopy s.light + 536870912 ≤ 64 * g → 64 * g < systemArea s.light →
        ∃ t u, exec (.patrolScrub c g [.double g]) s = .next t ∧ Reported u t 2 2 c (64 * g) 0 ∧
          (∀ n, sget false (u.chan c).mem.poison n = (decide (n = g) || sget false (s.chan c).mem.poison n)) ∧
          (∀ d, d ≠ c → u.chan d = s.chan d)))

/-! ### Exchange, experts, vertices and barriers -/

/-- R14, R158, R126, R147: a message that has crossed the chord and that its port has room for lands there behind the others and leaves the way; a part that arrives at the
channel holding its expert, the first of its set still on its way, joins the queue of the tile that holds it; a reply fills the handle
that waits for it and its instruction has its result; and while a control message waits at a port of the chord, the next input in turn is
served and no exchange message crosses.
The layout of the resident section is a free function (notes/assumptions/17, 44). -/
def Obligations.MessagesAndExpertsArrive : Prop :=
  ∀ (s : State) (c : Nat),
    (∀ (m : Sending) (p : XPort), (s.chan c).seqr.sending.find? (fun x => x.slot == m.slot && x.seq == m.seq) = some m → m.remote = none →
      p = sget {} (s.chan m.dst).seqr.ports m.port → (s.chan m.dst).held = false → p.msgs.length < 4 →
      (s.chan m.dst).regionUsed + m.bytes.length ≤ 524288 → p.waiters = [] → m.flits = 0 →
      ∃ t, exec (.xchMessageDelivered c m.slot m.seq) s = .next t ∧
        (t.chan c).seqr.sending = (s.chan c).seqr.sending.filter (fun x => !(x.slot == m.slot && x.seq == m.seq)) ∧
        sget {} (t.chan m.dst).seqr.ports m.port = { p with msgs := p.msgs ++ [{ bytes := m.bytes }] }) ∧
    (∀ (e : ExpReq) (x l l' : Nat) (col : List (BitVec 16)), s.exp? c e.id = some e → e.peer = none → e.id < 2 ^ 48 → e.dst = c → e.arrived = false → e.flits = 0 →
      (s.chan e.home).seqr.experts.find? (fun y => !y.arrived && y.sameSet e) = some e → s.fitted c = true → (s.chan c).held = false →
      Config.resident (s.chan c).tables.residents e.expert e.part = some (x, l, col) → (s.chan c).copiesOf x l = [(x, l')] →
      ∃ t r, exec (.expertRequestArrival c e.id) s = .next t ∧ (t.tile c x).queue = (s.tile c x).queue ++ [r] ∧ r.why = .expert e.id ∧
        r.lfacet = l' ∧ r.codes = e.codes ∧ r.word = e.word ∧ r.r = 1 ∧
        { e with arrived := true, colScale := col, left := 1 } ∈ (t.chan (e.id % 8)).seqr.experts) ∧
    (∀ (e : ExpReq) (row : List (BitVec 16)), s.exp? c e.id = some e → e.reply = some row → e.home = c → e.peer = none → e.flits = 0 →
      ∃ t, exec (.expertReplyArrival c e.id) s = .next t ∧ t = { s with chans := t.chans } ∧
        ((t.slot c e.slot).handle e.handle).rows = some [row.map (fun v => widen .bf16 v.toNat)] ∧
        (t.slot c e.slot).outs = (s.slot c e.slot).outs.map (fun o => if o.seq = e.seq then { o with ready := true } else o) ∧
        (t.chan c).seqr.experts = (s.chan c).seqr.experts.filter (fun x => !x.sameSet e)) ∧
    (∀ i, nextInput (s.chan c).chord.ctl (fun n => (s.chan c).sync.ctlWaits n) = some i →
      (∀ d, ((s.chordPort c).chan d).seqr = (s.chan d).seqr) ∧ ((s.chordPort c).chan c).sync = (s.chan c).sync.serve i ∧
      ((s.chordPort c).chan c).chord.ctl = i)

/-- R271, R274, R276, R277, R279: a forwarded signal raises its vertex, which records who signalled it, unless the value would pass 2^32 − 1; an
arrival at its home copy is counted, and with the last the generation completes and its release goes out; a release takes the copy past
its generation and wakes its waiters, unless one of an earlier generation has not left: then it is held, and carried out once the last has.
The queues of messages under way are the model's (notes/assumptions/50). -/
def Obligations.SignalsAndBarriersArrive : Prop :=
  (∀ (s : State) (c : Nat) (m : Signal) (l : List Signal), (s.chan c).sync.sigIn = m :: l → (s.chan c).held = false → m.flits = 0 →
    (s.chan c).sigFirst (s.nowNs - 1) none = false →
    ((s.chan c).vtx m.vertex).value + m.amount < 2 ^ 32 → ((s.chan c).vtx m.vertex).waiters = [] →
      ∃ t, exec (.linkedVertexSignal c) s = .next t ∧ t = { s with chans := t.chans } ∧ (t.chan c).sync.sigIn = l ∧
        (t.chan c).vtx m.vertex = { (s.chan c).vtx m.vertex with
          value := ((s.chan c).vtx m.vertex).value + m.amount, lastCtx := m.ctx, lastSlot := m.slot, lastChan := m.src
          lastFrame := s.frameN % 2 ^ 32, signalled := true } ∧
        (∀ v, v ≠ m.vertex → (t.chan c).vtx v = (s.chan c).vtx v) ∧
        (t.slot m.src m.slot).outs = (s.slot m.src m.slot).outs.filter (fun o => o.seq ≠ m.seq)) ∧
  (∀ (s : State) (c : Nat) (m : BMsg) (x : Bar), x = (s.chan c).barrier m.b → x.valid = true → x.homeModule = s.hub.moduleId →
    (∀ src, src = (if m.src ∈ x.sources then x.sources else x.sources ++ [m.src]) → (s.chan c).held = false → x.homeChan = c → m.release = false →
      (s.chan c).sync.barIn.find? (fun y => y.release == false && y.flits == 0) = some m →
      ∃ t, exec (.barrierArrival c .own) s = .next t ∧
        (x.arrived + 1 < fld x.cfg 43 32 + 1 → (t.chan c).barrier m.b = { x with arrived := x.arrived + 1, sources := src }) ∧
        (¬ x.arrived + 1 < fld x.cfg 43 32 + 1 → (t.chan c).barrier m.b = { x with arrived := 0, sources := [], gen := x.gen + 1 } ∧
          (∀ e ∈ src, e.peer = none → { release := true, b := m.b, gen := x.gen, src := { chan := c }, flits := if e.chan = c then 0 else 1 } ∈ (t.chan e.chan).sync.barIn))) ∧
    (∀ go : Bool, go = !x.leaving.any (fun w => before32 w.tag m.gen) →
      (∀ i u, (i = Instr.barrierRelease c .own ∧ (s.chan c).held = false ∧ x.homeChan = m.src.chan ∧ m.src.peer = none ∧ m.release = true ∧
          (s.chan c).sync.barIn.find? (fun y => y.release == true && y.flits == 0) = some m ∧ u = (s.chan c).sync.barIn.erase m) ∨
        (i = Instr.heldReleaseWake c m.b ∧ x.heldRel = some m.gen ∧ go = true ∧ u = (s.chan c).sync.barIn) →
        ∃ t, exec i s = .next t ∧ (t.chan c).sync.barIn = u ∧
          (go = true → (t.chan c).barrier m.b = { x with
              gen := if before32 x.gen (m.gen + 1) then m.gen + 1 else x.gen, heldRel := none
              waiters := x.waiters.filter (fun w => before32 m.gen w.tag)
              leaving := x.leaving ++ x.waiters.filter (fun w => !before32 m.gen w.tag) } ∧
            (∀ w ∈ x.waiters, before32 m.gen w.tag = false → NoGroups s c w.slot → (t.slot c w.slot).block = .none)) ∧
          (go = false → (t.chan c).barrier m.b = { x with heldRel := some m.gen }))))

/-! ### Peers and streams -/

/-- R266, R267, R268, R158, R125, R301: a HELLO on a valid window that has sent its own opens it at the highest shared version, or leaves it closed and
is reported; a message accepted lands in its port, its expert's queue or its handle; credits come back up to 32; a retraction taints every
open context that depends on an output of the peer not older than the first epoch retracted.
The layouts of HELLO and CREDIT, and that a HELLO counts in the sequence, are the model's (notes/assumptions/48, 49, 122). -/
def Obligations.PeerMessagesAreTaken : Prop :=
  (∀ (s : State) (n : Nat) (hdr : BitVec 256) (body : List Byte) (h : Hdr), h = readHdr hdr →
    (h.typ = 0 → h.rsv = 0 → s.linkUp = true → s.peerSecure n = true → s.peerValid n = true → h.srcModule = n → h.length = 0 → (s.peer n).st = .helloSent →
      ∃ t, exec (.arantHello n hdr) s = .next t ∧
        (∀ v, v = settle (h.tag % 256) (h.tag / 256) →
          (v ≠ 0 → t.peer n = { s.peer n with st := .open, ver := v, helloIn := some (h.tag % 256, h.tag / 256), credits := 32
                                              seqIn := (h.seq + 1) % 65536, owed := [], outQ := [] }) ∧
          (v = 0 → (t.peer n).st = .noVersion ∧ ∃ u, u = { s with host := t.host } ∧ Reported u t 7 1 0 n 0))) ∧
    (h.typ = 1 → Accepts s n h body → s.fitted h.dstChan = true → (s.chan h.dstChan).held = false →
      (∀ e ∈ (s.chan h.dstChan).seqr.ports, e.2.inbound = []) → ∀ p, p = sget {} (s.chan h.dstChan).seqr.ports h.port →
      p.inbound = [] → p.waiters = [] → (s.chan h.dstChan).portRoom h.port body.length = true →
      ∃ t, exec (.arantExchange n hdr body) s = .next t ∧ (t.peer n).seqIn = (h.seq + 1) % 65536 ∧ (t.peer n).heard = h.watermark ∧
        sget {} (t.chan h.dstChan).seqr.ports h.port = { p with msgs := p.msgs ++ [{ bytes := body, peer := h.unconfirmed n }] }) ∧
    (h.typ = 2 → Accepts s n h body → s.fitted h.dstChan = true → (s.chan h.dstChan).held = false → 2 ≤ body.length → body.length ≤ 1026 →
      ∀ x l col, Config.resident (s.chan h.dstChan).tables.residents h.expert h.part = some (x, l, col) →
      ∃ t e, exec (.arantExpertRequest n hdr body) s = .next t ∧ (t.chan h.dstChan).seqr.experts = (s.chan h.dstChan).seqr.experts ++ [e] ∧
        e.peer = some n ∧ e.tag = h.tag ∧ e.expert = h.expert ∧ e.part = h.part ∧ e.arrived = true ∧ e.colScale = col ∧
        e.codes = (body.take (body.length - 2)).map (fun b => signed 8 b.toNat) ∧ (t.peer n).seqIn = (h.seq + 1) % 65536) ∧
    (h.typ = 3 → Accepts s n h body → body.length = 2048 → ∀ e,
      (s.chan h.dstChan).seqr.experts.find? (fun e => e.peer.isNone && e.dst == 16 + n && e.tag == h.tag && (!e.grp || e.last)) = some e →
      ∃ t, exec (.arantExpertReply n hdr body) s = .next t ∧
        ((t.slot h.dstChan e.slot).handle e.handle).rows =
          some [(List.range 1024).map (fun i => widen .bf16 (BitVec.ofNat 16 (leNat ((body.drop (2 * i)).take 2))).toNat)] ∧
        (t.chan h.dstChan).seqr.experts = (s.chan h.dstChan).seqr.experts.filter (fun x => !x.sameSet e)) ∧
    (h.typ = 4 → Accepts s n h body → (s.peer n).outQ = [] →
      ∃ t, exec (.arantCredit n hdr body) s = .next t ∧ (t.peer n).credits = min 32 ((s.peer n).credits + leNat (body.take 4)))) ∧
  (∀ (s : State) (n : Nat) (hdr : BitVec 256) (body : List Byte) (h : Hdr), h = readHdr hdr → h.typ = 6 → s.linkUp = true →
    s.peerSecure n = true → (s.peer n).st = .open → h.inLayout n body = true → h.faulty (s.peer n) body = false → body.length = 32 →
      ∃ t, exec (.arantRetraction n hdr body) s = .next t ∧
        ∀ raw, raw / 32768 < s.channels → (s.ctx raw).life = .open → (s.ctx raw).cacheBad = false → bit (s.ctx raw).peerMask n = true →
          older (s.ctx raw).peerEpoch (nfld (leNat body) 215 184) = false → (t.ctx raw).tainted = true)

/-- R266, R329: a read of the peer aperture ends as an unsupported request; keys programmed through a session of the physical function make
a stream keyed and secure; a keyed stream that fails its integrity check is insecure and reported, and the write of a peer lost with it is
counted as refused.
Which stream carries what is the model's reading (notes/assumptions/63). -/
def Obligations.StreamsAreKeyedAndFail : Prop :=
  ∀ s : State, s.linkUp = true →
    (exec .peerApertureRead s = .next { s with out := { s.out with ur := s.out.ur + 1 } }) ∧
    (∀ stream session, s.session? 0 session = some .established → stream ≤ 64 →
      ∃ t, exec (.ideKmKeyProgram stream session) s = .next t ∧ t = { s with sec := { s.sec with insecure := t.sec.insecure, keyed := t.sec.keyed } } ∧
        stream ∈ t.sec.keyed ∧ stream ∉ t.sec.insecure ∧ (∀ n, n ≠ stream → (n ∈ t.sec.insecure ↔ n ∈ s.sec.insecure) ∧ (n ∈ t.sec.keyed ↔ n ∈ s.sec.keyed))) ∧
    (∀ stream, stream ∈ s.sec.keyed → stream ∉ s.sec.insecure → ∃ t u, exec (.ideIntegrityFail stream) s = .next t ∧
      Reported { s with sec := { s.sec with insecure := s.sec.insecure ++ [stream] } } u 8 3 0 stream 0 ∧
      ((stream = 0 ∨ stream = s.hub.moduleId + 1) → t = u) ∧ (stream ≠ 0 → stream ≠ s.hub.moduleId + 1 → Counted u t 0x8A))

/-! ### Functions, rings and protection -/

/-- R245, R264, R265, R384: opening a closed function settles its version and opens it at the next tick; opening a closing one holds it;
closing an open one, or resetting it, stops its rings and ends its role and mailbox, where none of its inferences waits to run; once
every ring is free it is closed, or a held one proceeds unless the module drains, and a reset then reports itself done, at once where the
function was closed; the mailbox of an open function opens likewise.
What a held function settles with, and where the report goes, are the model's reading (notes/assumptions/61, 122). -/
def Obligations.FunctionsOpenAndClose : Prop :=
  ∀ (s : State) (fn : Nat),
    (∀ (v : BitVec 64) (ver : Nat), Heard s fn → v.toNat &&& openRsv = 0 → bit v 0 = true → ver = settle (fld v 55 48) (fld v 63 56) → ver ≠ 0 →
      ((s.fn fn).st = .closed → ∃ t, exec (.functionOpen fn v) s = .next t ∧
        InFn s t fn (fun x => { x with drvMin := fld v 55 48, drvMax := fld v 63 56, ver := ver, openNext := true })) ∧
      ((s.fn fn).st = .closing → ∃ t, exec (.functionOpen fn v) s = .next t ∧
        InFn s t fn (fun x => { x with st := .held, waitFrom := some s.frameN })) ∧
      ((s.fn fn).st = .open → (s.port fn).mbxOpen = false → ∃ t, exec (.mailboxOpen fn v) s = .next t ∧
        InPort s t fn (fun p => { p with drvMin := fld v 55 48, drvMax := fld v 63 56, mbxVer := ver, mbxNext := true }))) ∧
    (Heard s fn → (s.fn fn).st = .open → (∀ c, ∀ j ∈ (s.chan c).jobs, ¬ (j.fn = fn ∧ j.waitingInf = true)) →
      ∀ i ∈ [(Instr.functionClose fn, false), (Instr.functionLevelReset fn, true)], ∃ t, exec i.1 s = .next t ∧
        t = { s with host := { s.host with fns := t.host.fns, ports := t.host.ports }, store := t.store, hub := t.hub } ∧
        t.fn fn = { s.fn fn with st := .closing, openNext := false, flr := (s.fn fn).flr || i.2
                                 sqs := (s.fn fn).sqs.map (fun e => (e.1, e.2.stop)), cqs := (s.fn fn).cqs.map (fun e => (e.1, e.2.stop)) } ∧
        t.port fn = { s.port fn with roleNow := {}, roleNext := none, challenge := none, mbxOpen := false, mbxNext := false, mbxVer := 0, busy := false } ∧
        (∀ n, n ≠ fn → t.fn n = s.fn n ∧ t.port n = s.port n) ∧
        ((s.port fn).roleNow.role = .operator → t.store = s.store ∧ t.hub = s.hub)) ∧
    (Heard s fn → (s.fn fn).st = .closed → ∃ t, exec (.functionLevelReset fn) s = .next t ∧
      t.out = { s.out with flrDone := s.out.flrDone ++ [fn] } ∧ t = { s with host := t.host, out := t.out }) ∧
    (∀ o, o = (if (s.fn fn).flr = true then { s.out with flrDone := s.out.flrDone ++ [fn] } else s.out) →
      ((s.fn fn).st = .closing → (s.fn fn).allFree = true → ∃ t, exec (.functionClosed fn) s = .next t ∧
        InFn { s with out := o } t fn (fun x => { x with st := .closed, ver := 0, flr := false })) ∧
      ((s.fn fn).st = .held → (s.fn fn).allFree = true → s.integ.svc ≠ .draining → ∃ t, exec (.functionClosed fn) s = .next t ∧
        InFn { s with out := o } t fn (fun x => { x with st := .closed, openNext := true, ver := settle x.drvMin x.drvMax, flr := false })))

/-- R248, R252: a free ring of an open function takes the fields written to it and becomes active at the next tick where enable is 1; enable = 0
stops an active or stopped ring that no submission ring still names, and leaves its other fields; a stopping ring with nothing left is
free, and a completion ring written since the last emission sends its vector then (the model's reading, notes/assumptions/121). -/
def Obligations.RingsRunAndStop : Prop :=
  ∀ (s : State) (fn : Nat) (q : Bool) (n : Nat) (r : Ring), r = s.ring fn q n →
    (∀ (v w : BitVec 128), Heard s fn → n < 32 → (s.fn fn).st = .open →
      v.toNat % 2 ^ 64 &&& ringRsv q % 2 ^ 64 = 0 → v.toNat / 2 ^ 64 &&& ringRsv q / 2 ^ 64 = 0 → w = BitVec.ofNat 128 (v.toNat &&& ringMask q) →
      (r.st = .free → ∃ t, exec (.ringEnable fn q n v) s = .next t ∧ InRing s t fn q n (fun r => { r with cfg := w, want := bit w 69 })) ∧
      (r.st = .stopping → ∃ t, exec (.ringEnable fn q n v) s = .next t ∧ Logged s t fn 4 (ringOff q n + 8)) ∧
      ((r.st = .active ∨ r.st = .stopped) → v = setFld r.cfg 69 69 0 → w = v → bit w 69 = false →
        (q = true → (s.fn fn).cqNamed n = false) → ∃ t, exec (.ringDisable fn q n) s = .next t ∧
          InRing s t fn q n (fun r => { r with st := .stopping, want := false, cfg := w }))) ∧
    (s.ringDone fn q n = true → ∃ t, exec (.ringFreed fn q n) s = .next t ∧
      InRing { s with out := t.out } t fn q n (fun r => { cfg := setFld r.cfg 69 69 0 }) ∧
      t.out = (if q = true ∧ r.wrote = true ∧ bit r.cfg 47 = true ∧ 0x11 ≤ (s.fn fn).ver
        then { s.out with msix := s.out.msix ++ [(fn, fld r.cfg 46 36)] } else s.out))

/-- R259, R262, R382, R383, R261: an ownership value joins the queue of 256, or is logged where it is full; a commit puts every staged rule in
force as one generation, the generation after 0xFFFF_FFFF being 1, and gives contexts their owners by the queued values in write order, the
last that names a context governing it; one that breaks a rule is logged and applies nothing; a discard reloads the staging; another function than the physical one changes nothing. -/
def Obligations.ProtectionIsStagedAndCommitted : Prop :=
  ∀ (s : State) (v : BitVec 64), Heard s 0 →
    (v.toNat &&& maskBits 57 36 = 0 → s.host.ownQueue.length < 256 → exec (.protOwnWrite 0 v) s = .next { s with host := { s.host with
      ownQueue := s.host.ownQueue ++ [BitVec.ofNat 64 (pack [(63, 58, fld v 63 58), (35, 0, fld v 35 0)])], order := s.host.order ++ [ownOff] } }) ∧
    (v.toNat &&& maskBits 57 36 = 0 → 256 ≤ s.host.ownQueue.length → ∃ t, exec (.protOwnWrite 0 v) s = .next t ∧ Logged s t 0 3 0x10010) ∧
    (s.host.order ≠ [] → s.firstStagedBad s.host.order 0 0 = none → ∃ t, exec (.protCommit 0) s = .next t ∧
      t = { s with host := t.host, chans := t.chans } ∧ t.host.rules = s.host.staged ∧ t.host.staged = s.host.staged ∧ t.host.order = [] ∧
      t.host.ownQueue = [] ∧ t.host.gen = (if s.host.gen = 2 ^ 32 - 1 then 1 else s.host.gen + 1) ∧ t.host.fns = s.host.fns ∧
      (s.host.ownQueue = [] → t.host.own = s.host.own ∧ t.chans = s.chans) ∧
      (∀ raw, (t.ownOf raw).owner = s.host.ownQueue.foldl (fun o v => if fld v 35 18 ≤ raw ∧ raw ≤ fld v 35 18 + fld v 17 0 then
        (if bit v 63 then some (fld v 62 58) else none) else o) (s.ownOf raw).owner)) ∧
    (∀ i, s.host.order ≠ [] → s.firstStagedBad s.host.order 0 0 = some i → ∃ t, exec (.protCommit 0) s = .next t ∧ Logged s t 0 6 0x10000) ∧
    (s.host.order = [] → exec (.protCommit 0) s = .next s) ∧
    (exec (.protDiscard 0) s = .next { s with host := { s.host with staged := s.host.rules, order := [], ownQueue := [] } }) ∧
    (∀ fn, fn < 32 → fn ≠ 0 → AuditRoom s → ∀ i ∈ [Instr.protCommit fn, Instr.protDiscard fn, Instr.protOwnWrite fn v],
      ∃ t, exec i s = .next t ∧ Audited s t 0x40 fn 1)
end

