-- ==== Sys2Proof/Laws/Calibrate.lean ====
section
/-! SUPPORT. The calibration's gain reference: with no departure its conversions are exact, so what it measures is what it should (R41 to
R53, R74 to R76, R174). -/

namespace Sys2Proof.Machine

/-- The sign a row drives at a bit-step: 0 where inactive. -/
def drive (k : Nat) (x : Int) : Int := if activeAt k x = true then (if x < 0 then -1 else 1) else 0

/-- The drives of rows `lo` to `lo + n`, summed. -/
def drives (codes : List Int) (k lo n : Nat) : Int := ∑ i ∈ Finset.range n, drive k (codes.getD (lo + i) 0)

theorem drive_zero (k : Nat) : drive k 0 = 0 := by simp [drive, activeAt]

theorem natAbs_drive_le (k : Nat) (x : Int) : (drive k x).natAbs ≤ if activeAt k x then 1 else 0 := by
  unfold drive; split <;> (try split) <;> simp

theorem foldl_add_range (w : Nat → Int) (n : Nat) (t : Int) :
    (List.range n).foldl (fun t r => t + w r) t = t + ∑ r ∈ Finset.range n, w r := by
  induction n with
  | zero => simp
  | succ n ih => rw [List.range_succ, List.foldl_append, ih, Finset.sum_range_succ]; simp [add_assoc]

theorem activeIn_eq (codes : List Int) (k lo n : Nat) :
    activeIn codes k lo n = ∑ i ∈ Finset.range n, if activeAt k (codes.getD (lo + i) 0) then 1 else 0 := by
  unfold activeIn
  induction n with
  | zero => simp
  | succ n ih =>
    rw [List.take_add_one, List.filter_append, List.length_append, ih, Finset.sum_range_succ, List.getElem?_drop, List.getD_eq_getElem?_getD]
    cases codes[lo + n]? with
    | none => simp [activeAt]
    | some x => by_cases h : activeAt k x = true <;> simp [h]

theorem natAbs_drives_le (codes : List Int) (k lo n : Nat) : (drives codes k lo n).natAbs ≤ activeIn codes k lo n := by
  rw [activeIn_eq]
  exact (Int.natAbs_sum_le _ _).trans (Finset.sum_le_sum fun i _ => natAbs_drive_le k _)

theorem activeIn_le (codes : List Int) (k lo n : Nat) : activeIn codes k lo n ≤ n := by
  rw [activeIn_eq]
  exact (Finset.sum_le_sum (fun i _ => by split <;> simp : ∀ i ∈ Finset.range n, _ ≤ 1)).trans (by simp)

theorem drives_add (codes : List Int) (k lo m n : Nat) : drives codes k lo (m + n) = drives codes k lo m + drives codes k (lo + m) n := by
  simp only [drives, Finset.sum_range_add]; simp [add_assoc]

/-- The cells of a gain reference column. -/
abbrev gainCells : List (Nat × Int) := (List.range 1024).map (fun r => (r, 8))

theorem idealSum_gain (codes : List Int) (k lo n : Nat) (h : lo + n ≤ 1024) : idealSum gainCells codes k lo n = 8 * drives codes k lo n := by
  have hf : idealSum gainCells codes k lo n =
      (List.range 1024).foldl (fun t r => t + (if lo ≤ r ∧ r < lo + n then 8 * drive k (codes.getD r 0) else 0)) 0 := by
    simp only [idealSum, List.foldl_map]
    congr 1; funext t r
    by_cases hr : lo ≤ r ∧ r < lo + n
    · by_cases ha : activeAt k (codes.getD r 0) = true
      · by_cases hx : codes.getD r 0 < 0
        · simp only [drive, hr, ha, hx, and_true, if_true]; omega
        · simp only [drive, hr, ha, hx, and_true, if_true, if_false]; omega
      · simp only [drive, hr, ha, and_false, if_true, if_false, Bool.false_eq_true, and_self]; omega
    · rw [if_neg hr, if_neg (fun hh => hr ⟨hh.1, hh.2.1⟩)]; simp
  rw [hf, foldl_add_range, zero_add, drives, Finset.mul_sum, ← Finset.sum_filter]
  refine (Finset.sum_nbij' (fun i => lo + i) (fun r => r - lo) ?_ ?_ ?_ ?_ ?_).symm
  · intro i hi; simp only [Finset.mem_filter, Finset.mem_range] at *; omega
  · intro i hi; simp only [Finset.mem_filter, Finset.mem_range] at *; omega
  · intro i _; simp
  · intro i hi; simp only [Finset.mem_filter, Finset.mem_range] at *; omega
  · intro i _; rfl

theorem le_convBits (n : Nat) (h : n ≤ 17) : 8 * n ≤ 2 ^ convBits n - 1 := by
  interval_cases n <;> decide

theorem reading_exact {n : Nat} {v : Int} (h : n ≤ 17) (hv : v.natAbs ≤ n) : (reading (convBits n) (8 * v)).1 = 8 * v := by
  have := le_convBits n h
  simp only [reading, clampInt]
  split
  · omega
  · split <;> omega

theorem segment_gain (codes : List Int) (col k seg : Nat) (h : seg < 32) :
    (segment gainCells codes [] col k seg).1 = 8 * drives codes k (32 * seg) 32 := by
  have h1 := natAbs_drives_le codes k (32 * seg) 32
  have e0 : ∀ half, errAt [] col seg k half = 0 := fun _ => rfl
  unfold segment
  simp only [e0, add_zero]
  split
  · rename_i hn; simp only []; omega
  · split
    · simp only []
      rw [idealSum_gain _ _ _ _ (by omega), idealSum_gain _ _ _ _ (by omega),
        reading_exact ((activeIn_le _ _ _ 16).trans (by omega)) (natAbs_drives_le _ _ _ _),
        reading_exact ((activeIn_le _ _ _ 16).trans (by omega)) (natAbs_drives_le _ _ _ _),
        show (32 : Nat) = 16 + 16 from rfl, drives_add]
      ring
    · rename_i hs
      simp only []
      rw [idealSum_gain _ _ _ _ (by omega), reading_exact (by simpa [splits] using hs) h1]

theorem drives_segments (codes : List Int) (k n : Nat) :
    ((List.range n).map (fun s => 8 * drives codes k (32 * s) 32)).sum = 8 * drives codes k 0 (32 * n) := by
  induction n with
  | zero => simp [drives]
  | succ n ih => rw [List.range_succ, List.map_append, List.sum_append, ih, Nat.mul_succ, drives_add]; simp; ring

theorem columnSum_gain (codes : List Int) (col k : Nat) : columnSum gainCells codes [] col k = 8 * drives codes k 0 1024 := by
  unfold columnSum
  rw [show (1024 : Nat) = 32 * 32 from rfl, ← drives_segments]
  congr 1
  exact List.map_congr_left (fun s hs => segment_gain codes col k s (List.mem_range.1 hs))

theorem natAbs_drives_column (codes : List Int) (k : Nat) : (drives codes k 0 1024).natAbs ≤ 1024 :=
  (natAbs_drives_le _ _ _ _).trans (activeIn_le _ _ _ _)

theorem drives_skipped {codes : List Int} {k : Nat} (h : skippedAt codes k = true) : drives codes k 0 1024 = 0 := by
  apply Finset.sum_eq_zero
  intro i _
  rw [List.getD_eq_getElem?_getD]
  cases hx : codes[0 + i]? with
  | none => exact drive_zero k
  | some x =>
    have := List.all_eq_true.1 h x (List.mem_of_getElem? hx)
    simp [drive] at this ⊢
    simp [this]

theorem step_exact {v : Int} {c : Int} (h1 : -524288 ≤ 2 * v + c) (h2 : 2 * v + c ≤ 524287) : Lane.step { v := v } c = { v := 2 * v + c } := by
  simp only [Lane.step, clampInt]
  split
  · omega
  · split
    · omega
    · rfl

theorem laneAt_gain (codes : List Int) (col a b c d : Nat) :
    (laneAt gainCells codes [] col [a, b, c, d]).v =
      8 * (8 * drives codes a 0 1024 + 4 * drives codes b 0 1024 + 2 * drives codes c 0 1024 + drives codes d 0 1024) := by
  have e : ∀ k, (if skippedAt codes k then 0 else columnSum gainCells codes [] col k) = 8 * drives codes k 0 1024 := by
    intro k
    split
    · rename_i h; rw [drives_skipped h]; rfl
    · exact columnSum_gain codes col k
  have ha := natAbs_drives_column codes a
  have hb := natAbs_drives_column codes b
  have hc := natAbs_drives_column codes c
  have hd := natAbs_drives_column codes d
  simp only [laneAt, List.foldl_cons, List.foldl_nil, e]
  rw [step_exact (v := 0), step_exact, step_exact, step_exact] <;> (try dsimp only) <;> omega

theorem laneAt_zero (codes : List Int) (col a b c d : Nat) : (laneAt [] codes [] col [a, b, c, d]).v = 0 := by
  have hs : ∀ k seg, (segment [] codes [] col k seg).1 = 0 := by
    intro k seg
    have hi : ∀ lo n, idealSum [] codes k lo n = 0 := fun _ _ => rfl
    have e0 : ∀ half, errAt [] col seg k half = 0 := fun _ => rfl
    have hr : ∀ b, (reading b 0).1 = 0 := by
      intro b
      have := Nat.one_le_two_pow (n := b)
      simp only [reading, clampInt]; split
      · omega
      · split <;> omega
    unfold segment
    simp only [hi, e0, add_zero, hr]
    split <;> (try split) <;> rfl
  have e : ∀ k, (if skippedAt codes k then 0 else columnSum [] codes [] col k) = 0 := by
    intro k; simp [columnSum, hs]
  simp only [laneAt, List.foldl_cons, List.foldl_nil, e]
  decide

theorem byte_bits : ∀ n : Fin 256, 16 * (8 * (n.1 / 2 ^ 7 % 2) + 4 * (n.1 / 2 ^ 6 % 2) + 2 * (n.1 / 2 ^ 5 % 2) + n.1 / 2 ^ 4 % 2) +
    (8 * (n.1 / 2 ^ 3 % 2) + 4 * (n.1 / 2 ^ 2 % 2) + 2 * (n.1 / 2 ^ 1 % 2) + n.1 / 2 ^ 0 % 2) = n.1 := by decide +kernel

theorem bits_sum (x : Int) (h : x.natAbs < 256) :
    16 * (8 * drive 7 x + 4 * drive 6 x + 2 * drive 5 x + drive 4 x) + (8 * drive 3 x + 4 * drive 2 x + 2 * drive 1 x + drive 0 x) = x := by
  have e : ∀ k, drive k x = if x < 0 then -((x.natAbs / 2 ^ k % 2 : Nat) : Int) else ((x.natAbs / 2 ^ k % 2 : Nat) : Int) := by
    intro k
    have : x.natAbs / 2 ^ k % 2 = 0 ∨ x.natAbs / 2 ^ k % 2 = 1 := by omega
    rcases this with h | h <;> simp [drive, activeAt, h]
  have b := byte_bits ⟨x.natAbs, h⟩
  simp only [e]
  dsimp only at b
  generalize x.natAbs / 2 ^ 7 % 2 = b7, x.natAbs / 2 ^ 6 % 2 = b6, x.natAbs / 2 ^ 5 % 2 = b5, x.natAbs / 2 ^ 4 % 2 = b4,
    x.natAbs / 2 ^ 3 % 2 = b3, x.natAbs / 2 ^ 2 % 2 = b2, x.natAbs / 2 ^ 1 % 2 = b1, x.natAbs / 2 ^ 0 % 2 = b0 at b ⊢
  split <;> omega

theorem drives_bits (codes : List Int) (h : ∀ x ∈ codes, x.natAbs < 256) :
    16 * (8 * drives codes 7 0 1024 + 4 * drives codes 6 0 1024 + 2 * drives codes 5 0 1024 + drives codes 4 0 1024) +
      (8 * drives codes 3 0 1024 + 4 * drives codes 2 0 1024 + 2 * drives codes 1 0 1024 + drives codes 0 0 1024) =
      ∑ i ∈ Finset.range 1024, codes.getD i 0 := by
  simp only [drives, Finset.mul_sum, ← Finset.sum_add_distrib]
  refine Finset.sum_congr rfl fun i _ => ?_
  rw [zero_add]
  refine bits_sum _ ?_
  rw [List.getD_eq_getElem?_getD]
  cases hx : codes[i]? with
  | none => decide
  | some x => exact h x (List.mem_of_getElem? hx)

theorem cells_gain (facet : Sparse Nat) (b : Nat) : columnCells facet (135 * b + 132) = gainCells := by
  unfold columnCells; rw [if_pos (by omega)]

theorem cells_offset (facet : Sparse Nat) (b : Nat) : columnCells facet (135 * b + 133) = [] := by
  unfold columnCells; rw [if_neg (by omega), if_pos (by omega)]

/-- The two windows of a calibration MVM, placed: the drives of all eight bit-steps, those skipped being 0. -/
theorem placed_windows (codes : List Int) (f : List Nat → Lane) (D : Nat → Int)
    (hf : ∀ a b c d, (f [a, b, c, d]).v = 8 * (8 * D a + 4 * D b + 2 * D c + D d)) (hs : ∀ k, skippedAt codes k = true → D k = 0) :
    placed ((promoted codes 8 4).map f) ((promoted codes 8 4).map (fun l => l.getLastD 0)) =
      8 * (16 * (8 * D 7 + 4 * D 6 + 2 * D 5 + D 4) + (8 * D 3 + 4 * D 2 + 2 * D 1 + D 0)) := by
  have hw : windows 8 4 = [[7, 6, 5, 4], [3, 2, 1, 0]] := by decide
  have hz : ∀ w : List Nat, w.any (fun k => !skippedAt codes k) = false → ∀ k ∈ w, D k = 0 :=
    fun w h k hk => hs k (by simpa using List.any_eq_false.1 h k hk)
  simp only [promoted, hw, placed]
  cases h7 : [7, 6, 5, 4].any (fun k => !skippedAt codes k) <;> cases h3 : [3, 2, 1, 0].any (fun k => !skippedAt codes k) <;>
    simp only [List.filter_cons, List.filter_nil, h7, h3, if_true, if_false, Bool.false_eq_true, List.map_cons, List.map_nil, List.zip_cons_cons,
      List.zip_nil_right, List.foldl_cons, List.foldl_nil, hf, List.getLastD_cons, List.getLastD_nil]
  · simp [hz _ h7, hz _ h3]
  · simp [hz _ h7]
  · simp [hz _ h3]; ring
  · simp; ring

/-- What a gain reference column measures in a calibration MVM without departures is its ideal result. -/
theorem Calib.reference_exact (k : Calib) (codes : List Int) (b : Nat) (h : ∀ x ∈ codes, x.natAbs < 256) :
    k.measured { row := codes, errs := [] } (135 * b + 132) = k.ideal { row := codes, errs := [] } (135 * b + 132) := by
  have hi : k.ideal { row := codes, errs := [] } (135 * b + 132) = 8 * ∑ i ∈ Finset.range 1024, codes.getD i 0 := by
    simp only [Calib.ideal, cells_gain, List.foldl_map, foldl_add_range, zero_add, Finset.mul_sum]
  have hg := placed_windows codes (laneAt gainCells codes [] (135 * b + 132)) (fun k => drives codes k 0 1024) (laneAt_gain codes _)
    (fun _ => drives_skipped)
  have ho := placed_windows codes (laneAt [] codes [] (135 * b + 133)) (fun _ => 0) (by simpa using laneAt_zero codes _) (fun _ _ => rfl)
  simp only [Calib.measured, lanesOf, cells_gain, cells_offset, show (135 * b + 132) / 135 = b from by omega]
  rw [hg, ho, hi, ← drives_bits codes h]
  simp

/-! ### A facet of zeros is accepted -/

theorem slopeOf_zero {l : List (Int × Int × Nat)} (h : ∀ e ∈ l, e.1 = 0) : slopeOf l = none := by
  have : (l.map (fun e => e.1 * e.1)).sum = 0 := List.sum_eq_zero fun i hi => by
    obtain ⟨e, he, rfl⟩ := List.mem_map.1 hi; rw [h e he]; rfl
  simp [slopeOf, this]

/-- Measured values equal to the ideal ones have no slope, or a slope of 1. -/
theorem slopeOf_exact {l : List (Int × Int × Nat)} (h : ∀ e ∈ l, e.2.1 = e.1) :
    slopeOf l = none ∨ ∃ d, 0 < d ∧ slopeOf l = some (.fin false d d) := by
  have hn : l.map (fun e => e.1 * e.2.1) = l.map (fun e => e.1 * e.1) := List.map_congr_left fun e he => by rw [h e he]
  by_cases hd : (l.map (fun e => e.1 * e.1)).sum = 0
  · left; simp [slopeOf, hd]
  · right
    refine ⟨_, Int.natAbs_pos.2 hd, ?_⟩
    simp [slopeOf, hn, hd, Val.div, Val.ofInt]

/-- One, as any fraction, is FP16 one. -/
theorem f16_one {n : Nat} (h : 0 < n) : f16 (.fin false n n) = 0x3C00 := by
  have hb : roundBits rneDiv .fp16 n n = 0x3C00 := by
    have hk : rneDiv (n * 1024) n = 1024 := by
      simp only [rneDiv, Nat.mul_div_cancel_left _ h, Nat.mul_mod_right]
      rw [if_neg (by omega)]
    simp [roundBits, binExp, quoPow, Fmt.bias, Fmt.frac, Nat.ne_of_gt h, hk]
  simp [f16, toFloat, hb, Fmt.maxBits, withSign, bnat]

theorem wordCodes_small (w : Word) : ∀ c ∈ wordCodes w, c.natAbs < 256 := by
  intro c hc
  obtain ⟨b, -, rfl⟩ := List.mem_map.1 hc
  have h := Nat.mod_lt (fld w (8 * b + 7) (8 * b)) (show 0 < 2 ^ 8 by decide)
  simp only [signed]
  split <;> omega

theorem checkRows_small : ∀ (n : Nat) (x : Word), ∀ row ∈ checkRows n x, ∀ c ∈ row, c.natAbs < 256
  | 0, _, _, h, _, _ => by simp [checkRows] at h
  | n + 1, x, row, h, c, hc => by
    rcases List.mem_cons.1 h with rfl | h
    · obtain ⟨w, -, hw⟩ := List.mem_flatMap.1 hc
      exact wordCodes_small w c hw
    · exact checkRows_small n _ row h c hc

/-- A calibration MVM without departures: its codes are within INT8. -/
theorem Calib.rows_exact (k : Calib) {x : CalRow} (h : x ∈ k.rows []) : x = { row := x.row, errs := [] } ∧ ∀ c ∈ x.row, c.natAbs < 256 := by
  obtain ⟨⟨row, i⟩, he, rfl⟩ := List.mem_map.1 h
  exact ⟨rfl, checkRows_small _ _ row (List.fst_mem_of_mem_zipIdx he)⟩

/-- A facet of zeros without remapped columns passes its calibration where no conversion departs, at a temperature factor of 1. -/
theorem Calib.run_blank (t f n : Nat) (h : 0 < n) : (Calib.run { codes := [], remap := [], tile := t, facet := f } [] (.fin false n n)).2 = true := by
  simp only [Calib.run, List.all_map, List.all_eq_true, Function.comp_def]
  intro b _
  generalize hk : ({ codes := [], remap := [], tile := t, facet := f } : Calib) = k
  have hdata : slopeOf (k.points (k.rows []) (k.dataCols b)) = none := by
    refine slopeOf_zero fun e he => ?_
    obtain ⟨x, -, hx⟩ := List.mem_flatMap.1 he
    obtain ⟨c, hc, rfl⟩ := List.mem_map.1 hx
    obtain ⟨j, hj, rfl⟩ := List.mem_map.1 hc
    subst hk
    have hp : physicalOf [] t f (128 * b + j) = 135 * b + j := by
      have := List.mem_range.1 hj
      simp [physicalOf, mappedSpares, remapsOf]; omega
    have := List.mem_range.1 hj
    simp only [hp, Calib.ideal, columnCells]
    rw [if_neg (by omega)]
    split <;> rfl
  have hrefs : ∃ m, 0 < m ∧ ((slopeOf (k.points (k.rows []) [135 * b + 132])).getD (Val.ofInt 1)) = .fin false m m := by
    have := slopeOf_exact (l := k.points (k.rows []) [135 * b + 132]) (fun e he => by
      obtain ⟨x, hr, hx⟩ := List.mem_flatMap.1 he
      obtain ⟨c, hc, rfl⟩ := List.mem_map.1 hx
      obtain rfl := List.mem_singleton.1 hc
      obtain ⟨h1, h2⟩ := k.rows_exact hr
      rw [h1]
      exact k.reference_exact x.row b h2)
    rcases this with h0 | ⟨d, hd, h0⟩
    · exact ⟨1, by decide, by rw [h0]; rfl⟩
    · exact ⟨d, hd, by rw [h0]; rfl⟩
  obtain ⟨m, hm, hr⟩ := hrefs
  have h1 : f16 (Val.div (.fin false m m) (.fin false n n)) = 0x3C00 := by
    simp only [Val.div, Nat.ne_of_gt h, if_false]
    rw [Nat.mul_comm m n]
    exact f16_one (Nat.mul_pos h hm)
  simp only [Calib.fit, hdata, hr, h1]
  decide

end Sys2Proof.Machine
end

