-- ==== Sys2Proof/Laws/Sparse.lean ====
section
/-! SUPPORT. The laws of sparse maps: a read after a write, and the canonical form, which every write keeps. -/

namespace Sys2Proof.Machine

/-! ### Read after write -/

theorem sget_sinsert {α : Type} (d v : α) (k j : Nat) : ∀ m : Sparse α,
    sget d (sinsert k v m) j = if j = k then v else sget d m j
  | [] => by simp [sinsert, sget]
  | (i, w) :: m => by
    simp only [sinsert]
    split
    · simp [sget]
    · split
      · rename_i h; subst h
        by_cases hj : j = k <;> simp [sget, hj]
      · rename_i h1 h2
        simp only [sget, sget_sinsert d v k j m]
        by_cases hj : j = i
        · subst hj; simp [Ne.symm h2]
        · simp [hj]

theorem sget_serase {α : Type} (d : α) (k j : Nat) : ∀ m : Sparse α,
    sget d (serase k m) j = if j = k then d else sget d m j
  | [] => by simp [serase, sget]
  | (i, w) :: m => by
    have ih := sget_serase d k j m
    simp only [serase] at ih
    by_cases hi : i = k
    · subst hi
      simp only [serase, List.filter_cons]
      simp only [ne_eq, not_true_eq_false, decide_false, Bool.false_eq_true, if_false, ih, sget]
      by_cases hj : j = i <;> simp [hj]
    · simp only [serase, List.filter_cons]
      simp only [ne_eq, hi, not_false_eq_true, decide_true, if_true, sget, ih]
      by_cases hj : j = i
      · subst hj; simp [hi]
      · simp [hj]

/-- A read after a write: the value written, and elsewhere what was there. -/
theorem sget_sput {α : Type} [DecidableEq α] (d v : α) (m : Sparse α) (k j : Nat) :
    sget d (sput d m k v) j = if j = k then v else sget d m j := by
  unfold sput
  split
  · rename_i h; subst h; rw [sget_serase]
  · rw [sget_sinsert]

@[simp] theorem sget_sput_same {α : Type} [DecidableEq α] (d v : α) (m : Sparse α) (k : Nat) : sget d (sput d m k v) k = v := by
  simp [sget_sput]

theorem sget_sput_ne {α : Type} [DecidableEq α] (d v : α) (m : Sparse α) {k j : Nat} (h : j ≠ k) :
    sget d (sput d m k v) j = sget d m j := by
  simp [sget_sput, h]

/-- Reading after a change by a function. -/
theorem sget_smod {α : Type} [DecidableEq α] (d : α) (m : Sparse α) (k : Nat) (f : α → α) (j : Nat) :
    sget d (smod d m k f) j = if j = k then f (sget d m k) else sget d m j := by
  unfold smod; exact sget_sput d _ m k j

/-- A read after a run of writes. -/
theorem sget_sputList {α : Type} [DecidableEq α] (d : α) : ∀ (vs : List α) (m : Sparse α) (k j : Nat),
    sget d (sputList d m k vs) j = if k ≤ j ∧ j < k + vs.length then vs.getD (j - k) d else sget d m j
  | [], m, k, j => by
    have : ¬ (k ≤ j ∧ j < k + 0) := by omega
    simp only [sputList, List.length_nil]; rw [if_neg this]
  | v :: vs, m, k, j => by
    rw [sputList, sget_sputList d vs, sget_sput]
    by_cases h1 : k + 1 ≤ j ∧ j < k + 1 + vs.length
    · have h2 : k ≤ j ∧ j < k + (v :: vs).length := by simp only [List.length_cons]; omega
      rw [if_pos h1, if_pos h2]
      obtain ⟨n, rfl⟩ : ∃ n, j = k + 1 + n := ⟨j - (k + 1), by omega⟩
      have e1 : k + 1 + n - (k + 1) = n := by omega
      have e2 : k + 1 + n - k = n + 1 := by omega
      rw [e1, e2]; rfl
    · rw [if_neg h1]
      by_cases h3 : j = k
      · have h2 : k ≤ j ∧ j < k + (v :: vs).length := by simp only [List.length_cons]; omega
        rw [if_pos h3, if_pos h2, h3]; simp
      · have h2 : ¬ (k ≤ j ∧ j < k + (v :: vs).length) := by simp only [List.length_cons]; omega
        rw [if_neg h3, if_neg h2]

/-! ### The canonical form -/

theorem sortedFrom_mono {α : Type} {a b : Nat} (h : b ≤ a) : ∀ {m : Sparse α}, sortedFrom a m = true → sortedFrom b m = true
  | [], _ => rfl
  | (j, _) :: m, e => by
    simp only [sortedFrom, Bool.and_eq_true, decide_eq_true_eq] at e ⊢
    exact ⟨by omega, e.2⟩

theorem sortedFrom_sinsert {α : Type} (k : Nat) (v : α) : ∀ (m : Sparse α) (a : Nat), a ≤ k → sortedFrom a m = true →
    sortedFrom a (sinsert k v m) = true
  | [], a, h, _ => by simp [sinsert, sortedFrom, h]
  | (j, w) :: m, a, h, e => by
    simp only [sortedFrom, Bool.and_eq_true, decide_eq_true_eq] at e
    simp only [sinsert]
    split
    · simp only [sortedFrom, Bool.and_eq_true, decide_eq_true_eq]; exact ⟨h, by omega, e.2⟩
    · split
      · rename_i h2; subst h2
        simp only [sortedFrom, Bool.and_eq_true, decide_eq_true_eq]; exact ⟨h, e.2⟩
      · simp only [sortedFrom, Bool.and_eq_true, decide_eq_true_eq]
        exact ⟨e.1, sortedFrom_sinsert k v m (j + 1) (by omega) e.2⟩

theorem sortedFrom_filter {α : Type} (p : Nat × α → Bool) : ∀ (m : Sparse α) (a : Nat), sortedFrom a m = true →
    sortedFrom a (m.filter p) = true
  | [], _, _ => rfl
  | (j, w) :: m, a, e => by
    simp only [sortedFrom, Bool.and_eq_true, decide_eq_true_eq] at e
    rw [List.filter_cons]
    split
    · simp only [sortedFrom, Bool.and_eq_true, decide_eq_true_eq]; exact ⟨e.1, sortedFrom_filter p m _ e.2⟩
    · exact sortedFrom_mono (by omega) (sortedFrom_filter p m _ e.2)

theorem mem_sinsert {α : Type} (k : Nat) (v : α) (e : Nat × α) : ∀ m : Sparse α, e ∈ sinsert k v m → e = (k, v) ∨ e ∈ m
  | [], h => by simp only [sinsert, List.mem_singleton] at h; exact Or.inl h
  | (j, w) :: m, h => by
    simp only [sinsert] at h
    split at h
    · simpa using h
    · split at h
      · rename_i h2; subst h2
        simp only [List.mem_cons] at h ⊢
        rcases h with h | h
        · exact Or.inl h
        · exact Or.inr (Or.inr h)
      · simp only [List.mem_cons] at h ⊢
        rcases h with h | h
        · exact Or.inr (Or.inl h)
        · rcases mem_sinsert k v e m h with h | h
          · exact Or.inl h
          · exact Or.inr (Or.inr h)

/-- A write keeps the canonical form. -/
theorem Sparse.wf_sput {α : Type} [DecidableEq α] (d v : α) (m : Sparse α) (k : Nat) (h : Sparse.wf d m = true) :
    Sparse.wf d (sput d m k v) = true := by
  simp only [Sparse.wf, Bool.and_eq_true, List.all_eq_true, decide_eq_true_eq] at h ⊢
  unfold sput
  split
  · exact ⟨sortedFrom_filter _ _ _ h.1, fun e he => h.2 e ((List.mem_filter.1 he).1)⟩
  · rename_i hv
    refine ⟨sortedFrom_sinsert k v m 0 (Nat.zero_le _) h.1, fun e he => ?_⟩
    rcases mem_sinsert k v e m he with rfl | he
    · exact hv
    · exact h.2 e he

/-- A change of one value keeps the canonical form. -/
theorem Sparse.wf_smod {α : Type} [DecidableEq α] (d : α) (m : Sparse α) (k : Nat) (f : α → α) (h : Sparse.wf d m = true) :
    Sparse.wf d (smod d m k f) = true := Sparse.wf_sput d _ m k h

/-- A run of writes keeps the canonical form. -/
theorem Sparse.wf_sputList {α : Type} [DecidableEq α] (d : α) : ∀ (vs : List α) (m : Sparse α) (k : Nat), Sparse.wf d m = true →
    Sparse.wf d (sputList d m k vs) = true
  | [], _, _, h => h
  | v :: vs, m, k, h => Sparse.wf_sputList d vs _ (k + 1) (Sparse.wf_sput d v m k h)

/-- Dropping entries keeps the canonical form. -/
theorem Sparse.wf_filter {α : Type} [DecidableEq α] (d : α) (m : Sparse α) (p : Nat × α → Bool) (h : Sparse.wf d m = true) :
    Sparse.wf d (m.filter p) = true := by
  simp only [Sparse.wf, Bool.and_eq_true, List.all_eq_true] at h ⊢
  exact ⟨sortedFrom_filter _ _ _ h.1, fun e he => h.2 e ((List.mem_filter.1 he).1)⟩

/-- The empty map, which every memory is at reset, is canonical. -/
theorem Sparse.wf_nil {α : Type} [DecidableEq α] (d : α) : Sparse.wf d ([] : Sparse α) = true := rfl

end Sys2Proof.Machine
end

