-- ==== Sys2Proof/Laws/State.lean ====
section
/-! SUPPORT. Reading the state after a named update: one lemma for each part of the state that an update leaves alone, and what
the part it changes then reads as. -/

namespace Sys2Proof.Machine

/-! ### setChan -/

@[simp] theorem State.setChan_pending (s : State) (c : Nat) (x : Chan) : (s.setChan c x).pending = s.pending := rfl
@[simp] theorem State.setChan_variant (s : State) (c : Nat) (x : Chan) : (s.setChan c x).variant = s.variant := rfl
@[simp] theorem State.setChan_pwr (s : State) (c : Nat) (x : Chan) : (s.setChan c x).pwr = s.pwr := rfl
@[simp] theorem State.setChan_clk (s : State) (c : Nat) (x : Chan) : (s.setChan c x).clk = s.clk := rfl
@[simp] theorem State.setChan_hub (s : State) (c : Nat) (x : Chan) : (s.setChan c x).hub = s.hub := rfl
@[simp] theorem State.setChan_host (s : State) (c : Nat) (x : Chan) : (s.setChan c x).host = s.host := rfl
@[simp] theorem State.setChan_store (s : State) (c : Nat) (x : Chan) : (s.setChan c x).store = s.store := rfl
@[simp] theorem State.setChan_sec (s : State) (c : Nat) (x : Chan) : (s.setChan c x).sec = s.sec := rfl
@[simp] theorem State.setChan_integ (s : State) (c : Nat) (x : Chan) : (s.setChan c x).integ = s.integ := rfl
@[simp] theorem State.setChan_therm (s : State) (c : Nat) (x : Chan) : (s.setChan c x).therm = s.therm := rfl
@[simp] theorem State.setChan_out (s : State) (c : Nat) (x : Chan) : (s.setChan c x).out = s.out := rfl
@[simp] theorem State.setChan_fresh (s : State) (c : Nat) (x : Chan) : (s.setChan c x).fresh = s.fresh := rfl

/-! ### modChan -/

@[simp] theorem State.modChan_pending (s : State) (c : Nat) (f : Chan → Chan) : (s.modChan c f).pending = s.pending := rfl
@[simp] theorem State.modChan_variant (s : State) (c : Nat) (f : Chan → Chan) : (s.modChan c f).variant = s.variant := rfl
@[simp] theorem State.modChan_pwr (s : State) (c : Nat) (f : Chan → Chan) : (s.modChan c f).pwr = s.pwr := rfl
@[simp] theorem State.modChan_clk (s : State) (c : Nat) (f : Chan → Chan) : (s.modChan c f).clk = s.clk := rfl
@[simp] theorem State.modChan_hub (s : State) (c : Nat) (f : Chan → Chan) : (s.modChan c f).hub = s.hub := rfl
@[simp] theorem State.modChan_host (s : State) (c : Nat) (f : Chan → Chan) : (s.modChan c f).host = s.host := rfl
@[simp] theorem State.modChan_store (s : State) (c : Nat) (f : Chan → Chan) : (s.modChan c f).store = s.store := rfl
@[simp] theorem State.modChan_sec (s : State) (c : Nat) (f : Chan → Chan) : (s.modChan c f).sec = s.sec := rfl
@[simp] theorem State.modChan_integ (s : State) (c : Nat) (f : Chan → Chan) : (s.modChan c f).integ = s.integ := rfl
@[simp] theorem State.modChan_therm (s : State) (c : Nat) (f : Chan → Chan) : (s.modChan c f).therm = s.therm := rfl
@[simp] theorem State.modChan_out (s : State) (c : Nat) (f : Chan → Chan) : (s.modChan c f).out = s.out := rfl
@[simp] theorem State.modChan_fresh (s : State) (c : Nat) (f : Chan → Chan) : (s.modChan c f).fresh = s.fresh := rfl

/-! ### setSlot -/

@[simp] theorem State.setSlot_pending (s : State) (c n : Nat) (x : Slot) : (s.setSlot c n x).pending = s.pending := rfl
@[simp] theorem State.setSlot_variant (s : State) (c n : Nat) (x : Slot) : (s.setSlot c n x).variant = s.variant := rfl
@[simp] theorem State.setSlot_pwr (s : State) (c n : Nat) (x : Slot) : (s.setSlot c n x).pwr = s.pwr := rfl
@[simp] theorem State.setSlot_clk (s : State) (c n : Nat) (x : Slot) : (s.setSlot c n x).clk = s.clk := rfl
@[simp] theorem State.setSlot_hub (s : State) (c n : Nat) (x : Slot) : (s.setSlot c n x).hub = s.hub := rfl
@[simp] theorem State.setSlot_host (s : State) (c n : Nat) (x : Slot) : (s.setSlot c n x).host = s.host := rfl
@[simp] theorem State.setSlot_store (s : State) (c n : Nat) (x : Slot) : (s.setSlot c n x).store = s.store := rfl
@[simp] theorem State.setSlot_sec (s : State) (c n : Nat) (x : Slot) : (s.setSlot c n x).sec = s.sec := rfl
@[simp] theorem State.setSlot_integ (s : State) (c n : Nat) (x : Slot) : (s.setSlot c n x).integ = s.integ := rfl
@[simp] theorem State.setSlot_therm (s : State) (c n : Nat) (x : Slot) : (s.setSlot c n x).therm = s.therm := rfl
@[simp] theorem State.setSlot_out (s : State) (c n : Nat) (x : Slot) : (s.setSlot c n x).out = s.out := rfl
@[simp] theorem State.setSlot_fresh (s : State) (c n : Nat) (x : Slot) : (s.setSlot c n x).fresh = s.fresh := rfl

/-! ### modSlot -/

@[simp] theorem State.modSlot_pending (s : State) (c n : Nat) (f : Slot → Slot) : (s.modSlot c n f).pending = s.pending := rfl
@[simp] theorem State.modSlot_variant (s : State) (c n : Nat) (f : Slot → Slot) : (s.modSlot c n f).variant = s.variant := rfl
@[simp] theorem State.modSlot_pwr (s : State) (c n : Nat) (f : Slot → Slot) : (s.modSlot c n f).pwr = s.pwr := rfl
@[simp] theorem State.modSlot_clk (s : State) (c n : Nat) (f : Slot → Slot) : (s.modSlot c n f).clk = s.clk := rfl
@[simp] theorem State.modSlot_hub (s : State) (c n : Nat) (f : Slot → Slot) : (s.modSlot c n f).hub = s.hub := rfl
@[simp] theorem State.modSlot_host (s : State) (c n : Nat) (f : Slot → Slot) : (s.modSlot c n f).host = s.host := rfl
@[simp] theorem State.modSlot_store (s : State) (c n : Nat) (f : Slot → Slot) : (s.modSlot c n f).store = s.store := rfl
@[simp] theorem State.modSlot_sec (s : State) (c n : Nat) (f : Slot → Slot) : (s.modSlot c n f).sec = s.sec := rfl
@[simp] theorem State.modSlot_integ (s : State) (c n : Nat) (f : Slot → Slot) : (s.modSlot c n f).integ = s.integ := rfl
@[simp] theorem State.modSlot_therm (s : State) (c n : Nat) (f : Slot → Slot) : (s.modSlot c n f).therm = s.therm := rfl
@[simp] theorem State.modSlot_out (s : State) (c n : Nat) (f : Slot → Slot) : (s.modSlot c n f).out = s.out := rfl
@[simp] theorem State.modSlot_fresh (s : State) (c n : Nat) (f : Slot → Slot) : (s.modSlot c n f).fresh = s.fresh := rfl

/-! ### modTile -/

@[simp] theorem State.modTile_pending (s : State) (c t : Nat) (f : Tile → Tile) : (s.modTile c t f).pending = s.pending := rfl
@[simp] theorem State.modTile_variant (s : State) (c t : Nat) (f : Tile → Tile) : (s.modTile c t f).variant = s.variant := rfl
@[simp] theorem State.modTile_pwr (s : State) (c t : Nat) (f : Tile → Tile) : (s.modTile c t f).pwr = s.pwr := rfl
@[simp] theorem State.modTile_clk (s : State) (c t : Nat) (f : Tile → Tile) : (s.modTile c t f).clk = s.clk := rfl
@[simp] theorem State.modTile_hub (s : State) (c t : Nat) (f : Tile → Tile) : (s.modTile c t f).hub = s.hub := rfl
@[simp] theorem State.modTile_host (s : State) (c t : Nat) (f : Tile → Tile) : (s.modTile c t f).host = s.host := rfl
@[simp] theorem State.modTile_store (s : State) (c t : Nat) (f : Tile → Tile) : (s.modTile c t f).store = s.store := rfl
@[simp] theorem State.modTile_sec (s : State) (c t : Nat) (f : Tile → Tile) : (s.modTile c t f).sec = s.sec := rfl
@[simp] theorem State.modTile_integ (s : State) (c t : Nat) (f : Tile → Tile) : (s.modTile c t f).integ = s.integ := rfl
@[simp] theorem State.modTile_therm (s : State) (c t : Nat) (f : Tile → Tile) : (s.modTile c t f).therm = s.therm := rfl
@[simp] theorem State.modTile_out (s : State) (c t : Nat) (f : Tile → Tile) : (s.modTile c t f).out = s.out := rfl
@[simp] theorem State.modTile_fresh (s : State) (c t : Nat) (f : Tile → Tile) : (s.modTile c t f).fresh = s.fresh := rfl

/-! ### setCtx -/

@[simp] theorem State.setCtx_pending (s : State) (r : Nat) (x : Ctx) : (s.setCtx r x).pending = s.pending := rfl
@[simp] theorem State.setCtx_variant (s : State) (r : Nat) (x : Ctx) : (s.setCtx r x).variant = s.variant := rfl
@[simp] theorem State.setCtx_pwr (s : State) (r : Nat) (x : Ctx) : (s.setCtx r x).pwr = s.pwr := rfl
@[simp] theorem State.setCtx_clk (s : State) (r : Nat) (x : Ctx) : (s.setCtx r x).clk = s.clk := rfl
@[simp] theorem State.setCtx_hub (s : State) (r : Nat) (x : Ctx) : (s.setCtx r x).hub = s.hub := rfl
@[simp] theorem State.setCtx_host (s : State) (r : Nat) (x : Ctx) : (s.setCtx r x).host = s.host := rfl
@[simp] theorem State.setCtx_store (s : State) (r : Nat) (x : Ctx) : (s.setCtx r x).store = s.store := rfl
@[simp] theorem State.setCtx_sec (s : State) (r : Nat) (x : Ctx) : (s.setCtx r x).sec = s.sec := rfl
@[simp] theorem State.setCtx_integ (s : State) (r : Nat) (x : Ctx) : (s.setCtx r x).integ = s.integ := rfl
@[simp] theorem State.setCtx_therm (s : State) (r : Nat) (x : Ctx) : (s.setCtx r x).therm = s.therm := rfl
@[simp] theorem State.setCtx_out (s : State) (r : Nat) (x : Ctx) : (s.setCtx r x).out = s.out := rfl
@[simp] theorem State.setCtx_fresh (s : State) (r : Nat) (x : Ctx) : (s.setCtx r x).fresh = s.fresh := rfl

/-! ### modCtx -/

@[simp] theorem State.modCtx_pending (s : State) (r : Nat) (f : Ctx → Ctx) : (s.modCtx r f).pending = s.pending := rfl
@[simp] theorem State.modCtx_variant (s : State) (r : Nat) (f : Ctx → Ctx) : (s.modCtx r f).variant = s.variant := rfl
@[simp] theorem State.modCtx_pwr (s : State) (r : Nat) (f : Ctx → Ctx) : (s.modCtx r f).pwr = s.pwr := rfl
@[simp] theorem State.modCtx_clk (s : State) (r : Nat) (f : Ctx → Ctx) : (s.modCtx r f).clk = s.clk := rfl
@[simp] theorem State.modCtx_hub (s : State) (r : Nat) (f : Ctx → Ctx) : (s.modCtx r f).hub = s.hub := rfl
@[simp] theorem State.modCtx_host (s : State) (r : Nat) (f : Ctx → Ctx) : (s.modCtx r f).host = s.host := rfl
@[simp] theorem State.modCtx_store (s : State) (r : Nat) (f : Ctx → Ctx) : (s.modCtx r f).store = s.store := rfl
@[simp] theorem State.modCtx_sec (s : State) (r : Nat) (f : Ctx → Ctx) : (s.modCtx r f).sec = s.sec := rfl
@[simp] theorem State.modCtx_integ (s : State) (r : Nat) (f : Ctx → Ctx) : (s.modCtx r f).integ = s.integ := rfl
@[simp] theorem State.modCtx_therm (s : State) (r : Nat) (f : Ctx → Ctx) : (s.modCtx r f).therm = s.therm := rfl
@[simp] theorem State.modCtx_out (s : State) (r : Nat) (f : Ctx → Ctx) : (s.modCtx r f).out = s.out := rfl
@[simp] theorem State.modCtx_fresh (s : State) (r : Nat) (f : Ctx → Ctx) : (s.modCtx r f).fresh = s.fresh := rfl

/-! ### modJob -/

@[simp] theorem State.modJob_pending (s : State) (c i : Nat) (f : Job → Job) : (s.modJob c i f).pending = s.pending := rfl
@[simp] theorem State.modJob_variant (s : State) (c i : Nat) (f : Job → Job) : (s.modJob c i f).variant = s.variant := rfl
@[simp] theorem State.modJob_pwr (s : State) (c i : Nat) (f : Job → Job) : (s.modJob c i f).pwr = s.pwr := rfl
@[simp] theorem State.modJob_clk (s : State) (c i : Nat) (f : Job → Job) : (s.modJob c i f).clk = s.clk := rfl
@[simp] theorem State.modJob_hub (s : State) (c i : Nat) (f : Job → Job) : (s.modJob c i f).hub = s.hub := rfl
@[simp] theorem State.modJob_host (s : State) (c i : Nat) (f : Job → Job) : (s.modJob c i f).host = s.host := rfl
@[simp] theorem State.modJob_store (s : State) (c i : Nat) (f : Job → Job) : (s.modJob c i f).store = s.store := rfl
@[simp] theorem State.modJob_sec (s : State) (c i : Nat) (f : Job → Job) : (s.modJob c i f).sec = s.sec := rfl
@[simp] theorem State.modJob_integ (s : State) (c i : Nat) (f : Job → Job) : (s.modJob c i f).integ = s.integ := rfl
@[simp] theorem State.modJob_therm (s : State) (c i : Nat) (f : Job → Job) : (s.modJob c i f).therm = s.therm := rfl
@[simp] theorem State.modJob_out (s : State) (c i : Nat) (f : Job → Job) : (s.modJob c i f).out = s.out := rfl
@[simp] theorem State.modJob_fresh (s : State) (c i : Nat) (f : Job → Job) : (s.modJob c i f).fresh = s.fresh := rfl

/-! ### dropJob -/

@[simp] theorem State.dropJob_pending (s : State) (c i : Nat) : (s.dropJob c i).pending = s.pending := rfl
@[simp] theorem State.dropJob_variant (s : State) (c i : Nat) : (s.dropJob c i).variant = s.variant := rfl
@[simp] theorem State.dropJob_pwr (s : State) (c i : Nat) : (s.dropJob c i).pwr = s.pwr := rfl
@[simp] theorem State.dropJob_clk (s : State) (c i : Nat) : (s.dropJob c i).clk = s.clk := rfl
@[simp] theorem State.dropJob_hub (s : State) (c i : Nat) : (s.dropJob c i).hub = s.hub := rfl
@[simp] theorem State.dropJob_host (s : State) (c i : Nat) : (s.dropJob c i).host = s.host := rfl
@[simp] theorem State.dropJob_store (s : State) (c i : Nat) : (s.dropJob c i).store = s.store := rfl
@[simp] theorem State.dropJob_sec (s : State) (c i : Nat) : (s.dropJob c i).sec = s.sec := rfl
@[simp] theorem State.dropJob_integ (s : State) (c i : Nat) : (s.dropJob c i).integ = s.integ := rfl
@[simp] theorem State.dropJob_therm (s : State) (c i : Nat) : (s.dropJob c i).therm = s.therm := rfl
@[simp] theorem State.dropJob_out (s : State) (c i : Nat) : (s.dropJob c i).out = s.out := rfl
@[simp] theorem State.dropJob_fresh (s : State) (c i : Nat) : (s.dropJob c i).fresh = s.fresh := rfl

/-! ### setReg -/

@[simp] theorem State.setReg_pending (s : State) (c n r : Nat) (v : Word) : (s.setReg c n r v).pending = s.pending := rfl
@[simp] theorem State.setReg_variant (s : State) (c n r : Nat) (v : Word) : (s.setReg c n r v).variant = s.variant := rfl
@[simp] theorem State.setReg_pwr (s : State) (c n r : Nat) (v : Word) : (s.setReg c n r v).pwr = s.pwr := rfl
@[simp] theorem State.setReg_clk (s : State) (c n r : Nat) (v : Word) : (s.setReg c n r v).clk = s.clk := rfl
@[simp] theorem State.setReg_hub (s : State) (c n r : Nat) (v : Word) : (s.setReg c n r v).hub = s.hub := rfl
@[simp] theorem State.setReg_host (s : State) (c n r : Nat) (v : Word) : (s.setReg c n r v).host = s.host := rfl
@[simp] theorem State.setReg_store (s : State) (c n r : Nat) (v : Word) : (s.setReg c n r v).store = s.store := rfl
@[simp] theorem State.setReg_sec (s : State) (c n r : Nat) (v : Word) : (s.setReg c n r v).sec = s.sec := rfl
@[simp] theorem State.setReg_integ (s : State) (c n r : Nat) (v : Word) : (s.setReg c n r v).integ = s.integ := rfl
@[simp] theorem State.setReg_therm (s : State) (c n r : Nat) (v : Word) : (s.setReg c n r v).therm = s.therm := rfl
@[simp] theorem State.setReg_out (s : State) (c n r : Nat) (v : Word) : (s.setReg c n r v).out = s.out := rfl
@[simp] theorem State.setReg_fresh (s : State) (c n r : Nat) (v : Word) : (s.setReg c n r v).fresh = s.fresh := rfl

/-! ### addOut -/

@[simp] theorem State.addOut_pending (s : State) (c n : Nat) (o : Outst) : (s.addOut c n o).pending = s.pending := rfl
@[simp] theorem State.addOut_variant (s : State) (c n : Nat) (o : Outst) : (s.addOut c n o).variant = s.variant := rfl
@[simp] theorem State.addOut_pwr (s : State) (c n : Nat) (o : Outst) : (s.addOut c n o).pwr = s.pwr := rfl
@[simp] theorem State.addOut_clk (s : State) (c n : Nat) (o : Outst) : (s.addOut c n o).clk = s.clk := rfl
@[simp] theorem State.addOut_hub (s : State) (c n : Nat) (o : Outst) : (s.addOut c n o).hub = s.hub := rfl
@[simp] theorem State.addOut_host (s : State) (c n : Nat) (o : Outst) : (s.addOut c n o).host = s.host := rfl
@[simp] theorem State.addOut_store (s : State) (c n : Nat) (o : Outst) : (s.addOut c n o).store = s.store := rfl
@[simp] theorem State.addOut_sec (s : State) (c n : Nat) (o : Outst) : (s.addOut c n o).sec = s.sec := rfl
@[simp] theorem State.addOut_integ (s : State) (c n : Nat) (o : Outst) : (s.addOut c n o).integ = s.integ := rfl
@[simp] theorem State.addOut_therm (s : State) (c n : Nat) (o : Outst) : (s.addOut c n o).therm = s.therm := rfl
@[simp] theorem State.addOut_out (s : State) (c n : Nat) (o : Outst) : (s.addOut c n o).out = s.out := rfl
@[simp] theorem State.addOut_fresh (s : State) (c n : Nat) (o : Outst) : (s.addOut c n o).fresh = s.fresh := rfl

/-! ### modFn -/

@[simp] theorem State.modFn_pending (s : State) (f : Nat) (g : Fn → Fn) : (s.modFn f g).pending = s.pending := rfl
@[simp] theorem State.modFn_variant (s : State) (f : Nat) (g : Fn → Fn) : (s.modFn f g).variant = s.variant := rfl
@[simp] theorem State.modFn_pwr (s : State) (f : Nat) (g : Fn → Fn) : (s.modFn f g).pwr = s.pwr := rfl
@[simp] theorem State.modFn_clk (s : State) (f : Nat) (g : Fn → Fn) : (s.modFn f g).clk = s.clk := rfl
@[simp] theorem State.modFn_hub (s : State) (f : Nat) (g : Fn → Fn) : (s.modFn f g).hub = s.hub := rfl
@[simp] theorem State.modFn_store (s : State) (f : Nat) (g : Fn → Fn) : (s.modFn f g).store = s.store := rfl
@[simp] theorem State.modFn_sec (s : State) (f : Nat) (g : Fn → Fn) : (s.modFn f g).sec = s.sec := rfl
@[simp] theorem State.modFn_integ (s : State) (f : Nat) (g : Fn → Fn) : (s.modFn f g).integ = s.integ := rfl
@[simp] theorem State.modFn_therm (s : State) (f : Nat) (g : Fn → Fn) : (s.modFn f g).therm = s.therm := rfl
@[simp] theorem State.modFn_out (s : State) (f : Nat) (g : Fn → Fn) : (s.modFn f g).out = s.out := rfl
@[simp] theorem State.modFn_chans (s : State) (f : Nat) (g : Fn → Fn) : (s.modFn f g).chans = s.chans := rfl
@[simp] theorem State.modFn_fresh (s : State) (f : Nat) (g : Fn → Fn) : (s.modFn f g).fresh = s.fresh := rfl

/-! ### modPort -/

@[simp] theorem State.modPort_pending (s : State) (p : Nat) (g : Port → Port) : (s.modPort p g).pending = s.pending := rfl
@[simp] theorem State.modPort_variant (s : State) (p : Nat) (g : Port → Port) : (s.modPort p g).variant = s.variant := rfl
@[simp] theorem State.modPort_pwr (s : State) (p : Nat) (g : Port → Port) : (s.modPort p g).pwr = s.pwr := rfl
@[simp] theorem State.modPort_clk (s : State) (p : Nat) (g : Port → Port) : (s.modPort p g).clk = s.clk := rfl
@[simp] theorem State.modPort_hub (s : State) (p : Nat) (g : Port → Port) : (s.modPort p g).hub = s.hub := rfl
@[simp] theorem State.modPort_store (s : State) (p : Nat) (g : Port → Port) : (s.modPort p g).store = s.store := rfl
@[simp] theorem State.modPort_sec (s : State) (p : Nat) (g : Port → Port) : (s.modPort p g).sec = s.sec := rfl
@[simp] theorem State.modPort_integ (s : State) (p : Nat) (g : Port → Port) : (s.modPort p g).integ = s.integ := rfl
@[simp] theorem State.modPort_therm (s : State) (p : Nat) (g : Port → Port) : (s.modPort p g).therm = s.therm := rfl
@[simp] theorem State.modPort_out (s : State) (p : Nat) (g : Port → Port) : (s.modPort p g).out = s.out := rfl
@[simp] theorem State.modPort_chans (s : State) (p : Nat) (g : Port → Port) : (s.modPort p g).chans = s.chans := rfl
@[simp] theorem State.modPort_fresh (s : State) (p : Nat) (g : Port → Port) : (s.modPort p g).fresh = s.fresh := rfl

/-! ### modPeer -/

@[simp] theorem State.modPeer_pending (s : State) (n : Nat) (g : Peer → Peer) : (s.modPeer n g).pending = s.pending := rfl
@[simp] theorem State.modPeer_variant (s : State) (n : Nat) (g : Peer → Peer) : (s.modPeer n g).variant = s.variant := rfl
@[simp] theorem State.modPeer_pwr (s : State) (n : Nat) (g : Peer → Peer) : (s.modPeer n g).pwr = s.pwr := rfl
@[simp] theorem State.modPeer_clk (s : State) (n : Nat) (g : Peer → Peer) : (s.modPeer n g).clk = s.clk := rfl
@[simp] theorem State.modPeer_hub (s : State) (n : Nat) (g : Peer → Peer) : (s.modPeer n g).hub = s.hub := rfl
@[simp] theorem State.modPeer_store (s : State) (n : Nat) (g : Peer → Peer) : (s.modPeer n g).store = s.store := rfl
@[simp] theorem State.modPeer_sec (s : State) (n : Nat) (g : Peer → Peer) : (s.modPeer n g).sec = s.sec := rfl
@[simp] theorem State.modPeer_integ (s : State) (n : Nat) (g : Peer → Peer) : (s.modPeer n g).integ = s.integ := rfl
@[simp] theorem State.modPeer_therm (s : State) (n : Nat) (g : Peer → Peer) : (s.modPeer n g).therm = s.therm := rfl
@[simp] theorem State.modPeer_out (s : State) (n : Nat) (g : Peer → Peer) : (s.modPeer n g).out = s.out := rfl
@[simp] theorem State.modPeer_chans (s : State) (n : Nat) (g : Peer → Peer) : (s.modPeer n g).chans = s.chans := rfl
@[simp] theorem State.modPeer_fresh (s : State) (n : Nat) (g : Peer → Peer) : (s.modPeer n g).fresh = s.fresh := rfl

/-! ### modSq -/

@[simp] theorem State.modSq_pending (s : State) (f n : Nat) (g : Ring → Ring) : (s.modSq f n g).pending = s.pending := rfl
@[simp] theorem State.modSq_variant (s : State) (f n : Nat) (g : Ring → Ring) : (s.modSq f n g).variant = s.variant := rfl
@[simp] theorem State.modSq_pwr (s : State) (f n : Nat) (g : Ring → Ring) : (s.modSq f n g).pwr = s.pwr := rfl
@[simp] theorem State.modSq_clk (s : State) (f n : Nat) (g : Ring → Ring) : (s.modSq f n g).clk = s.clk := rfl
@[simp] theorem State.modSq_hub (s : State) (f n : Nat) (g : Ring → Ring) : (s.modSq f n g).hub = s.hub := rfl
@[simp] theorem State.modSq_store (s : State) (f n : Nat) (g : Ring → Ring) : (s.modSq f n g).store = s.store := rfl
@[simp] theorem State.modSq_sec (s : State) (f n : Nat) (g : Ring → Ring) : (s.modSq f n g).sec = s.sec := rfl
@[simp] theorem State.modSq_integ (s : State) (f n : Nat) (g : Ring → Ring) : (s.modSq f n g).integ = s.integ := rfl
@[simp] theorem State.modSq_therm (s : State) (f n : Nat) (g : Ring → Ring) : (s.modSq f n g).therm = s.therm := rfl
@[simp] theorem State.modSq_out (s : State) (f n : Nat) (g : Ring → Ring) : (s.modSq f n g).out = s.out := rfl
@[simp] theorem State.modSq_chans (s : State) (f n : Nat) (g : Ring → Ring) : (s.modSq f n g).chans = s.chans := rfl
@[simp] theorem State.modSq_fresh (s : State) (f n : Nat) (g : Ring → Ring) : (s.modSq f n g).fresh = s.fresh := rfl

/-! ### modCq -/

@[simp] theorem State.modCq_pending (s : State) (f n : Nat) (g : Ring → Ring) : (s.modCq f n g).pending = s.pending := rfl
@[simp] theorem State.modCq_variant (s : State) (f n : Nat) (g : Ring → Ring) : (s.modCq f n g).variant = s.variant := rfl
@[simp] theorem State.modCq_pwr (s : State) (f n : Nat) (g : Ring → Ring) : (s.modCq f n g).pwr = s.pwr := rfl
@[simp] theorem State.modCq_clk (s : State) (f n : Nat) (g : Ring → Ring) : (s.modCq f n g).clk = s.clk := rfl
@[simp] theorem State.modCq_hub (s : State) (f n : Nat) (g : Ring → Ring) : (s.modCq f n g).hub = s.hub := rfl
@[simp] theorem State.modCq_store (s : State) (f n : Nat) (g : Ring → Ring) : (s.modCq f n g).store = s.store := rfl
@[simp] theorem State.modCq_sec (s : State) (f n : Nat) (g : Ring → Ring) : (s.modCq f n g).sec = s.sec := rfl
@[simp] theorem State.modCq_integ (s : State) (f n : Nat) (g : Ring → Ring) : (s.modCq f n g).integ = s.integ := rfl
@[simp] theorem State.modCq_therm (s : State) (f n : Nat) (g : Ring → Ring) : (s.modCq f n g).therm = s.therm := rfl
@[simp] theorem State.modCq_out (s : State) (f n : Nat) (g : Ring → Ring) : (s.modCq f n g).out = s.out := rfl
@[simp] theorem State.modCq_chans (s : State) (f n : Nat) (g : Ring → Ring) : (s.modCq f n g).chans = s.chans := rfl
@[simp] theorem State.modCq_fresh (s : State) (f n : Nat) (g : Ring → Ring) : (s.modCq f n g).fresh = s.fresh := rfl

/-! ### popFetch -/

@[simp] theorem State.popFetch_pending (s : State)  : (s.popFetch).pending = s.pending := rfl
@[simp] theorem State.popFetch_variant (s : State)  : (s.popFetch).variant = s.variant := rfl
@[simp] theorem State.popFetch_pwr (s : State)  : (s.popFetch).pwr = s.pwr := rfl
@[simp] theorem State.popFetch_clk (s : State)  : (s.popFetch).clk = s.clk := rfl
@[simp] theorem State.popFetch_hub (s : State)  : (s.popFetch).hub = s.hub := rfl
@[simp] theorem State.popFetch_store (s : State)  : (s.popFetch).store = s.store := rfl
@[simp] theorem State.popFetch_sec (s : State)  : (s.popFetch).sec = s.sec := rfl
@[simp] theorem State.popFetch_integ (s : State)  : (s.popFetch).integ = s.integ := rfl
@[simp] theorem State.popFetch_therm (s : State)  : (s.popFetch).therm = s.therm := rfl
@[simp] theorem State.popFetch_out (s : State)  : (s.popFetch).out = s.out := rfl
@[simp] theorem State.popFetch_chans (s : State)  : (s.popFetch).chans = s.chans := rfl
@[simp] theorem State.popFetch_fresh (s : State)  : (s.popFetch).fresh = s.fresh := rfl

/-! ### countJob -/

@[simp] theorem State.countJob_pending (s : State)  : (s.countJob).pending = s.pending := rfl
@[simp] theorem State.countJob_variant (s : State)  : (s.countJob).variant = s.variant := rfl
@[simp] theorem State.countJob_pwr (s : State)  : (s.countJob).pwr = s.pwr := rfl
@[simp] theorem State.countJob_clk (s : State)  : (s.countJob).clk = s.clk := rfl
@[simp] theorem State.countJob_hub (s : State)  : (s.countJob).hub = s.hub := rfl
@[simp] theorem State.countJob_store (s : State)  : (s.countJob).store = s.store := rfl
@[simp] theorem State.countJob_sec (s : State)  : (s.countJob).sec = s.sec := rfl
@[simp] theorem State.countJob_integ (s : State)  : (s.countJob).integ = s.integ := rfl
@[simp] theorem State.countJob_therm (s : State)  : (s.countJob).therm = s.therm := rfl
@[simp] theorem State.countJob_out (s : State)  : (s.countJob).out = s.out := rfl
@[simp] theorem State.countJob_chans (s : State)  : (s.countJob).chans = s.chans := rfl
@[simp] theorem State.countJob_fresh (s : State)  : (s.countJob).fresh = s.fresh := rfl

/-! ### hostWrite -/

@[simp] theorem State.hostWrite_pending (s : State) (a : Nat) (b : List Byte) : (s.hostWrite a b).pending = s.pending := rfl
@[simp] theorem State.hostWrite_variant (s : State) (a : Nat) (b : List Byte) : (s.hostWrite a b).variant = s.variant := rfl
@[simp] theorem State.hostWrite_pwr (s : State) (a : Nat) (b : List Byte) : (s.hostWrite a b).pwr = s.pwr := rfl
@[simp] theorem State.hostWrite_clk (s : State) (a : Nat) (b : List Byte) : (s.hostWrite a b).clk = s.clk := rfl
@[simp] theorem State.hostWrite_hub (s : State) (a : Nat) (b : List Byte) : (s.hostWrite a b).hub = s.hub := rfl
@[simp] theorem State.hostWrite_store (s : State) (a : Nat) (b : List Byte) : (s.hostWrite a b).store = s.store := rfl
@[simp] theorem State.hostWrite_sec (s : State) (a : Nat) (b : List Byte) : (s.hostWrite a b).sec = s.sec := rfl
@[simp] theorem State.hostWrite_integ (s : State) (a : Nat) (b : List Byte) : (s.hostWrite a b).integ = s.integ := rfl
@[simp] theorem State.hostWrite_therm (s : State) (a : Nat) (b : List Byte) : (s.hostWrite a b).therm = s.therm := rfl
@[simp] theorem State.hostWrite_chans (s : State) (a : Nat) (b : List Byte) : (s.hostWrite a b).chans = s.chans := rfl
@[simp] theorem State.hostWrite_fresh (s : State) (a : Nat) (b : List Byte) : (s.hostWrite a b).fresh = s.fresh := rfl

/-! ### errlog -/

@[simp] theorem State.errlog_pending (s : State) (p r o d : Nat) (v : BitVec 64) : (s.errlog p r o d v).pending = s.pending := rfl
@[simp] theorem State.errlog_variant (s : State) (p r o d : Nat) (v : BitVec 64) : (s.errlog p r o d v).variant = s.variant := rfl
@[simp] theorem State.errlog_pwr (s : State) (p r o d : Nat) (v : BitVec 64) : (s.errlog p r o d v).pwr = s.pwr := rfl
@[simp] theorem State.errlog_clk (s : State) (p r o d : Nat) (v : BitVec 64) : (s.errlog p r o d v).clk = s.clk := rfl
@[simp] theorem State.errlog_host (s : State) (p r o d : Nat) (v : BitVec 64) : (s.errlog p r o d v).host = s.host := rfl
@[simp] theorem State.errlog_store (s : State) (p r o d : Nat) (v : BitVec 64) : (s.errlog p r o d v).store = s.store := rfl
@[simp] theorem State.errlog_sec (s : State) (p r o d : Nat) (v : BitVec 64) : (s.errlog p r o d v).sec = s.sec := rfl
@[simp] theorem State.errlog_integ (s : State) (p r o d : Nat) (v : BitVec 64) : (s.errlog p r o d v).integ = s.integ := rfl
@[simp] theorem State.errlog_therm (s : State) (p r o d : Nat) (v : BitVec 64) : (s.errlog p r o d v).therm = s.therm := rfl
@[simp] theorem State.errlog_out (s : State) (p r o d : Nat) (v : BitVec 64) : (s.errlog p r o d v).out = s.out := rfl
@[simp] theorem State.errlog_chans (s : State) (p r o d : Nat) (v : BitVec 64) : (s.errlog p r o d v).chans = s.chans := rfl
@[simp] theorem State.errlog_fresh (s : State) (p r o d : Nat) (v : BitVec 64) : (s.errlog p r o d v).fresh = s.fresh := rfl

/-! ### laterRecord -/

@[simp] theorem State.laterRecord_pending (s : State)  : (s.laterRecord).pending = s.pending := rfl
@[simp] theorem State.laterRecord_variant (s : State)  : (s.laterRecord).variant = s.variant := rfl
@[simp] theorem State.laterRecord_pwr (s : State)  : (s.laterRecord).pwr = s.pwr := rfl
@[simp] theorem State.laterRecord_clk (s : State)  : (s.laterRecord).clk = s.clk := rfl
@[simp] theorem State.laterRecord_hub (s : State)  : (s.laterRecord).hub = s.hub := rfl
@[simp] theorem State.laterRecord_host (s : State)  : (s.laterRecord).host = s.host := rfl
@[simp] theorem State.laterRecord_sec (s : State)  : (s.laterRecord).sec = s.sec := rfl
@[simp] theorem State.laterRecord_integ (s : State)  : (s.laterRecord).integ = s.integ := rfl
@[simp] theorem State.laterRecord_therm (s : State)  : (s.laterRecord).therm = s.therm := rfl
@[simp] theorem State.laterRecord_out (s : State)  : (s.laterRecord).out = s.out := rfl
@[simp] theorem State.laterRecord_chans (s : State)  : (s.laterRecord).chans = s.chans := rfl
@[simp] theorem State.laterRecord_fresh (s : State)  : (s.laterRecord).fresh = s.fresh := rfl

/-! ### wantRecord -/

@[simp] theorem State.wantRecord_pending (s : State)  : (s.wantRecord).pending = s.pending := rfl
@[simp] theorem State.wantRecord_variant (s : State)  : (s.wantRecord).variant = s.variant := rfl
@[simp] theorem State.wantRecord_pwr (s : State)  : (s.wantRecord).pwr = s.pwr := rfl
@[simp] theorem State.wantRecord_clk (s : State)  : (s.wantRecord).clk = s.clk := rfl
@[simp] theorem State.wantRecord_hub (s : State)  : (s.wantRecord).hub = s.hub := rfl
@[simp] theorem State.wantRecord_host (s : State)  : (s.wantRecord).host = s.host := rfl
@[simp] theorem State.wantRecord_sec (s : State)  : (s.wantRecord).sec = s.sec := rfl
@[simp] theorem State.wantRecord_integ (s : State)  : (s.wantRecord).integ = s.integ := rfl
@[simp] theorem State.wantRecord_therm (s : State)  : (s.wantRecord).therm = s.therm := rfl
@[simp] theorem State.wantRecord_out (s : State)  : (s.wantRecord).out = s.out := rfl
@[simp] theorem State.wantRecord_chans (s : State)  : (s.wantRecord).chans = s.chans := rfl
@[simp] theorem State.wantRecord_fresh (s : State)  : (s.wantRecord).fresh = s.fresh := rfl

/-! ### answer -/

@[simp] theorem State.answer_pending (s : State) (p c : Nat) (b : List Byte) : (s.answer p c b).pending = s.pending := rfl
@[simp] theorem State.answer_variant (s : State) (p c : Nat) (b : List Byte) : (s.answer p c b).variant = s.variant := rfl
@[simp] theorem State.answer_pwr (s : State) (p c : Nat) (b : List Byte) : (s.answer p c b).pwr = s.pwr := rfl
@[simp] theorem State.answer_clk (s : State) (p c : Nat) (b : List Byte) : (s.answer p c b).clk = s.clk := rfl
@[simp] theorem State.answer_hub (s : State) (p c : Nat) (b : List Byte) : (s.answer p c b).hub = s.hub := rfl
@[simp] theorem State.answer_host (s : State) (p c : Nat) (b : List Byte) : (s.answer p c b).host = s.host := rfl
@[simp] theorem State.answer_store (s : State) (p c : Nat) (b : List Byte) : (s.answer p c b).store = s.store := rfl
@[simp] theorem State.answer_sec (s : State) (p c : Nat) (b : List Byte) : (s.answer p c b).sec = s.sec := rfl
@[simp] theorem State.answer_integ (s : State) (p c : Nat) (b : List Byte) : (s.answer p c b).integ = s.integ := rfl
@[simp] theorem State.answer_therm (s : State) (p c : Nat) (b : List Byte) : (s.answer p c b).therm = s.therm := rfl
@[simp] theorem State.answer_chans (s : State) (p c : Nat) (b : List Byte) : (s.answer p c b).chans = s.chans := rfl
@[simp] theorem State.answer_fresh (s : State) (p c : Nat) (b : List Byte) : (s.answer p c b).fresh = s.fresh := rfl

/-! ### setConn -/

@[simp] theorem State.setConn_pending (s : State) (p : Nat) (x : SpdmConn) : (s.setConn p x).pending = s.pending := rfl
@[simp] theorem State.setConn_variant (s : State) (p : Nat) (x : SpdmConn) : (s.setConn p x).variant = s.variant := rfl
@[simp] theorem State.setConn_pwr (s : State) (p : Nat) (x : SpdmConn) : (s.setConn p x).pwr = s.pwr := rfl
@[simp] theorem State.setConn_clk (s : State) (p : Nat) (x : SpdmConn) : (s.setConn p x).clk = s.clk := rfl
@[simp] theorem State.setConn_hub (s : State) (p : Nat) (x : SpdmConn) : (s.setConn p x).hub = s.hub := rfl
@[simp] theorem State.setConn_host (s : State) (p : Nat) (x : SpdmConn) : (s.setConn p x).host = s.host := rfl
@[simp] theorem State.setConn_store (s : State) (p : Nat) (x : SpdmConn) : (s.setConn p x).store = s.store := rfl
@[simp] theorem State.setConn_integ (s : State) (p : Nat) (x : SpdmConn) : (s.setConn p x).integ = s.integ := rfl
@[simp] theorem State.setConn_therm (s : State) (p : Nat) (x : SpdmConn) : (s.setConn p x).therm = s.therm := rfl
@[simp] theorem State.setConn_out (s : State) (p : Nat) (x : SpdmConn) : (s.setConn p x).out = s.out := rfl
@[simp] theorem State.setConn_chans (s : State) (p : Nat) (x : SpdmConn) : (s.setConn p x).chans = s.chans := rfl
@[simp] theorem State.setConn_fresh (s : State) (p : Nat) (x : SpdmConn) : (s.setConn p x).fresh = s.fresh := rfl

/-! ### Reading what was written -/

theorem State.chan_setChan (s : State) (c d : Nat) (x : Chan) : (s.setChan c x).chan d = if d = c then x else s.chan d :=
  sget_sput ({} : Chan) x s.chans c d

@[simp] theorem State.chan_setChan_same (s : State) (c : Nat) (x : Chan) : (s.setChan c x).chan c = x := by
  simp [State.chan_setChan]

theorem State.chan_modChan (s : State) (c d : Nat) (f : Chan → Chan) :
    (s.modChan c f).chan d = if d = c then f (s.chan c) else s.chan d := State.chan_setChan s c d _

@[simp] theorem State.chan_modChan_same (s : State) (c : Nat) (f : Chan → Chan) : (s.modChan c f).chan c = f (s.chan c) := by
  simp [State.chan_modChan]

theorem State.chan_modChan_ne (s : State) {c d : Nat} (f : Chan → Chan) (h : d ≠ c) : (s.modChan c f).chan d = s.chan d := by
  simp [State.chan_modChan, h]

theorem Chan.slot_setSlot (k : Chan) (n m : Nat) (x : Slot) : (k.setSlot n x).slot m = if m = n then x else k.slot m :=
  sget_sput ({} : Slot) x k.seqr.slots n m

theorem Chan.tile_setTile (k : Chan) (n m : Nat) (x : Tile) : (k.setTile n x).tile m = if m = n then x else k.tile m :=
  sget_sput ({} : Tile) x k.arr.tiles n m

/-- A slot after a slot was replaced. -/
theorem State.slot_setSlot (s : State) (c n d m : Nat) (x : Slot) :
    (s.setSlot c n x).slot d m = if d = c ∧ m = n then x else s.slot d m := by
  unfold State.setSlot State.slot
  rw [State.chan_modChan]
  by_cases h : d = c
  · subst h; rw [if_pos rfl, Chan.slot_setSlot]
    by_cases k : m = n <;> simp [k, State.chan]
  · simp [h]

/-- A slot after a slot was changed. -/
theorem State.slot_modSlot (s : State) (c n d m : Nat) (f : Slot → Slot) :
    (s.modSlot c n f).slot d m = if d = c ∧ m = n then f (s.slot c n) else s.slot d m := State.slot_setSlot s c n d m _

@[simp] theorem State.slot_modSlot_same (s : State) (c n : Nat) (f : Slot → Slot) : (s.modSlot c n f).slot c n = f (s.slot c n) := by
  simp [State.slot_modSlot]

/-- A tile after a tile was changed. -/
theorem State.tile_modTile (s : State) (c n d m : Nat) (f : Tile → Tile) :
    (s.modTile c n f).tile d m = if d = c ∧ m = n then f (s.tile c n) else s.tile d m := by
  unfold State.modTile State.tile
  rw [State.chan_modChan]
  by_cases h : d = c
  · subst h; rw [if_pos rfl, Chan.tile_setTile]
    by_cases k : m = n <;> simp [k]
  · simp [h]

/-- A change of a channel that leaves its slots leaves every slot of the module. -/
theorem State.slot_modChan (s : State) (c d m : Nat) (f : Chan → Chan) (h : ∀ k, (f k).seqr.slots = k.seqr.slots) :
    (s.modChan c f).slot d m = s.slot d m := by
  unfold State.slot Chan.slot
  rw [State.chan_modChan]
  split
  · rename_i e; subst e; rw [h]
  · rfl

/-- A function after a function was changed. -/
theorem State.fn_modFn (s : State) (f d : Nat) (g : Fn → Fn) : (s.modFn f g).fn d = if d = f then g (s.fn f) else s.fn d :=
  sget_sput ({} : Fn) _ s.host.fns f d

/-- A port after a port was changed. -/
theorem State.port_modPort (s : State) (p d : Nat) (g : Port → Port) : (s.modPort p g).port d = if d = p then g (s.port p) else s.port d :=
  sget_sput ({} : Port) _ s.host.ports p d

/-- A peer window after one was changed. -/
theorem State.peer_modPeer (s : State) (n d : Nat) (g : Peer → Peer) : (s.modPeer n g).peer d = if d = n then g (s.peer n) else s.peer d :=
  sget_sput ({} : Peer) _ s.host.peers n d

/-- A context record after one was replaced. -/
theorem State.ctx_setCtx (s : State) (r : Nat) (x : Ctx) : (s.setCtx r x).ctx r = x := by
  unfold State.setCtx State.ctx
  simp

theorem State.ctx_modCtx (s : State) (r : Nat) (f : Ctx → Ctx) : (s.modCtx r f).ctx r = { f (s.ctx r) with sysBad := 0 } :=
  State.ctx_setCtx s r _

/-- A register after a write of a register: register 0 reads 0 and takes no value. -/
theorem Slot.reg_setReg (x : Slot) (r q : Nat) (v : Word) : (x.setReg r v).reg q = if q = r ∧ r ≠ 0 then v else x.reg q := by
  unfold Slot.setReg Slot.reg
  by_cases hr : r = 0
  · simp [hr]
  · simp only [hr, if_false, sget_sput]
    by_cases hq : q = r
    · subst hq; simp [hr]
    · simp [hq]

end Sys2Proof.Machine
end

