-- ==== Sys2Proof/Laws/Issue.lean ====
section
/-! SUPPORT. Counting and issuing: what a count changes, and what the issue of an instruction leaves as it was. -/

namespace Sys2Proof.Machine

/-! ### Counting -/

/-- From `s` to `t` only the counters and samples of channel `c` changed. -/
structure CountsOnly (c : Nat) (s t : State) : Prop where
  rest : t = { s with chans := t.chans }
  others : ∀ d, d ≠ c → t.chan d = s.chan d
  own : t.chan c = { s.chan c with dbg := (t.chan c).dbg }

theorem CountsOnly.refl (c : Nat) (s : State) : CountsOnly c s s := ⟨rfl, fun _ _ => rfl, rfl⟩

theorem CountsOnly.trans {c : Nat} {s t u : State} (h : CountsOnly c s t) (k : CountsOnly c t u) : CountsOnly c s u := by
  refine ⟨?_, fun d e => (k.others d e).trans (h.others d e), ?_⟩
  · rw [k.rest, h.rest]
  · rw [k.own, h.own]

theorem CountsOnly.modChan {c : Nat} {s : State} {f : Chan → Chan} (h : ∀ k, f k = { k with dbg := (f k).dbg }) :
    CountsOnly c s (s.modChan c f) := by
  refine ⟨rfl, fun d e => State.chan_modChan_ne s f e, ?_⟩
  rw [State.chan_modChan_same]; exact h _

theorem CountsOnly.foldl {c : Nat} {α : Type} {f : State → α → State} (h : ∀ s a, CountsOnly c s (f s a)) :
    ∀ (l : List α) (s : State), CountsOnly c s (l.foldl f s)
  | [], s => CountsOnly.refl c s
  | a :: l, s => (h s a).trans (CountsOnly.foldl h l _)

theorem Chan.count_dbg (k : Chan) (n code i : Nat) (ctx : Option Nat) :
    k.count n code i ctx = { k with dbg := (k.count n code i ctx).dbg } := by
  unfold Chan.count
  have : ∀ (l : List Nat) (k : Chan), (l.foldl (fun k j =>
      if selects (sget 0 k.dbg.cntSel j) code ctx then
        { k with dbg := { k.dbg with cnt := smod 0 k.dbg.cnt j (fun v => BitVec.ofNat 64 (satAdd (2 ^ 64 - 1) v.toNat i)) } }
      else k) k) = { k with dbg := (l.foldl (fun k j =>
      if selects (sget 0 k.dbg.cntSel j) code ctx then
        { k with dbg := { k.dbg with cnt := smod 0 k.dbg.cnt j (fun v => BitVec.ofNat 64 (satAdd (2 ^ 64 - 1) v.toNat i)) } }
      else k) k).dbg } := by
    intro l
    induction l with
    | nil => intro k; rfl
    | cons j l ih =>
      intro k
      rw [List.foldl_cons, ih]
      split <;> rfl
  exact this _ _

theorem State.countN_only (s : State) (c code n : Nat) (ctx : Option Nat) : CountsOnly c s (s.countN c code n ctx) := by
  unfold State.countN
  split
  · exact CountsOnly.refl c s
  · exact CountsOnly.modChan (fun k => Chan.count_dbg k _ _ _ _)

theorem State.sampleHit_only (s : State) (c e sl : Nat) (o : Outst) : CountsOnly c s (s.sampleHit c e sl o) := by
  unfold State.sampleHit
  split
  · exact CountsOnly.refl c s
  · dsimp only
    split
    · exact CountsOnly.refl c s
    · split
      · exact CountsOnly.modChan (fun _ => rfl)
      · exact CountsOnly.modChan (fun _ => rfl)

theorem State.countBy_only (s : State) (c code n sl : Nat) (o : Outst) : CountsOnly c s (s.countBy c code n sl o) := by
  unfold State.countBy
  dsimp only
  split
  · exact State.countN_only s c code n _
  · exact (State.countN_only s c code n _).trans (CountsOnly.foldl (fun s _ => State.sampleHit_only s c code sl o) _ _)

theorem State.sampleDone_only (s : State) (c seq run : Nat) : CountsOnly c s (s.sampleDone c seq run) := by
  unfold State.sampleDone
  split
  · exact CountsOnly.refl c s
  · exact CountsOnly.modChan (fun _ => rfl)

theorem CountsOnly.slot {c : Nat} {s t : State} (h : CountsOnly c s t) (d n : Nat) : t.slot d n = s.slot d n := by
  unfold State.slot
  by_cases e : d = c
  · subst e; rw [h.own]; rfl
  · rw [h.others d e]

/-! ### Issue -/

theorem sget_map_leaving (m : Sparse Bar) (sl b : Nat) :
    sget ({} : Bar) (m.map (fun e => (e.1, { e.2 with leaving := e.2.leaving.filter (fun w => w.slot != sl) }))) b =
      { sget ({} : Bar) m b with leaving := (sget ({} : Bar) m b).leaving.filter (fun w => w.slot != sl) } := by
  induction m with
  | nil => rfl
  | cons e m ih =>
    obtain ⟨j, x⟩ := e
    simp only [List.map_cons, sget]
    split
    · rfl
    · exact ih

theorem sget_leaving_none (m : Sparse Bar) (sl b : Nat) (h : m.any (fun e => e.2.leaving.any (fun w => w.slot == sl)) = false) :
    sget ({} : Bar) m b = { sget ({} : Bar) m b with leaving := (sget ({} : Bar) m b).leaving.filter (fun w => w.slot != sl) } := by
  induction m with
  | nil => rfl
  | cons e m ih =>
    obtain ⟨j, x⟩ := e
    simp only [List.any_cons, Bool.or_eq_false_iff] at h
    simp only [sget]
    split
    · have e : x.leaving.filter (fun w => w.slot != sl) = x.leaving := by
        rw [List.filter_eq_self]
        intro w hw
        have := (List.any_eq_false.1 h.1) w hw
        simpa using this
      rw [e]
    · exact ih h.2

/-- The issue of an instruction keeps the frame. -/
theorem State.issued_frame (s : State) (c sl : Nat) (w : Word) : IssueFrame s (s.issued c sl w) c sl := by
  have hc := State.countBy_only s c 0x90 1 sl (s.entryOf c sl w)
  unfold State.issued
  dsimp only
  generalize s.countBy c 0x90 1 sl (s.entryOf c sl w) = u at hc
  refine ⟨?_, ?_, ?_, ?_, ?_, ?_, ?_⟩
  · rw [hc.rest]; rfl
  · intro d hd
    unfold State.modSlot State.setSlot
    rw [State.chan_modChan_ne _ _ hd, State.chan_modChan_ne _ _ hd, hc.others d hd]
  · intro n hn
    rw [State.slot_modSlot, if_neg (by simp [hn]), State.slot_modChan _ _ _ _ _ (by intro k; rfl), hc.slot]
  · unfold State.modSlot State.setSlot
    simp only [State.chan_modChan_same]
    rw [hc.own]; rfl
  · unfold State.modSlot State.setSlot
    simp only [State.chan_modChan_same, Chan.setSlot]
    rw [hc.own]
  · unfold State.modSlot State.setSlot
    simp only [State.chan_modChan_same, Chan.setSlot]
    rw [hc.own]; split <;> rfl
  · intro b
    unfold State.modSlot State.setSlot
    simp only [State.chan_modChan_same, Chan.setSlot, Chan.barrier]
    have e : u.chan c = { s.chan c with dbg := (u.chan c).dbg } := hc.own
    have e2 : (u.chan c).sync = (s.chan c).sync := by rw [e]
    rw [e2]
    split
    · exact sget_map_leaving _ _ _
    · rename_i h
      exact sget_leaving_none _ _ _ (by simpa using h)

/-- The slot that issues: its program counter and its count since the last yield go up by one. -/
theorem State.issued_slot (s : State) (c sl : Nat) (w : Word) :
    (s.issued c sl w).slot c sl = { s.slot c sl with pc := (s.slot c sl).pc + 1, sinceYield := (s.slot c sl).sinceYield + 1 } := by
  have hc := State.countBy_only s c 0x90 1 sl (s.entryOf c sl w)
  unfold State.issued
  dsimp only
  rw [State.slot_modSlot_same, State.slot_modChan _ _ _ _ _ (by intro k; rfl), hc.slot]

/-- A count after an issue keeps the frame. -/
theorem IssueFrame.counts {s t u : State} {c sl : Nat} (h : IssueFrame s t c sl) (k : CountsOnly c t u) : IssueFrame s u c sl := by
  refine ⟨?_, fun d e => (k.others d e).trans (h.others d e), fun n e => (k.slot c n).trans (h.slots n e), ?_, ?_, ?_, ?_⟩
  · rw [k.rest, h.rest]
  · rw [k.own, h.chan]
  · rw [k.own]; exact h.seqr
  · rw [k.own]; exact h.sync
  · intro b; rw [k.own]; exact h.bars b

/-- A change of the issuing slot keeps the frame. -/
theorem IssueFrame.modSlot {s t : State} {c sl : Nat} (h : IssueFrame s t c sl) (f : Slot → Slot) :
    IssueFrame s (t.modSlot c sl f) c sl := by
  refine ⟨?_, ?_, ?_, ?_, ?_, ?_, ?_⟩
  · rw [h.rest]; rfl
  · intro d hd
    unfold State.modSlot State.setSlot
    rw [State.chan_modChan_ne _ _ hd, h.others d hd]
  · intro n hn
    rw [State.slot_modSlot, if_neg (by simp [hn]), h.slots n hn]
  · unfold State.modSlot State.setSlot
    simp only [State.chan_modChan_same, Chan.setSlot]
    rw [h.chan]
  · unfold State.modSlot State.setSlot
    simp only [State.chan_modChan_same, Chan.setSlot]
    rw [h.seqr]
  · unfold State.modSlot State.setSlot
    simp only [State.chan_modChan_same, Chan.setSlot]
    exact h.sync
  · intro b
    unfold State.modSlot State.setSlot
    simp only [State.chan_modChan_same, Chan.setSlot]
    exact h.bars b

/-- An instruction that is ready and within the limit acts on the state its issue leaves. -/
theorem State.issue_next (s : State) {c sl op : Nat} {w : Word} (act : State → Outst → State) (h : s.atIssue c sl op = some w)
    (r : (s.slot c sl).sinceYield + 1 < runawayLimit ∨ op = 0x60 ∨ op = 0x61) :
    s.issue c sl op act = act (s.issued c sl w) (s.entryOf c sl w) := by
  unfold State.issue
  rw [h]
  exact if_pos r

end Sys2Proof.Machine
end

