-- ==== Sys2Proof/Laws/Channels.lean ====
section
/-! SUPPORT. Changing every fitted channel, counting in every channel, and reporting events: what each leaves and what it gives. -/

namespace Sys2Proof.Machine

/-- A fold over channel numbers that changes channel `c` at `c` only, by a function of the channels as they stood there. -/
theorem State.chan_foldl_modChan (f : Nat → Chan → Chan) : ∀ (l : List Nat) (s : State) (d : Nat), l.Nodup →
    ((l.foldl (fun t c => t.modChan c (f c)) s).chan d) = if d ∈ l then f d (s.chan d) else s.chan d
  | [], s, d, _ => by simp
  | c :: l, s, d, h => by
    obtain ⟨h1, h2⟩ := List.nodup_cons.1 h
    rw [List.foldl_cons, State.chan_foldl_modChan f l _ d h2]
    by_cases e : d = c
    · subst e; simp [h1]
    · rw [State.chan_modChan_ne _ _ e]; simp [e]

/-- The fold changes the channels alone. -/
theorem State.foldl_modChan_rest (f : Nat → Chan → Chan) : ∀ (l : List Nat) (s : State),
    l.foldl (fun t c => t.modChan c (f c)) s = { s with chans := (l.foldl (fun t c => t.modChan c (f c)) s).chans }
  | [], s => rfl
  | c :: l, s => by
    rw [List.foldl_cons, State.foldl_modChan_rest f l (s.modChan c (f c))]; rfl

/-- A fitted channel after `allChans`. -/
theorem State.chan_allChans (s : State) (f : Nat → Chan → Chan) {d : Nat} (h : d < s.channels) :
    (s.allChans f).chan d = f d (s.chan d) := by
  unfold State.allChans
  rw [State.chan_foldl_modChan f _ s d List.nodup_range, if_pos (List.mem_range.2 h)]

/-- A channel not fitted after `allChans`. -/
theorem State.chan_allChans_of_le (s : State) (f : Nat → Chan → Chan) {d : Nat} (h : s.channels ≤ d) :
    (s.allChans f).chan d = s.chan d := by
  unfold State.allChans
  rw [State.chan_foldl_modChan f _ s d List.nodup_range, if_neg (by rw [List.mem_range]; omega)]

/-- `allChans` changes the channels alone. -/
theorem State.allChans_rest (s : State) (f : Nat → Chan → Chan) : s.allChans f = { s with chans := (s.allChans f).chans } :=
  State.foldl_modChan_rest f _ s

/-- The fold of `Chan.count` over counter numbers: each selected counter named gains `n`. -/
theorem Chan.cnt_foldl (code n : Nat) (ctx : Option Nat) : ∀ (l : List Nat) (k : Chan) (j : Nat), l.Nodup →
    sget 0 (l.foldl (fun k j => if selects (sget 0 k.dbg.cntSel j) code ctx then
        { k with dbg := { k.dbg with cnt := smod 0 k.dbg.cnt j (fun v => BitVec.ofNat 64 (satAdd (2 ^ 64 - 1) v.toNat n)) } }
      else k) k).dbg.cnt j =
      if j ∈ l ∧ selects (sget 0 k.dbg.cntSel j) code ctx = true
      then BitVec.ofNat 64 (satAdd (2 ^ 64 - 1) (sget 0 k.dbg.cnt j).toNat n) else sget 0 k.dbg.cnt j
  | [], k, j, _ => by simp
  | i :: l, k, j, h => by
    obtain ⟨h1, h2⟩ := List.nodup_cons.1 h
    rw [List.foldl_cons, Chan.cnt_foldl code n ctx l _ j h2]
    by_cases e : j = i
    · subst e
      rw [if_neg (by simp [h1])]
      split
      · rename_i hs
        rw [if_pos ⟨List.mem_cons_self, hs⟩, sget_smod, if_pos rfl]
      · rename_i hs
        rw [if_neg (fun h => hs h.2)]
    · have hc : sget 0 (if selects (sget 0 k.dbg.cntSel i) code ctx = true then
          { k with dbg := { k.dbg with cnt := smod 0 k.dbg.cnt i (fun v => BitVec.ofNat 64 (satAdd (2 ^ 64 - 1) v.toNat n)) } } else k).dbg.cnt j =
          sget 0 k.dbg.cnt j := by
        split
        · exact (sget_smod (0 : BitVec 64) k.dbg.cnt i (fun v => BitVec.ofNat 64 (satAdd (2 ^ 64 - 1) v.toNat n)) j).trans (if_neg e)
        · rfl
      have hs : (if selects (sget 0 k.dbg.cntSel i) code ctx = true then
          { k with dbg := { k.dbg with cnt := smod 0 k.dbg.cnt i (fun v => BitVec.ofNat 64 (satAdd (2 ^ 64 - 1) v.toNat n)) } } else k).dbg.cntSel =
          k.dbg.cntSel := by split <;> rfl
      rw [hc, hs]; simp [e]

/-- A counter after a count. -/
theorem Chan.cnt_count (k : Chan) (m code n j : Nat) (ctx : Option Nat) :
    sget 0 (k.count m code n ctx).dbg.cnt j =
      if j < m ∧ selects (sget 0 k.dbg.cntSel j) code ctx = true
      then BitVec.ofNat 64 (satAdd (2 ^ 64 - 1) (sget 0 k.dbg.cnt j).toNat n) else sget 0 k.dbg.cnt j := by
  unfold Chan.count
  rw [Chan.cnt_foldl code n ctx _ k j List.nodup_range]
  simp only [List.mem_range]

/-- A count changes the counters alone. -/
theorem Chan.count_cnt (k : Chan) (m code n : Nat) (ctx : Option Nat) :
    k.count m code n ctx = { k with dbg := { k.dbg with cnt := (k.count m code n ctx).dbg.cnt } } := by
  unfold Chan.count
  suffices ∀ (l : List Nat) (k : Chan), (l.foldl (fun k j => if selects (sget 0 k.dbg.cntSel j) code ctx then
        { k with dbg := { k.dbg with cnt := smod 0 k.dbg.cnt j (fun v => BitVec.ofNat 64 (satAdd (2 ^ 64 - 1) v.toNat n)) } }
      else k) k) = { k with dbg := { k.dbg with cnt := (l.foldl (fun k j => if selects (sget 0 k.dbg.cntSel j) code ctx then
        { k with dbg := { k.dbg with cnt := smod 0 k.dbg.cnt j (fun v => BitVec.ofNat 64 (satAdd (2 ^ 64 - 1) v.toNat n)) } }
      else k) k).dbg.cnt } } from this _ _
  intro l
  induction l with
  | nil => intro k; rfl
  | cons j l ih =>
    intro k
    rw [List.foldl_cons, ih]
    split <;> rfl

/-- An event queued: where none was lost and there is room, the record joins the end. -/
theorem State.event_queued (s : State) (cls sub chan arg arg2 : Nat) (h0 : s.hub.evLost = 0) (h : s.hub.events.length < 1024) :
    s.event cls sub chan arg arg2 = { s with hub := { s.hub with
      events := s.hub.events ++ [eventBits s.hub.evSeq s.frameN cls sub chan arg arg2], evSeq := (s.hub.evSeq + 1) % 2 ^ 32 } } := by
  unfold State.event State.pushEvent
  rw [if_neg (by simp [h0]), if_pos h]

/-- An event lost: the queue is full. -/
theorem State.event_lost (s : State) (cls sub chan arg arg2 : Nat) (h : 1024 ≤ s.hub.events.length) :
    s.event cls sub chan arg arg2 = { s with hub := { s.hub with evLost := s.hub.evLost + 1 } } := by
  unfold State.event State.pushEvent
  rw [if_neg (by omega), if_neg (by omega)]

/-- An event changes the queue alone. -/
theorem State.event_rest (s : State) (cls sub chan arg arg2 : Nat) :
    s.event cls sub chan arg arg2 = { s with hub := { s.hub with
      events := (s.event cls sub chan arg arg2).hub.events, evSeq := (s.event cls sub chan arg arg2).hub.evSeq
      evLost := (s.event cls sub chan arg arg2).hub.evLost } } := by
  unfold State.event State.pushEvent
  dsimp only
  repeat' split
  all_goals rfl

end Sys2Proof.Machine
end

