-- ==== Sys2Proof/Laws/Fields.lean ====
section
/-! SUPPORT. Reading a field of a word put together from fields. -/

namespace Sys2Proof.Machine

/-- The fields stand one below the other, below bit `top`. -/
def laidOut : Nat → List (Nat × Nat × Nat) → Bool
  | _, [] => true
  | top, e :: l => decide (e.1 < top ∧ e.2.1 ≤ e.1) && laidOut e.2.1 l

/-- `pack` as a sum from the top field down. -/
def packSum : List (Nat × Nat × Nat) → Nat
  | [] => 0
  | e :: l => e.2.2 % 2 ^ (e.1 + 1 - e.2.1) * 2 ^ e.2.1 + packSum l

theorem pack_eq_packSum (l : List (Nat × Nat × Nat)) : pack l = packSum l := by
  have h : ∀ (l : List (Nat × Nat × Nat)) (a : Nat),
      l.foldl (fun a e => a + e.2.2 % 2 ^ (e.1 + 1 - e.2.1) * 2 ^ e.2.1) a = a + packSum l := by
    intro l
    induction l with
    | nil => intro a; rfl
    | cons e l ih => intro a; rw [List.foldl_cons, ih, packSum]; omega
  unfold pack
  rw [h, Nat.zero_add]

/-- Fields below bit `top` make a number below 2^top. -/
theorem packSum_lt : ∀ (l : List (Nat × Nat × Nat)) (top : Nat), laidOut top l = true → packSum l < 2 ^ top
  | [], top, _ => Nat.two_pow_pos top
  | e :: l, top, h => by
    simp only [laidOut, Bool.and_eq_true, decide_eq_true_eq] at h
    obtain ⟨⟨h1, h2⟩, h3⟩ := h
    have ih := packSum_lt l e.2.1 h3
    have hm : e.2.2 % 2 ^ (e.1 + 1 - e.2.1) < 2 ^ (e.1 + 1 - e.2.1) := Nat.mod_lt _ (Nat.two_pow_pos _)
    have hp : 2 ^ (e.1 + 1 - e.2.1) * 2 ^ e.2.1 = 2 ^ (e.1 + 1) := by rw [← Nat.pow_add]; congr 1; omega
    have ht : 2 ^ (e.1 + 1) ≤ 2 ^ top := Nat.pow_le_pow_right (by omega) (by omega)
    have : (e.2.2 % 2 ^ (e.1 + 1 - e.2.1) + 1) * 2 ^ e.2.1 ≤ 2 ^ (e.1 + 1 - e.2.1) * 2 ^ e.2.1 := Nat.mul_le_mul_right _ hm
    rw [Nat.add_mul] at this
    rw [packSum]
    omega

/-- A field of a packed number is the value put into it. -/
theorem nfld_packSum : ∀ (l : List (Nat × Nat × Nat)) (top hi lo v : Nat), laidOut top l = true → (hi, lo, v) ∈ l →
    nfld (packSum l) hi lo = v % 2 ^ (hi + 1 - lo)
  | [], _, _, _, _, _, h => by cases h
  | e :: l, top, hi, lo, v, h, hm => by
    simp only [laidOut, Bool.and_eq_true, decide_eq_true_eq] at h
    obtain ⟨⟨h1, h2⟩, h3⟩ := h
    have hl := packSum_lt l e.2.1 h3
    rw [packSum]
    rcases List.mem_cons.1 hm with rfl | hm
    · unfold nfld
      rw [Nat.shiftRight_eq_div_pow, Nat.add_comm, Nat.add_mul_div_right _ _ (Nat.two_pow_pos _), Nat.div_eq_of_lt hl, Nat.zero_add, Nat.mod_mod]
    · have hb : ∀ (l : List (Nat × Nat × Nat)) (top : Nat), laidOut top l = true → (hi, lo, v) ∈ l → hi < top ∧ lo ≤ hi := by
        intro l
        induction l with
        | nil => intro _ _ h; cases h
        | cons a l ih =>
          intro top h hm
          simp only [laidOut, Bool.and_eq_true, decide_eq_true_eq] at h
          rcases List.mem_cons.1 hm with rfl | hm
          · exact h.1
          · have := ih a.2.1 h.2 hm; omega
      obtain ⟨b1, b2⟩ := hb l _ h3 hm
      have ih := nfld_packSum l e.2.1 hi lo v h3 hm
      rw [← ih]
      unfold nfld
      rw [Nat.shiftRight_eq_div_pow, Nat.shiftRight_eq_div_pow]
      have : e.2.2 % 2 ^ (e.1 + 1 - e.2.1) * 2 ^ e.2.1 =
          (e.2.2 % 2 ^ (e.1 + 1 - e.2.1) * 2 ^ (e.2.1 - (hi + 1)) * 2 ^ (hi + 1 - lo)) * 2 ^ lo := by
        rw [Nat.mul_assoc, Nat.mul_assoc, ← Nat.pow_add, ← Nat.pow_add]
        congr 2
        omega
      rw [this, Nat.add_comm, Nat.add_mul_div_right _ _ (Nat.two_pow_pos _), Nat.add_mul_mod_self_right]

/-- A field of a register made of fields is the value put into it. -/
theorem fld_pack {n : Nat} (l : List (Nat × Nat × Nat)) (hi lo v : Nat) (h : laidOut n l = true) (hm : (hi, lo, v) ∈ l) :
    fld (BitVec.ofNat n (pack l)) hi lo = v % 2 ^ (hi + 1 - lo) := by
  unfold fld
  rw [BitVec.toNat_ofNat, pack_eq_packSum, Nat.mod_eq_of_lt (packSum_lt l n h)]
  exact nfld_packSum l n hi lo v h hm

end Sys2Proof.Machine
end

