-- ==== Sys2Proof/Laws/Frame.lean ====
section
/-! SUPPORT. Which parts of the state each operation leaves as they are, and that every operation keeps the bounds of `Bounded`:
one lemma for each operation, to be used from the outermost operation inwards. -/

namespace Sys2Proof.Machine

/-- The parts of the state that a lemma speaks of: those marked true are unchanged. -/
structure Mask where
  pwr : Bool
  clk : Bool
  hub : Bool
  host : Bool
  store : Bool
  sec : Bool
  integ : Bool
  therm : Bool
  out : Bool
  chans : Bool
  fresh : Bool

/-- From `s` to `t` the queue and the variant stay, the bounds are kept, and so is every part that `m` marks. -/
structure Fr (m : Mask) (s t : State) : Prop where
  pending : t.pending = s.pending
  variant : t.variant = s.variant
  bounded : Bounded s → Bounded t
  pwr : m.pwr = true → t.pwr = s.pwr
  clk : m.clk = true → t.clk = s.clk
  hub : m.hub = true → t.hub = s.hub
  host : m.host = true → t.host = s.host
  store : m.store = true → t.store = s.store
  sec : m.sec = true → t.sec = s.sec
  integ : m.integ = true → t.integ = s.integ
  therm : m.therm = true → t.therm = s.therm
  out : m.out = true → t.out = s.out
  chans : m.chans = true → t.chans = s.chans
  fresh : m.fresh = true → t.fresh = s.fresh

theorem Fr.refl (m : Mask) (s : State) : Fr m s s :=
  ⟨rfl, rfl, fun h => h, fun _ => rfl, fun _ => rfl, fun _ => rfl, fun _ => rfl, fun _ => rfl, fun _ => rfl, fun _ => rfl, fun _ => rfl, fun _ => rfl, fun _ => rfl, fun _ => rfl⟩

/-- A fold whose every step keeps `Fr` keeps it. -/
theorem Fr.foldl {m : Mask} {s : State} {α : Type} {f : State → α → State} (hf : ∀ t a, Fr m s t → Fr m s (f t a)) :
    ∀ (l : List α) (t : State), Fr m s t → Fr m s (l.foldl f t)
  | [], _, h => h
  | a :: l, t, h => Fr.foldl hf l (f t a) (hf t a h)

/-- A fold that carries a value beside the state. -/
theorem Fr.foldl_fst {m : Mask} {s : State} {α β : Type} {f : State × β → α → State × β}
    (hf : ∀ p a, Fr m s p.1 → Fr m s (f p a).1) : ∀ (l : List α) (p : State × β), Fr m s p.1 → Fr m s (l.foldl f p).1
  | [], _, h => h
  | a :: l, p, h => Fr.foldl_fst hf l (f p a) (hf p a h)

theorem Fr.of_pair {m : Mask} {s u : State} {β : Type} {b : β} {p : State × β} (e : p = (u, b)) (h : Fr m s p.1) : Fr m s u := by
  cases e; exact h

/-- A command's answer of a next state keeps `Fr`. -/
structure FrOut (m : Mask) (s : State) (o : Out) : Prop where
  next : ∀ t, o = .next t → Fr m s t

theorem Fr.ite {m : Mask} {s a b : State} {c : Prop} [Decidable c] (h : Fr m s a) (k : Fr m s b) : Fr m s (if c then a else b) := by
  split <;> assumption

theorem Fr.stateOf {m : Mask} {s t : State} {o : Out} (h : FrOut m s o) (k : Fr m s t) : Fr m s (stateOf o t) := by
  cases o with
  | next u => exact h.next u rfl
  | fault _ => exact k
  | refused _ => exact k

theorem FrOut.go {m : Mask} {s t : State} (h : Fr m s t) : FrOut m s (go t) := by
  exact ⟨fun u e => by cases e; exact h⟩

theorem FrOut.onlyIf {m : Mask} {s t u : State} {c : Bool} (h : Fr m s t) (k : Fr m s u) : FrOut m s (onlyIf c t u) := by
  exact ⟨fun v e => by cases e; split <;> assumption⟩

theorem FrOut.fault {m : Mask} {s : State} {f : Fault} : FrOut m s (.fault f) := by
  exact ⟨fun v e => by cases e⟩

theorem Fr.set_chans {m : Mask} {s t : State} (q_chans : m.chans = false) {x_chans : Sparse Chan}
    (i : Bounded t → Bounded { t with chans := x_chans }) (h : Fr m s t) : Fr m s { t with chans := x_chans } :=
  ⟨h.pending, h.variant, fun b => i (h.bounded b), h.pwr, h.clk, h.hub, h.host, h.store, h.sec, h.integ, h.therm, h.out, (fun e => absurd e (by simp [q_chans])), h.fresh⟩

theorem Fr.set_clk {m : Mask} {s t : State} (q_clk : m.clk = false) {x_clk : Clock}
    (i : Bounded t → Bounded { t with clk := x_clk }) (h : Fr m s t) : Fr m s { t with clk := x_clk } :=
  ⟨h.pending, h.variant, fun b => i (h.bounded b), h.pwr, (fun e => absurd e (by simp [q_clk])), h.hub, h.host, h.store, h.sec, h.integ, h.therm, h.out, h.chans, h.fresh⟩

theorem Fr.set_clk_host {m : Mask} {s t : State} (q_clk : m.clk = false) (q_host : m.host = false) {x_clk : Clock} {x_host : HostSide}
    (i : Bounded t → Bounded { t with clk := x_clk, host := x_host }) (h : Fr m s t) : Fr m s { t with clk := x_clk, host := x_host } :=
  ⟨h.pending, h.variant, fun b => i (h.bounded b), h.pwr, (fun e => absurd e (by simp [q_clk])), h.hub, (fun e => absurd e (by simp [q_host])), h.store, h.sec, h.integ, h.therm, h.out, h.chans, h.fresh⟩

theorem Fr.set_clk_hub {m : Mask} {s t : State} (q_clk : m.clk = false) (q_hub : m.hub = false) {x_clk : Clock} {x_hub : Hub}
    (i : Bounded t → Bounded { t with clk := x_clk, hub := x_hub }) (h : Fr m s t) : Fr m s { t with clk := x_clk, hub := x_hub } :=
  ⟨h.pending, h.variant, fun b => i (h.bounded b), h.pwr, (fun e => absurd e (by simp [q_clk])), (fun e => absurd e (by simp [q_hub])), h.host, h.store, h.sec, h.integ, h.therm, h.out, h.chans, h.fresh⟩

theorem Fr.set_clk_integ {m : Mask} {s t : State} (q_clk : m.clk = false) (q_integ : m.integ = false) {x_clk : Clock} {x_integ : Integ}
    (i : Bounded t → Bounded { t with clk := x_clk, integ := x_integ }) (h : Fr m s t) : Fr m s { t with clk := x_clk, integ := x_integ } :=
  ⟨h.pending, h.variant, fun b => i (h.bounded b), h.pwr, (fun e => absurd e (by simp [q_clk])), h.hub, h.host, h.store, h.sec, (fun e => absurd e (by simp [q_integ])), h.therm, h.out, h.chans, h.fresh⟩

theorem Fr.set_clk_out {m : Mask} {s t : State} (q_clk : m.clk = false) (q_out : m.out = false) {x_clk : Clock} {x_out : Output}
    (i : Bounded t → Bounded { t with clk := x_clk, out := x_out }) (h : Fr m s t) : Fr m s { t with clk := x_clk, out := x_out } :=
  ⟨h.pending, h.variant, fun b => i (h.bounded b), h.pwr, (fun e => absurd e (by simp [q_clk])), h.hub, h.host, h.store, h.sec, h.integ, h.therm, (fun e => absurd e (by simp [q_out])), h.chans, h.fresh⟩

theorem Fr.set_clk_sec {m : Mask} {s t : State} (q_clk : m.clk = false) (q_sec : m.sec = false) {x_clk : Clock} {x_sec : Sec}
    (i : Bounded t → Bounded { t with clk := x_clk, sec := x_sec }) (h : Fr m s t) : Fr m s { t with clk := x_clk, sec := x_sec } :=
  ⟨h.pending, h.variant, fun b => i (h.bounded b), h.pwr, (fun e => absurd e (by simp [q_clk])), h.hub, h.host, h.store, (fun e => absurd e (by simp [q_sec])), h.integ, h.therm, h.out, h.chans, h.fresh⟩

theorem Fr.set_clk_store {m : Mask} {s t : State} (q_clk : m.clk = false) (q_store : m.store = false) {x_clk : Clock} {x_store : Store}
    (i : Bounded t → Bounded { t with clk := x_clk, store := x_store }) (h : Fr m s t) : Fr m s { t with clk := x_clk, store := x_store } :=
  ⟨h.pending, h.variant, fun b => i (h.bounded b), h.pwr, (fun e => absurd e (by simp [q_clk])), h.hub, h.host, (fun e => absurd e (by simp [q_store])), h.sec, h.integ, h.therm, h.out, h.chans, h.fresh⟩

theorem Fr.set_clk_therm {m : Mask} {s t : State} (q_clk : m.clk = false) (q_therm : m.therm = false) {x_clk : Clock} {x_therm : Therm}
    (i : Bounded t → Bounded { t with clk := x_clk, therm := x_therm }) (h : Fr m s t) : Fr m s { t with clk := x_clk, therm := x_therm } :=
  ⟨h.pending, h.variant, fun b => i (h.bounded b), h.pwr, (fun e => absurd e (by simp [q_clk])), h.hub, h.host, h.store, h.sec, h.integ, (fun e => absurd e (by simp [q_therm])), h.out, h.chans, h.fresh⟩

theorem Fr.set_fresh {m : Mask} {s t : State} (q_fresh : m.fresh = false) {x_fresh : Nat}
    (i : Bounded t → Bounded { t with fresh := x_fresh }) (h : Fr m s t) : Fr m s { t with fresh := x_fresh } :=
  ⟨h.pending, h.variant, fun b => i (h.bounded b), h.pwr, h.clk, h.hub, h.host, h.store, h.sec, h.integ, h.therm, h.out, h.chans, (fun e => absurd e (by simp [q_fresh]))⟩

theorem Fr.set_host {m : Mask} {s t : State} (q_host : m.host = false) {x_host : HostSide}
    (i : Bounded t → Bounded { t with host := x_host }) (h : Fr m s t) : Fr m s { t with host := x_host } :=
  ⟨h.pending, h.variant, fun b => i (h.bounded b), h.pwr, h.clk, h.hub, (fun e => absurd e (by simp [q_host])), h.store, h.sec, h.integ, h.therm, h.out, h.chans, h.fresh⟩

theorem Fr.set_host_integ {m : Mask} {s t : State} (q_host : m.host = false) (q_integ : m.integ = false) {x_host : HostSide} {x_integ : Integ}
    (i : Bounded t → Bounded { t with host := x_host, integ := x_integ }) (h : Fr m s t) : Fr m s { t with host := x_host, integ := x_integ } :=
  ⟨h.pending, h.variant, fun b => i (h.bounded b), h.pwr, h.clk, h.hub, (fun e => absurd e (by simp [q_host])), h.store, h.sec, (fun e => absurd e (by simp [q_integ])), h.therm, h.out, h.chans, h.fresh⟩

theorem Fr.set_host_out {m : Mask} {s t : State} (q_host : m.host = false) (q_out : m.out = false) {x_host : HostSide} {x_out : Output}
    (i : Bounded t → Bounded { t with host := x_host, out := x_out }) (h : Fr m s t) : Fr m s { t with host := x_host, out := x_out } :=
  ⟨h.pending, h.variant, fun b => i (h.bounded b), h.pwr, h.clk, h.hub, (fun e => absurd e (by simp [q_host])), h.store, h.sec, h.integ, h.therm, (fun e => absurd e (by simp [q_out])), h.chans, h.fresh⟩

theorem Fr.set_host_sec {m : Mask} {s t : State} (q_host : m.host = false) (q_sec : m.sec = false) {x_host : HostSide} {x_sec : Sec}
    (i : Bounded t → Bounded { t with host := x_host, sec := x_sec }) (h : Fr m s t) : Fr m s { t with host := x_host, sec := x_sec } :=
  ⟨h.pending, h.variant, fun b => i (h.bounded b), h.pwr, h.clk, h.hub, (fun e => absurd e (by simp [q_host])), h.store, (fun e => absurd e (by simp [q_sec])), h.integ, h.therm, h.out, h.chans, h.fresh⟩

theorem Fr.set_host_store {m : Mask} {s t : State} (q_host : m.host = false) (q_store : m.store = false) {x_host : HostSide} {x_store : Store}
    (i : Bounded t → Bounded { t with host := x_host, store := x_store }) (h : Fr m s t) : Fr m s { t with host := x_host, store := x_store } :=
  ⟨h.pending, h.variant, fun b => i (h.bounded b), h.pwr, h.clk, h.hub, (fun e => absurd e (by simp [q_host])), (fun e => absurd e (by simp [q_store])), h.sec, h.integ, h.therm, h.out, h.chans, h.fresh⟩

theorem Fr.set_host_store_integ {m : Mask} {s t : State} (q_host : m.host = false) (q_store : m.store = false) (q_integ : m.integ = false) {x_host : HostSide} {x_store : Store} {x_integ : Integ}
    (i : Bounded t → Bounded { t with host := x_host, store := x_store, integ := x_integ }) (h : Fr m s t) : Fr m s { t with host := x_host, store := x_store, integ := x_integ } :=
  ⟨h.pending, h.variant, fun b => i (h.bounded b), h.pwr, h.clk, h.hub, (fun e => absurd e (by simp [q_host])), (fun e => absurd e (by simp [q_store])), h.sec, (fun e => absurd e (by simp [q_integ])), h.therm, h.out, h.chans, h.fresh⟩

theorem Fr.set_host_store_sec {m : Mask} {s t : State} (q_host : m.host = false) (q_store : m.store = false) (q_sec : m.sec = false) {x_host : HostSide} {x_store : Store} {x_sec : Sec}
    (i : Bounded t → Bounded { t with host := x_host, store := x_store, sec := x_sec }) (h : Fr m s t) : Fr m s { t with host := x_host, store := x_store, sec := x_sec } :=
  ⟨h.pending, h.variant, fun b => i (h.bounded b), h.pwr, h.clk, h.hub, (fun e => absurd e (by simp [q_host])), (fun e => absurd e (by simp [q_store])), (fun e => absurd e (by simp [q_sec])), h.integ, h.therm, h.out, h.chans, h.fresh⟩

theorem Fr.set_host_therm {m : Mask} {s t : State} (q_host : m.host = false) (q_therm : m.therm = false) {x_host : HostSide} {x_therm : Therm}
    (i : Bounded t → Bounded { t with host := x_host, therm := x_therm }) (h : Fr m s t) : Fr m s { t with host := x_host, therm := x_therm } :=
  ⟨h.pending, h.variant, fun b => i (h.bounded b), h.pwr, h.clk, h.hub, (fun e => absurd e (by simp [q_host])), h.store, h.sec, h.integ, (fun e => absurd e (by simp [q_therm])), h.out, h.chans, h.fresh⟩

theorem Fr.set_hub {m : Mask} {s t : State} (q_hub : m.hub = false) {x_hub : Hub}
    (i : Bounded t → Bounded { t with hub := x_hub }) (h : Fr m s t) : Fr m s { t with hub := x_hub } :=
  ⟨h.pending, h.variant, fun b => i (h.bounded b), h.pwr, h.clk, (fun e => absurd e (by simp [q_hub])), h.host, h.store, h.sec, h.integ, h.therm, h.out, h.chans, h.fresh⟩

theorem Fr.set_hub_host {m : Mask} {s t : State} (q_hub : m.hub = false) (q_host : m.host = false) {x_hub : Hub} {x_host : HostSide}
    (i : Bounded t → Bounded { t with hub := x_hub, host := x_host }) (h : Fr m s t) : Fr m s { t with hub := x_hub, host := x_host } :=
  ⟨h.pending, h.variant, fun b => i (h.bounded b), h.pwr, h.clk, (fun e => absurd e (by simp [q_hub])), (fun e => absurd e (by simp [q_host])), h.store, h.sec, h.integ, h.therm, h.out, h.chans, h.fresh⟩

theorem Fr.set_hub_integ {m : Mask} {s t : State} (q_hub : m.hub = false) (q_integ : m.integ = false) {x_hub : Hub} {x_integ : Integ}
    (i : Bounded t → Bounded { t with hub := x_hub, integ := x_integ }) (h : Fr m s t) : Fr m s { t with hub := x_hub, integ := x_integ } :=
  ⟨h.pending, h.variant, fun b => i (h.bounded b), h.pwr, h.clk, (fun e => absurd e (by simp [q_hub])), h.host, h.store, h.sec, (fun e => absurd e (by simp [q_integ])), h.therm, h.out, h.chans, h.fresh⟩

theorem Fr.set_hub_sec {m : Mask} {s t : State} (q_hub : m.hub = false) (q_sec : m.sec = false) {x_hub : Hub} {x_sec : Sec}
    (i : Bounded t → Bounded { t with hub := x_hub, sec := x_sec }) (h : Fr m s t) : Fr m s { t with hub := x_hub, sec := x_sec } :=
  ⟨h.pending, h.variant, fun b => i (h.bounded b), h.pwr, h.clk, (fun e => absurd e (by simp [q_hub])), h.host, h.store, (fun e => absurd e (by simp [q_sec])), h.integ, h.therm, h.out, h.chans, h.fresh⟩

theorem Fr.set_hub_store {m : Mask} {s t : State} (q_hub : m.hub = false) (q_store : m.store = false) {x_hub : Hub} {x_store : Store}
    (i : Bounded t → Bounded { t with hub := x_hub, store := x_store }) (h : Fr m s t) : Fr m s { t with hub := x_hub, store := x_store } :=
  ⟨h.pending, h.variant, fun b => i (h.bounded b), h.pwr, h.clk, (fun e => absurd e (by simp [q_hub])), h.host, (fun e => absurd e (by simp [q_store])), h.sec, h.integ, h.therm, h.out, h.chans, h.fresh⟩

theorem Fr.set_hub_therm {m : Mask} {s t : State} (q_hub : m.hub = false) (q_therm : m.therm = false) {x_hub : Hub} {x_therm : Therm}
    (i : Bounded t → Bounded { t with hub := x_hub, therm := x_therm }) (h : Fr m s t) : Fr m s { t with hub := x_hub, therm := x_therm } :=
  ⟨h.pending, h.variant, fun b => i (h.bounded b), h.pwr, h.clk, (fun e => absurd e (by simp [q_hub])), h.host, h.store, h.sec, h.integ, (fun e => absurd e (by simp [q_therm])), h.out, h.chans, h.fresh⟩

theorem Fr.set_integ {m : Mask} {s t : State} (q_integ : m.integ = false) {x_integ : Integ}
    (i : Bounded t → Bounded { t with integ := x_integ }) (h : Fr m s t) : Fr m s { t with integ := x_integ } :=
  ⟨h.pending, h.variant, fun b => i (h.bounded b), h.pwr, h.clk, h.hub, h.host, h.store, h.sec, (fun e => absurd e (by simp [q_integ])), h.therm, h.out, h.chans, h.fresh⟩

theorem Fr.set_integ_therm {m : Mask} {s t : State} (q_integ : m.integ = false) (q_therm : m.therm = false) {x_integ : Integ} {x_therm : Therm}
    (i : Bounded t → Bounded { t with integ := x_integ, therm := x_therm }) (h : Fr m s t) : Fr m s { t with integ := x_integ, therm := x_therm } :=
  ⟨h.pending, h.variant, fun b => i (h.bounded b), h.pwr, h.clk, h.hub, h.host, h.store, h.sec, (fun e => absurd e (by simp [q_integ])), (fun e => absurd e (by simp [q_therm])), h.out, h.chans, h.fresh⟩

theorem Fr.set_out {m : Mask} {s t : State} (q_out : m.out = false) {x_out : Output}
    (i : Bounded t → Bounded { t with out := x_out }) (h : Fr m s t) : Fr m s { t with out := x_out } :=
  ⟨h.pending, h.variant, fun b => i (h.bounded b), h.pwr, h.clk, h.hub, h.host, h.store, h.sec, h.integ, h.therm, (fun e => absurd e (by simp [q_out])), h.chans, h.fresh⟩

theorem Fr.set_pwr {m : Mask} {s t : State} (q_pwr : m.pwr = false) {x_pwr : Power}
    (i : Bounded t → Bounded { t with pwr := x_pwr }) (h : Fr m s t) : Fr m s { t with pwr := x_pwr } :=
  ⟨h.pending, h.variant, fun b => i (h.bounded b), (fun e => absurd e (by simp [q_pwr])), h.clk, h.hub, h.host, h.store, h.sec, h.integ, h.therm, h.out, h.chans, h.fresh⟩

theorem Fr.set_pwr_clk {m : Mask} {s t : State} (q_pwr : m.pwr = false) (q_clk : m.clk = false) {x_pwr : Power} {x_clk : Clock}
    (i : Bounded t → Bounded { t with pwr := x_pwr, clk := x_clk }) (h : Fr m s t) : Fr m s { t with pwr := x_pwr, clk := x_clk } :=
  ⟨h.pending, h.variant, fun b => i (h.bounded b), (fun e => absurd e (by simp [q_pwr])), (fun e => absurd e (by simp [q_clk])), h.hub, h.host, h.store, h.sec, h.integ, h.therm, h.out, h.chans, h.fresh⟩

theorem Fr.set_pwr_clk_hub_host_store_sec_integ_therm {m : Mask} {s t : State} (q_pwr : m.pwr = false) (q_clk : m.clk = false) (q_hub : m.hub = false) (q_host : m.host = false) (q_store : m.store = false) (q_sec : m.sec = false) (q_integ : m.integ = false) (q_therm : m.therm = false) {x_pwr : Power} {x_clk : Clock} {x_hub : Hub} {x_host : HostSide} {x_store : Store} {x_sec : Sec} {x_integ : Integ} {x_therm : Therm}
    (i : Bounded t → Bounded { t with pwr := x_pwr, clk := x_clk, hub := x_hub, host := x_host, store := x_store, sec := x_sec, integ := x_integ, therm := x_therm }) (h : Fr m s t) : Fr m s { t with pwr := x_pwr, clk := x_clk, hub := x_hub, host := x_host, store := x_store, sec := x_sec, integ := x_integ, therm := x_therm } :=
  ⟨h.pending, h.variant, fun b => i (h.bounded b), (fun e => absurd e (by simp [q_pwr])), (fun e => absurd e (by simp [q_clk])), (fun e => absurd e (by simp [q_hub])), (fun e => absurd e (by simp [q_host])), (fun e => absurd e (by simp [q_store])), (fun e => absurd e (by simp [q_sec])), (fun e => absurd e (by simp [q_integ])), (fun e => absurd e (by simp [q_therm])), h.out, h.chans, h.fresh⟩

theorem Fr.set_pwr_clk_hub_sec {m : Mask} {s t : State} (q_pwr : m.pwr = false) (q_clk : m.clk = false) (q_hub : m.hub = false) (q_sec : m.sec = false) {x_pwr : Power} {x_clk : Clock} {x_hub : Hub} {x_sec : Sec}
    (i : Bounded t → Bounded { t with pwr := x_pwr, clk := x_clk, hub := x_hub, sec := x_sec }) (h : Fr m s t) : Fr m s { t with pwr := x_pwr, clk := x_clk, hub := x_hub, sec := x_sec } :=
  ⟨h.pending, h.variant, fun b => i (h.bounded b), (fun e => absurd e (by simp [q_pwr])), (fun e => absurd e (by simp [q_clk])), (fun e => absurd e (by simp [q_hub])), h.host, h.store, (fun e => absurd e (by simp [q_sec])), h.integ, h.therm, h.out, h.chans, h.fresh⟩

theorem Fr.set_pwr_host {m : Mask} {s t : State} (q_pwr : m.pwr = false) (q_host : m.host = false) {x_pwr : Power} {x_host : HostSide}
    (i : Bounded t → Bounded { t with pwr := x_pwr, host := x_host }) (h : Fr m s t) : Fr m s { t with pwr := x_pwr, host := x_host } :=
  ⟨h.pending, h.variant, fun b => i (h.bounded b), (fun e => absurd e (by simp [q_pwr])), h.clk, h.hub, (fun e => absurd e (by simp [q_host])), h.store, h.sec, h.integ, h.therm, h.out, h.chans, h.fresh⟩

theorem Fr.set_pwr_hub {m : Mask} {s t : State} (q_pwr : m.pwr = false) (q_hub : m.hub = false) {x_pwr : Power} {x_hub : Hub}
    (i : Bounded t → Bounded { t with pwr := x_pwr, hub := x_hub }) (h : Fr m s t) : Fr m s { t with pwr := x_pwr, hub := x_hub } :=
  ⟨h.pending, h.variant, fun b => i (h.bounded b), (fun e => absurd e (by simp [q_pwr])), h.clk, (fun e => absurd e (by simp [q_hub])), h.host, h.store, h.sec, h.integ, h.therm, h.out, h.chans, h.fresh⟩

theorem Fr.set_pwr_integ {m : Mask} {s t : State} (q_pwr : m.pwr = false) (q_integ : m.integ = false) {x_pwr : Power} {x_integ : Integ}
    (i : Bounded t → Bounded { t with pwr := x_pwr, integ := x_integ }) (h : Fr m s t) : Fr m s { t with pwr := x_pwr, integ := x_integ } :=
  ⟨h.pending, h.variant, fun b => i (h.bounded b), (fun e => absurd e (by simp [q_pwr])), h.clk, h.hub, h.host, h.store, h.sec, (fun e => absurd e (by simp [q_integ])), h.therm, h.out, h.chans, h.fresh⟩

theorem Fr.set_pwr_sec {m : Mask} {s t : State} (q_pwr : m.pwr = false) (q_sec : m.sec = false) {x_pwr : Power} {x_sec : Sec}
    (i : Bounded t → Bounded { t with pwr := x_pwr, sec := x_sec }) (h : Fr m s t) : Fr m s { t with pwr := x_pwr, sec := x_sec } :=
  ⟨h.pending, h.variant, fun b => i (h.bounded b), (fun e => absurd e (by simp [q_pwr])), h.clk, h.hub, h.host, h.store, (fun e => absurd e (by simp [q_sec])), h.integ, h.therm, h.out, h.chans, h.fresh⟩

theorem Fr.set_pwr_store {m : Mask} {s t : State} (q_pwr : m.pwr = false) (q_store : m.store = false) {x_pwr : Power} {x_store : Store}
    (i : Bounded t → Bounded { t with pwr := x_pwr, store := x_store }) (h : Fr m s t) : Fr m s { t with pwr := x_pwr, store := x_store } :=
  ⟨h.pending, h.variant, fun b => i (h.bounded b), (fun e => absurd e (by simp [q_pwr])), h.clk, h.hub, h.host, (fun e => absurd e (by simp [q_store])), h.sec, h.integ, h.therm, h.out, h.chans, h.fresh⟩

theorem Fr.set_pwr_store_integ {m : Mask} {s t : State} (q_pwr : m.pwr = false) (q_store : m.store = false) (q_integ : m.integ = false) {x_pwr : Power} {x_store : Store} {x_integ : Integ}
    (i : Bounded t → Bounded { t with pwr := x_pwr, store := x_store, integ := x_integ }) (h : Fr m s t) : Fr m s { t with pwr := x_pwr, store := x_store, integ := x_integ } :=
  ⟨h.pending, h.variant, fun b => i (h.bounded b), (fun e => absurd e (by simp [q_pwr])), h.clk, h.hub, h.host, (fun e => absurd e (by simp [q_store])), h.sec, (fun e => absurd e (by simp [q_integ])), h.therm, h.out, h.chans, h.fresh⟩

theorem Fr.set_pwr_therm {m : Mask} {s t : State} (q_pwr : m.pwr = false) (q_therm : m.therm = false) {x_pwr : Power} {x_therm : Therm}
    (i : Bounded t → Bounded { t with pwr := x_pwr, therm := x_therm }) (h : Fr m s t) : Fr m s { t with pwr := x_pwr, therm := x_therm } :=
  ⟨h.pending, h.variant, fun b => i (h.bounded b), (fun e => absurd e (by simp [q_pwr])), h.clk, h.hub, h.host, h.store, h.sec, h.integ, (fun e => absurd e (by simp [q_therm])), h.out, h.chans, h.fresh⟩

theorem Fr.set_sec {m : Mask} {s t : State} (q_sec : m.sec = false) {x_sec : Sec}
    (i : Bounded t → Bounded { t with sec := x_sec }) (h : Fr m s t) : Fr m s { t with sec := x_sec } :=
  ⟨h.pending, h.variant, fun b => i (h.bounded b), h.pwr, h.clk, h.hub, h.host, h.store, (fun e => absurd e (by simp [q_sec])), h.integ, h.therm, h.out, h.chans, h.fresh⟩

theorem Fr.set_sec_fresh {m : Mask} {s t : State} (q_sec : m.sec = false) (q_fresh : m.fresh = false) {x_sec : Sec} {x_fresh : Nat}
    (i : Bounded t → Bounded { t with sec := x_sec, fresh := x_fresh }) (h : Fr m s t) : Fr m s { t with sec := x_sec, fresh := x_fresh } :=
  ⟨h.pending, h.variant, fun b => i (h.bounded b), h.pwr, h.clk, h.hub, h.host, h.store, (fun e => absurd e (by simp [q_sec])), h.integ, h.therm, h.out, h.chans, (fun e => absurd e (by simp [q_fresh]))⟩

theorem Fr.set_sec_integ {m : Mask} {s t : State} (q_sec : m.sec = false) (q_integ : m.integ = false) {x_sec : Sec} {x_integ : Integ}
    (i : Bounded t → Bounded { t with sec := x_sec, integ := x_integ }) (h : Fr m s t) : Fr m s { t with sec := x_sec, integ := x_integ } :=
  ⟨h.pending, h.variant, fun b => i (h.bounded b), h.pwr, h.clk, h.hub, h.host, h.store, (fun e => absurd e (by simp [q_sec])), (fun e => absurd e (by simp [q_integ])), h.therm, h.out, h.chans, h.fresh⟩

theorem Fr.set_sec_therm {m : Mask} {s t : State} (q_sec : m.sec = false) (q_therm : m.therm = false) {x_sec : Sec} {x_therm : Therm}
    (i : Bounded t → Bounded { t with sec := x_sec, therm := x_therm }) (h : Fr m s t) : Fr m s { t with sec := x_sec, therm := x_therm } :=
  ⟨h.pending, h.variant, fun b => i (h.bounded b), h.pwr, h.clk, h.hub, h.host, h.store, (fun e => absurd e (by simp [q_sec])), h.integ, (fun e => absurd e (by simp [q_therm])), h.out, h.chans, h.fresh⟩

theorem Fr.set_store {m : Mask} {s t : State} (q_store : m.store = false) {x_store : Store}
    (i : Bounded t → Bounded { t with store := x_store }) (h : Fr m s t) : Fr m s { t with store := x_store } :=
  ⟨h.pending, h.variant, fun b => i (h.bounded b), h.pwr, h.clk, h.hub, h.host, (fun e => absurd e (by simp [q_store])), h.sec, h.integ, h.therm, h.out, h.chans, h.fresh⟩

theorem Fr.set_store_fresh {m : Mask} {s t : State} (q_store : m.store = false) (q_fresh : m.fresh = false) {x_store : Store} {x_fresh : Nat}
    (i : Bounded t → Bounded { t with store := x_store, fresh := x_fresh }) (h : Fr m s t) : Fr m s { t with store := x_store, fresh := x_fresh } :=
  ⟨h.pending, h.variant, fun b => i (h.bounded b), h.pwr, h.clk, h.hub, h.host, (fun e => absurd e (by simp [q_store])), h.sec, h.integ, h.therm, h.out, h.chans, (fun e => absurd e (by simp [q_fresh]))⟩

theorem Fr.set_store_integ {m : Mask} {s t : State} (q_store : m.store = false) (q_integ : m.integ = false) {x_store : Store} {x_integ : Integ}
    (i : Bounded t → Bounded { t with store := x_store, integ := x_integ }) (h : Fr m s t) : Fr m s { t with store := x_store, integ := x_integ } :=
  ⟨h.pending, h.variant, fun b => i (h.bounded b), h.pwr, h.clk, h.hub, h.host, (fun e => absurd e (by simp [q_store])), h.sec, (fun e => absurd e (by simp [q_integ])), h.therm, h.out, h.chans, h.fresh⟩

theorem Fr.set_store_sec {m : Mask} {s t : State} (q_store : m.store = false) (q_sec : m.sec = false) {x_store : Store} {x_sec : Sec}
    (i : Bounded t → Bounded { t with store := x_store, sec := x_sec }) (h : Fr m s t) : Fr m s { t with store := x_store, sec := x_sec } :=
  ⟨h.pending, h.variant, fun b => i (h.bounded b), h.pwr, h.clk, h.hub, h.host, (fun e => absurd e (by simp [q_store])), (fun e => absurd e (by simp [q_sec])), h.integ, h.therm, h.out, h.chans, h.fresh⟩

theorem Fr.set_store_sec_fresh {m : Mask} {s t : State} (q_store : m.store = false) (q_sec : m.sec = false) (q_fresh : m.fresh = false) {x_store : Store} {x_sec : Sec} {x_fresh : Nat}
    (i : Bounded t → Bounded { t with store := x_store, sec := x_sec, fresh := x_fresh }) (h : Fr m s t) : Fr m s { t with store := x_store, sec := x_sec, fresh := x_fresh } :=
  ⟨h.pending, h.variant, fun b => i (h.bounded b), h.pwr, h.clk, h.hub, h.host, (fun e => absurd e (by simp [q_store])), (fun e => absurd e (by simp [q_sec])), h.integ, h.therm, h.out, h.chans, (fun e => absurd e (by simp [q_fresh]))⟩

theorem Fr.set_store_therm {m : Mask} {s t : State} (q_store : m.store = false) (q_therm : m.therm = false) {x_store : Store} {x_therm : Therm}
    (i : Bounded t → Bounded { t with store := x_store, therm := x_therm }) (h : Fr m s t) : Fr m s { t with store := x_store, therm := x_therm } :=
  ⟨h.pending, h.variant, fun b => i (h.bounded b), h.pwr, h.clk, h.hub, h.host, (fun e => absurd e (by simp [q_store])), h.sec, h.integ, (fun e => absurd e (by simp [q_therm])), h.out, h.chans, h.fresh⟩

theorem Fr.set_therm {m : Mask} {s t : State} (q_therm : m.therm = false) {x_therm : Therm}
    (i : Bounded t → Bounded { t with therm := x_therm }) (h : Fr m s t) : Fr m s { t with therm := x_therm } :=
  ⟨h.pending, h.variant, fun b => i (h.bounded b), h.pwr, h.clk, h.hub, h.host, h.store, h.sec, h.integ, (fun e => absurd e (by simp [q_therm])), h.out, h.chans, h.fresh⟩

end Sys2Proof.Machine
end

