-- ==== Sys2Proof/Laws/FrameOps.lean ====
section
/-! SUPPORT. For every operation of the model: the parts of the state it may change; it leaves the others, and it keeps `Bounded`. -/

namespace Sys2Proof.Machine

theorem Fr.modStore {m : Mask} {s t : State} (q_store : m.store = false) {c : Nat} {f : ChanStore → ChanStore} 
    (h : Fr m s t) : Fr m s (@State.modStore t c f) := by
  unfold Sys2Proof.Machine.State.modStore
  repeat' first
    | with_reducible assumption
    | (exact fun b => ⟨b.events, b.waiting, b.audit, b.auditWriting, b.auditA, b.auditB, b.owners, b.level, b.samples, b.sessions⟩)
    | split
    | (with_reducible apply Fr.set_store)

theorem Fr.freeStaged {m : Mask} {s t : State} (q_store : m.store = false) {c : Nat} 
    (h : Fr m s t) : Fr m s (@State.freeStaged t c) := by
  unfold Sys2Proof.Machine.State.freeStaged
  repeat' first
    | with_reducible assumption
    | (with_reducible apply Fr.modStore)
    | split

theorem Fr.setChan {m : Mask} {s t : State} (q_chans : m.chans = false) {c : Nat} {x : Chan} 
    (h : Fr m s t) : Fr m s (@State.setChan t c x) := by
  unfold Sys2Proof.Machine.State.setChan
  repeat' first
    | with_reducible assumption
    | (exact fun b => ⟨b.events, b.waiting, b.audit, b.auditWriting, b.auditA, b.auditB, b.owners, b.level, b.samples, b.sessions⟩)
    | split
    | (with_reducible apply Fr.set_chans)

theorem Fr.modChan {m : Mask} {s t : State} (q_chans : m.chans = false) {c : Nat} {f : Chan → Chan} 
    (h : Fr m s t) : Fr m s (@State.modChan t c f) := by
  unfold Sys2Proof.Machine.State.modChan
  repeat' first
    | with_reducible assumption
    | (with_reducible apply Fr.setChan)
    | split

theorem Fr.allChans {m : Mask} {s t : State} (q_chans : m.chans = false) {f : Nat → Chan → Chan} 
    (h : Fr m s t) : Fr m s (@State.allChans t f) := by
  unfold Sys2Proof.Machine.State.allChans
  repeat' first
    | with_reducible assumption
    | (with_reducible apply Fr.modChan)
    | (with_reducible apply Fr.foldl)
    | intro _
    | split

theorem Fr.modFn {m : Mask} {s t : State} (q_host : m.host = false) {f : Nat} {g : Fn → Fn} 
    (h : Fr m s t) : Fr m s (@State.modFn t f g) := by
  unfold Sys2Proof.Machine.State.modFn
  repeat' first
    | with_reducible assumption
    | (exact fun b => ⟨b.events, b.waiting, b.audit, b.auditWriting, b.auditA, b.auditB, b.owners, b.level, b.samples, b.sessions⟩)
    | split
    | (with_reducible apply Fr.set_host)

theorem Fr.modCq {m : Mask} {s t : State} (q_host : m.host = false) {f : Nat} {n : Nat} {g : Ring → Ring} 
    (h : Fr m s t) : Fr m s (@State.modCq t f n g) := by
  unfold Sys2Proof.Machine.State.modCq
  repeat' first
    | with_reducible assumption
    | (with_reducible apply Fr.modFn)
    | split

theorem Fr.pushEvent {m : Mask} {s t : State} (q_hub : m.hub = false) {cls : Nat} {sub : Nat} {chan : Nat} {arg : Nat} {arg2 : Nat} 
    (h : Fr m s t) : Fr m s (@State.pushEvent t cls sub chan arg arg2) := by
  unfold State.pushEvent
  split
  · rename_i hl
    refine Fr.set_hub q_hub (fun b => ⟨?_, b.waiting, b.audit, b.auditWriting, b.auditA, b.auditB, b.owners, b.level, b.samples, b.sessions⟩) h
    simp only [List.length_append, List.length_singleton]; omega
  · exact Fr.set_hub q_hub (fun b => ⟨b.events, b.waiting, b.audit, b.auditWriting, b.auditA, b.auditB, b.owners, b.level, b.samples, b.sessions⟩) h


theorem Fr.event {m : Mask} {s t : State} (q_hub : m.hub = false) {cls : Nat} {sub : Nat} {chan : Nat} {arg : optParam Nat 0} {arg2 : optParam Nat 0} 
    (h : Fr m s t) : Fr m s (@State.event t cls sub chan arg arg2) := by
  unfold Sys2Proof.Machine.State.event
  repeat' first
    | with_reducible assumption
    | (with_reducible apply Fr.pushEvent)
    | (exact fun b => ⟨b.events, b.waiting, b.audit, b.auditWriting, b.auditA, b.auditB, b.owners, b.level, b.samples, b.sessions⟩)
    | split
    | (with_reducible apply Fr.set_hub)

theorem Fr.countAll {m : Mask} {s t : State} (q_chans : m.chans = false) {code : Nat} 
    (h : Fr m s t) : Fr m s (@State.countAll t code) := by
  unfold Sys2Proof.Machine.State.countAll
  repeat' first
    | with_reducible assumption
    | (with_reducible apply Fr.allChans)
    | split

theorem Fr.writeCpl {m : Mask} {s t : State} (q_hub : m.hub = false) (q_host : m.host = false) (q_out : m.out = false) (q_chans : m.chans = false) {e : Cpl} 
    (h : Fr m s t) : Fr m s (@State.writeCpl t e) := by
  unfold Sys2Proof.Machine.State.writeCpl
  repeat' first
    | with_reducible assumption
    | (with_reducible apply Fr.modCq)
    | (with_reducible apply Fr.event)
    | (with_reducible apply Fr.countAll)
    | (exact fun b => ⟨b.events, b.waiting, b.audit, b.auditWriting, b.auditA, b.auditB, b.owners, b.level, b.samples, b.sessions⟩)
    | split
    | (with_reducible apply Fr.set_out)

theorem Fr.complete {m : Mask} {s t : State} (q_hub : m.hub = false) (q_host : m.host = false) (q_out : m.out = false) (q_chans : m.chans = false) {e : Cpl} 
    (h : Fr m s t) : Fr m s (@State.complete t e) := by
  unfold Sys2Proof.Machine.State.complete
  repeat' first
    | with_reducible assumption
    | (with_reducible apply Fr.writeCpl)
    | (exact fun b => ⟨b.events, b.waiting, b.audit, b.auditWriting, b.auditA, b.auditB, b.owners, b.level, b.samples, b.sessions⟩)
    | split
    | (with_reducible apply Fr.set_host)

theorem Fr.modSq {m : Mask} {s t : State} (q_host : m.host = false) {f : Nat} {n : Nat} {g : Ring → Ring} 
    (h : Fr m s t) : Fr m s (@State.modSq t f n g) := by
  unfold Sys2Proof.Machine.State.modSq
  repeat' first
    | with_reducible assumption
    | (with_reducible apply Fr.modFn)
    | split

theorem Fr.sqDone {m : Mask} {s t : State} (q_host : m.host = false) {f : Nat} {q : Nat} 
    (h : Fr m s t) : Fr m s (@State.sqDone t f q) := by
  unfold Sys2Proof.Machine.State.sqDone
  repeat' first
    | with_reducible assumption
    | (with_reducible apply Fr.modSq)
    | split

theorem Fr.finishHost {m : Mask} {s t : State} (q_hub : m.hub = false) (q_host : m.host = false) (q_out : m.out = false) (q_chans : m.chans = false) {id : Nat} {status : Nat} {cause : Nat} {detail : optParam Nat 0} 
    (h : Fr m s t) : Fr m s (@State.finishHost t id status cause detail) := by
  unfold Sys2Proof.Machine.State.finishHost
  repeat' first
    | with_reducible assumption
    | (with_reducible apply Fr.complete)
    | (with_reducible apply Fr.sqDone)
    | (exact fun b => ⟨b.events, b.waiting, b.audit, b.auditWriting, b.auditA, b.auditB, b.owners, b.level, b.samples, b.sessions⟩)
    | split
    | (with_reducible apply Fr.set_host)

theorem Fr.draw {m : Mask} {s t : State} (q_fresh : m.fresh = false)  
    (h : Fr m s t) : Fr m s (@State.draw t).2 := by
  unfold Sys2Proof.Machine.State.draw
  repeat' first
    | with_reducible assumption
    | (exact fun b => ⟨b.events, b.waiting, b.audit, b.auditWriting, b.auditA, b.auditB, b.owners, b.level, b.samples, b.sessions⟩)
    | split
    | (with_reducible apply Fr.set_fresh)

theorem Fr.auditPush {m : Mask} {s t : State} (q_store : m.store = false) {action port result object : Nat}
    (hl : t.store.waiting.length < 256) (h : Fr m s t) : Fr m s (t.auditPush action port result object) := by
  unfold State.auditPush
  refine Fr.set_store q_store (fun b => ⟨b.events, ?_, b.audit, b.auditWriting, b.auditA, b.auditB, b.owners, b.level, b.samples, b.sessions⟩) h
  simp only [List.length_append, List.length_singleton]; omega

theorem Fr.enterDropped {m : Mask} {s t : State} (q_store : m.store = false)  
    (h : Fr m s t) : Fr m s (@State.enterDropped t) := by
  unfold State.enterDropped
  split
  · exact h
  · rename_i g
    have hl : t.store.waiting.length < 256 := by
      have : ¬ (256 ≤ t.store.waiting.length) := by
        intro k; exact g (by simp [State.auditFull, auditRoom, k])
      omega
    exact Fr.set_store q_store (fun b => ⟨b.events, b.waiting, b.audit, b.auditWriting, b.auditA, b.auditB, b.owners, b.level, b.samples, b.sessions⟩) (Fr.auditPush q_store hl h)


theorem Fr.audit {m : Mask} {s t : State} (q_store : m.store = false) {action : Nat} {port : Nat} {result : Nat} {object : Nat} 
    (h : Fr m s t) : Fr m s (@State.audit t action port result object) := by
  unfold State.audit
  split
  · exact Fr.set_store q_store (fun b => ⟨b.events, b.waiting, b.audit, b.auditWriting, b.auditA, b.auditB, b.owners, b.level, b.samples, b.sessions⟩) h
  · have h1 : Fr m s t.enterDropped := Fr.enterDropped q_store h
    dsimp -proj only
    split
    · exact Fr.set_store q_store (fun b => ⟨b.events, b.waiting, b.audit, b.auditWriting, b.auditA, b.auditB, b.owners, b.level, b.samples, b.sessions⟩) h1
    · rename_i g
      refine Fr.auditPush q_store ?_ h1
      have : ¬ (256 ≤ t.enterDropped.store.waiting.length) := by
        intro k; exact g (by simp [State.auditFull, auditRoom, k])
      omega


theorem Fr.auditFailed {m : Mask} {s t : State} (q_store : m.store = false) (q_fresh : m.fresh = false) {p : Pkg} {storeFault : Bool} 
    (h : Fr m s t) : Fr m s (@State.auditFailed t p storeFault) := by
  unfold Sys2Proof.Machine.State.auditFailed
  repeat' first
    | with_reducible assumption
    | (with_reducible apply Fr.draw)
    | (with_reducible apply Fr.audit)
    | (with_reducible apply Fr.foldl)
    | (with_reducible apply Fr.foldl_fst)
    | intro _
    | dsimp -proj only
    | split
    | (refine Fr.of_pair ‹_› ?_)

theorem Fr.abandonLoads {m : Mask} {s t : State} (q_hub : m.hub = false) (q_host : m.host = false) (q_store : m.store = false) (q_out : m.out = false) (q_chans : m.chans = false) (q_fresh : m.fresh = false) {status : Nat} {cause : Nat} 
    (h : Fr m s t) : Fr m s (@State.abandonLoads t status cause) := by
  unfold Sys2Proof.Machine.State.abandonLoads
  repeat' first
    | with_reducible assumption
    | (with_reducible apply Fr.freeStaged)
    | (with_reducible apply Fr.allChans)
    | (with_reducible apply Fr.finishHost)
    | (with_reducible apply Fr.auditFailed)
    | (exact fun b => ⟨b.events, b.waiting, b.audit, b.auditWriting, b.auditA, b.auditB, b.owners, b.level, b.samples, b.sessions⟩)
    | (with_reducible apply Fr.foldl)
    | intro _
    | split
    | (with_reducible apply Fr.set_host)

theorem Fr.modFacet {m : Mask} {s t : State} (q_store : m.store = false) {c : Nat} {t' : Nat} {f : Nat} {g : Facet → Facet} 
    (h : Fr m s t) : Fr m s (@State.modFacet t c t' f g) := by
  unfold Sys2Proof.Machine.State.modFacet
  repeat' first
    | with_reducible assumption
    | (with_reducible apply Fr.modStore)
    | split

theorem Fr.modBlock {m : Mask} {s t : State} (q_chans : m.chans = false) {c : Nat} {t' : Nat} {f : Nat} {b : Nat} {g : Block8 → Block8} 
    (h : Fr m s t) : Fr m s (@State.modBlock t c t' f b g) := by
  unfold Sys2Proof.Machine.State.modBlock
  repeat' first
    | with_reducible assumption
    | (with_reducible apply Fr.modChan)
    | split

theorem Fr.wantRecord {m : Mask} {s t : State} (q_store : m.store = false)  
    (h : Fr m s t) : Fr m s (@State.wantRecord t) := by
  unfold Sys2Proof.Machine.State.wantRecord
  repeat' first
    | with_reducible assumption
    | (exact fun b => ⟨b.events, b.waiting, b.audit, b.auditWriting, b.auditA, b.auditB, b.owners, b.level, b.samples, b.sessions⟩)
    | split
    | (with_reducible apply Fr.set_store)

theorem Fr.writeTables {m : Mask} {s t : State} (q_store : m.store = false) {p : Pkg} 
    (h : Fr m s t) : Fr m s (@State.writeTables t p) := by
  unfold Sys2Proof.Machine.State.writeTables
  repeat' first
    | with_reducible assumption
    | (exact fun b => ⟨b.events, b.waiting, b.audit, b.auditWriting, b.auditA, b.auditB, b.owners, b.level, b.samples, b.sessions⟩)
    | (with_reducible apply Fr.foldl)
    | intro _
    | split
    | (with_reducible apply Fr.set_store)

theorem Fr.stagedNow {m : Mask} {s t : State} (q_host : m.host = false) (q_store : m.store = false) {g : Nat} 
    (h : Fr m s t) : Fr m s (@State.stagedNow t g) := by
  unfold Sys2Proof.Machine.State.stagedNow
  repeat' first
    | with_reducible assumption
    | (with_reducible apply Fr.wantRecord)
    | (with_reducible apply Fr.writeTables)
    | (exact fun b => ⟨b.events, b.waiting, b.audit, b.auditWriting, b.auditA, b.auditB, b.owners, b.level, b.samples, b.sessions⟩)
    | split
    | (with_reducible apply Fr.set_host)

theorem Fr.modRec {m : Mask} {s t : State} (q_host : m.host = false) {g : Nat} {i : Nat} {f : PkgRec → PkgRec} 
    (h : Fr m s t) : Fr m s (@State.modRec t g i f) := by
  unfold Sys2Proof.Machine.State.modRec
  repeat' first
    | with_reducible assumption
    | (exact fun b => ⟨b.events, b.waiting, b.audit, b.auditWriting, b.auditA, b.auditB, b.owners, b.level, b.samples, b.sessions⟩)
    | split
    | (with_reducible apply Fr.set_host)

theorem Fr.acceptFacet {m : Mask} {s t : State} (q_host : m.host = false) (q_store : m.store = false) (q_chans : m.chans = false) {g : Nat} {i : Nat} {r : PkgRec} {cal : List Sys2Proof.BlockCal} 
    (h : Fr m s t) : Fr m s (@State.acceptFacet t g i r cal) := by
  unfold Sys2Proof.Machine.State.acceptFacet
  repeat' first
    | with_reducible assumption
    | (with_reducible apply Fr.modFacet)
    | (with_reducible apply Fr.modBlock)
    | (with_reducible apply Fr.stagedNow)
    | (with_reducible apply Fr.modRec)
    | (with_reducible apply Fr.foldl)
    | intro _
    | split

theorem Fr.errlog {m : Mask} {s t : State} (q_hub : m.hub = false) {port : Nat} {reason : Nat} {off : Nat} {detail : Nat} {value : BitVec 64} 
    (h : Fr m s t) : Fr m s (@State.errlog t port reason off detail value) := by
  unfold Sys2Proof.Machine.State.errlog
  repeat' first
    | with_reducible assumption
    | (exact fun b => ⟨b.events, b.waiting, b.audit, b.auditWriting, b.auditA, b.auditB, b.owners, b.level, b.samples, b.sessions⟩)
    | split
    | (with_reducible apply Fr.set_hub)

theorem Fr.activate {m : Mask} {s t : State} (q_hub : m.hub = false) (q_host : m.host = false) (q_out : m.out = false) (q_chans : m.chans = false) {f : Nat} {isCq : Bool} {n : Nat} 
    (h : Fr m s t) : Fr m s (@State.activate t f isCq n) := by
  unfold Sys2Proof.Machine.State.activate
  repeat' first
    | with_reducible assumption
    | (with_reducible apply Fr.modCq)
    | (with_reducible apply Fr.modSq)
    | (with_reducible apply Fr.complete)
    | (with_reducible apply Fr.modFn)
    | (with_reducible apply Fr.errlog)
    | dsimp -proj only
    | split

theorem Fr.addMI {m : Mask} {s t : State} (q_chans : m.chans = false) {c : Nat} {t' : Nat} {f : Nat} {l : List (Int × Nat)} 
    (h : Fr m s t) : Fr m s (@State.addMI t c t' f l) := by
  unfold Sys2Proof.Machine.State.addMI
  repeat' first
    | with_reducible assumption
    | (with_reducible apply Fr.modBlock)
    | (with_reducible apply Fr.foldl)
    | intro _
    | split

theorem Fr.setSlot {m : Mask} {s t : State} (q_chans : m.chans = false) {c : Nat} {n : Nat} {x : Slot} 
    (h : Fr m s t) : Fr m s (@State.setSlot t c n x) := by
  unfold Sys2Proof.Machine.State.setSlot
  repeat' first
    | with_reducible assumption
    | (with_reducible apply Fr.modChan)
    | split

theorem Fr.modSlot {m : Mask} {s t : State} (q_chans : m.chans = false) {c : Nat} {n : Nat} {f : Slot → Slot} 
    (h : Fr m s t) : Fr m s (@State.modSlot t c n f) := by
  unfold Sys2Proof.Machine.State.modSlot
  repeat' first
    | with_reducible assumption
    | (with_reducible apply Fr.setSlot)
    | split

theorem Fr.addOut {m : Mask} {s t : State} (q_chans : m.chans = false) {c : Nat} {sl : Nat} {o : Outst} 
    (h : Fr m s t) : Fr m s (@State.addOut t c sl o) := by
  unfold Sys2Proof.Machine.State.addOut
  repeat' first
    | with_reducible assumption
    | (with_reducible apply Fr.modSlot)
    | split

theorem Fr.setCtx {m : Mask} {s t : State} (q_chans : m.chans = false) {raw : Nat} {x : Ctx} 
    (h : Fr m s t) : Fr m s (@State.setCtx t raw x) := by
  unfold Sys2Proof.Machine.State.setCtx
  repeat' first
    | with_reducible assumption
    | (with_reducible apply Fr.modChan)
    | split

theorem Fr.modCtx {m : Mask} {s t : State} (q_chans : m.chans = false) {raw : Nat} {f : Ctx → Ctx} 
    (h : Fr m s t) : Fr m s (@State.modCtx t raw f) := by
  unfold Sys2Proof.Machine.State.modCtx
  repeat' first
    | with_reducible assumption
    | (with_reducible apply Fr.setCtx)
    | split

theorem Fr.dropParts {m : Mask} {s t : State} (q_chans : m.chans = false) {c : Nat} {sl : Nat} 
    (h : Fr m s t) : Fr m s (@State.dropParts t c sl) := by
  unfold Sys2Proof.Machine.State.dropParts
  repeat' first
    | with_reducible assumption
    | (with_reducible apply Fr.modChan)
    | (with_reducible apply Fr.foldl)
    | (with_reducible apply Fr.foldl_fst)
    | intro _
    | dsimp -proj only
    | split
    | (refine Fr.of_pair ‹_› ?_)

theorem Fr.leaveObjects {m : Mask} {s t : State} (q_chans : m.chans = false) {c : Nat} {sl : Nat} {ctx : Nat} 
    (h : Fr m s t) : Fr m s (@State.leaveObjects t c sl ctx) := by
  unfold Sys2Proof.Machine.State.leaveObjects
  repeat' first
    | with_reducible assumption
    | (with_reducible apply Fr.modChan)
    | split

theorem Fr.closeHandle {m : Mask} {s t : State} (q_chans : m.chans = false) {c : Nat} {sl : Nat} {h' : Nat} 
    (h : Fr m s t) : Fr m s (@State.closeHandle t c sl h') := by
  unfold Sys2Proof.Machine.State.closeHandle
  repeat' first
    | with_reducible assumption
    | (with_reducible apply Fr.modChan)
    | (with_reducible apply Fr.modSlot)
    | split

theorem Fr.unbind {m : Mask} {s t : State} (q_chans : m.chans = false) {c : Nat} {sl : Nat} {j : Job} 
    (h : Fr m s t) : Fr m s (@State.unbind t c sl j) := by
  unfold Sys2Proof.Machine.State.unbind
  repeat' first
    | with_reducible assumption
    | (with_reducible apply Fr.dropParts)
    | (with_reducible apply Fr.leaveObjects)
    | (with_reducible apply Fr.closeHandle)
    | (with_reducible apply Fr.modChan)
    | (with_reducible apply Fr.setSlot)
    | (with_reducible apply Fr.foldl)
    | intro _
    | split

theorem Fr.dropJob {m : Mask} {s t : State} (q_chans : m.chans = false) {c : Nat} {id : Nat} 
    (h : Fr m s t) : Fr m s (@State.dropJob t c id) := by
  unfold Sys2Proof.Machine.State.dropJob
  repeat' first
    | with_reducible assumption
    | (with_reducible apply Fr.modChan)
    | split

theorem Fr.countN {m : Mask} {s t : State} (q_chans : m.chans = false) {c : Nat} {code : Nat} {n : Nat} {ctx : Option Nat} 
    (h : Fr m s t) : Fr m s (@State.countN t c code n ctx) := by
  unfold Sys2Proof.Machine.State.countN
  repeat' first
    | with_reducible assumption
    | (with_reducible apply Fr.modChan)
    | split

theorem Fr.count {m : Mask} {s t : State} (q_chans : m.chans = false) {c : Nat} {code : Nat} {ctx : optParam (Option Nat) Option.none} 
    (h : Fr m s t) : Fr m s (@State.count t c code ctx) := by
  unfold Sys2Proof.Machine.State.count
  repeat' first
    | with_reducible assumption
    | (with_reducible apply Fr.countN)
    | split

theorem Fr.finishWith {m : Mask} {s t : State} (q_hub : m.hub = false) (q_host : m.host = false) (q_out : m.out = false) (q_chans : m.chans = false) {c : Nat} {j : Job} {e : Cpl} 
    (h : Fr m s t) : Fr m s (@State.finishWith t c j e) := by
  unfold Sys2Proof.Machine.State.finishWith
  repeat' first
    | with_reducible assumption
    | (with_reducible apply Fr.complete)
    | (with_reducible apply Fr.sqDone)
    | (with_reducible apply Fr.dropJob)
    | (with_reducible apply Fr.count)
    | split

theorem Fr.finish {m : Mask} {s t : State} (q_hub : m.hub = false) (q_host : m.host = false) (q_out : m.out = false) (q_chans : m.chans = false) {c : Nat} {j : Job} {status : Nat} {cause : Nat} {detail : optParam Nat 0} 
    (h : Fr m s t) : Fr m s (@State.finish t c j status cause detail) := by
  unfold Sys2Proof.Machine.State.finish
  repeat' first
    | with_reducible assumption
    | (with_reducible apply Fr.finishWith)
    | split

theorem Fr.readRec {m : Mask} {s t : State} (q_chans : m.chans = false) {raw : Nat} 
    (h : Fr m s t) : Fr m s (@State.readRec t raw) := by
  unfold Sys2Proof.Machine.State.readRec
  repeat' first
    | with_reducible assumption
    | (with_reducible apply Fr.setCtx)
    | dsimp -proj only
    | split

theorem Fr.hostWrite {m : Mask} {s t : State} (q_host : m.host = false) (q_out : m.out = false) {addr : Nat} {bytes : List Sys2Proof.Byte} 
    (h : Fr m s t) : Fr m s (@State.hostWrite t addr bytes) := by
  unfold Sys2Proof.Machine.State.hostWrite
  repeat' first
    | with_reducible assumption
    | (exact fun b => ⟨b.events, b.waiting, b.audit, b.auditWriting, b.auditA, b.auditB, b.owners, b.level, b.samples, b.sessions⟩)
    | split
    | (with_reducible apply Fr.set_host_out)
    | (with_reducible apply Fr.set_host)
    | (with_reducible apply Fr.set_out)

theorem Fr.modJob {m : Mask} {s t : State} (q_chans : m.chans = false) {c : Nat} {id : Nat} {f : Job → Job} 
    (h : Fr m s t) : Fr m s (@State.modJob t c id f) := by
  unfold Sys2Proof.Machine.State.modJob
  repeat' first
    | with_reducible assumption
    | (with_reducible apply Fr.modChan)
    | split

theorem Fr.runOrdered {m : Mask} {s : State} (q_hub : m.hub = false) (q_host : m.host = false) (q_out : m.out = false) (q_chans : m.chans = false) {ctx : Nat} :
    ∀ (n : Nat) (t : State), Fr m s t → Fr m s (State.runOrdered n t ctx)
  | 0, _, h => h
  | n + 1, t, h => by
    unfold State.runOrdered
    repeat' first
      | with_reducible assumption
      | with_reducible apply Fr.runOrdered q_hub q_host q_out q_chans n
      | (with_reducible apply Fr.finish)
      | (with_reducible apply Fr.hostWrite)
      | (with_reducible apply Fr.modJob)
      | (with_reducible apply Fr.modCtx)
      | (with_reducible apply Fr.modChan)
      | (with_reducible apply Fr.readRec)
      | dsimp -proj only
      | split

theorem Fr.advance {m : Mask} {s t : State} (q_hub : m.hub = false) (q_host : m.host = false) (q_out : m.out = false) (q_chans : m.chans = false) {ctx : Nat} 
    (h : Fr m s t) : Fr m s (@State.advance t ctx) := by
  unfold Sys2Proof.Machine.State.advance
  repeat' first
    | with_reducible assumption
    | (with_reducible apply Fr.runOrdered)
    | split

theorem Fr.endWith {m : Mask} {s t : State} (q_hub : m.hub = false) (q_host : m.host = false) (q_out : m.out = false) (q_chans : m.chans = false) {c : Nat} {sl : Nat} {status : Nat} {cause : Nat} {detail : Nat} {p : optParam PSrc PSrc.none} 
    (h : Fr m s t) : Fr m s (@State.endWith t c sl status cause detail p) := by
  unfold Sys2Proof.Machine.State.endWith
  repeat' first
    | with_reducible assumption
    | (with_reducible apply Fr.modCtx)
    | (with_reducible apply Fr.unbind)
    | (with_reducible apply Fr.advance)
    | (with_reducible apply Fr.finishWith)
    | split

theorem Fr.endInf {m : Mask} {s t : State} (q_hub : m.hub = false) (q_host : m.host = false) (q_out : m.out = false) (q_chans : m.chans = false) {c : Nat} {sl : Nat} {status : Nat} {cause : Nat} {idx : Nat} {p : optParam PSrc PSrc.none} 
    (h : Fr m s t) : Fr m s (@State.endInf t c sl status cause idx p) := by
  unfold Sys2Proof.Machine.State.endInf
  repeat' first
    | with_reducible assumption
    | (with_reducible apply Fr.endWith)
    | split

theorem Fr.endUnbound {m : Mask} {s t : State} (q_hub : m.hub = false) (q_host : m.host = false) (q_out : m.out = false) (q_chans : m.chans = false) {c : Nat} {j : Job} {status : Nat} {cause : Nat} 
    (h : Fr m s t) : Fr m s (@State.endUnbound t c j status cause) := by
  unfold Sys2Proof.Machine.State.endUnbound
  repeat' first
    | with_reducible assumption
    | (with_reducible apply Fr.modCtx)
    | (with_reducible apply Fr.advance)
    | (with_reducible apply Fr.finish)
    | split

theorem Fr.dropLate {m : Mask} {s t : State} (q_hub : m.hub = false) (q_host : m.host = false) (q_out : m.out = false) (q_chans : m.chans = false) {c : Nat} {j : Job} 
    (h : Fr m s t) : Fr m s (@State.dropLate t c j) := by
  unfold Sys2Proof.Machine.State.dropLate
  repeat' first
    | with_reducible assumption
    | (with_reducible apply Fr.endInf)
    | (with_reducible apply Fr.endUnbound)
    | split

theorem Fr.defer {m : Mask} {s t : State} (q_chans : m.chans = false) {c : Nat} {j : Job} 
    (h : Fr m s t) : Fr m s (@State.defer t c j) := by
  unfold Sys2Proof.Machine.State.defer
  repeat' first
    | with_reducible assumption
    | (with_reducible apply Fr.modJob)
    | (with_reducible apply Fr.modChan)
    | (with_reducible apply Fr.count)
    | split

theorem Fr.notAdmitted {m : Mask} {s t : State} (q_hub : m.hub = false) (q_host : m.host = false) (q_out : m.out = false) (q_chans : m.chans = false) {c : Nat} {j : Job} 
    (h : Fr m s t) : Fr m s (@State.notAdmitted t c j) := by
  unfold Sys2Proof.Machine.State.notAdmitted
  repeat' first
    | with_reducible assumption
    | (with_reducible apply Fr.dropLate)
    | (with_reducible apply Fr.defer)
    | split

theorem Fr.setBytesEst {m : Mask} {s t : State} (q_chans : m.chans = false) {c : Nat} {j : Job} 
    (h : Fr m s t) : Fr m s (@State.setBytesEst t c j) := by
  unfold Sys2Proof.Machine.State.setBytesEst
  repeat' first
    | with_reducible assumption
    | (with_reducible apply Fr.modChan)
    | dsimp -proj only
    | split

theorem Fr.used {m : Mask} {s t : State} (q_chans : m.chans = false) {c : Nat} {sl : Nat} {u : Use} 
    (h : Fr m s t) : Fr m s (@State.used t c sl u) := by
  unfold Sys2Proof.Machine.State.used
  repeat' first
    | with_reducible assumption
    | (with_reducible apply Fr.modSlot)
    | split

theorem Fr.carryUse {m : Mask} {s t : State} (q_chans : m.chans = false) {c : Nat} {sl : Nat} 
    (h : Fr m s t) : Fr m s (@State.carryUse t c sl) := by
  unfold Sys2Proof.Machine.State.carryUse
  repeat' first
    | with_reducible assumption
    | (with_reducible apply Fr.modSlot)
    | (with_reducible apply Fr.modChan)
    | (with_reducible apply Fr.foldl)
    | (with_reducible apply Fr.foldl_fst)
    | intro _
    | dsimp -proj only
    | split
    | (refine Fr.of_pair ‹_› ?_)

theorem Fr.resumeRecord {m : Mask} {s t : State} (q_chans : m.chans = false) {c : Nat} {sl : Nat} {h' : Nat} {n : Nat} {i : Nat} 
    (h : Fr m s t) : Fr m s (@State.resumeRecord t c sl h' n i) := by
  unfold Sys2Proof.Machine.State.resumeRecord
  repeat' first
    | with_reducible assumption
    | (with_reducible apply Fr.modChan)
    | (with_reducible apply Fr.modSlot)
    | (with_reducible apply Fr.count)
    | split

theorem Fr.resumeHandles {m : Mask} {s t : State} (q_chans : m.chans = false) {c : Nat} {sl : Nat} {l : List Nat} 
    (h : Fr m s t) : Fr m s (@State.resumeHandles t c sl l) := by
  unfold Sys2Proof.Machine.State.resumeHandles
  repeat' first
    | with_reducible assumption
    | (with_reducible apply Fr.resumeRecord)
    | (with_reducible apply Fr.foldl)
    | (with_reducible apply Fr.foldl_fst)
    | intro _
    | dsimp -proj only
    | split
    | (refine Fr.of_pair ‹_› ?_)

theorem Fr.resumeAll {m : Mask} {s t : State} (q_chans : m.chans = false) {c : Nat} {sl : Nat} 
    (h : Fr m s t) : Fr m s (@State.resumeAll t c sl) := by
  unfold Sys2Proof.Machine.State.resumeAll
  repeat' first
    | with_reducible assumption
    | (with_reducible apply Fr.resumeHandles)
    | (with_reducible apply Fr.modChan)
    | (with_reducible apply Fr.modSlot)
    | (with_reducible apply Fr.foldl)
    | intro _
    | dsimp -proj only
    | split

theorem Fr.admitJob {m : Mask} {s t : State} (q_chans : m.chans = false) {c : Nat} {j : Job} {u : Use} {ask : Bool} 
    (h : Fr m s t) : Fr m s (@State.admitJob t c j u ask) := by
  unfold Sys2Proof.Machine.State.admitJob
  repeat' first
    | with_reducible assumption
    | (with_reducible apply Fr.setBytesEst)
    | (with_reducible apply Fr.modChan)
    | (with_reducible apply Fr.countN)
    | (with_reducible apply Fr.modJob)
    | (with_reducible apply Fr.used)
    | (with_reducible apply Fr.carryUse)
    | (with_reducible apply Fr.resumeAll)
    | (with_reducible apply Fr.modSlot)
    | (with_reducible apply Fr.foldl)
    | (with_reducible apply Fr.foldl_fst)
    | intro _
    | dsimp -proj only
    | split
    | (refine Fr.of_pair ‹_› ?_)

theorem Fr.walk {m : Mask} {s : State} (q_hub : m.hub = false) (q_host : m.host = false) (q_out : m.out = false) (q_chans : m.chans = false) {c : Nat} :
    ∀ (l : List Job) (n : Nat) (t : State), Fr m s t → Fr m s (State.walk c l n t)
  | [], _, _, h => h
  | j :: l, n, t, h => by
    unfold State.walk
    repeat' first
      | with_reducible assumption
      | with_reducible apply Fr.walk q_hub q_host q_out q_chans l
      | (with_reducible apply Fr.notAdmitted)
      | (with_reducible apply Fr.admitJob)
      | dsimp -proj only
      | split

theorem Fr.admitCarried {m : Mask} {s t : State} (q_hub : m.hub = false) (q_host : m.host = false) (q_out : m.out = false) (q_chans : m.chans = false) {c : Nat} 
    (h : Fr m s t) : Fr m s (@State.admitCarried t c) := by
  unfold Sys2Proof.Machine.State.admitCarried
  repeat' first
    | with_reducible assumption
    | (with_reducible apply Fr.walk)
    | split

theorem Fr.modPortX {m : Mask} {s t : State} (q_chans : m.chans = false) {c : Nat} {p : Nat} {f : XPort → XPort} 
    (h : Fr m s t) : Fr m s (@State.modPortX t c p f) := by
  unfold Sys2Proof.Machine.State.modPortX
  repeat' first
    | with_reducible assumption
    | (with_reducible apply Fr.modChan)
    | split

theorem Fr.admitInbound {m : Mask} {s t : State} (q_chans : m.chans = false) {c : Nat} 
    (h : Fr m s t) : Fr m s (@State.admitInbound t c) := by
  unfold Sys2Proof.Machine.State.admitInbound
  repeat' first
    | with_reducible assumption
    | (with_reducible apply Fr.modPortX)
    | (with_reducible apply Fr.foldl)
    | intro _
    | split

theorem Fr.advanceRng {m : Mask} {s t : State} (q_chans : m.chans = false) {c : Nat} 
    (h : Fr m s t) : Fr m s (@State.advanceRng t c) := by
  unfold Sys2Proof.Machine.State.advanceRng
  repeat' first
    | with_reducible assumption
    | (with_reducible apply Fr.modChan)
    | split

theorem Fr.reloadDacs {m : Mask} {s t : State} (q_chans : m.chans = false)  
    (h : Fr m s t) : Fr m s (@State.reloadDacs t) := by
  unfold Sys2Proof.Machine.State.reloadDacs
  repeat' first
    | with_reducible assumption
    | (with_reducible apply Fr.allChans)
    | split

theorem Fr.modPeer {m : Mask} {s t : State} (q_host : m.host = false) {n : Nat} {g : Peer → Peer} 
    (h : Fr m s t) : Fr m s (@State.modPeer t n g) := by
  unfold Sys2Proof.Machine.State.modPeer
  repeat' first
    | with_reducible assumption
    | (exact fun b => ⟨b.events, b.waiting, b.audit, b.auditWriting, b.auditA, b.auditB, b.owners, b.level, b.samples, b.sessions⟩)
    | split
    | (with_reducible apply Fr.set_host)

theorem Fr.sendPeer {m : Mask} {s t : State} (q_host : m.host = false) (q_out : m.out = false) {n : Nat} {h' : Hdr} {body : List Sys2Proof.Byte} 
    (h : Fr m s t) : Fr m s (@State.sendPeer t n h' body) := by
  unfold Sys2Proof.Machine.State.sendPeer
  repeat' first
    | with_reducible assumption
    | (with_reducible apply Fr.modPeer)
    | (exact fun b => ⟨b.events, b.waiting, b.audit, b.auditWriting, b.auditA, b.auditB, b.owners, b.level, b.samples, b.sessions⟩)
    | split
    | (with_reducible apply Fr.set_out)

theorem Fr.sendRetractions {m : Mask} {s t : State} (q_hub : m.hub = false) (q_host : m.host = false) (q_out : m.out = false) (q_chans : m.chans = false)  
    (h : Fr m s t) : Fr m s (@State.sendRetractions t) := by
  unfold Sys2Proof.Machine.State.sendRetractions
  repeat' first
    | with_reducible assumption
    | (with_reducible apply Fr.countAll)
    | (with_reducible apply Fr.sendPeer)
    | (with_reducible apply Fr.event)
    | (with_reducible apply Fr.foldl)
    | intro _
    | split

theorem Fr.endDebug {m : Mask} {s t : State} (q_hub : m.hub = false)  
    (h : Fr m s t) : Fr m s (@State.endDebug t) := by
  unfold Sys2Proof.Machine.State.endDebug
  repeat' first
    | with_reducible assumption
    | (exact fun b => ⟨b.events, b.waiting, b.audit, b.auditWriting, b.auditA, b.auditB, b.owners, b.level, b.samples, b.sessions⟩)
    | split
    | (with_reducible apply Fr.set_hub)

theorem Fr.modPort {m : Mask} {s t : State} (q_host : m.host = false) {p : Nat} {g : Port → Port} 
    (h : Fr m s t) : Fr m s (@State.modPort t p g) := by
  unfold Sys2Proof.Machine.State.modPort
  repeat' first
    | with_reducible assumption
    | (exact fun b => ⟨b.events, b.waiting, b.audit, b.auditWriting, b.auditA, b.auditB, b.owners, b.level, b.samples, b.sessions⟩)
    | split
    | (with_reducible apply Fr.set_host)

theorem Fr.endRole {m : Mask} {s t : State} (q_hub : m.hub = false) (q_host : m.host = false) (q_store : m.store = false) {p : Nat} 
    (h : Fr m s t) : Fr m s (@State.endRole t p) := by
  unfold Sys2Proof.Machine.State.endRole
  repeat' first
    | with_reducible assumption
    | (with_reducible apply Fr.audit)
    | (with_reducible apply Fr.endDebug)
    | (with_reducible apply Fr.modPort)
    | split

theorem Fr.dropCarried {m : Mask} {s t : State} (q_hub : m.hub = false) (q_host : m.host = false) (q_out : m.out = false) (q_chans : m.chans = false) {f : Nat} {c : Nat} 
    (h : Fr m s t) : Fr m s (@State.dropCarried t f c) := by
  unfold Sys2Proof.Machine.State.dropCarried
  repeat' first
    | with_reducible assumption
    | (with_reducible apply Fr.dropLate)
    | (with_reducible apply Fr.foldl)
    | intro _
    | split

theorem Fr.closeFn {m : Mask} {s t : State} (q_hub : m.hub = false) (q_host : m.host = false) (q_store : m.store = false) (q_out : m.out = false) (q_chans : m.chans = false) {f : Nat} 
    (h : Fr m s t) : Fr m s (@State.closeFn t f) := by
  unfold Sys2Proof.Machine.State.closeFn
  repeat' first
    | with_reducible assumption
    | (with_reducible apply Fr.modFn)
    | (with_reducible apply Fr.endRole)
    | (with_reducible apply Fr.modPort)
    | (with_reducible apply Fr.dropCarried)
    | (with_reducible apply Fr.foldl)
    | intro _
    | split

theorem Fr.endRunning {m : Mask} {s t : State} (q_hub : m.hub = false) (q_host : m.host = false) (q_out : m.out = false) (q_chans : m.chans = false) {c : Nat} 
    (h : Fr m s t) : Fr m s (@State.endRunning t c) := by
  unfold Sys2Proof.Machine.State.endRunning
  repeat' first
    | with_reducible assumption
    | (with_reducible apply Fr.endInf)
    | (with_reducible apply Fr.foldl)
    | intro _
    | split

theorem Fr.writeSamples {m : Mask} {s t : State} (q_host : m.host = false) (q_out : m.out = false) (q_chans : m.chans = false) {c : Nat} 
    (h : Fr m s t) : Fr m s (@State.writeSamples t c).1 := by
  unfold Sys2Proof.Machine.State.writeSamples
  repeat' first
    | with_reducible assumption
    | (with_reducible apply Fr.modChan)
    | (with_reducible apply Fr.hostWrite)
    | dsimp -proj only
    | split

theorem Fr.endSample {m : Mask} {s t : State} (q_hub : m.hub = false) (q_host : m.host = false) (q_out : m.out = false) (q_chans : m.chans = false) {c : Nat} {status : Nat} {cause : Nat} 
    (h : Fr m s t) : Fr m s (@State.endSample t c status cause) := by
  unfold Sys2Proof.Machine.State.endSample
  repeat' first
    | with_reducible assumption
    | (with_reducible apply Fr.modChan)
    | (with_reducible apply Fr.writeSamples)
    | (with_reducible apply Fr.finishHost)
    | dsimp -proj only
    | split

theorem Fr.startDrain {m : Mask} {s t : State} (q_hub : m.hub = false) (q_host : m.host = false) (q_store : m.store = false) (q_integ : m.integ = false) (q_out : m.out = false) (q_chans : m.chans = false) (q_fresh : m.fresh = false) {cause : Nat} {chan : Nat} 
    (h : Fr m s t) : Fr m s (@State.startDrain t cause chan) := by
  unfold Sys2Proof.Machine.State.startDrain
  repeat' first
    | with_reducible assumption
    | (with_reducible apply Fr.allChans)
    | (with_reducible apply Fr.reloadDacs)
    | (with_reducible apply Fr.event)
    | (with_reducible apply Fr.sendRetractions)
    | (with_reducible apply Fr.closeFn)
    | (with_reducible apply Fr.endRunning)
    | (with_reducible apply Fr.abandonLoads)
    | (with_reducible apply Fr.endSample)
    | (exact fun b => ⟨b.events, b.waiting, b.audit, b.auditWriting, b.auditA, b.auditB, b.owners, b.level, b.samples, b.sessions⟩)
    | (with_reducible apply Fr.foldl)
    | intro _
    | split
    | (with_reducible apply Fr.set_store_integ)
    | (with_reducible apply Fr.set_store)
    | (with_reducible apply Fr.set_integ)

theorem Fr.laterCause {m : Mask} {s t : State} (q_hub : m.hub = false) (q_store : m.store = false) (q_integ : m.integ = false) {cause : Nat} {chan : Nat} 
    (h : Fr m s t) : Fr m s (@State.laterCause t cause chan) := by
  unfold Sys2Proof.Machine.State.laterCause
  repeat' first
    | with_reducible assumption
    | (with_reducible apply Fr.event)
    | (exact fun b => ⟨b.events, b.waiting, b.audit, b.auditWriting, b.auditA, b.auditB, b.owners, b.level, b.samples, b.sessions⟩)
    | split
    | (with_reducible apply Fr.set_store_integ)
    | (with_reducible apply Fr.set_store)
    | (with_reducible apply Fr.set_integ)

theorem Fr.drain {m : Mask} {s t : State} (q_hub : m.hub = false) (q_host : m.host = false) (q_store : m.store = false) (q_integ : m.integ = false) (q_out : m.out = false) (q_chans : m.chans = false) (q_fresh : m.fresh = false) {cause : Nat} {chan : Nat} 
    (h : Fr m s t) : Fr m s (@State.drain t cause chan) := by
  unfold Sys2Proof.Machine.State.drain
  repeat' first
    | with_reducible assumption
    | (with_reducible apply Fr.startDrain)
    | (with_reducible apply Fr.laterCause)
    | (with_reducible apply Fr.foldl)
    | split

theorem Fr.refreshDue {m : Mask} {s t : State} (q_hub : m.hub = false) (q_store : m.store = false) {c : Nat} {t' : Nat} {f : Nat} {why : Nat} 
    (h : Fr m s t) : Fr m s (@State.refreshDue t c t' f why) := by
  unfold Sys2Proof.Machine.State.refreshDue
  repeat' first
    | with_reducible assumption
    | (with_reducible apply Fr.event)
    | (with_reducible apply Fr.modFacet)
    | dsimp -proj only
    | split

theorem Fr.driftAlarm {m : Mask} {s t : State} (q_hub : m.hub = false) (q_store : m.store = false) (q_chans : m.chans = false) {c : Nat} {t' : Nat} {f : Nat} 
    (h : Fr m s t) : Fr m s (@State.driftAlarm t c t' f) := by
  unfold Sys2Proof.Machine.State.driftAlarm
  repeat' first
    | with_reducible assumption
    | (with_reducible apply Fr.refreshDue)
    | (with_reducible apply Fr.count)
    | (with_reducible apply Fr.modFacet)
    | dsimp -proj only
    | split

theorem Fr.setAge {m : Mask} {s t : State} (q_hub : m.hub = false) (q_host : m.host = false) (q_store : m.store = false) (q_integ : m.integ = false) (q_out : m.out = false) (q_chans : m.chans = false) (q_fresh : m.fresh = false) {c : Nat} {t' : Nat} {f : Nat} {b : Nat} {v : Val} 
    (h : Fr m s t) : Fr m s (@State.setAge t c t' f b v) := by
  unfold Sys2Proof.Machine.State.setAge
  repeat' first
    | with_reducible assumption
    | (with_reducible apply Fr.modBlock)
    | (with_reducible apply Fr.drain)
    | (with_reducible apply Fr.driftAlarm)
    | dsimp -proj only
    | split

theorem Fr.ageUpdate {m : Mask} {s t : State} (q_hub : m.hub = false) (q_host : m.host = false) (q_store : m.store = false) (q_integ : m.integ = false) (q_out : m.out = false) (q_chans : m.chans = false) (q_fresh : m.fresh = false) {c : Nat} {t' : Nat} {f : Nat} {b : Nat} 
    (h : Fr m s t) : Fr m s (@State.ageUpdate t c t' f b) := by
  unfold Sys2Proof.Machine.State.ageUpdate
  repeat' first
    | with_reducible assumption
    | (with_reducible apply Fr.modBlock)
    | (with_reducible apply Fr.setAge)
    | (with_reducible apply Fr.count)
    | dsimp -proj only
    | split

theorem Fr.ageUpdates {m : Mask} {s t : State} (q_hub : m.hub = false) (q_host : m.host = false) (q_store : m.store = false) (q_integ : m.integ = false) (q_out : m.out = false) (q_chans : m.chans = false) (q_fresh : m.fresh = false)  
    (h : Fr m s t) : Fr m s (@State.ageUpdates t) := by
  unfold Sys2Proof.Machine.State.ageUpdates
  repeat' first
    | with_reducible assumption
    | (with_reducible apply Fr.ageUpdate)
    | (with_reducible apply Fr.foldl)
    | intro _
    | split

theorem Fr.sampleHit {m : Mask} {s t : State} (q_chans : m.chans = false) {c : Nat} {event : Nat} {slot : Nat} {o : Outst} 
    (h : Fr m s t) : Fr m s (@State.sampleHit t c event slot o) := by
  unfold Sys2Proof.Machine.State.sampleHit
  repeat' first
    | with_reducible assumption
    | (with_reducible apply Fr.modChan)
    | dsimp -proj only
    | split

theorem Fr.countBy {m : Mask} {s t : State} (q_chans : m.chans = false) {c : Nat} {code : Nat} {n : Nat} {slot : Nat} {o : Outst} 
    (h : Fr m s t) : Fr m s (@State.countBy t c code n slot o) := by
  unfold Sys2Proof.Machine.State.countBy
  repeat' first
    | with_reducible assumption
    | (with_reducible apply Fr.countN)
    | (with_reducible apply Fr.sampleHit)
    | (with_reducible apply Fr.foldl)
    | intro _
    | dsimp -proj only
    | split

theorem Fr.issued {m : Mask} {s t : State} (q_chans : m.chans = false) {c : Nat} {sl : Nat} {w : Sys2Proof.Word} 
    (h : Fr m s t) : Fr m s (@State.issued t c sl w) := by
  unfold Sys2Proof.Machine.State.issued
  repeat' first
    | with_reducible assumption
    | (with_reducible apply Fr.countBy)
    | (with_reducible apply Fr.modChan)
    | (with_reducible apply Fr.modSlot)
    | split

theorem Fr.fault {m : Mask} {s t : State} (q_hub : m.hub = false) (q_host : m.host = false) (q_out : m.out = false) (q_chans : m.chans = false) {c : Nat} {sl : Nat} {cause : Nat} {idx : Nat} 
    (h : Fr m s t) : Fr m s (@State.fault t c sl cause idx) := by
  unfold Sys2Proof.Machine.State.fault
  repeat' first
    | with_reducible assumption
    | (with_reducible apply Fr.endInf)
    | split

theorem Fr.issue {m : Mask} {s t : State} (q_hub : m.hub = false) (q_host : m.host = false) (q_out : m.out = false) (q_chans : m.chans = false) {c : Nat} {sl : Nat} {op : Nat} {act : State → Outst → State} (p_act : ∀ u a1, Fr m s u → Fr m s (act u a1))
    (h : Fr m s t) : Fr m s (@State.issue t c sl op act) := by
  unfold Sys2Proof.Machine.State.issue
  repeat' first
    | with_reducible assumption
    | (with_reducible apply Fr.issued)
    | (with_reducible apply Fr.fault)
    | (with_reducible apply p_act)
    | split

theorem Fr.sampleDone {m : Mask} {s t : State} (q_chans : m.chans = false) {c : Nat} {seq : Nat} {run : Nat} 
    (h : Fr m s t) : Fr m s (@State.sampleDone t c seq run) := by
  unfold Sys2Proof.Machine.State.sampleDone
  repeat' first
    | with_reducible assumption
    | (with_reducible apply Fr.modChan)
    | split

theorem Fr.issueNow {m : Mask} {s t : State} (q_hub : m.hub = false) (q_host : m.host = false) (q_out : m.out = false) (q_chans : m.chans = false) {c : Nat} {sl : Nat} {op : Nat} {act : State → Outst → State} (p_act : ∀ u a1, Fr m s u → Fr m s (act u a1))
    (h : Fr m s t) : Fr m s (@State.issueNow t c sl op act) := by
  unfold Sys2Proof.Machine.State.issueNow
  repeat' first
    | with_reducible assumption
    | (with_reducible apply Fr.issue)
    | (with_reducible apply Fr.sampleDone)
    | (with_reducible apply p_act)
    | intro _
    | split

theorem Fr.setReg {m : Mask} {s t : State} (q_chans : m.chans = false) {c : Nat} {sl : Nat} {r : Nat} {v : Sys2Proof.Word} 
    (h : Fr m s t) : Fr m s (@State.setReg t c sl r v) := by
  unfold Sys2Proof.Machine.State.setReg
  repeat' first
    | with_reducible assumption
    | (with_reducible apply Fr.modSlot)
    | split

theorem Fr.alu {m : Mask} {s t : State} (q_hub : m.hub = false) (q_host : m.host = false) (q_out : m.out = false) (q_chans : m.chans = false) {c : Nat} {sl : Nat} {op : Nat} {f : Sys2Proof.Word → Sys2Proof.Word → Sys2Proof.Word} 
    (h : Fr m s t) : Fr m s (@State.alu t c sl op f) := by
  unfold Sys2Proof.Machine.State.alu
  repeat' first
    | with_reducible assumption
    | (with_reducible apply Fr.issueNow)
    | (with_reducible apply Fr.setReg)
    | intro _
    | split

theorem Fr.answer {m : Mask} {s t : State} (q_out : m.out = false) {p : Nat} {code : Nat} {body : List Sys2Proof.Byte} 
    (h : Fr m s t) : Fr m s (@State.answer t p code body) := by
  unfold Sys2Proof.Machine.State.answer
  repeat' first
    | with_reducible assumption
    | (exact fun b => ⟨b.events, b.waiting, b.audit, b.auditWriting, b.auditA, b.auditB, b.owners, b.level, b.samples, b.sessions⟩)
    | split
    | (with_reducible apply Fr.set_out)

theorem Fr.answerError {m : Mask} {s t : State} (q_out : m.out = false) {p : Nat} 
    (h : Fr m s t) : Fr m s (@State.answerError t p) := by
  unfold Sys2Proof.Machine.State.answerError
  repeat' first
    | with_reducible assumption
    | (with_reducible apply Fr.answer)
    | split

theorem Fr.assign {m : Mask} {s t : State} (q_host : m.host = false) (q_chans : m.chans = false) {v : BitVec 64} 
    (h : Fr m s t) : Fr m s (@State.assign t v) := by
  unfold Sys2Proof.Machine.State.assign
  repeat' first
    | with_reducible assumption
    | (with_reducible apply Fr.allChans)
    | (exact fun b => ⟨b.events, b.waiting, b.audit, b.auditWriting, b.auditA, b.auditB, b.owners, b.level, b.samples, b.sessions⟩)
    | split
    | (with_reducible apply Fr.set_host)

theorem Fr.applyStaged {m : Mask} {s t : State} (q_host : m.host = false) (q_chans : m.chans = false)  
    (h : Fr m s t) : Fr m s (@State.applyStaged t) := by
  unfold State.applyStaged
  dsimp -proj only
  refine Fr.foldl (fun _ _ k => Fr.assign q_host q_chans k) _ _ (Fr.foldl (fun u a k => ?_) _ _ ?_)
  · split
    · exact k
    · exact Fr.modPeer q_host k
  · refine Fr.set_host q_host (fun b => ⟨b.events, b.waiting, b.audit, b.auditWriting, b.auditA, b.auditB, ?_, b.level, b.samples, b.sessions⟩) h
    simp


theorem Fr.creditFor {m : Mask} {s t : State} (q_host : m.host = false) (q_out : m.out = false) {n : Nat} {c : Nat} {l : List (Nat × Nat × Bool)} 
    (h : Fr m s t) : Fr m s (@State.creditFor t n c l) := by
  unfold Sys2Proof.Machine.State.creditFor
  repeat' first
    | with_reducible assumption
    | (with_reducible apply Fr.sendPeer)
    | (with_reducible apply Fr.foldl)
    | (with_reducible apply Fr.foldl_fst)
    | intro _
    | dsimp -proj only
    | split
    | (refine Fr.of_pair ‹_› ?_)

theorem Fr.sendCredit {m : Mask} {s t : State} (q_host : m.host = false) (q_out : m.out = false) {n : Nat} 
    (h : Fr m s t) : Fr m s (@State.sendCredit t n) := by
  unfold Sys2Proof.Machine.State.sendCredit
  repeat' first
    | with_reducible assumption
    | (with_reducible apply Fr.modPeer)
    | (with_reducible apply Fr.creditFor)
    | (with_reducible apply Fr.foldl)
    | (with_reducible apply Fr.foldl_fst)
    | intro _
    | dsimp -proj only
    | split
    | (refine Fr.of_pair ‹_› ?_)

theorem Fr.owe {m : Mask} {s t : State} (q_host : m.host = false) (q_out : m.out = false) {n : Nat} {h' : Hdr} {bad : Bool} 
    (h : Fr m s t) : Fr m s (@State.owe t n h' bad) := by
  unfold Sys2Proof.Machine.State.owe
  repeat' first
    | with_reducible assumption
    | (with_reducible apply Fr.modPeer)
    | (with_reducible apply Fr.sendCredit)
    | dsimp -proj only
    | split

theorem Fr.discardMsg {m : Mask} {s t : State} (q_host : m.host = false) (q_out : m.out = false) (q_chans : m.chans = false) {n : Nat} {h' : Hdr} 
    (h : Fr m s t) : Fr m s (@State.discardMsg t n h') := by
  unfold Sys2Proof.Machine.State.discardMsg
  repeat' first
    | with_reducible assumption
    | (with_reducible apply Fr.countAll)
    | (with_reducible apply Fr.owe)
    | split

theorem Fr.hear {m : Mask} {s t : State} (q_host : m.host = false) (q_chans : m.chans = false) {n : Nat} {wm : Nat} 
    (h : Fr m s t) : Fr m s (@State.hear t n wm) := by
  unfold Sys2Proof.Machine.State.hear
  repeat' first
    | with_reducible assumption
    | (with_reducible apply Fr.allChans)
    | (with_reducible apply Fr.modPeer)
    | split

theorem Fr.arantIn {m : Mask} {s t : State} (q_host : m.host = false) (q_out : m.out = false) (q_chans : m.chans = false) {n : Nat} {h' : Hdr} {body : List Sys2Proof.Byte} 
    (h : Fr m s t) : Fr m s (@State.arantIn t n h' body).1 := by
  unfold Sys2Proof.Machine.State.arantIn
  repeat' first
    | with_reducible assumption
    | (with_reducible apply Fr.countAll)
    | (with_reducible apply Fr.modPeer)
    | (with_reducible apply Fr.discardMsg)
    | (with_reducible apply Fr.hear)
    | dsimp -proj only
    | split

theorem Fr.displace {m : Mask} {s : State} (q_chans : m.chans = false) {c : Nat} {u : Use} :
    ∀ (l : List Job) (t : State), Fr m s t → Fr m s (State.displace c u l t)
  | [], _, h => h
  | j :: l, t, h => by
    unfold State.displace
    repeat' first
      | with_reducible assumption
      | with_reducible apply Fr.displace q_chans l
      | (with_reducible apply Fr.defer)
      | (with_reducible apply Fr.count)
      | (with_reducible apply Fr.modChan)
      | dsimp -proj only
      | split

theorem Fr.arrive {m : Mask} {s t : State} (q_chans : m.chans = false) {c : Nat} {j : Job} 
    (h : Fr m s t) : Fr m s (@State.arrive t c j) := by
  unfold Sys2Proof.Machine.State.arrive
  repeat' first
    | with_reducible assumption
    | (with_reducible apply Fr.defer)
    | (with_reducible apply Fr.admitJob)
    | (with_reducible apply Fr.displace)
    | (with_reducible apply Fr.modChan)
    | dsimp -proj only
    | split

theorem Fr.modBar {m : Mask} {s t : State} (q_chans : m.chans = false) {c : Nat} {b : Nat} {f : Bar → Bar} 
    (h : Fr m s t) : Fr m s (@State.modBar t c b f) := by
  unfold Sys2Proof.Machine.State.modBar
  repeat' first
    | with_reducible assumption
    | (with_reducible apply Fr.modChan)
    | split

theorem Fr.barSend {m : Mask} {s t : State} (q_chans : m.chans = false) {d : Nat} {m' : BMsg} 
    (h : Fr m s t) : Fr m s (@State.barSend t d m') := by
  unfold Sys2Proof.Machine.State.barSend
  repeat' first
    | with_reducible assumption
    | (with_reducible apply Fr.modChan)
    | split

theorem Fr.sendWhen {m : Mask} {s t : State} (q_host : m.host = false) (q_out : m.out = false) {n : Nat} {h' : Hdr} {body : List Sys2Proof.Byte} 
    (h : Fr m s t) : Fr m s (@State.sendWhen t n h' body) := by
  unfold Sys2Proof.Machine.State.sendWhen
  repeat' first
    | with_reducible assumption
    | (with_reducible apply Fr.sendPeer)
    | (with_reducible apply Fr.modPeer)
    | split

theorem Fr.takeArrival {m : Mask} {s t : State} (q_host : m.host = false) (q_out : m.out = false) (q_chans : m.chans = false) {c : Nat} {b : Nat} {g : BitVec 32} {src : BSrc} 
    (h : Fr m s t) : Fr m s (@State.takeArrival t c b g src) := by
  unfold Sys2Proof.Machine.State.takeArrival
  repeat' first
    | with_reducible assumption
    | (with_reducible apply Fr.count)
    | (with_reducible apply Fr.modBar)
    | (with_reducible apply Fr.barSend)
    | (with_reducible apply Fr.sendWhen)
    | (with_reducible apply Fr.foldl)
    | intro _
    | dsimp -proj only
    | split

theorem Fr.arriveAt {m : Mask} {s t : State} (q_host : m.host = false) (q_out : m.out = false) (q_chans : m.chans = false) {c : Nat} {m' : BMsg} 
    (h : Fr m s t) : Fr m s (@State.arriveAt t c m') := by
  unfold Sys2Proof.Machine.State.arriveAt
  repeat' first
    | with_reducible assumption
    | (with_reducible apply Fr.takeArrival)
    | (with_reducible apply Fr.count)
    | dsimp -proj only
    | split

theorem Fr.auditDraw {m : Mask} {s t : State} (q_store : m.store = false) (q_fresh : m.fresh = false) {action : Nat} {p : Nat} 
    (h : Fr m s t) : Fr m s (@State.auditDraw t action p) := by
  unfold Sys2Proof.Machine.State.auditDraw
  repeat' first
    | with_reducible assumption
    | (with_reducible apply Fr.draw)
    | (with_reducible apply Fr.audit)
    | split

theorem Fr.modTile {m : Mask} {s t : State} (q_chans : m.chans = false) {c : Nat} {t' : Nat} {f : Tile → Tile} 
    (h : Fr m s t) : Fr m s (@State.modTile t c t' f) := by
  unfold Sys2Proof.Machine.State.modTile
  repeat' first
    | with_reducible assumption
    | (with_reducible apply Fr.modChan)
    | split

theorem Fr.modOut {m : Mask} {s t : State} (q_chans : m.chans = false) {c : Nat} {sl : Nat} {seq : Nat} {f : Outst → Outst} 
    (h : Fr m s t) : Fr m s (@State.modOut t c sl seq f) := by
  unfold Sys2Proof.Machine.State.modOut
  repeat' first
    | with_reducible assumption
    | (with_reducible apply Fr.modSlot)
    | split

theorem Fr.delivered {m : Mask} {s t : State} (q_chans : m.chans = false) {c : Nat} {sl : Nat} {seq : Nat} {h' : Nat} 
    (h : Fr m s t) : Fr m s (@State.delivered t c sl seq h') := by
  unfold Sys2Proof.Machine.State.delivered
  repeat' first
    | with_reducible assumption
    | (with_reducible apply Fr.modSlot)
    | (with_reducible apply Fr.modOut)
    | split

theorem Fr.bankResult {m : Mask} {s t : State} (q_chans : m.chans = false) {c : Nat} {t' : Nat} {r : Run} {sums : List (BitVec 32)} {sat : Bool} 
    (h : Fr m s t) : Fr m s (@State.bankResult t c t' r sums sat) := by
  unfold Sys2Proof.Machine.State.bankResult
  repeat' first
    | with_reducible assumption
    | (with_reducible apply Fr.modTile)
    | (with_reducible apply Fr.delivered)
    | dsimp -proj only
    | split

theorem Fr.spillHandle {m : Mask} {s t : State} (q_chans : m.chans = false) {c : Nat} {sl : Nat} {h' : Nat} {keepOpen : Bool} {implicit : Bool} {seq : optParam Nat 0} 
    (h : Fr m s t) : Fr m s (@State.spillHandle t c sl h' keepOpen implicit seq) := by
  unfold Sys2Proof.Machine.State.spillHandle
  repeat' first
    | with_reducible assumption
    | (with_reducible apply Fr.modChan)
    | (with_reducible apply Fr.modSlot)
    | dsimp -proj only
    | split

theorem Fr.spillAll {m : Mask} {s t : State} (q_chans : m.chans = false) {c : Nat} {sl : Nat} 
    (h : Fr m s t) : Fr m s (@State.spillAll t c sl) := by
  unfold Sys2Proof.Machine.State.spillAll
  repeat' first
    | with_reducible assumption
    | (with_reducible apply Fr.count)
    | (with_reducible apply Fr.spillHandle)
    | (with_reducible apply Fr.foldl)
    | intro _
    | split

theorem Fr.barAt {m : Mask} {s t : State} (q_hub : m.hub = false) (q_host : m.host = false) (q_out : m.out = false) (q_chans : m.chans = false) {c : Nat} {sl : Nat} {o : Outst} 
    (h : Fr m s t) : Fr m s (@State.barAt t c sl o) := by
  unfold Sys2Proof.Machine.State.barAt
  repeat' first
    | with_reducible assumption
    | (with_reducible apply Fr.fault)
    | (with_reducible apply Fr.addOut)
    | (with_reducible apply Fr.spillAll)
    | (with_reducible apply Fr.modSlot)
    | dsimp -proj only
    | split

theorem Fr.wake {m : Mask} {s t : State} (q_chans : m.chans = false) {c : Nat} {sl : Nat} 
    (h : Fr m s t) : Fr m s (@State.wake t c sl) := by
  unfold Sys2Proof.Machine.State.wake
  repeat' first
    | with_reducible assumption
    | (with_reducible apply Fr.sampleDone)
    | (with_reducible apply Fr.modSlot)
    | (with_reducible apply Fr.resumeAll)
    | (with_reducible apply Fr.foldl)
    | intro _
    | split

theorem Fr.release {m : Mask} {s t : State} (q_chans : m.chans = false) {c : Nat} {b : Nat} {g : BitVec 32} 
    (h : Fr m s t) : Fr m s (@State.release t c b g) := by
  unfold Sys2Proof.Machine.State.release
  repeat' first
    | with_reducible assumption
    | (with_reducible apply Fr.modBar)
    | (with_reducible apply Fr.wake)
    | (with_reducible apply Fr.foldl)
    | intro _
    | split

theorem Fr.barRelease {m : Mask} {s t : State} (q_chans : m.chans = false) {c : Nat} {b : Nat} {g : BitVec 32} 
    (h : Fr m s t) : Fr m s (@State.barRelease t c b g) := by
  unfold Sys2Proof.Machine.State.barRelease
  repeat' first
    | with_reducible assumption
    | (with_reducible apply Fr.modBar)
    | (with_reducible apply Fr.release)
    | dsimp -proj only
    | split

theorem Fr.becomeDrained {m : Mask} {s t : State} (q_host : m.host = false) (q_integ : m.integ = false)  
    (h : Fr m s t) : Fr m s (@State.becomeDrained t) := by
  unfold Sys2Proof.Machine.State.becomeDrained
  repeat' first
    | with_reducible assumption
    | (exact fun b => ⟨b.events, b.waiting, b.audit, b.auditWriting, b.auditA, b.auditB, b.owners, b.level, b.samples, b.sessions⟩)
    | split
    | (with_reducible apply Fr.set_host_integ)
    | (with_reducible apply Fr.set_host)
    | (with_reducible apply Fr.set_integ)

theorem Fr.countReq {m : Mask} {s t : State} (q_chans : m.chans = false) {c : Nat} {r : Req} {code : Nat} {n : Nat} 
    (h : Fr m s t) : Fr m s (@State.countReq t c r code n) := by
  unfold Sys2Proof.Machine.State.countReq
  repeat' first
    | with_reducible assumption
    | (with_reducible apply Fr.countBy)
    | (with_reducible apply Fr.countN)
    | split

theorem Fr.noteFacet {m : Mask} {s t : State} (q_chans : m.chans = false) {c : Nat} {t' : Nat} {phys : Nat} {r : Req} 
    (h : Fr m s t) : Fr m s (@State.noteFacet t c t' phys r) := by
  unfold Sys2Proof.Machine.State.noteFacet
  repeat' first
    | with_reducible assumption
    | (with_reducible apply Fr.modSlot)
    | (with_reducible apply Fr.foldl)
    | (with_reducible apply Fr.foldl_fst)
    | intro _
    | dsimp -proj only
    | split
    | (refine Fr.of_pair ‹_› ?_)

theorem Fr.noteGrant {m : Mask} {s t : State} (q_chans : m.chans = false) {c : Nat} {t' : Nat} {phys : Nat} {r : Req} 
    (h : Fr m s t) : Fr m s (@State.noteGrant t c t' phys r) := by
  unfold Sys2Proof.Machine.State.noteGrant
  repeat' first
    | with_reducible assumption
    | (with_reducible apply Fr.noteFacet)
    | (with_reducible apply Fr.modSlot)
    | split

theorem Fr.beginMvm {m : Mask} {s t : State} (q_chans : m.chans = false) {c : Nat} {t' : Nat} {g : Grant} 
    (h : Fr m s t) : Fr m s (@State.beginMvm t c t' g) := by
  unfold Sys2Proof.Machine.State.beginMvm
  repeat' first
    | with_reducible assumption
    | (with_reducible apply Fr.modTile)
    | (with_reducible apply Fr.countN)
    | (with_reducible apply Fr.countReq)
    | (with_reducible apply Fr.noteGrant)
    | split

theorem Fr.resumePv {m : Mask} {s t : State} (q_store : m.store = false) (q_chans : m.chans = false) {c : Nat} {t' : Nat} 
    (h : Fr m s t) : Fr m s (@State.resumePv t c t') := by
  unfold Sys2Proof.Machine.State.resumePv
  repeat' first
    | with_reducible assumption
    | (with_reducible apply Fr.modTile)
    | (with_reducible apply Fr.modFacet)
    | (with_reducible apply Fr.modChan)
    | (with_reducible apply Fr.count)
    | dsimp -proj only
    | split

theorem Fr.beginPv {m : Mask} {s t : State} (q_host : m.host = false) (q_store : m.store = false) (q_chans : m.chans = false) {g : Nat} {i : Nat} {r : PkgRec} {refresh : Bool} {f : Nat} {second : Bool} 
    (h : Fr m s t) : Fr m s (@State.beginPv t g i r refresh f second) := by
  unfold Sys2Proof.Machine.State.beginPv
  repeat' first
    | with_reducible assumption
    | (with_reducible apply Fr.modRec)
    | (with_reducible apply Fr.modTile)
    | (with_reducible apply Fr.count)
    | (with_reducible apply Fr.resumePv)
    | (with_reducible apply Fr.foldl)
    | (with_reducible apply Fr.foldl_fst)
    | intro _
    | dsimp -proj only
    | split
    | (refine Fr.of_pair ‹_› ?_)

theorem Fr.beginSwitch {m : Mask} {s t : State} (q_chans : m.chans = false) {c : Nat} {t' : Nat} {f : Nat} {charged : Bool} 
    (h : Fr m s t) : Fr m s (@State.beginSwitch t c t' f charged) := by
  unfold Sys2Proof.Machine.State.beginSwitch
  repeat' first
    | with_reducible assumption
    | (with_reducible apply Fr.modTile)
    | (with_reducible apply Fr.count)
    | (with_reducible apply Fr.modChan)
    | split

theorem Fr.begun {m : Mask} {s t : State} (q_chans : m.chans = false) {c : Nat} {sl : Nat} {seq : Nat} {f : optParam (Outst → Outst) id} 
    (h : Fr m s t) : Fr m s (@State.begun t c sl seq f) := by
  unfold Sys2Proof.Machine.State.begun
  repeat' first
    | with_reducible assumption
    | (with_reducible apply Fr.modOut)
    | split

theorem Fr.blockPort {m : Mask} {s t : State} (q_chans : m.chans = false) {c : Nat} {sl : Nat} {p : Nat} {o : Outst} 
    (h : Fr m s t) : Fr m s (@State.blockPort t c sl p o) := by
  unfold Sys2Proof.Machine.State.blockPort
  repeat' first
    | with_reducible assumption
    | (with_reducible apply Fr.spillAll)
    | (with_reducible apply Fr.addOut)
    | (with_reducible apply Fr.modSlot)
    | (with_reducible apply Fr.modPortX)
    | split

theorem Fr.bootDone {m : Mask} {s t : State} (q_pwr : m.pwr = false) (q_hub : m.hub = false) (q_integ : m.integ = false)  
    (h : Fr m s t) : Fr m s (@State.bootDone t) := by
  unfold Sys2Proof.Machine.State.bootDone
  repeat' first
    | with_reducible assumption
    | (with_reducible apply Fr.event)
    | (exact fun b => ⟨b.events, b.waiting, b.audit, b.auditWriting, b.auditA, b.auditB, b.owners, b.level, b.samples, b.sessions⟩)
    | (with_reducible apply Fr.foldl)
    | intro _
    | split
    | (with_reducible apply Fr.set_pwr_integ)
    | (with_reducible apply Fr.set_pwr)
    | (with_reducible apply Fr.set_integ)

theorem Fr.branch {m : Mask} {s t : State} (q_hub : m.hub = false) (q_host : m.host = false) (q_out : m.out = false) (q_chans : m.chans = false) {c : Nat} {sl : Nat} {op : Nat} {p : Sys2Proof.Word → Sys2Proof.Word → Bool} 
    (h : Fr m s t) : Fr m s (@State.branch t c sl op p) := by
  unfold Sys2Proof.Machine.State.branch
  repeat' first
    | with_reducible assumption
    | (with_reducible apply Fr.issueNow)
    | (with_reducible apply Fr.modSlot)
    | intro _
    | split

theorem Fr.setSensor {m : Mask} {s t : State} (q_therm : m.therm = false) {n : Nat} {x : Sensor} 
    (h : Fr m s t) : Fr m s (@State.setSensor t n x) := by
  unfold Sys2Proof.Machine.State.setSensor
  repeat' first
    | with_reducible assumption
    | (exact fun b => ⟨b.events, b.waiting, b.audit, b.auditWriting, b.auditA, b.auditB, b.owners, b.level, b.samples, b.sessions⟩)
    | split
    | (with_reducible apply Fr.set_therm)

theorem Fr.breakSensor {m : Mask} {s t : State} (q_hub : m.hub = false) (q_therm : m.therm = false) (q_chans : m.chans = false) {n : Nat} 
    (h : Fr m s t) : Fr m s (@State.breakSensor t n) := by
  unfold Sys2Proof.Machine.State.breakSensor
  repeat' first
    | with_reducible assumption
    | (with_reducible apply Fr.setSensor)
    | (with_reducible apply Fr.event)
    | (with_reducible apply Fr.count)
    | split

theorem Fr.chargeMove {m : Mask} {s t : State} (q_chans : m.chans = false) {c : Nat} {n : Nat} 
    (h : Fr m s t) : Fr m s (@State.chargeMove t c n) := by
  unfold Sys2Proof.Machine.State.chargeMove
  repeat' first
    | with_reducible assumption
    | (with_reducible apply Fr.modChan)
    | split

theorem Fr.total {m : Mask} {s t : State} (q_chans : m.chans = false) {c : Nat} {code : Nat} {ns : Nat} {get : Dbg → Nat} {put : Dbg → Nat → Dbg} 
    (h : Fr m s t) : Fr m s (@State.total t c code ns get put) := by
  unfold Sys2Proof.Machine.State.total
  repeat' first
    | with_reducible assumption
    | (with_reducible apply Fr.modChan)
    | (with_reducible apply Fr.countN)
    | split

theorem Fr.chargePass {m : Mask} {s t : State} (q_chans : m.chans = false) {c : Nat} {l : List (Nat × Outst)} 
    (h : Fr m s t) : Fr m s (@State.chargePass t c l) := by
  unfold Sys2Proof.Machine.State.chargePass
  repeat' first
    | with_reducible assumption
    | (with_reducible apply Fr.used)
    | (with_reducible apply Fr.total)
    | (with_reducible apply Fr.foldl)
    | intro _
    | dsimp -proj only
    | split

theorem Fr.checkResult {m : Mask} {s t : State} (q_hub : m.hub = false) (q_host : m.host = false) (q_store : m.store = false) (q_integ : m.integ = false) (q_out : m.out = false) (q_chans : m.chans = false) (q_fresh : m.fresh = false) {c : Nat} {t' : Nat} {b : Nat} {r : Req} {k : Nat} {failed : Nat} 
    (h : Fr m s t) : Fr m s (@State.checkResult t c t' b r k failed) := by
  unfold Sys2Proof.Machine.State.checkResult
  repeat' first
    | with_reducible assumption
    | (with_reducible apply Fr.count)
    | (with_reducible apply Fr.modTile)
    | (with_reducible apply Fr.countN)
    | (with_reducible apply Fr.drain)
    | (with_reducible apply Fr.modChan)
    | dsimp -proj only
    | split

theorem Fr.serveBulk {m : Mask} {s t : State} (q_chans : m.chans = false) {d : Nat} {i : Nat} 
    (h : Fr m s t) : Fr m s (@State.serveBulk t d i) := by
  unfold Sys2Proof.Machine.State.serveBulk
  repeat' first
    | with_reducible assumption
    | (with_reducible apply Fr.modChan)
    | (with_reducible apply Fr.foldl)
    | (with_reducible apply Fr.foldl_fst)
    | intro _
    | dsimp -proj only
    | split
    | (refine Fr.of_pair ‹_› ?_)

theorem Fr.chordPort {m : Mask} {s t : State} (q_chans : m.chans = false) {d : Nat} 
    (h : Fr m s t) : Fr m s (@State.chordPort t d) := by
  unfold Sys2Proof.Machine.State.chordPort
  repeat' first
    | with_reducible assumption
    | (with_reducible apply Fr.modChan)
    | (with_reducible apply Fr.serveBulk)
    | (with_reducible apply Fr.foldl)
    | (with_reducible apply Fr.foldl_fst)
    | intro _
    | dsimp -proj only
    | split
    | (refine Fr.of_pair ‹_› ?_)

theorem Fr.chordNs {m : Mask} {s t : State} (q_chans : m.chans = false)  
    (h : Fr m s t) : Fr m s (@State.chordNs t) := by
  unfold Sys2Proof.Machine.State.chordNs
  repeat' first
    | with_reducible assumption
    | (with_reducible apply Fr.chordPort)
    | (with_reducible apply Fr.foldl)
    | (with_reducible apply Fr.foldl_fst)
    | intro _
    | dsimp -proj only
    | split
    | (refine Fr.of_pair ‹_› ?_)

theorem Fr.modExp {m : Mask} {s t : State} (q_chans : m.chans = false) {c : Nat} {id : Nat} {f : ExpReq → ExpReq} 
    (h : Fr m s t) : Fr m s (@State.modExp t c id f) := by
  unfold Sys2Proof.Machine.State.modExp
  repeat' first
    | with_reducible assumption
    | (with_reducible apply Fr.modChan)
    | split

theorem Fr.noteSent {m : Mask} {s t : State} (q_host : m.host = false) {n : Nat} {epoch : Nat} 
    (h : Fr m s t) : Fr m s (@State.noteSent t n epoch) := by
  unfold Sys2Proof.Machine.State.noteSent
  repeat' first
    | with_reducible assumption
    | (with_reducible apply Fr.modPeer)
    | split

theorem Fr.setReply {m : Mask} {s t : State} (q_host : m.host = false) (q_out : m.out = false) (q_chans : m.chans = false) {c : Nat} {e : ExpReq} {sums : List (BitVec 32)} 
    (h : Fr m s t) : Fr m s (@State.setReply t c e sums) := by
  unfold Sys2Proof.Machine.State.setReply
  repeat' first
    | with_reducible assumption
    | (with_reducible apply Fr.modExp)
    | (with_reducible apply Fr.modChan)
    | (with_reducible apply Fr.noteSent)
    | (with_reducible apply Fr.sendWhen)
    | dsimp -proj only
    | split

theorem Fr.closeSet {m : Mask} {s t : State} (q_host : m.host = false) (q_out : m.out = false) (q_chans : m.chans = false) {c : Nat} {e : ExpReq} {i : Nat} 
    (h : Fr m s t) : Fr m s (@State.closeSet t c e i) := by
  unfold Sys2Proof.Machine.State.closeSet
  repeat' first
    | with_reducible assumption
    | (with_reducible apply Fr.modExp)
    | (with_reducible apply Fr.modChan)
    | (with_reducible apply Fr.setReply)
    | (with_reducible apply Fr.foldl)
    | intro _
    | split

theorem Fr.collectCopy {m : Mask} {s t : State} (q_chans : m.chans = false) {c : Nat} {t' : Nat} {f : Nat} {r : Req} {sums : List (BitVec 32)} 
    (h : Fr m s t) : Fr m s (@State.collectCopy t c t' f r sums).1 := by
  unfold Sys2Proof.Machine.State.collectCopy
  repeat' first
    | with_reducible assumption
    | (with_reducible apply Fr.modChan)
    | (with_reducible apply Fr.foldl)
    | (with_reducible apply Fr.foldl_fst)
    | intro _
    | dsimp -proj only
    | split
    | (refine Fr.of_pair ‹_› ?_)

theorem Fr.mbxDone {m : Mask} {s t : State} (q_host : m.host = false) {p : Nat} {status : Nat} {detail : Nat} {resp : optParam (List Sys2Proof.Byte) []} 
    (h : Fr m s t) : Fr m s (@State.mbxDone t p status detail resp) := by
  unfold Sys2Proof.Machine.State.mbxDone
  repeat' first
    | with_reducible assumption
    | (with_reducible apply Fr.modPort)
    | split

theorem Fr.command {m : Mask} {s t : State} (q_hub : m.hub = false) (q_host : m.host = false) {p : Nat} {op : Nat} {r : Sys2Proof.MbxReq} {f : State → State} (p_f : ∀ u, Fr m s u → Fr m s (f u))
    (h : Fr m s t) : Fr m s (@State.command t p op r f) := by
  unfold Sys2Proof.Machine.State.command
  repeat' first
    | with_reducible assumption
    | (with_reducible apply Fr.errlog)
    | (with_reducible apply Fr.modPort)
    | (with_reducible apply Fr.mbxDone)
    | (with_reducible apply p_f)
    | dsimp -proj only
    | split

theorem Fr.writeEmit {m : Mask} {s : State} (q_host : m.host = false) (q_out : m.out = false) {f : Nat} :
    ∀ (l : List (Nat × List Byte)) (n : Nat) (t : State), Fr m s t → Fr m s (State.writeEmit t f l n).1
  | [], _, _, h => h
  | (a, b) :: l, n, t, h => by
    unfold State.writeEmit
    repeat' first
      | with_reducible assumption
      | with_reducible apply Fr.writeEmit q_host q_out l
      | (with_reducible apply Fr.hostWrite)
      | split

theorem Fr.commit {m : Mask} {s t : State} (q_hub : m.hub = false) (q_host : m.host = false) (q_out : m.out = false) (q_chans : m.chans = false) {c : Nat} {sl : Nat} {j : Job} 
    (h : Fr m s t) : Fr m s (@State.commit t c sl j) := by
  unfold Sys2Proof.Machine.State.commit
  repeat' first
    | with_reducible assumption
    | (with_reducible apply Fr.fault)
    | (with_reducible apply Fr.readRec)
    | (with_reducible apply Fr.endInf)
    | (with_reducible apply Fr.writeEmit)
    | (with_reducible apply Fr.endWith)
    | (with_reducible apply Fr.modChan)
    | (with_reducible apply Fr.modCtx)
    | (with_reducible apply Fr.unbind)
    | (with_reducible apply Fr.advance)
    | (with_reducible apply Fr.finishWith)
    | dsimp -proj only
    | split

theorem Fr.compareWith {m : Mask} {s t : State} (q_chans : m.chans = false) {c : Nat} {r : Req} {lo : Nat × List (BitVec 32)} {e : Nat × List (BitVec 32)} 
    (h : Fr m s t) : Fr m s (@State.compareWith t c r lo e).1 := by
  unfold Sys2Proof.Machine.State.compareWith
  repeat' first
    | with_reducible assumption
    | (with_reducible apply Fr.countReq)
    | (with_reducible apply Fr.modChan)
    | (with_reducible apply Fr.foldl_fst)
    | intro _
    | split

theorem Fr.compareAll {m : Mask} {s t : State} (q_chans : m.chans = false) {c : Nat} {r : Req} {l : List (Nat × List (BitVec 32))} 
    (h : Fr m s t) : Fr m s (@State.compareAll t c r l).1 := by
  unfold Sys2Proof.Machine.State.compareAll
  repeat' first
    | with_reducible assumption
    | (with_reducible apply Fr.compareWith)
    | (with_reducible apply Fr.foldl)
    | (with_reducible apply Fr.foldl_fst)
    | intro _
    | dsimp -proj only
    | split
    | (refine Fr.of_pair ‹_› ?_)

theorem Fr.dropOut {m : Mask} {s t : State} (q_chans : m.chans = false) {c : Nat} {sl : Nat} {seq : Nat} 
    (h : Fr m s t) : Fr m s (@State.dropOut t c sl seq) := by
  unfold Sys2Proof.Machine.State.dropOut
  repeat' first
    | with_reducible assumption
    | (with_reducible apply Fr.modSlot)
    | split

theorem Fr.retire {m : Mask} {s t : State} (q_chans : m.chans = false) {c : Nat} {sl : Nat} {o : Outst} 
    (h : Fr m s t) : Fr m s (@State.retire t c sl o) := by
  unfold Sys2Proof.Machine.State.retire
  repeat' first
    | with_reducible assumption
    | (with_reducible apply Fr.sampleDone)
    | (with_reducible apply Fr.dropOut)
    | split

theorem Fr.finishMvmA {m : Mask} {s t : State} (q_chans : m.chans = false) {c : Nat} {sl : Nat} {o : Outst} 
    (h : Fr m s t) : Fr m s (@State.finishMvmA t c sl o) := by
  unfold Sys2Proof.Machine.State.finishMvmA
  repeat' first
    | with_reducible assumption
    | (with_reducible apply Fr.modSlot)
    | (with_reducible apply Fr.retire)
    | split

theorem Fr.endAt {m : Mask} {s t : State} (q_hub : m.hub = false) (q_host : m.host = false) (q_out : m.out = false) (q_chans : m.chans = false) {c : Nat} {sl : Nat} {o : Outst} {status : Nat} {cause : Nat} {p : optParam PSrc PSrc.none} 
    (h : Fr m s t) : Fr m s (@State.endAt t c sl o status cause p) := by
  unfold Sys2Proof.Machine.State.endAt
  repeat' first
    | with_reducible assumption
    | (with_reducible apply Fr.endInf)
    | split

theorem Fr.finishMember {m : Mask} {s t : State} (q_hub : m.hub = false) (q_host : m.host = false) (q_out : m.out = false) (q_chans : m.chans = false) {c : Nat} {sl : Nat} {o : Outst} 
    (h : Fr m s t) : Fr m s (@State.finishMember t c sl o) := by
  unfold Sys2Proof.Machine.State.finishMember
  repeat' first
    | with_reducible assumption
    | (with_reducible apply Fr.retire)
    | (with_reducible apply Fr.modSlot)
    | (with_reducible apply Fr.endAt)
    | dsimp -proj only
    | split

theorem Fr.finishPass {m : Mask} {s t : State} (q_hub : m.hub = false) (q_host : m.host = false) (q_out : m.out = false) (q_chans : m.chans = false) {c : Nat} {lead : Nat} 
    (h : Fr m s t) : Fr m s (@State.finishPass t c lead) := by
  unfold Sys2Proof.Machine.State.finishPass
  repeat' first
    | with_reducible assumption
    | (with_reducible apply Fr.finishMember)
    | (with_reducible apply Fr.chargePass)
    | (with_reducible apply Fr.foldl)
    | intro _
    | split

theorem Fr.finishMeasured {m : Mask} {s t : State} (q_chans : m.chans = false) {c : Nat} {sl : Nat} {o : Outst} 
    (h : Fr m s t) : Fr m s (@State.finishMeasured t c sl o) := by
  unfold Sys2Proof.Machine.State.finishMeasured
  repeat' first
    | with_reducible assumption
    | (with_reducible apply Fr.modSlot)
    | (with_reducible apply Fr.countBy)
    | split

theorem Fr.finishConsumer {m : Mask} {s t : State} (q_chans : m.chans = false) {c : Nat} {sl : Nat} {o : Outst} {f : Slot → Slot} 
    (h : Fr m s t) : Fr m s (@State.finishConsumer t c sl o f) := by
  unfold Sys2Proof.Machine.State.finishConsumer
  repeat' first
    | with_reducible assumption
    | (with_reducible apply Fr.modSlot)
    | (with_reducible apply Fr.closeHandle)
    | (with_reducible apply Fr.retire)
    | split

theorem Fr.loadRow {m : Mask} {s t : State} (q_chans : m.chans = false) {c : Nat} {sl : Nat} {o : Outst} {i : Nat} 
    (h : Fr m s t) : Fr m s (@State.loadRow t c sl o i) := by
  unfold Sys2Proof.Machine.State.loadRow
  repeat' first
    | with_reducible assumption
    | (with_reducible apply Fr.modChan)
    | (with_reducible apply Fr.modSlot)
    | split

theorem Fr.finishLoad {m : Mask} {s t : State} (q_hub : m.hub = false) (q_host : m.host = false) (q_out : m.out = false) (q_chans : m.chans = false) {c : Nat} {sl : Nat} {o : Outst} 
    (h : Fr m s t) : Fr m s (@State.finishLoad t c sl o) := by
  unfold Sys2Proof.Machine.State.finishLoad
  repeat' first
    | with_reducible assumption
    | (with_reducible apply Fr.readRec)
    | (with_reducible apply Fr.endAt)
    | (with_reducible apply Fr.retire)
    | (with_reducible apply Fr.modSlot)
    | (with_reducible apply Fr.loadRow)
    | (with_reducible apply Fr.modChan)
    | (with_reducible apply Fr.foldl)
    | intro _
    | dsimp -proj only
    | split

theorem Fr.stageAll {m : Mask} {s : State} (q_chans : m.chans = false) {c sl n : Nat} :
    ∀ (l : List (Nat × List Byte)) (t : State), Fr m s t → Fr m s (State.stageAll t c sl n l)
  | [], _, h => h
  | (a, b) :: l, t, h => by
    unfold State.stageAll
    exact Fr.stageAll q_chans l _ (Fr.used q_chans (Fr.setCtx q_chans (Fr.modChan q_chans h)))

theorem Fr.flags {m : Mask} {s t : State} (q_chans : m.chans = false) {c : Nat} {sl : Nat} {f : Flags} 
    (h : Fr m s t) : Fr m s (@State.flags t c sl f) := by
  unfold Sys2Proof.Machine.State.flags
  repeat' first
    | with_reducible assumption
    | (with_reducible apply Fr.modSlot)
    | split

theorem Fr.finishStore {m : Mask} {s t : State} (q_chans : m.chans = false) {c : Nat} {sl : Nat} {o : Outst} 
    (h : Fr m s t) : Fr m s (@State.finishStore t c sl o) := by
  unfold Sys2Proof.Machine.State.finishStore
  repeat' first
    | with_reducible assumption
    | (with_reducible apply Fr.stageAll)
    | (with_reducible apply Fr.flags)
    | (with_reducible apply Fr.retire)
    | (with_reducible apply Fr.modChan)
    | split

theorem Fr.finishNow {m : Mask} {s t : State} (q_hub : m.hub = false) (q_host : m.host = false) (q_out : m.out = false) (q_chans : m.chans = false) {c : Nat} {sl : Nat} {o : Outst} 
    (h : Fr m s t) : Fr m s (@State.finishNow t c sl o) := by
  unfold Sys2Proof.Machine.State.finishNow
  repeat' first
    | with_reducible assumption
    | (with_reducible apply Fr.retire)
    | (with_reducible apply Fr.modSlot)
    | (with_reducible apply Fr.finishMvmA)
    | (with_reducible apply Fr.finishPass)
    | (with_reducible apply Fr.finishMeasured)
    | (with_reducible apply Fr.finishConsumer)
    | (with_reducible apply Fr.finishLoad)
    | (with_reducible apply Fr.finishStore)
    | (with_reducible apply Fr.countBy)
    | (with_reducible apply Fr.spillHandle)
    | split

theorem Fr.complete1 {m : Mask} {s t : State} (q_hub : m.hub = false) (q_host : m.host = false) (q_out : m.out = false) (q_chans : m.chans = false) {c : Nat} {sl : Nat} {o : Outst} 
    (h : Fr m s t) : Fr m s (@State.complete1 t c sl o) := by
  unfold Sys2Proof.Machine.State.complete1
  repeat' first
    | with_reducible assumption
    | (with_reducible apply Fr.finishNow)
    | split

theorem Fr.contribute {m : Mask} {s t : State} (q_chans : m.chans = false) {c : Nat} {i : Nat} {l : List (BitVec 32)} 
    (h : Fr m s t) : Fr m s (@State.contribute t c i l) := by
  unfold Sys2Proof.Machine.State.contribute
  repeat' first
    | with_reducible assumption
    | (with_reducible apply Fr.advanceRng)
    | (with_reducible apply Fr.modChan)
    | split

theorem Fr.countJob {m : Mask} {s t : State} (q_host : m.host = false)  
    (h : Fr m s t) : Fr m s (@State.countJob t) := by
  unfold Sys2Proof.Machine.State.countJob
  repeat' first
    | with_reducible assumption
    | (exact fun b => ⟨b.events, b.waiting, b.audit, b.auditWriting, b.auditA, b.auditB, b.owners, b.level, b.samples, b.sessions⟩)
    | split
    | (with_reducible apply Fr.set_host)

theorem Fr.countWaits {m : Mask} {s t : State} (q_chans : m.chans = false)  
    (h : Fr m s t) : Fr m s (@State.countWaits t) := by
  unfold Sys2Proof.Machine.State.countWaits
  repeat' first
    | with_reducible assumption
    | (with_reducible apply Fr.count)
    | (with_reducible apply Fr.foldl)
    | intro _
    | split

theorem Fr.deferUnbound {m : Mask} {s t : State} (q_chans : m.chans = false) {c : Nat} 
    (h : Fr m s t) : Fr m s (@State.deferUnbound t c) := by
  unfold Sys2Proof.Machine.State.deferUnbound
  repeat' first
    | with_reducible assumption
    | (with_reducible apply Fr.defer)
    | (with_reducible apply Fr.foldl)
    | intro _
    | split

theorem Fr.takeMessage {m : Mask} {s t : State} (q_hub : m.hub = false) (q_host : m.host = false) (q_out : m.out = false) (q_chans : m.chans = false) {c : Nat} {sl : Nat} {o : Outst} {p : Nat} 
    (h : Fr m s t) : Fr m s (@State.takeMessage t c sl o p) := by
  unfold Sys2Proof.Machine.State.takeMessage
  repeat' first
    | with_reducible assumption
    | (with_reducible apply Fr.admitInbound)
    | (with_reducible apply Fr.modPortX)
    | (with_reducible apply Fr.endInf)
    | (with_reducible apply Fr.modSlot)
    | dsimp -proj only
    | split

theorem Fr.servePort {m : Mask} {s t : State} (q_hub : m.hub = false) (q_host : m.host = false) (q_out : m.out = false) (q_chans : m.chans = false) {c : Nat} {p : Nat} 
    (h : Fr m s t) : Fr m s (@State.servePort t c p) := by
  unfold Sys2Proof.Machine.State.servePort
  repeat' first
    | with_reducible assumption
    | (with_reducible apply Fr.modPortX)
    | (with_reducible apply Fr.takeMessage)
    | (with_reducible apply Fr.resumeAll)
    | dsimp -proj only
    | split

theorem Fr.deliver {m : Mask} {s t : State} (q_hub : m.hub = false) (q_host : m.host = false) (q_out : m.out = false) (q_chans : m.chans = false) {c : Nat} {m' : Sending} 
    (h : Fr m s t) : Fr m s (@State.deliver t c m') := by
  unfold Sys2Proof.Machine.State.deliver
  repeat' first
    | with_reducible assumption
    | (with_reducible apply Fr.modChan)
    | (with_reducible apply Fr.retire)
    | (with_reducible apply Fr.servePort)
    | (with_reducible apply Fr.modPortX)
    | dsimp -proj only
    | split

theorem Fr.discardMvm {m : Mask} {s t : State} (q_chans : m.chans = false) {c : Nat} {sl : Nat} {t' : Nat} {r : Req} 
    (h : Fr m s t) : Fr m s (@State.discardMvm t c sl t' r) := by
  unfold Sys2Proof.Machine.State.discardMvm
  repeat' first
    | with_reducible assumption
    | (with_reducible apply Fr.modSlot)
    | (with_reducible apply Fr.modOut)
    | (with_reducible apply Fr.modTile)
    | dsimp -proj only
    | split

theorem Fr.expFallback {m : Mask} {s t : State} (q_chans : m.chans = false) {c : Nat} {e : ExpReq} 
    (h : Fr m s t) : Fr m s (@State.expFallback t c e) := by
  unfold Sys2Proof.Machine.State.expFallback
  repeat' first
    | with_reducible assumption
    | (with_reducible apply Fr.count)
    | (with_reducible apply Fr.modSlot)
    | (with_reducible apply Fr.foldl)
    | (with_reducible apply Fr.foldl_fst)
    | intro _
    | dsimp -proj only
    | split
    | (refine Fr.of_pair ‹_› ?_)

theorem Fr.expGroup {m : Mask} {s t : State} (q_chans : m.chans = false) {c : Nat} {e : ExpReq} 
    (h : Fr m s t) : Fr m s (@State.expGroup t c e).1 := by
  unfold Sys2Proof.Machine.State.expGroup
  repeat' first
    | with_reducible assumption
    | (with_reducible apply Fr.modChan)
    | (with_reducible apply Fr.expFallback)
    | dsimp -proj only
    | split

theorem Fr.drainExpert {m : Mask} {s t : State} (q_host : m.host = false) (q_out : m.out = false) (q_chans : m.chans = false) {c : Nat} {t' : Nat} {b : Nat} {r : Req} {e : ExpReq} 
    (h : Fr m s t) : Fr m s (@State.drainExpert t c t' b r e) := by
  unfold Sys2Proof.Machine.State.drainExpert
  repeat' first
    | with_reducible assumption
    | (with_reducible apply Fr.expGroup)
    | (with_reducible apply Fr.modTile)
    | (with_reducible apply Fr.contribute)
    | (with_reducible apply Fr.closeSet)
    | (with_reducible apply Fr.modExp)
    | (with_reducible apply Fr.modChan)
    | (with_reducible apply Fr.setReply)
    | split
    | (refine Fr.of_pair ‹_› ?_)

theorem Fr.drainWork {m : Mask} {s t : State} (q_chans : m.chans = false) {c : Nat} {t' : Nat} {b : Nat} {sl : Nat} {seq : Nat} {h' : Nat} 
    (h : Fr m s t) : Fr m s (@State.drainWork t c t' b sl seq h') := by
  unfold Sys2Proof.Machine.State.drainWork
  repeat' first
    | with_reducible assumption
    | (with_reducible apply Fr.modTile)
    | (with_reducible apply Fr.contribute)
    | (with_reducible apply Fr.modSlot)
    | (with_reducible apply Fr.delivered)
    | dsimp -proj only
    | split

theorem Fr.dropRefreshes {m : Mask} {s t : State} (q_host : m.host = false) (q_store : m.store = false) (q_chans : m.chans = false) {p : Nat → Nat → Nat → Bool} 
    (h : Fr m s t) : Fr m s (@State.dropRefreshes t p) := by
  unfold Sys2Proof.Machine.State.dropRefreshes
  repeat' first
    | with_reducible assumption
    | (with_reducible apply Fr.modFacet)
    | (with_reducible apply Fr.allChans)
    | (exact fun b => ⟨b.events, b.waiting, b.audit, b.auditWriting, b.auditA, b.auditB, b.owners, b.level, b.samples, b.sessions⟩)
    | (with_reducible apply Fr.foldl)
    | intro _
    | split
    | (with_reducible apply Fr.set_host)

theorem Fr.dropSession {m : Mask} {s t : State} (q_sec : m.sec = false) {p : Nat} {n : Nat} 
    (h : Fr m s t) : Fr m s (@State.dropSession t p n) := by
  unfold State.dropSession
  exact (Fr.set_sec q_sec (fun b => ⟨b.events, b.waiting, b.audit, b.auditWriting, b.auditA, b.auditB,
    b.owners, b.level, b.samples, Nat.le_trans (List.length_filter_le _ _) b.sessions⟩) h)


theorem Fr.markPoison {m : Mask} {s t : State} (q_chans : m.chans = false) {c : Nat} {g : Nat} 
    (h : Fr m s t) : Fr m s (@State.markPoison t c g) := by
  unfold Sys2Proof.Machine.State.markPoison
  repeat' first
    | with_reducible assumption
    | (with_reducible apply Fr.modChan)
    | (with_reducible apply Fr.setCtx)
    | dsimp -proj only
    | split

theorem Fr.poisonGranule {m : Mask} {s t : State} (q_hub : m.hub = false) (q_chans : m.chans = false) {c : Nat} {g : Nat} 
    (h : Fr m s t) : Fr m s (@State.poisonGranule t c g) := by
  unfold Sys2Proof.Machine.State.poisonGranule
  repeat' first
    | with_reducible assumption
    | (with_reducible apply Fr.markPoison)
    | (with_reducible apply Fr.event)
    | (with_reducible apply Fr.count)
    | dsimp -proj only
    | split

theorem Fr.ecc1 {m : Mask} {s t : State} (q_hub : m.hub = false) (q_chans : m.chans = false) {c : Nat} {sl : Nat} {e : Sys2Proof.Ecc} 
    (h : Fr m s t) : Fr m s (@State.ecc1 t c sl e) := by
  unfold Sys2Proof.Machine.State.ecc1
  repeat' first
    | with_reducible assumption
    | (with_reducible apply Fr.count)
    | (with_reducible apply Fr.poisonGranule)
    | (with_reducible apply Fr.modSlot)
    | (with_reducible apply Fr.modChan)
    | (with_reducible apply Fr.setCtx)
    | split

theorem Fr.eccAll {m : Mask} {s t : State} (q_hub : m.hub = false) (q_chans : m.chans = false) {c : Nat} {sl : Nat} {l : List Sys2Proof.Ecc} 
    (h : Fr m s t) : Fr m s (@State.eccAll t c sl l) := by
  unfold Sys2Proof.Machine.State.eccAll
  repeat' first
    | with_reducible assumption
    | (with_reducible apply Fr.ecc1)
    | (with_reducible apply Fr.foldl)
    | intro _
    | split

theorem Fr.endArrivals {m : Mask} {s t : State} (q_hub : m.hub = false) (q_host : m.host = false) (q_out : m.out = false) (q_chans : m.chans = false) {d : Nat} 
    (h : Fr m s t) : Fr m s (@State.endArrivals t d) := by
  unfold Sys2Proof.Machine.State.endArrivals
  repeat' first
    | with_reducible assumption
    | (with_reducible apply Fr.modChan)
    | (with_reducible apply Fr.endInf)
    | (with_reducible apply Fr.foldl)
    | intro _
    | dsimp -proj only
    | split

theorem Fr.endExperts {m : Mask} {s t : State} (q_hub : m.hub = false) (q_host : m.host = false) (q_out : m.out = false) (q_chans : m.chans = false) {c : Nat} 
    (h : Fr m s t) : Fr m s (@State.endExperts t c) := by
  unfold Sys2Proof.Machine.State.endExperts
  repeat' first
    | with_reducible assumption
    | (with_reducible apply Fr.endInf)
    | (with_reducible apply Fr.foldl)
    | intro _
    | split

theorem Fr.endFetched {m : Mask} {s t : State} (q_hub : m.hub = false) (q_host : m.host = false) (q_out : m.out = false) (q_chans : m.chans = false) {j : Job} {status : Nat} {cause : Nat} {detail : optParam Nat 0} 
    (h : Fr m s t) : Fr m s (@State.endFetched t j status cause detail) := by
  unfold Sys2Proof.Machine.State.endFetched
  repeat' first
    | with_reducible assumption
    | (with_reducible apply Fr.complete)
    | (with_reducible apply Fr.sqDone)
    | split

theorem Fr.endSending {m : Mask} {s t : State} (q_hub : m.hub = false) (q_host : m.host = false) (q_out : m.out = false) (q_chans : m.chans = false) {c : Nat} 
    (h : Fr m s t) : Fr m s (@State.endSending t c) := by
  unfold Sys2Proof.Machine.State.endSending
  repeat' first
    | with_reducible assumption
    | (with_reducible apply Fr.endInf)
    | (with_reducible apply Fr.foldl)
    | intro _
    | dsimp -proj only
    | split

theorem Fr.endUnsent {m : Mask} {s t : State} (q_hub : m.hub = false) (q_host : m.host = false) (q_out : m.out = false) (q_chans : m.chans = false) {c : Nat} 
    (h : Fr m s t) : Fr m s (@State.endUnsent t c) := by
  unfold Sys2Proof.Machine.State.endUnsent
  repeat' first
    | with_reducible assumption
    | (with_reducible apply Fr.endInf)
    | (with_reducible apply Fr.foldl)
    | intro _
    | split

theorem Fr.enqueue {m : Mask} {s t : State} (q_hub : m.hub = false) (q_host : m.host = false) (q_out : m.out = false) (q_chans : m.chans = false) {j : Job} 
    (h : Fr m s t) : Fr m s (@State.enqueue t j) := by
  unfold Sys2Proof.Machine.State.enqueue
  repeat' first
    | with_reducible assumption
    | (with_reducible apply Fr.advance)
    | (with_reducible apply Fr.modChan)
    | split

theorem Fr.enter {m : Mask} {s t : State} (q_store : m.store = false) (q_integ : m.integ = false) (q_chans : m.chans = false)  
    (h : Fr m s t) : Fr m s (@State.enter t) := by
  unfold Sys2Proof.Machine.State.enter
  repeat' first
    | with_reducible assumption
    | (with_reducible apply Fr.allChans)
    | (with_reducible apply Fr.wantRecord)
    | (exact fun b => ⟨b.events, b.waiting, b.audit, b.auditWriting, b.auditA, b.auditB, b.owners, b.level, b.samples, b.sessions⟩)
    | split
    | (with_reducible apply Fr.set_store_integ)
    | (with_reducible apply Fr.set_store)
    | (with_reducible apply Fr.set_integ)

theorem Fr.enterProgs {m : Mask} {s t : State} (q_chans : m.chans = false) {l : List Sys2Proof.ProgFill} 
    (h : Fr m s t) : Fr m s (@State.enterProgs t l) := by
  unfold Sys2Proof.Machine.State.enterProgs
  repeat' first
    | with_reducible assumption
    | (with_reducible apply Fr.modChan)
    | (with_reducible apply Fr.foldl)
    | intro _
    | split

theorem Fr.failFetch {m : Mask} {s t : State} (q_hub : m.hub = false) (q_host : m.host = false) (q_out : m.out = false) (q_chans : m.chans = false) {fn : Nat} {sq : Nat} {pos : Nat} {status : Nat} {cause : Nat} 
    (h : Fr m s t) : Fr m s (@State.failFetch t fn sq pos status cause) := by
  unfold Sys2Proof.Machine.State.failFetch
  repeat' first
    | with_reducible assumption
    | (with_reducible apply Fr.complete)
    | (with_reducible apply Fr.sqDone)
    | split

theorem Fr.failPkg {m : Mask} {s t : State} (q_hub : m.hub = false) (q_host : m.host = false) (q_store : m.store = false) (q_out : m.out = false) (q_chans : m.chans = false) (q_fresh : m.fresh = false) {g : Nat} 
    (h : Fr m s t) : Fr m s (@State.failPkg t g) := by
  unfold Sys2Proof.Machine.State.failPkg
  repeat' first
    | with_reducible assumption
    | (with_reducible apply Fr.modTile)
    | (with_reducible apply Fr.modFacet)
    | (with_reducible apply Fr.finishHost)
    | (with_reducible apply Fr.auditFailed)
    | (exact fun b => ⟨b.events, b.waiting, b.audit, b.auditWriting, b.auditA, b.auditB, b.owners, b.level, b.samples, b.sessions⟩)
    | (with_reducible apply Fr.foldl)
    | intro _
    | split
    | (with_reducible apply Fr.set_host)

theorem Fr.failStaging {m : Mask} {s t : State} (q_hub : m.hub = false) (q_host : m.host = false) (q_store : m.store = false) (q_out : m.out = false) (q_chans : m.chans = false) (q_fresh : m.fresh = false)  
    (h : Fr m s t) : Fr m s (@State.failStaging t) := by
  unfold Sys2Proof.Machine.State.failStaging
  repeat' first
    | with_reducible assumption
    | (with_reducible apply Fr.failPkg)
    | (with_reducible apply Fr.foldl)
    | (with_reducible apply Fr.foldl_fst)
    | intro _
    | dsimp -proj only
    | split
    | (refine Fr.of_pair ‹_› ?_)

theorem Fr.headBlock {m : Mask} {s t : State} (q_host : m.host = false) (q_out : m.out = false) (q_chans : m.chans = false) {fn : Nat} 
    (h : Fr m s t) : Fr m s (@State.headBlock t fn) := by
  unfold Sys2Proof.Machine.State.headBlock
  repeat' first
    | with_reducible assumption
    | (with_reducible apply Fr.hostWrite)
    | (with_reducible apply Fr.countAll)
    | dsimp -proj only
    | split

theorem Fr.popFetch {m : Mask} {s t : State} (q_host : m.host = false)  
    (h : Fr m s t) : Fr m s (@State.popFetch t) := by
  unfold Sys2Proof.Machine.State.popFetch
  repeat' first
    | with_reducible assumption
    | (exact fun b => ⟨b.events, b.waiting, b.audit, b.auditWriting, b.auditA, b.auditB, b.owners, b.level, b.samples, b.sessions⟩)
    | split
    | (with_reducible apply Fr.set_host)

theorem Fr.refuse {m : Mask} {s t : State} (q_hub : m.hub = false) (q_host : m.host = false) (q_out : m.out = false) (q_chans : m.chans = false) {j : Job} {v : Nat × Nat} 
    (h : Fr m s t) : Fr m s (@State.refuse t j v) := by
  unfold Sys2Proof.Machine.State.refuse
  repeat' first
    | with_reducible assumption
    | (with_reducible apply Fr.enqueue)
    | (with_reducible apply Fr.endFetched)
    | split

theorem Fr.fetched {m : Mask} {s t : State} (q_hub : m.hub = false) (q_host : m.host = false) (q_out : m.out = false) (q_chans : m.chans = false) {fn : Nat} {sq : Nat} {f : Sys2Proof.Fetch} {kinds : List Nat} {run : State → Job → State} (p_run : ∀ u a1, Fr m s u → Fr m s (run u a1))
    (h : Fr m s t) : Fr m s (@State.fetched t fn sq f kinds run) := by
  unfold Sys2Proof.Machine.State.fetched
  repeat' first
    | with_reducible assumption
    | (with_reducible apply Fr.headBlock)
    | (with_reducible apply Fr.failFetch)
    | (with_reducible apply Fr.popFetch)
    | (with_reducible apply Fr.countJob)
    | (with_reducible apply Fr.readRec)
    | (with_reducible apply Fr.refuse)
    | (with_reducible apply p_run)
    | dsimp -proj only
    | split

theorem Fr.fillHandle {m : Mask} {s t : State} (q_chans : m.chans = false) {c : Nat} {e : ExpReq} {row : List (BitVec 16)} 
    (h : Fr m s t) : Fr m s (@State.fillHandle t c e row) := by
  unfold Sys2Proof.Machine.State.fillHandle
  repeat' first
    | with_reducible assumption
    | (with_reducible apply Fr.modSlot)
    | (with_reducible apply Fr.modOut)
    | (with_reducible apply Fr.modChan)
    | split

theorem Fr.modVtx {m : Mask} {s t : State} (q_chans : m.chans = false) {c : Nat} {v : Nat} {f : Vtx → Vtx} 
    (h : Fr m s t) : Fr m s (@State.modVtx t c v f) := by
  unfold Sys2Proof.Machine.State.modVtx
  repeat' first
    | with_reducible assumption
    | (with_reducible apply Fr.modChan)
    | split

theorem Fr.applySig {m : Mask} {s t v : State} (q_chans : m.chans = false) {c x amount ctx slot src : Nat}
    (e : t.applySig c x amount ctx slot src = some v) (h : Fr m s t) : Fr m s v := by
  unfold State.applySig at e
  dsimp -proj only at e
  split at e
  · cases e
  · cases e
    exact Fr.foldl (fun _ _ k => Fr.wake q_chans k) _ _ (Fr.modVtx q_chans h)

theorem Fr.finishSig {m : Mask} {s t : State} (q_hub : m.hub = false) (q_host : m.host = false) (q_out : m.out = false) (q_chans : m.chans = false) {c : Nat} {sl : Nat} {o : Outst} 
    (h : Fr m s t) : Fr m s (@State.finishSig t c sl o) := by
  unfold Sys2Proof.Machine.State.finishSig
  repeat' first
    | with_reducible assumption
    | (with_reducible apply Fr.fault)
    | (with_reducible apply Fr.retire)
    | (with_reducible apply Fr.countBy)
    | (with_reducible apply Fr.modVtx)
    | (with_reducible apply Fr.wake)
    | split
    | (refine Fr.applySig ?_ ‹_› ?_)

theorem Fr.flushCpls {m : Mask} {s t : State} (q_hub : m.hub = false) (q_host : m.host = false) (q_out : m.out = false) (q_chans : m.chans = false)  
    (h : Fr m s t) : Fr m s (@State.flushCpls t) := by
  unfold Sys2Proof.Machine.State.flushCpls
  repeat' first
    | with_reducible assumption
    | (with_reducible apply Fr.writeCpl)
    | (exact fun b => ⟨b.events, b.waiting, b.audit, b.auditWriting, b.auditA, b.auditB, b.owners, b.level, b.samples, b.sessions⟩)
    | (with_reducible apply Fr.foldl)
    | intro _
    | split
    | (with_reducible apply Fr.set_host)

theorem Fr.flushRetract {m : Mask} {s t : State} (q_hub : m.hub = false) (q_host : m.host = false) (q_integ : m.integ = false) (q_out : m.out = false) (q_chans : m.chans = false)  
    (h : Fr m s t) : Fr m s (@State.flushRetract t) := by
  unfold Sys2Proof.Machine.State.flushRetract
  repeat' first
    | with_reducible assumption
    | (with_reducible apply Fr.event)
    | (with_reducible apply Fr.writeCpl)
    | (exact fun b => ⟨b.events, b.waiting, b.audit, b.auditWriting, b.auditA, b.auditB, b.owners, b.level, b.samples, b.sessions⟩)
    | (with_reducible apply Fr.foldl)
    | intro _
    | split
    | (with_reducible apply Fr.set_integ)

theorem Fr.flushWhere {m : Mask} {s t : State} (q_hub : m.hub = false) (q_host : m.host = false) (q_out : m.out = false) (q_chans : m.chans = false) {p : Cpl → Bool} 
    (h : Fr m s t) : Fr m s (@State.flushWhere t p) := by
  unfold Sys2Proof.Machine.State.flushWhere
  repeat' first
    | with_reducible assumption
    | (with_reducible apply Fr.writeCpl)
    | (exact fun b => ⟨b.events, b.waiting, b.audit, b.auditWriting, b.auditA, b.auditB, b.owners, b.level, b.samples, b.sessions⟩)
    | (with_reducible apply Fr.foldl)
    | intro _
    | split
    | (with_reducible apply Fr.set_host)

theorem Fr.forwarded {m : Mask} {s t : State} (q_hub : m.hub = false) (q_host : m.host = false) (q_out : m.out = false) (q_chans : m.chans = false) {d : Nat} {m' : Signal} 
    (h : Fr m s t) : Fr m s (@State.forwarded t d m') := by
  unfold Sys2Proof.Machine.State.forwarded
  repeat' first
    | with_reducible assumption
    | (with_reducible apply Fr.fault)
    | (with_reducible apply Fr.count)
    | (with_reducible apply Fr.retire)
    | (with_reducible apply Fr.modVtx)
    | (with_reducible apply Fr.wake)
    | dsimp -proj only
    | split
    | (refine Fr.applySig ?_ ‹_› ?_)

theorem Fr.freeCtxPages {m : Mask} {s t : State} (q_hub : m.hub = false) (q_chans : m.chans = false) {c : Nat} {ctx : Nat} 
    (h : Fr m s t) : Fr m s (@State.freeCtxPages t c ctx) := by
  unfold Sys2Proof.Machine.State.freeCtxPages
  repeat' first
    | with_reducible assumption
    | (with_reducible apply Fr.event)
    | (with_reducible apply Fr.modChan)
    | (with_reducible apply Fr.foldl)
    | intro _
    | split

theorem Fr.residueCheck {m : Mask} {s t : State} (q_hub : m.hub = false) (q_chans : m.chans = false) {c : Nat} {ctx : Nat} 
    (h : Fr m s t) : Fr m s (@State.residueCheck t c ctx) := by
  unfold Sys2Proof.Machine.State.residueCheck
  repeat' first
    | with_reducible assumption
    | (with_reducible apply Fr.countN)
    | (with_reducible apply Fr.event)
    | (with_reducible apply Fr.foldl)
    | intro _
    | split

theorem Fr.freeCtx {m : Mask} {s t : State} (q_hub : m.hub = false) (q_chans : m.chans = false) {c : Nat} {ctx : Nat} 
    (h : Fr m s t) : Fr m s (@State.freeCtx t c ctx) := by
  unfold Sys2Proof.Machine.State.freeCtx
  repeat' first
    | with_reducible assumption
    | (with_reducible apply Fr.freeCtxPages)
    | (with_reducible apply Fr.residueCheck)
    | (with_reducible apply Fr.count)
    | (with_reducible apply Fr.setCtx)
    | split

theorem Fr.retireFacetAt {m : Mask} {s t : State} (q_hub : m.hub = false) (q_store : m.store = false) (q_chans : m.chans = false) {c : Nat} {t' : Nat} {f : Nat} 
    (h : Fr m s t) : Fr m s (@State.retireFacetAt t c t' f) := by
  unfold Sys2Proof.Machine.State.retireFacetAt
  repeat' first
    | with_reducible assumption
    | (with_reducible apply Fr.event)
    | (with_reducible apply Fr.count)
    | (with_reducible apply Fr.modFacet)
    | (with_reducible apply Fr.foldl)
    | (with_reducible apply Fr.foldl_fst)
    | intro _
    | dsimp -proj only
    | split
    | (refine Fr.of_pair ‹_› ?_)

theorem Fr.freeFacet {m : Mask} {s t : State} (q_hub : m.hub = false) (q_store : m.store = false) (q_chans : m.chans = false) {c : Nat} {t' : Nat} {f : Nat} 
    (h : Fr m s t) : Fr m s (@State.freeFacet t c t' f) := by
  unfold Sys2Proof.Machine.State.freeFacet
  repeat' first
    | with_reducible assumption
    | (with_reducible apply Fr.modFacet)
    | (with_reducible apply Fr.countN)
    | (with_reducible apply Fr.modStore)
    | (with_reducible apply Fr.retireFacetAt)
    | (with_reducible apply Fr.foldl)
    | (with_reducible apply Fr.foldl_fst)
    | intro _
    | dsimp -proj only
    | split
    | (refine Fr.of_pair ‹_› ?_)

theorem Fr.freeWrites {m : Mask} {s t : State} (q_host : m.host = false) (q_out : m.out = false)  
    (h : Fr m s t) : Fr m s (@State.freeWrites t) := by
  unfold Sys2Proof.Machine.State.freeWrites
  repeat' first
    | with_reducible assumption
    | (exact fun b => ⟨b.events, b.waiting, b.audit, b.auditWriting, b.auditA, b.auditB, b.owners, b.level, b.samples, b.sessions⟩)
    | (exact fun b => ⟨by first | exact b.events | (simp; done) | (have := b.events; simp; omega), by first | exact b.waiting | (simp; done) | (have := b.waiting; simp; omega), by first | exact b.audit | (simp; done) | (have := b.audit; simp; omega), by first | exact b.auditWriting | (simp; done) | (have := b.auditWriting; simp; omega), by first | exact b.auditA | (simp; done) | (have := b.auditA; simp; omega), by first | exact b.auditB | (simp; done) | (have := b.auditB; simp; omega), by first | exact b.owners | (simp; done) | (have := b.owners; simp; omega), by first | exact b.level | (simp; done) | (have := b.level; simp; omega), by first | exact b.samples | (simp; done) | (have := b.samples; simp; omega), by first | exact b.sessions | (simp; done) | (have := b.sessions; simp; omega)⟩)
    | (with_reducible apply Fr.foldl)
    | (with_reducible apply Fr.foldl_fst)
    | intro _
    | dsimp -proj only
    | split
    | (with_reducible apply Fr.set_host_out)
    | (with_reducible apply Fr.set_host)
    | (with_reducible apply Fr.set_out)
    | (refine Fr.of_pair ‹_› ?_)

theorem FrOut.fromPeer {m : Mask} {s t u : State} (q_chans : m.chans = false) {n : Nat} {ok : Bool} (h : Fr m s t) (k : Fr m s u) :
    FrOut m s (t.fromPeer n ok u) := by
  unfold State.fromPeer
  exact FrOut.onlyIf h (Fr.ite k (Fr.countAll q_chans h))

theorem Fr.getState {m : Mask} {s t : State} (q_hub : m.hub = false) (q_host : m.host = false) (q_out : m.out = false) (q_chans : m.chans = false) {c : Nat} {j : Job} 
    (h : Fr m s t) : Fr m s (@State.getState t c j) := by
  unfold Sys2Proof.Machine.State.getState
  repeat' first
    | with_reducible assumption
    | (with_reducible apply Fr.modChan)
    | (with_reducible apply Fr.countN)
    | (with_reducible apply Fr.hostWrite)
    | (with_reducible apply Fr.finish)
    | (with_reducible apply Fr.foldl)
    | intro _
    | dsimp -proj only
    | split

theorem Fr.setCol {m : Mask} {s t : State} (q_chans : m.chans = false) {c : Nat} {sl : Nat} {o : Outst} {col : List (BitVec 16)} 
    (h : Fr m s t) : Fr m s (@State.setCol t c sl o col) := by
  unfold Sys2Proof.Machine.State.setCol
  repeat' first
    | with_reducible assumption
    | (with_reducible apply Fr.modSlot)
    | dsimp -proj only
    | split

theorem Fr.request {m : Mask} {s t : State} (q_chans : m.chans = false) {c : Nat} {t' : Nat} {r : Req} 
    (h : Fr m s t) : Fr m s (@State.request t c t' r) := by
  unfold Sys2Proof.Machine.State.request
  repeat' first
    | with_reducible assumption
    | (with_reducible apply Fr.modChan)
    | (with_reducible apply Fr.modTile)
    | split

theorem Fr.sendTiles {m : Mask} {s t : State} (q_chans : m.chans = false) {c : Nat} {sl : Nat} {o : Outst} {t' : Nat} {l : Nat} {pend : Option Nat} {row : Option Nat} 
    (h : Fr m s t) : Fr m s (@State.sendTiles t c sl o t' l pend row) := by
  unfold Sys2Proof.Machine.State.sendTiles
  repeat' first
    | with_reducible assumption
    | (with_reducible apply Fr.modSlot)
    | (with_reducible apply Fr.request)
    | (with_reducible apply Fr.begun)
    | (with_reducible apply Fr.foldl)
    | intro _
    | split

theorem Fr.openGroup {m : Mask} {s t : State} (q_chans : m.chans = false) {c : Nat} {sl : Nat} {h' : Nat} {i : Nat} {kind : HKind} {precise : Bool} 
    (h : Fr m s t) : Fr m s (@State.openGroup t c sl h' i kind precise) := by
  unfold Sys2Proof.Machine.State.openGroup
  repeat' first
    | with_reducible assumption
    | (with_reducible apply Fr.modChan)
    | (with_reducible apply Fr.modSlot)
    | (with_reducible apply Fr.count)
    | dsimp -proj only
    | split

theorem Fr.waitGroup {m : Mask} {s t : State} (q_chans : m.chans = false) {c : Nat} {sl : Nat} {h' : Nat} 
    (h : Fr m s t) : Fr m s (@State.waitGroup t c sl h') := by
  unfold Sys2Proof.Machine.State.waitGroup
  repeat' first
    | with_reducible assumption
    | (with_reducible apply Fr.spillAll)
    | (with_reducible apply Fr.modChan)
    | (with_reducible apply Fr.modSlot)
    | split

theorem Fr.sentAway {m : Mask} {s t : State} (q_chans : m.chans = false) {c : Nat} {sl : Nat} {o : Outst} {done : Bool} {pend : Option Nat} {row : Option Nat} 
    (h : Fr m s t) : Fr m s (@State.sentAway t c sl o done pend row) := by
  unfold Sys2Proof.Machine.State.sentAway
  repeat' first
    | with_reducible assumption
    | (with_reducible apply Fr.modSlot)
    | (with_reducible apply Fr.begun)
    | split

theorem Fr.sendChord {m : Mask} {s t : State} (q_chans : m.chans = false) {c : Nat} {sl : Nat} {o : Outst} {d : Nat} 
    (h : Fr m s t) : Fr m s (@State.sendChord t c sl o d) := by
  unfold Sys2Proof.Machine.State.sendChord
  repeat' first
    | with_reducible assumption
    | (with_reducible apply Fr.modChan)
    | (with_reducible apply Fr.countBy)
    | split

theorem Fr.sendModule {m : Mask} {s t : State} (q_host : m.host = false) (q_out : m.out = false) (q_chans : m.chans = false) {c : Nat} {sl : Nat} {o : Outst} {n : Nat} {d : Nat} {x : Nat} 
    (h : Fr m s t) : Fr m s (@State.sendModule t c sl o n d x) := by
  unfold Sys2Proof.Machine.State.sendModule
  repeat' first
    | with_reducible assumption
    | (with_reducible apply Fr.modChan)
    | (with_reducible apply Fr.sendPeer)
    | (with_reducible apply Fr.countBy)
    | split

theorem Fr.startMvmA {m : Mask} {s t : State} (q_hub : m.hub = false) (q_host : m.host = false) (q_out : m.out = false) (q_chans : m.chans = false) {c : Nat} {sl : Nat} {o : Outst} 
    (h : Fr m s t) : Fr m s (@State.startMvmA t c sl o) := by
  unfold Sys2Proof.Machine.State.startMvmA
  repeat' first
    | with_reducible assumption
    | (with_reducible apply Fr.endAt)
    | (with_reducible apply Fr.setCol)
    | (with_reducible apply Fr.sendTiles)
    | (with_reducible apply Fr.openGroup)
    | (with_reducible apply Fr.waitGroup)
    | (with_reducible apply Fr.sentAway)
    | (with_reducible apply Fr.sendChord)
    | (with_reducible apply Fr.sendModule)
    | dsimp -proj only
    | split

theorem Fr.giveGroup {m : Mask} {s t : State} (q_hub : m.hub = false) (q_host : m.host = false) (q_out : m.out = false) (q_chans : m.chans = false) {c : Nat} {sl : Nat} {h' : Nat} {i : Nat} 
    (h : Fr m s t) : Fr m s (@State.giveGroup t c sl h' i) := by
  unfold Sys2Proof.Machine.State.giveGroup
  repeat' first
    | with_reducible assumption
    | (with_reducible apply Fr.resumeRecord)
    | (with_reducible apply Fr.startMvmA)
    | (with_reducible apply Fr.openGroup)
    | (with_reducible apply Fr.begun)
    | (with_reducible apply Fr.foldl)
    | (with_reducible apply Fr.foldl_fst)
    | intro _
    | dsimp -proj only
    | split
    | (refine Fr.of_pair ‹_› ?_)

theorem Fr.grantGroups {m : Mask} {s t : State} (q_hub : m.hub = false) (q_host : m.host = false) (q_out : m.out = false) (q_chans : m.chans = false) {c : Nat} {sl : Nat} 
    (h : Fr m s t) : Fr m s (@State.grantGroups t c sl) := by
  unfold Sys2Proof.Machine.State.grantGroups
  repeat' first
    | with_reducible assumption
    | (with_reducible apply Fr.modChan)
    | (with_reducible apply Fr.giveGroup)
    | (with_reducible apply Fr.modSlot)
    | (with_reducible apply Fr.foldl)
    | (with_reducible apply Fr.foldl_fst)
    | intro _
    | dsimp -proj only
    | split
    | (refine Fr.of_pair ‹_› ?_)

theorem Fr.inChan {m : Mask} {s t : State} (q_hub : m.hub = false) {fn : Nat} {c : Nat} {off : Nat} {v : Nat} {f : State → State} (p_f : ∀ u, Fr m s u → Fr m s (f u))
    (h : Fr m s t) : Fr m s (@State.inChan t fn c off v f) := by
  unfold Sys2Proof.Machine.State.inChan
  repeat' first
    | with_reducible assumption
    | (with_reducible apply Fr.errlog)
    | (with_reducible apply p_f)
    | split

theorem Fr.inDebug {m : Mask} {s t : State} (q_hub : m.hub = false) {fn : Nat} {c : Nat} {off : Nat} {v : Nat} {f : State → State} (p_f : ∀ u, Fr m s u → Fr m s (f u))
    (h : Fr m s t) : Fr m s (@State.inDebug t fn c off v f) := by
  unfold Sys2Proof.Machine.State.inDebug
  repeat' first
    | with_reducible assumption
    | (with_reducible apply Fr.inChan)
    | (with_reducible apply Fr.errlog)
    | (with_reducible apply p_f)
    | intro _
    | split

theorem Fr.judgeBindings {m : Mask} {s t : State} (q_host : m.host = false) {f : Nat} 
    (h : Fr m s t) : Fr m s (@State.judgeBindings t f) := by
  unfold Sys2Proof.Machine.State.judgeBindings
  repeat' first
    | with_reducible assumption
    | (with_reducible apply Fr.modSq)
    | (with_reducible apply Fr.foldl)
    | (with_reducible apply Fr.foldl_fst)
    | intro _
    | dsimp -proj only
    | split
    | (refine Fr.of_pair ‹_› ?_)

theorem Fr.stopRing {m : Mask} {s t : State} (q_hub : m.hub = false) (q_host : m.host = false) (q_out : m.out = false) (q_chans : m.chans = false) {f : Nat} {n : Nat} 
    (h : Fr m s t) : Fr m s (@State.stopRing t f n) := by
  unfold Sys2Proof.Machine.State.stopRing
  repeat' first
    | with_reducible assumption
    | (with_reducible apply Fr.complete)
    | (with_reducible apply Fr.modSq)
    | split

theorem Fr.takeHead {m : Mask} {s t : State} (q_hub : m.hub = false) (q_host : m.host = false) (q_out : m.out = false) (q_chans : m.chans = false) {f : Nat} {n : Nat} {head : Nat} 
    (h : Fr m s t) : Fr m s (@State.takeHead t f n head) := by
  unfold Sys2Proof.Machine.State.takeHead
  repeat' first
    | with_reducible assumption
    | (with_reducible apply Fr.modCq)
    | (with_reducible apply Fr.stopRing)
    | (with_reducible apply Fr.foldl)
    | intro _
    | dsimp -proj only
    | split

theorem Fr.takeTail {m : Mask} {s t : State} (q_hub : m.hub = false) (q_host : m.host = false) (q_out : m.out = false) (q_chans : m.chans = false) {f : Nat} {n : Nat} {tail : Nat} 
    (h : Fr m s t) : Fr m s (@State.takeTail t f n tail) := by
  unfold Sys2Proof.Machine.State.takeTail
  repeat' first
    | with_reducible assumption
    | (with_reducible apply Fr.stopRing)
    | (with_reducible apply Fr.modSq)
    | (with_reducible apply Fr.modCq)
    | (exact fun b => ⟨b.events, b.waiting, b.audit, b.auditWriting, b.auditA, b.auditB, b.owners, b.level, b.samples, b.sessions⟩)
    | dsimp -proj only
    | split
    | (with_reducible apply Fr.set_host)

theorem Fr.intakeFn {m : Mask} {s t : State} (q_hub : m.hub = false) (q_host : m.host = false) (q_out : m.out = false) (q_chans : m.chans = false) {f : Nat} {ds : List Sys2Proof.Doorbell} 
    (h : Fr m s t) : Fr m s (@State.intakeFn t f ds) := by
  unfold Sys2Proof.Machine.State.intakeFn
  repeat' first
    | with_reducible assumption
    | (with_reducible apply Fr.judgeBindings)
    | (with_reducible apply Fr.takeHead)
    | (with_reducible apply Fr.takeTail)
    | (with_reducible apply Fr.countAll)
    | (with_reducible apply Fr.foldl)
    | (with_reducible apply Fr.foldl_fst)
    | intro _
    | dsimp -proj only
    | split
    | (refine Fr.of_pair ‹_› ?_)

theorem Fr.issueUnit {m : Mask} {s t : State} (q_hub : m.hub = false) (q_host : m.host = false) (q_out : m.out = false) (q_chans : m.chans = false) {c : Nat} {sl : Nat} {op : Nat} {check : State → Nat → Nat → Outst → Bad} 
    (h : Fr m s t) : Fr m s (@State.issueUnit t c sl op check) := by
  unfold Sys2Proof.Machine.State.issueUnit
  repeat' first
    | with_reducible assumption
    | (with_reducible apply Fr.issue)
    | (with_reducible apply Fr.endInf)
    | (with_reducible apply Fr.addOut)
    | intro _
    | dsimp -proj only
    | split

theorem Fr.issueWord {m : Mask} {s t : State} (q_hub : m.hub = false) (q_host : m.host = false) (q_out : m.out = false) (q_chans : m.chans = false) {c : Nat} {sl : Nat} {op : Nat} 
    (h : Fr m s t) : Fr m s (@State.issueWord t c sl op) := by
  unfold Sys2Proof.Machine.State.issueWord
  repeat' first
    | with_reducible assumption
    | (with_reducible apply Fr.issue)
    | (with_reducible apply Fr.fault)
    | (with_reducible apply Fr.addOut)
    | intro _
    | dsimp -proj only
    | split

theorem Fr.monitorBlock {m : Mask} {s t : State} (q_chans : m.chans = false) {c : Nat} {t' : Nat} {f : Nat} {r : Req} {sums : List (BitVec 32)} {b : Nat} 
    (h : Fr m s t) : Fr m s (@State.monitorBlock t c t' f r sums b).1 := by
  unfold Sys2Proof.Machine.State.monitorBlock
  repeat' first
    | with_reducible assumption
    | (with_reducible apply Fr.countReq)
    | (with_reducible apply Fr.modBlock)
    | dsimp -proj only
    | split

theorem Fr.monitor {m : Mask} {s t : State} (q_chans : m.chans = false) {c : Nat} {t' : Nat} {f : Nat} {r : Req} {sums : List (BitVec 32)} 
    (h : Fr m s t) : Fr m s (@State.monitor t c t' f r sums).1 := by
  unfold Sys2Proof.Machine.State.monitor
  repeat' first
    | with_reducible assumption
    | (with_reducible apply Fr.monitorBlock)
    | (with_reducible apply Fr.foldl_fst)
    | intro _
    | split

theorem Fr.judge {m : Mask} {s t : State} (q_chans : m.chans = false) {c : Nat} {t' : Nat} {f : Nat} {r : Req} {sums : List (BitVec 32)} 
    (h : Fr m s t) : Fr m s (@State.judge t c t' f r sums).1 := by
  unfold Sys2Proof.Machine.State.judge
  repeat' first
    | with_reducible assumption
    | (with_reducible apply Fr.monitor)
    | (with_reducible apply Fr.collectCopy)
    | (with_reducible apply Fr.compareAll)
    | (with_reducible apply Fr.foldl)
    | (with_reducible apply Fr.foldl_fst)
    | intro _
    | dsimp -proj only
    | split
    | (refine Fr.of_pair ‹_› ?_)

theorem Fr.laterRecord {m : Mask} {s t : State} (q_store : m.store = false)  
    (h : Fr m s t) : Fr m s (@State.laterRecord t) := by
  unfold Sys2Proof.Machine.State.laterRecord
  repeat' first
    | with_reducible assumption
    | (exact fun b => ⟨b.events, b.waiting, b.audit, b.auditWriting, b.auditA, b.auditB, b.owners, b.level, b.samples, b.sessions⟩)
    | split
    | (with_reducible apply Fr.set_store)

theorem Fr.loadTrims {m : Mask} {s t : State} (q_pwr : m.pwr = false) (q_hub : m.hub = false) (q_chans : m.chans = false)  
    (h : Fr m s t) : Fr m s (@State.loadTrims t) := by
  unfold Sys2Proof.Machine.State.loadTrims
  repeat' first
    | with_reducible assumption
    | (with_reducible apply Fr.allChans)
    | (with_reducible apply Fr.event)
    | (exact fun b => ⟨b.events, b.waiting, b.audit, b.auditWriting, b.auditA, b.auditB, b.owners, b.level, b.samples, b.sessions⟩)
    | (with_reducible apply Fr.foldl)
    | intro _
    | split
    | (with_reducible apply Fr.set_pwr)

theorem FrOut.mailbox {m : Mask} {s t : State} (q_hub : m.hub = false) (q_host : m.host = false) {p : Nat} {op : Nat} {r : Sys2Proof.MbxReq} {f : State → State} (p_f : ∀ u, Fr m s u → Fr m s (f u))
    (h : Fr m s t) : FrOut m s (@State.mailbox t p op r f) := by
  unfold Sys2Proof.Machine.State.mailbox
  repeat' first
    | with_reducible assumption
    | (with_reducible apply FrOut.go)
    | (with_reducible apply FrOut.onlyIf)
    | (with_reducible exact FrOut.fault)
    | (with_reducible apply Fr.command)
    | (with_reducible apply p_f)
    | split

theorem Fr.withRight {m : Mask} {s t : State} (q_host : m.host = false) (q_store : m.store = false) (q_fresh : m.fresh = false) {p : Nat} {res : Nat} {f : State → State} (p_f : ∀ u, Fr m s u → Fr m s (f u))
    (h : Fr m s t) : Fr m s (@State.withRight t p res f) := by
  unfold Sys2Proof.Machine.State.withRight
  repeat' first
    | with_reducible assumption
    | (with_reducible apply Fr.draw)
    | (with_reducible apply Fr.mbxDone)
    | (with_reducible apply Fr.audit)
    | (with_reducible apply p_f)
    | split

theorem FrOut.maker {m : Mask} {s t : State} (q_hub : m.hub = false) (q_host : m.host = false) (q_store : m.store = false) (q_fresh : m.fresh = false) {p : Nat} {op : Nat} {bitNo : Nat} {r : Sys2Proof.MbxReq} {f : State → State} (p_f : ∀ u, Fr m s u → Fr m s (f u))
    (h : Fr m s t) : FrOut m s (@State.maker t p op bitNo r f) := by
  unfold Sys2Proof.Machine.State.maker
  repeat' first
    | with_reducible assumption
    | (with_reducible apply FrOut.go)
    | (with_reducible apply FrOut.onlyIf)
    | (with_reducible exact FrOut.fault)
    | (with_reducible apply FrOut.mailbox)
    | (with_reducible apply Fr.withRight)
    | (with_reducible apply p_f)
    | intro _
    | split

theorem Fr.markRotation {m : Mask} {s t : State} (q_chans : m.chans = false)  
    (h : Fr m s t) : Fr m s (@State.markRotation t) := by
  unfold Sys2Proof.Machine.State.markRotation
  repeat' first
    | with_reducible assumption
    | (with_reducible apply Fr.allChans)
    | split

theorem Fr.modRing {m : Mask} {s t : State} (q_host : m.host = false) {f : Nat} {isCq : Bool} {n : Nat} {g : Ring → Ring} 
    (h : Fr m s t) : Fr m s (@State.modRing t f isCq n g) := by
  unfold Sys2Proof.Machine.State.modRing
  repeat' first
    | with_reducible assumption
    | (with_reducible apply Fr.modCq)
    | (with_reducible apply Fr.modSq)
    | split

theorem Fr.modSession {m : Mask} {s t : State} (q_sec : m.sec = false) {p : Nat} {n : Nat} {f : Spdm × Nat → Spdm × Nat} 
    (h : Fr m s t) : Fr m s (@State.modSession t p n f) := by
  unfold State.modSession
  refine Fr.set_sec q_sec (fun b => ⟨b.events, b.waiting, b.audit, b.auditWriting, b.auditA, b.auditB, b.owners, b.level, b.samples, ?_⟩) h
  simpa using b.sessions


theorem Fr.noteSat {m : Mask} {s t : State} (q_chans : m.chans = false) {c : Nat} {r : Req} {sat : Bool} 
    (h : Fr m s t) : Fr m s (@State.noteSat t c r sat) := by
  unfold Sys2Proof.Machine.State.noteSat
  repeat' first
    | with_reducible assumption
    | (with_reducible apply Fr.modSlot)
    | (with_reducible apply Fr.modExp)
    | split

theorem Fr.refResult {m : Mask} {s t : State} (q_hub : m.hub = false) (q_host : m.host = false) (q_store : m.store = false) (q_integ : m.integ = false) (q_out : m.out = false) (q_chans : m.chans = false) (q_fresh : m.fresh = false) {c : Nat} {t' : Nat} {f : Nat} {l : List (Int × Nat)} 
    (h : Fr m s t) : Fr m s (@State.refResult t c t' f l) := by
  unfold Sys2Proof.Machine.State.refResult
  repeat' first
    | with_reducible assumption
    | (with_reducible apply Fr.setAge)
    | (with_reducible apply Fr.count)
    | (with_reducible apply Fr.foldl)
    | intro _
    | split

theorem Fr.mvmEnd {m : Mask} {s t : State} (q_hub : m.hub = false) (q_host : m.host = false) (q_store : m.store = false) (q_integ : m.integ = false) (q_out : m.out = false) (q_chans : m.chans = false) (q_fresh : m.fresh = false) {c n : Nat} {r : Run}
    {err : List ConvErr} {d : Bool} (h : Fr m s t) : Fr m s (t.mvmEnd c n r err d) := by
  unfold State.mvmEnd
  extract_lets q facet out sat s1 s2 s3 s4 isRef s5 s6 s7 s8 jd s9 s10 s11 s12 s13 s14
  have h4 : Fr m s s4 := Fr.countReq q_chans (Fr.countReq q_chans (Fr.countReq q_chans (Fr.countReq q_chans h)))
  have h5 : Fr m s s5 := Fr.addMI q_chans h4
  have h6 : Fr m s s6 := by
    clear_value s5
    unfold s6; split
    · exact Fr.ite (Fr.used q_chans h5) h5
    · exact h5
  have h8 : Fr m s s8 := Fr.modTile q_chans (Fr.noteSat q_chans h6)
  have hm : Fr m s jd.1 := Fr.judge q_chans h8
  have h10 : Fr m s s10 := Fr.resumePv q_store q_chans (Fr.bankResult q_chans hm)
  have h11 : Fr m s s11 := Fr.ite (Fr.refResult q_hub q_host q_store q_integ q_out q_chans q_fresh h10) h10
  have dr : ∀ u : State, ∀ x y, Fr m s u → Fr m s (u.drain x y) := fun u x y k => Fr.drain q_hub q_host q_store q_integ q_out q_chans q_fresh k
  have h12 : Fr m s s12 := Fr.ite (dr _ _ _ h11) h11
  have h13 : Fr m s s13 := Fr.ite (dr _ _ _ h12) h12
  have h14 : Fr m s s14 := Fr.ite (dr _ _ _ h13) h13
  exact Fr.ite (dr _ _ _ (Fr.modTile q_chans h14)) h14

theorem Fr.nextBar {m : Mask} {s t : State} (q_chans : m.chans = false) {c : Nat} {release : Bool} {f : State → BMsg → State} (p_f : ∀ u a1, Fr m s u → Fr m s (f u a1))
    (h : Fr m s t) : Fr m s (@State.nextBar t c release f) := by
  unfold Sys2Proof.Machine.State.nextBar
  repeat' first
    | with_reducible assumption
    | (with_reducible apply Fr.modChan)
    | (with_reducible apply p_f)
    | split

theorem Fr.openCtx {m : Mask} {s t : State} (q_hub : m.hub = false) (q_host : m.host = false) (q_out : m.out = false) (q_chans : m.chans = false) {j : Job} 
    (h : Fr m s t) : Fr m s (@State.openCtx t j) := by
  unfold Sys2Proof.Machine.State.openCtx
  repeat' first
    | with_reducible assumption
    | (with_reducible apply Fr.endFetched)
    | (with_reducible apply Fr.modChan)
    | (with_reducible apply Fr.modCtx)
    | (with_reducible apply Fr.count)
    | dsimp -proj only
    | split

theorem Fr.openPeer {m : Mask} {s t : State} (q_hub : m.hub = false) (q_host : m.host = false) {n : Nat} 
    (h : Fr m s t) : Fr m s (@State.openPeer t n) := by
  unfold Sys2Proof.Machine.State.openPeer
  repeat' first
    | with_reducible assumption
    | (with_reducible apply Fr.event)
    | (with_reducible apply Fr.modPeer)
    | split

theorem Fr.overruns {m : Mask} {s t : State} (q_chans : m.chans = false) {c : Nat} 
    (h : Fr m s t) : Fr m s (@State.overruns t c) := by
  unfold Sys2Proof.Machine.State.overruns
  repeat' first
    | with_reducible assumption
    | (with_reducible apply Fr.count)
    | (with_reducible apply Fr.modSlot)
    | (with_reducible apply Fr.carryUse)
    | (with_reducible apply Fr.foldl)
    | intro _
    | dsimp -proj only
    | split

theorem Fr.peerBar {m : Mask} {s t : State} (q_host : m.host = false) (q_out : m.out = false) (q_chans : m.chans = false) {n : Nat} {h' : Hdr} {body : List Sys2Proof.Byte} {f : State → BMsg → State} (p_f : ∀ u a1, Fr m s u → Fr m s (f u a1))
    (h : Fr m s t) : Fr m s (@State.peerBar t n h' body f) := by
  unfold Sys2Proof.Machine.State.peerBar
  repeat' first
    | with_reducible assumption
    | (with_reducible apply Fr.arantIn)
    | (with_reducible apply Fr.discardMsg)
    | (with_reducible apply Fr.owe)
    | (with_reducible apply p_f)
    | dsimp -proj only
    | split

theorem Fr.pfOnly {m : Mask} {s t : State} (q_hub : m.hub = false) {fn : Nat} {off : Nat} {v : Nat} {f : State → State} (p_f : ∀ u, Fr m s u → Fr m s (f u))
    (h : Fr m s t) : Fr m s (@State.pfOnly t fn off v f) := by
  unfold Sys2Proof.Machine.State.pfOnly
  repeat' first
    | with_reducible assumption
    | (with_reducible apply Fr.errlog)
    | (with_reducible apply p_f)
    | split

theorem Fr.portArrive {m : Mask} {s t : State} (q_hub : m.hub = false) (q_host : m.host = false) (q_out : m.out = false) (q_chans : m.chans = false) {c : Nat} {p : Nat} {m' : Msg} 
    (h : Fr m s t) : Fr m s (@State.portArrive t c p m') := by
  unfold Sys2Proof.Machine.State.portArrive
  repeat' first
    | with_reducible assumption
    | (with_reducible apply Fr.servePort)
    | (with_reducible apply Fr.admitInbound)
    | (with_reducible apply Fr.modPortX)
    | split

theorem Fr.powerDown {m : Mask} {s t : State} (q_pwr : m.pwr = false) (q_clk : m.clk = false) (q_hub : m.hub = false) (q_host : m.host = false) (q_store : m.store = false) (q_sec : m.sec = false) (q_integ : m.integ = false) (q_therm : m.therm = false) (q_chans : m.chans = false) {sup : Supply} 
    (h : Fr m s t) : Fr m s (@State.powerDown t sup) := by
  unfold State.powerDown
  exact ⟨h.pending, h.variant, fun b => ⟨by simp, by simp, by simp, by simp, (h.bounded b).auditA, (h.bounded b).auditB, by simp, by simp, by simp, by simp⟩, (fun e => absurd e (by simp [q_pwr])), (fun e => absurd e (by simp [q_clk])), (fun e => absurd e (by simp [q_hub])), (fun e => absurd e (by simp [q_host])), (fun e => absurd e (by simp [q_store])), (fun e => absurd e (by simp [q_sec])), (fun e => absurd e (by simp [q_integ])), (fun e => absurd e (by simp [q_therm])), h.out, (fun e => absurd e (by simp [q_chans])), h.fresh⟩


theorem Fr.protWrite {m : Mask} {s t : State} (q_store : m.store = false) {fn : Nat} {off : Nat} {v : Nat} {f : State → State} (p_f : ∀ u, Fr m s u → Fr m s (f u))
    (h : Fr m s t) : Fr m s (@State.protWrite t fn off v f) := by
  unfold Sys2Proof.Machine.State.protWrite
  repeat' first
    | with_reducible assumption
    | (with_reducible apply Fr.audit)
    | (with_reducible apply p_f)
    | split

theorem Fr.putState {m : Mask} {s t : State} (q_hub : m.hub = false) (q_host : m.host = false) (q_out : m.out = false) (q_chans : m.chans = false) {c : Nat} {j : Job} {b : List Sys2Proof.Byte} 
    (h : Fr m s t) : Fr m s (@State.putState t c j b) := by
  unfold Sys2Proof.Machine.State.putState
  repeat' first
    | with_reducible assumption
    | (with_reducible apply Fr.modChan)
    | (with_reducible apply Fr.countN)
    | (with_reducible apply Fr.modCtx)
    | (with_reducible apply Fr.finish)
    | split

theorem Fr.queueExpert {m : Mask} {s t : State} (q_chans : m.chans = false) {c : Nat} {e : ExpReq} {t' : Nat} {l : Nat} 
    (h : Fr m s t) : Fr m s (@State.queueExpert t c e t' l) := by
  unfold Sys2Proof.Machine.State.queueExpert
  repeat' first
    | with_reducible assumption
    | (with_reducible apply Fr.request)
    | (with_reducible apply Fr.foldl)
    | intro _
    | split

theorem Fr.recordWritten {m : Mask} {s t : State} (q_hub : m.hub = false) (q_host : m.host = false) (q_store : m.store = false) (q_integ : m.integ = false) {p : Persist}
    (hp : Bounded t → p.audit.length ≤ 8192) (h : Fr m s t) : Fr m s (t.recordWritten p) := by
  have bank : ∀ (c : Bool) (x y : Record), x.body.audit.length ≤ 8192 → y.body.audit.length ≤ 8192 →
      (if c = true then x else y).body.audit.length ≤ 8192 := by
    intro c x y hx hy; split <;> assumption
  unfold State.recordWritten
  refine Fr.ite (Fr.event q_hub ?_) ?_ <;>
  · refine Fr.enterDropped q_store (Fr.foldl (fun _ _ k => Fr.mbxDone q_host k) _ _ ?_)
    refine Fr.set_host_store_integ q_host q_store q_integ (fun b => ⟨b.events, ?_, hp b, ?_, ?_, ?_, b.owners, b.level, b.samples, b.sessions⟩) h
    · have := b.waiting
      show (t.store.waiting.drop _).length ≤ 256
      simp only [List.length_drop]; omega
    · intro q e; cases e
    · exact bank _ _ _ (hp b) b.auditA
    · exact bank _ _ _ b.auditB (hp b)

theorem Fr.recordFailed {m : Mask} {s t : State} (q_hub : m.hub = false) (q_host : m.host = false) (q_store : m.store = false) (q_integ : m.integ = false) (q_out : m.out = false) (q_chans : m.chans = false) (q_fresh : m.fresh = false)  
    (h : Fr m s t) : Fr m s (@State.recordFailed t) := by
  unfold Sys2Proof.Machine.State.recordFailed
  repeat' first
    | with_reducible assumption
    | (with_reducible apply Fr.event)
    | (with_reducible apply Fr.mbxDone)
    | (with_reducible apply Fr.abandonLoads)
    | (exact fun b => ⟨by first | exact b.events | (simp; done) | (have := b.events; simp; omega), by first | exact b.waiting | (simp; done) | (have := b.waiting; simp; omega), by first | exact b.audit | (simp; done) | (have := b.audit; simp; omega), by first | exact b.auditWriting | (simp; done) | (have := b.auditWriting; simp; omega), by first | exact b.auditA | (simp; done) | (have := b.auditA; simp; omega), by first | exact b.auditB | (simp; done) | (have := b.auditB; simp; omega), by first | exact b.owners | (simp; done) | (have := b.owners; simp; omega), by first | exact b.level | (simp; done) | (have := b.level; simp; omega), by first | exact b.samples | (simp; done) | (have := b.samples; simp; omega), by first | exact b.sessions | (simp; done) | (have := b.sessions; simp; omega)⟩)
    | (with_reducible apply Fr.foldl)
    | intro _
    | split
    | (with_reducible apply Fr.set_host_store_integ)
    | (with_reducible apply Fr.set_host_store)
    | (with_reducible apply Fr.set_host_integ)
    | (with_reducible apply Fr.set_store_integ)
    | (with_reducible apply Fr.set_host)
    | (with_reducible apply Fr.set_store)
    | (with_reducible apply Fr.set_integ)

theorem Fr.recordDone {m : Mask} {s t : State} (q_hub : m.hub = false) (q_host : m.host = false) (q_store : m.store = false) (q_integ : m.integ = false) (q_out : m.out = false) (q_chans : m.chans = false) (q_fresh : m.fresh = false) {ok : Bool}
    (h : Fr m s t) : Fr m s (t.recordDone ok) := by
  unfold State.recordDone
  split
  · exact h
  · rename_i p second hw
    split
    · exact Fr.recordWritten q_hub q_host q_store q_integ (fun b => b.auditWriting _ hw) h
    · split
      · exact Fr.recordFailed q_hub q_host q_store q_integ q_out q_chans q_fresh h
      · refine Fr.set_store q_store (fun b => ⟨b.events, b.waiting, b.audit, ?_, b.auditA, b.auditB, b.owners, b.level, b.samples, b.sessions⟩) h
        intro q e; cases e; exact b.auditWriting (p, second) hw

theorem foldl_audit {α : Type} {f : Persist → α → Persist} (hf : ∀ p a, (f p a).audit = p.audit) :
    ∀ (l : List α) (p : Persist), (l.foldl f p).audit = p.audit
  | [], _ => rfl
  | a :: l, p => by rw [List.foldl_cons, foldl_audit hf l, hf]

/-- The body of a record holds at most the 8,192 newest audit entries (R317). -/
theorem body_audit (s : State) : s.body.audit.length ≤ 8192 := by
  unfold State.body
  extract_lets p1 p2 p3 p4 p5
  have e5 : p5.audit = p4.audit := foldl_audit (by intros; rfl) _ _
  have e4 : p4.audit = p3.audit := foldl_audit (by intros; rfl) _ _
  have e3 : p3.audit = p2.audit := by
    refine foldl_audit (fun p g => ?_) _ _
    split
    · exact foldl_audit (by intros; rfl) _ _
    · rfl
  have e2 : p2.audit = (p1.audit ++ s.store.waiting).drop (p1.audit.length + s.store.waiting.length - 8192) := by
    unfold p2; with_reducible rfl
  show p5.audit.length ≤ 8192
  rw [e5, e4, e3, e2]; simp only [List.length_drop, List.length_append]; omega

theorem Fr.recordStart {m : Mask} {s t : State} (q_host : m.host = false) (q_store : m.store = false)  
    (h : Fr m s t) : Fr m s (@State.recordStart t) := by
  unfold State.recordStart
  refine Fr.set_host_store q_host q_store (fun b => ⟨b.events, b.waiting, b.audit, ?_, b.auditA, b.auditB, b.owners, b.level, b.samples, b.sessions⟩) h
  intro p e; cases e; exact body_audit _


theorem Fr.redue {m : Mask} {s t : State} (q_store : m.store = false)  
    (h : Fr m s t) : Fr m s (@State.redue t) := by
  unfold Sys2Proof.Machine.State.redue
  repeat' first
    | with_reducible assumption
    | (exact fun b => ⟨b.events, b.waiting, b.audit, b.auditWriting, b.auditA, b.auditB, b.owners, b.level, b.samples, b.sessions⟩)
    | (exact fun b => ⟨by first | exact b.events | (simp; done) | (have := b.events; simp; omega), by first | exact b.waiting | (simp; done) | (have := b.waiting; simp; omega), by first | exact b.audit | (simp; done) | (have := b.audit; simp; omega), by first | exact b.auditWriting | (simp; done) | (have := b.auditWriting; simp; omega), by first | exact b.auditA | (simp; done) | (have := b.auditA; simp; omega), by first | exact b.auditB | (simp; done) | (have := b.auditB; simp; omega), by first | exact b.owners | (simp; done) | (have := b.owners; simp; omega), by first | exact b.level | (simp; done) | (have := b.level; simp; omega), by first | exact b.samples | (simp; done) | (have := b.samples; simp; omega), by first | exact b.sessions | (simp; done) | (have := b.sessions; simp; omega)⟩)
    | (with_reducible apply Fr.foldl)
    | (with_reducible apply Fr.foldl_fst)
    | intro _
    | dsimp -proj only
    | split
    | (with_reducible apply Fr.set_store)
    | (refine Fr.of_pair ‹_› ?_)

theorem Fr.refuseField {m : Mask} {s t : State} (q_host : m.host = false) (q_store : m.store = false) (q_fresh : m.fresh = false) {p : Nat} {action : Nat} 
    (h : Fr m s t) : Fr m s (@State.refuseField t p action) := by
  unfold Sys2Proof.Machine.State.refuseField
  repeat' first
    | with_reducible assumption
    | (with_reducible apply Fr.draw)
    | (with_reducible apply Fr.mbxDone)
    | (with_reducible apply Fr.audit)
    | split

theorem Fr.refusePkg {m : Mask} {s t : State} (q_hub : m.hub = false) (q_host : m.host = false) (q_store : m.store = false) (q_out : m.out = false) (q_chans : m.chans = false) {j : Job} {digest : BitVec 256} {res : Nat} {detail : Nat} 
    (h : Fr m s t) : Fr m s (@State.refusePkg t j digest res detail) := by
  unfold Sys2Proof.Machine.State.refusePkg
  repeat' first
    | with_reducible assumption
    | (with_reducible apply Fr.endFetched)
    | (with_reducible apply Fr.audit)
    | split

theorem FrOut.regCmd {m : Mask} {s t : State}  {fn : Nat} {f : State → State} (p_f : ∀ u, Fr m s u → Fr m s (f u))
    (h : Fr m s t) : FrOut m s (@State.regCmd t fn f) := by
  unfold Sys2Proof.Machine.State.regCmd
  repeat' first
    | with_reducible assumption
    | (with_reducible apply FrOut.go)
    | (with_reducible apply FrOut.onlyIf)
    | (with_reducible exact FrOut.fault)
    | (with_reducible apply p_f)
    | split

theorem Fr.reissue {m : Mask} {s t : State} (q_chans : m.chans = false) {c : Nat} {sl : Nat} {r : PRow} 
    (h : Fr m s t) : Fr m s (@State.reissue t c sl r) := by
  unfold Sys2Proof.Machine.State.reissue
  repeat' first
    | with_reducible assumption
    | (with_reducible apply Fr.modChan)
    | (with_reducible apply Fr.request)
    | (with_reducible apply Fr.foldl)
    | intro _
    | split

theorem Fr.releaseAt {m : Mask} {s t : State} (q_chans : m.chans = false) {c : Nat} {m' : BMsg} 
    (h : Fr m s t) : Fr m s (@State.releaseAt t c m') := by
  unfold Sys2Proof.Machine.State.releaseAt
  repeat' first
    | with_reducible assumption
    | (with_reducible apply Fr.barRelease)
    | (with_reducible apply Fr.count)
    | dsimp -proj only
    | split

theorem Fr.resetGroup {m : Mask} {s t : State} (q_chans : m.chans = false) {c : Nat} {sl : Nat} {h' : Nat} 
    (h : Fr m s t) : Fr m s (@State.resetGroup t c sl h') := by
  unfold Sys2Proof.Machine.State.resetGroup
  repeat' first
    | with_reducible assumption
    | (with_reducible apply Fr.modChan)
    | (with_reducible apply Fr.modSlot)
    | dsimp -proj only
    | split

theorem Fr.replayRow {m : Mask} {s t : State} (q_chans : m.chans = false) {c : Nat} {sl : Nat} {r : PRow} 
    (h : Fr m s t) : Fr m s (@State.replayRow t c sl r) := by
  unfold Sys2Proof.Machine.State.replayRow
  repeat' first
    | with_reducible assumption
    | (with_reducible apply Fr.resetGroup)
    | (with_reducible apply Fr.discardMvm)
    | (with_reducible apply Fr.modSlot)
    | (with_reducible apply Fr.foldl)
    | intro _
    | split

theorem Fr.reportFlr {m : Mask} {s t : State} (q_host : m.host = false) (q_out : m.out = false) {fn : Nat} 
    (h : Fr m s t) : Fr m s (@State.reportFlr t fn) := by
  unfold Sys2Proof.Machine.State.reportFlr
  repeat' first
    | with_reducible assumption
    | (with_reducible apply Fr.modFn)
    | (exact fun b => ⟨b.events, b.waiting, b.audit, b.auditWriting, b.auditA, b.auditB, b.owners, b.level, b.samples, b.sessions⟩)
    | (exact fun b => ⟨by first | exact b.events | (simp; done) | (have := b.events; simp; omega), by first | exact b.waiting | (simp; done) | (have := b.waiting; simp; omega), by first | exact b.audit | (simp; done) | (have := b.audit; simp; omega), by first | exact b.auditWriting | (simp; done) | (have := b.auditWriting; simp; omega), by first | exact b.auditA | (simp; done) | (have := b.auditA; simp; omega), by first | exact b.auditB | (simp; done) | (have := b.auditB; simp; omega), by first | exact b.owners | (simp; done) | (have := b.owners; simp; omega), by first | exact b.level | (simp; done) | (have := b.level; simp; omega), by first | exact b.samples | (simp; done) | (have := b.samples; simp; omega), by first | exact b.sessions | (simp; done) | (have := b.sessions; simp; omega)⟩)
    | (with_reducible apply Fr.foldl)
    | (with_reducible apply Fr.foldl_fst)
    | intro _
    | dsimp -proj only
    | split
    | (with_reducible apply Fr.set_out)
    | (refine Fr.of_pair ‹_› ?_)

theorem Fr.retireFacet {m : Mask} {s t : State} (q_hub : m.hub = false) (q_host : m.host = false) (q_store : m.store = false) (q_out : m.out = false) (q_chans : m.chans = false) (q_fresh : m.fresh = false) {g : Nat} {i : Nat} {r : PkgRec} 
    (h : Fr m s t) : Fr m s (@State.retireFacet t g i r) := by
  unfold Sys2Proof.Machine.State.retireFacet
  repeat' first
    | with_reducible assumption
    | (with_reducible apply Fr.modRec)
    | (with_reducible apply Fr.retireFacetAt)
    | (with_reducible apply Fr.dropRefreshes)
    | (with_reducible apply Fr.failStaging)
    | (with_reducible apply Fr.foldl)
    | dsimp -proj only
    | split

theorem Fr.reprogram {m : Mask} {s t : State} (q_hub : m.hub = false) (q_host : m.host = false) (q_store : m.store = false) (q_out : m.out = false) (q_chans : m.chans = false) (q_fresh : m.fresh = false) {g : Nat} {i : Nat} {r : PkgRec} {v : Pv} {o : Sys2Proof.ProgOutcome} 
    (h : Fr m s t) : Fr m s (@State.reprogram t g i r v o) := by
  unfold Sys2Proof.Machine.State.reprogram
  repeat' first
    | with_reducible assumption
    | (with_reducible apply Fr.retireFacet)
    | (with_reducible apply Fr.countN)
    | (with_reducible apply Fr.modStore)
    | (with_reducible apply Fr.modRec)
    | (with_reducible apply Fr.foldl)
    | (with_reducible apply Fr.foldl_fst)
    | intro _
    | dsimp -proj only
    | split
    | (refine Fr.of_pair ‹_› ?_)

theorem Fr.scanRecords {m : Mask} {s t : State} (q_chans : m.chans = false) {c : Nat} 
    (h : Fr m s t) : Fr m s (@State.scanRecords t c) := by
  unfold Sys2Proof.Machine.State.scanRecords
  repeat' first
    | with_reducible assumption
    | (with_reducible apply Fr.readRec)
    | (with_reducible apply Fr.foldl)
    | intro _
    | split

theorem Fr.taint {m : Mask} {s t : State} (q_chans : m.chans = false) {c : Nat} {p : Ctx → Bool} 
    (h : Fr m s t) : Fr m s (@State.taint t c p).1 := by
  unfold Sys2Proof.Machine.State.taint
  repeat' first
    | with_reducible assumption
    | (with_reducible apply Fr.scanRecords)
    | (with_reducible apply Fr.count)
    | (with_reducible apply Fr.modCtx)
    | (with_reducible apply Fr.foldl)
    | intro _
    | split

theorem Fr.retractChan {m : Mask} {s t : State} (q_integ : m.integ = false) (q_chans : m.chans = false) {n : Nat} {first : Nat} {cause : Nat} {fns : List Nat} {c : Nat} 
    (h : Fr m s t) : Fr m s (@State.retractChan t n first cause fns c) := by
  unfold Sys2Proof.Machine.State.retractChan
  repeat' first
    | with_reducible assumption
    | (with_reducible apply Fr.taint)
    | (with_reducible apply Fr.modChan)
    | (exact fun b => ⟨b.events, b.waiting, b.audit, b.auditWriting, b.auditA, b.auditB, b.owners, b.level, b.samples, b.sessions⟩)
    | split
    | (with_reducible apply Fr.set_integ)

theorem Fr.revoke {m : Mask} {s t : State} (q_hub : m.hub = false) (q_host : m.host = false) (q_store : m.store = false)  
    (h : Fr m s t) : Fr m s (@State.revoke t) := by
  unfold Sys2Proof.Machine.State.revoke
  repeat' first
    | with_reducible assumption
    | (with_reducible apply Fr.endRole)
    | (with_reducible apply Fr.foldl)
    | intro _
    | split

theorem Fr.ringErr {m : Mask} {s t : State} (q_hub : m.hub = false) {f : Nat} {isCq : Bool} {n : Nat} {reason : Nat} {v : Nat} 
    (h : Fr m s t) : Fr m s (@State.ringErr t f isCq n reason v) := by
  unfold Sys2Proof.Machine.State.ringErr
  repeat' first
    | with_reducible assumption
    | (with_reducible apply Fr.errlog)
    | split

theorem Fr.roleWrite {m : Mask} {s t : State} (q_store : m.store = false) {fn : Nat} {right : Nat} {action : Nat} {off : Nat} {v : Nat} {ok : Bool} {f : State → State} (p_f : ∀ u, Fr m s u → Fr m s (f u))
    (h : Fr m s t) : Fr m s (@State.roleWrite t fn right action off v ok f) := by
  unfold Sys2Proof.Machine.State.roleWrite
  repeat' first
    | with_reducible assumption
    | (with_reducible apply Fr.audit)
    | (with_reducible apply p_f)
    | split

theorem Fr.rowFinal {m : Mask} {s t : State} (q_chans : m.chans = false) {c : Nat} {sl : Nat} {o : Outst} {r : PRow} {replay : Bool} 
    (h : Fr m s t) : Fr m s (@State.rowFinal t c sl o r replay) := by
  unfold Sys2Proof.Machine.State.rowFinal
  repeat' first
    | with_reducible assumption
    | (with_reducible apply Fr.modSlot)
    | (with_reducible apply Fr.countBy)
    | (with_reducible apply Fr.modOut)
    | split

theorem Fr.rsvBits {m : Mask} {s t : State} (q_hub : m.hub = false) {fn : Nat} {off : Nat} {mask : Nat} {v : Nat} 
    (h : Fr m s t) : Fr m s (@State.rsvBits t fn off mask v) := by
  unfold Sys2Proof.Machine.State.rsvBits
  repeat' first
    | with_reducible assumption
    | (with_reducible apply Fr.errlog)
    | split

theorem Fr.scanChan {m : Mask} {s t : State} (q_integ : m.integ = false) (q_chans : m.chans = false) {c : Nat} 
    (h : Fr m s t) : Fr m s (@State.scanChan t c) := by
  unfold Sys2Proof.Machine.State.scanChan
  repeat' first
    | with_reducible assumption
    | (with_reducible apply Fr.taint)
    | (exact fun b => ⟨b.events, b.waiting, b.audit, b.auditWriting, b.auditA, b.auditB, b.owners, b.level, b.samples, b.sessions⟩)
    | split
    | (with_reducible apply Fr.set_integ)

theorem Fr.seedAll {m : Mask} {s t : State} (q_chans : m.chans = false) (q_fresh : m.fresh = false) {seeds : List Sys2Proof.Word} 
    (h : Fr m s t) : Fr m s (@State.seedAll t seeds) := by
  unfold Sys2Proof.Machine.State.seedAll
  repeat' first
    | with_reducible assumption
    | (with_reducible apply Fr.allChans)
    | (exact fun b => ⟨b.events, b.waiting, b.audit, b.auditWriting, b.auditA, b.auditB, b.owners, b.level, b.samples, b.sessions⟩)
    | split
    | (with_reducible apply Fr.set_fresh)

theorem Fr.sendVector {m : Mask} {s t : State} (q_host : m.host = false) (q_out : m.out = false) {f : Nat} {n : Nat} 
    (h : Fr m s t) : Fr m s (@State.sendVector t f n) := by
  unfold Sys2Proof.Machine.State.sendVector
  repeat' first
    | with_reducible assumption
    | (with_reducible apply Fr.modCq)
    | (exact fun b => ⟨b.events, b.waiting, b.audit, b.auditWriting, b.auditA, b.auditB, b.owners, b.level, b.samples, b.sessions⟩)
    | (exact fun b => ⟨by first | exact b.events | (simp; done) | (have := b.events; simp; omega), by first | exact b.waiting | (simp; done) | (have := b.waiting; simp; omega), by first | exact b.audit | (simp; done) | (have := b.audit; simp; omega), by first | exact b.auditWriting | (simp; done) | (have := b.auditWriting; simp; omega), by first | exact b.auditA | (simp; done) | (have := b.auditA; simp; omega), by first | exact b.auditB | (simp; done) | (have := b.auditB; simp; omega), by first | exact b.owners | (simp; done) | (have := b.owners; simp; omega), by first | exact b.level | (simp; done) | (have := b.level; simp; omega), by first | exact b.samples | (simp; done) | (have := b.samples; simp; omega), by first | exact b.sessions | (simp; done) | (have := b.sessions; simp; omega)⟩)
    | (with_reducible apply Fr.foldl)
    | (with_reducible apply Fr.foldl_fst)
    | intro _
    | dsimp -proj only
    | split
    | (with_reducible apply Fr.set_out)
    | (refine Fr.of_pair ‹_› ?_)

theorem Fr.sendMsix {m : Mask} {s t : State} (q_host : m.host = false) (q_out : m.out = false)  
    (h : Fr m s t) : Fr m s (@State.sendMsix t) := by
  unfold Sys2Proof.Machine.State.sendMsix
  repeat' first
    | with_reducible assumption
    | (with_reducible apply Fr.sendVector)
    | (with_reducible apply Fr.foldl)
    | intro _
    | split

theorem Fr.sendWaiting {m : Mask} {s t : State} (q_host : m.host = false) (q_out : m.out = false) {n : Nat} 
    (h : Fr m s t) : Fr m s (@State.sendWaiting t n) := by
  unfold Sys2Proof.Machine.State.sendWaiting
  repeat' first
    | with_reducible assumption
    | (with_reducible apply Fr.sendPeer)
    | (with_reducible apply Fr.modPeer)
    | (with_reducible apply Fr.foldl)
    | intro _
    | split

theorem Fr.setBudget {m : Mask} {s t : State} (q_chans : m.chans = false) {c : Nat} 
    (h : Fr m s t) : Fr m s (@State.setBudget t c) := by
  unfold Sys2Proof.Machine.State.setBudget
  repeat' first
    | with_reducible assumption
    | (with_reducible apply Fr.carryUse)
    | (with_reducible apply Fr.modChan)
    | (with_reducible apply Fr.foldl)
    | (with_reducible apply Fr.foldl_fst)
    | intro _
    | dsimp -proj only
    | split
    | (refine Fr.of_pair ‹_› ?_)

theorem Fr.setConn {m : Mask} {s t : State} (q_sec : m.sec = false) {p : Nat} {x : SpdmConn} 
    (h : Fr m s t) : Fr m s (@State.setConn t p x) := by
  unfold Sys2Proof.Machine.State.setConn
  repeat' first
    | with_reducible assumption
    | (exact fun b => ⟨b.events, b.waiting, b.audit, b.auditWriting, b.auditA, b.auditB, b.owners, b.level, b.samples, b.sessions⟩)
    | split
    | (with_reducible apply Fr.set_sec)

theorem Fr.sign {m : Mask} {s t : State} (q_fresh : m.fresh = false)  
    (h : Fr m s t) : Fr m s (@State.sign t).2 := by
  unfold Sys2Proof.Machine.State.sign
  repeat' first
    | with_reducible assumption
    | (exact fun b => ⟨b.events, b.waiting, b.audit, b.auditWriting, b.auditA, b.auditB, b.owners, b.level, b.samples, b.sessions⟩)
    | split
    | (with_reducible apply Fr.set_fresh)

theorem FrOut.spdm {m : Mask} {s t : State} (q_out : m.out = false) {p : Nat} {ok : Bool} {f : State → State} (p_f : ∀ u, Fr m s u → Fr m s (f u))
    (h : Fr m s t) : FrOut m s (@State.spdm t p ok f) := by
  unfold Sys2Proof.Machine.State.spdm
  repeat' first
    | with_reducible assumption
    | (with_reducible apply FrOut.go)
    | (with_reducible apply FrOut.onlyIf)
    | (with_reducible exact FrOut.fault)
    | (with_reducible apply Fr.answerError)
    | (with_reducible apply p_f)
    | split

theorem Fr.stage {m : Mask} {s t : State} (q_host : m.host = false) {off : Nat} {g : Rules → Rules} 
    (h : Fr m s t) : Fr m s (@State.stage t off g) := by
  unfold Sys2Proof.Machine.State.stage
  repeat' first
    | with_reducible assumption
    | (exact fun b => ⟨b.events, b.waiting, b.audit, b.auditWriting, b.auditA, b.auditB, b.owners, b.level, b.samples, b.sessions⟩)
    | split
    | (with_reducible apply Fr.set_host)

theorem Fr.stallSlots {m : Mask} {s t : State} (q_hub : m.hub = false) (q_host : m.host = false) (q_out : m.out = false) (q_chans : m.chans = false) {c : Nat} 
    (h : Fr m s t) : Fr m s (@State.stallSlots t c) := by
  unfold Sys2Proof.Machine.State.stallSlots
  repeat' first
    | with_reducible assumption
    | (with_reducible apply Fr.modSlot)
    | (with_reducible apply Fr.fault)
    | (with_reducible apply Fr.count)
    | (with_reducible apply Fr.foldl)
    | intro _
    | dsimp -proj only
    | split

theorem Fr.startBar {m : Mask} {s t : State} (q_hub : m.hub = false) (q_host : m.host = false) (q_out : m.out = false) (q_chans : m.chans = false) {c : Nat} {sl : Nat} {o : Outst} 
    (h : Fr m s t) : Fr m s (@State.startBar t c sl o) := by
  unfold Sys2Proof.Machine.State.startBar
  repeat' first
    | with_reducible assumption
    | (with_reducible apply Fr.fault)
    | (with_reducible apply Fr.endInf)
    | (with_reducible apply Fr.barSend)
    | (with_reducible apply Fr.sendPeer)
    | (with_reducible apply Fr.modBar)
    | (with_reducible apply Fr.modSlot)
    | dsimp -proj only
    | split

theorem Fr.useTensor {m : Mask} {s t : State} (q_chans : m.chans = false) {c : Nat} {o : Outst} 
    (h : Fr m s t) : Fr m s (@State.useTensor t c o) := by
  unfold Sys2Proof.Machine.State.useTensor
  repeat' first
    | with_reducible assumption
    | (with_reducible apply Fr.modChan)
    | split

theorem Fr.startMember {m : Mask} {s t : State} (q_hub : m.hub = false) (q_host : m.host = false) (q_out : m.out = false) (q_chans : m.chans = false) {c : Nat} {sl : Nat} {lead : Nat} {o : Outst} 
    (h : Fr m s t) : Fr m s (@State.startMember t c sl lead o) := by
  unfold Sys2Proof.Machine.State.startMember
  repeat' first
    | with_reducible assumption
    | (with_reducible apply Fr.useTensor)
    | (with_reducible apply Fr.begun)
    | (with_reducible apply Fr.endAt)
    | dsimp -proj only
    | split

theorem Fr.startEngine {m : Mask} {s t : State} (q_hub : m.hub = false) (q_host : m.host = false) (q_out : m.out = false) (q_chans : m.chans = false) {c : Nat} {sl : Nat} {o : Outst} 
    (h : Fr m s t) : Fr m s (@State.startEngine t c sl o) := by
  unfold Sys2Proof.Machine.State.startEngine
  repeat' first
    | with_reducible assumption
    | (with_reducible apply Fr.startMember)
    | (with_reducible apply Fr.foldl)
    | intro _
    | split

theorem Fr.startLookback {m : Mask} {s t : State} (q_chans : m.chans = false) {c : Nat} {sl : Nat} {o : Outst} 
    (h : Fr m s t) : Fr m s (@State.startLookback t c sl o) := by
  unfold Sys2Proof.Machine.State.startLookback
  repeat' first
    | with_reducible assumption
    | (with_reducible apply Fr.begun)
    | (with_reducible apply Fr.modSlot)
    | dsimp -proj only
    | split

theorem Fr.startMap {m : Mask} {s t : State} (q_store : m.store = false) (q_chans : m.chans = false) {c : Nat} 
    (h : Fr m s t) : Fr m s (@State.startMap t c) := by
  unfold Sys2Proof.Machine.State.startMap
  repeat' first
    | with_reducible assumption
    | (with_reducible apply Fr.resumePv)
    | (with_reducible apply Fr.modTile)
    | dsimp -proj only
    | split

theorem Fr.startMove {m : Mask} {s t : State} (q_hub : m.hub = false) (q_host : m.host = false) (q_out : m.out = false) (q_chans : m.chans = false) {c : Nat} {sl : Nat} {o : Outst} 
    (h : Fr m s t) : Fr m s (@State.startMove t c sl o) := by
  unfold Sys2Proof.Machine.State.startMove
  repeat' first
    | with_reducible assumption
    | (with_reducible apply Fr.begun)
    | (with_reducible apply Fr.endAt)
    | (with_reducible apply Fr.modOut)
    | (with_reducible apply Fr.modChan)
    | (with_reducible apply Fr.countBy)
    | (with_reducible apply Fr.used)
    | dsimp -proj only
    | split

theorem Fr.takeHandle {m : Mask} {s t : State} (q_chans : m.chans = false) {c : Nat} {sl : Nat} {h' : Nat} 
    (h : Fr m s t) : Fr m s (@State.takeHandle t c sl h') := by
  unfold Sys2Proof.Machine.State.takeHandle
  repeat' first
    | with_reducible assumption
    | (with_reducible apply Fr.modSlot)
    | (with_reducible apply Fr.modChan)
    | dsimp -proj only
    | split

theorem Fr.startSend {m : Mask} {s t : State} (q_hub : m.hub = false) (q_host : m.host = false) (q_out : m.out = false) (q_chans : m.chans = false) {c : Nat} {sl : Nat} {o : Outst} 
    (h : Fr m s t) : Fr m s (@State.startSend t c sl o) := by
  unfold Sys2Proof.Machine.State.startSend
  repeat' first
    | with_reducible assumption
    | (with_reducible apply Fr.begun)
    | (with_reducible apply Fr.modChan)
    | (with_reducible apply Fr.endAt)
    | (with_reducible apply Fr.noteSent)
    | (with_reducible apply Fr.sendPeer)
    | dsimp -proj only
    | split

theorem Fr.startResume {m : Mask} {s t : State} (q_hub : m.hub = false) (q_host : m.host = false) (q_out : m.out = false) (q_chans : m.chans = false) {c : Nat} {sl : Nat} {o : Outst} 
    (h : Fr m s t) : Fr m s (@State.startResume t c sl o) := by
  unfold Sys2Proof.Machine.State.startResume
  repeat' first
    | with_reducible assumption
    | (with_reducible apply Fr.begun)
    | (with_reducible apply Fr.resumeRecord)
    | (with_reducible apply Fr.waitGroup)
    | (with_reducible apply Fr.endAt)
    | dsimp -proj only
    | split

theorem Fr.startSig {m : Mask} {s t : State} (q_chans : m.chans = false) {c : Nat} {sl : Nat} {o : Outst} 
    (h : Fr m s t) : Fr m s (@State.startSig t c sl o) := by
  unfold Sys2Proof.Machine.State.startSig
  repeat' first
    | with_reducible assumption
    | (with_reducible apply Fr.begun)
    | (with_reducible apply Fr.modChan)
    | split

theorem Fr.startNow {m : Mask} {s t : State} (q_hub : m.hub = false) (q_host : m.host = false) (q_out : m.out = false) (q_chans : m.chans = false) {c : Nat} {sl : Nat} {o : Outst} 
    (h : Fr m s t) : Fr m s (@State.startNow t c sl o) := by
  unfold Sys2Proof.Machine.State.startNow
  repeat' first
    | with_reducible assumption
    | (with_reducible apply Fr.startMvmA)
    | (with_reducible apply Fr.startEngine)
    | (with_reducible apply Fr.startLookback)
    | (with_reducible apply Fr.begun)
    | (with_reducible apply Fr.takeHandle)
    | (with_reducible apply Fr.endAt)
    | (with_reducible apply Fr.startMove)
    | (with_reducible apply Fr.startSend)
    | (with_reducible apply Fr.startResume)
    | (with_reducible apply Fr.startSig)
    | (with_reducible apply Fr.startBar)
    | dsimp -proj only
    | split

theorem Fr.yieldFacets {m : Mask} {s t : State} (q_host : m.host = false) (q_store : m.store = false) (q_chans : m.chans = false)  
    (h : Fr m s t) : Fr m s (@State.yieldFacets t) := by
  unfold Sys2Proof.Machine.State.yieldFacets
  repeat' first
    | with_reducible assumption
    | (with_reducible apply Fr.dropRefreshes)
    | (with_reducible apply Fr.foldl)
    | (with_reducible apply Fr.foldl_fst)
    | intro _
    | dsimp -proj only
    | split
    | (refine Fr.of_pair ‹_› ?_)

theorem Fr.startPv {m : Mask} {s t : State} (q_host : m.host = false) (q_store : m.store = false) (q_chans : m.chans = false) {g : Nat} {i : Nat} {r : PkgRec} {refresh : Bool} 
    (h : Fr m s t) : Fr m s (@State.startPv t g i r refresh) := by
  unfold Sys2Proof.Machine.State.startPv
  repeat' first
    | with_reducible assumption
    | (with_reducible apply Fr.beginPv)
    | (with_reducible apply Fr.modFacet)
    | (with_reducible apply Fr.modStore)
    | (with_reducible apply Fr.countN)
    | split

theorem Fr.startRecord {m : Mask} {s t : State} (q_host : m.host = false) (q_store : m.store = false) (q_chans : m.chans = false) {e : Nat × Nat × PkgRec × Bool} 
    (h : Fr m s t) : Fr m s (@State.startRecord t e) := by
  unfold Sys2Proof.Machine.State.startRecord
  repeat' first
    | with_reducible assumption
    | (with_reducible apply Fr.startPv)
    | (with_reducible apply Fr.foldl)
    | (with_reducible apply Fr.foldl_fst)
    | intro _
    | dsimp -proj only
    | split
    | (refine Fr.of_pair ‹_› ?_)

theorem Fr.startPrograms {m : Mask} {s t : State} (q_hub : m.hub = false) (q_host : m.host = false) (q_store : m.store = false) (q_out : m.out = false) (q_chans : m.chans = false) (q_fresh : m.fresh = false)  
    (h : Fr m s t) : Fr m s (@State.startPrograms t) := by
  unfold Sys2Proof.Machine.State.startPrograms
  repeat' first
    | with_reducible assumption
    | (with_reducible apply Fr.stagedNow)
    | (with_reducible apply Fr.yieldFacets)
    | (with_reducible apply Fr.failStaging)
    | (with_reducible apply Fr.startRecord)
    | (with_reducible apply Fr.foldl)
    | intro _
    | split

theorem Fr.startRefreshes {m : Mask} {s t : State} (q_store : m.store = false) (q_chans : m.chans = false)  
    (h : Fr m s t) : Fr m s (@State.startRefreshes t) := by
  unfold Sys2Proof.Machine.State.startRefreshes
  repeat' first
    | with_reducible assumption
    | (with_reducible apply Fr.resumePv)
    | (with_reducible apply Fr.modTile)
    | (with_reducible apply Fr.foldl)
    | intro _
    | dsimp -proj only
    | split

theorem Fr.stopAt {m : Mask} {s t : State} (q_host : m.host = false) (q_chans : m.chans = false) {c : Nat} {j : Job} 
    (h : Fr m s t) : Fr m s (@State.stopAt t c j) := by
  unfold Sys2Proof.Machine.State.stopAt
  repeat' first
    | with_reducible assumption
    | (with_reducible apply Fr.modSq)
    | (with_reducible apply Fr.modCq)
    | (with_reducible apply Fr.count)
    | (exact fun b => ⟨b.events, b.waiting, b.audit, b.auditWriting, b.auditA, b.auditB, b.owners, b.level, b.samples, b.sessions⟩)
    | split
    | (with_reducible apply Fr.set_host)

theorem Fr.streamGranule {m : Mask} {s t : State} (q_hub : m.hub = false) (q_chans : m.chans = false) {c : Nat} {base : Nat} {g : Nat} 
    (h : Fr m s t) : Fr m s (@State.streamGranule t c base g) := by
  unfold Sys2Proof.Machine.State.streamGranule
  repeat' first
    | with_reducible assumption
    | (with_reducible apply Fr.modChan)
    | (with_reducible apply Fr.event)
    | (with_reducible apply Fr.count)
    | dsimp -proj only
    | split

theorem Fr.substitute {m : Mask} {s t : State} (q_fresh : m.fresh = false) {n : Nat} 
    (h : Fr m s t) : Fr m s (@State.substitute t n).2 := by
  unfold Sys2Proof.Machine.State.substitute
  repeat' first
    | with_reducible assumption
    | (with_reducible apply Fr.draw)
    | dsimp -proj only
    | split

theorem Fr.surveyOne {m : Mask} {s t : State} (q_pwr : m.pwr = false) (q_hub : m.hub = false) (q_chans : m.chans = false) {r : Sys2Proof.SurveyReading} 
    (h : Fr m s t) : Fr m s (@State.surveyOne t r) := by
  unfold Sys2Proof.Machine.State.surveyOne
  repeat' first
    | with_reducible assumption
    | (with_reducible apply Fr.modBlock)
    | (with_reducible apply Fr.event)
    | (exact fun b => ⟨b.events, b.waiting, b.audit, b.auditWriting, b.auditA, b.auditB, b.owners, b.level, b.samples, b.sessions⟩)
    | split
    | (with_reducible apply Fr.set_pwr)

theorem Fr.survey {m : Mask} {s t : State} (q_pwr : m.pwr = false) (q_hub : m.hub = false) (q_store : m.store = false) (q_chans : m.chans = false) {l : List Sys2Proof.SurveyReading} 
    (h : Fr m s t) : Fr m s (@State.survey t l) := by
  unfold Sys2Proof.Machine.State.survey
  repeat' first
    | with_reducible assumption
    | (with_reducible apply Fr.allChans)
    | (with_reducible apply Fr.surveyOne)
    | (with_reducible apply Fr.countN)
    | (with_reducible apply Fr.driftAlarm)
    | (exact fun b => ⟨b.events, b.waiting, b.audit, b.auditWriting, b.auditA, b.auditB, b.owners, b.level, b.samples, b.sessions⟩)
    | (with_reducible apply Fr.foldl)
    | intro _
    | split
    | (with_reducible apply Fr.set_pwr)

theorem Fr.switchPkg {m : Mask} {s t : State} (q_hub : m.hub = false) (q_host : m.host = false) (q_store : m.store = false) (q_sec : m.sec = false) (q_out : m.out = false) (q_chans : m.chans = false) {p : Pkg} 
    (h : Fr m s t) : Fr m s (@State.switchPkg t p) := by
  unfold Sys2Proof.Machine.State.switchPkg
  repeat' first
    | with_reducible assumption
    | (with_reducible apply Fr.modChan)
    | (with_reducible apply Fr.count)
    | (with_reducible apply Fr.audit)
    | (with_reducible apply Fr.finishHost)
    | (exact fun b => ⟨b.events, b.waiting, b.audit, b.auditWriting, b.auditA, b.auditB, b.owners, b.level, b.samples, b.sessions⟩)
    | (with_reducible apply Fr.foldl)
    | intro _
    | split
    | (with_reducible apply Fr.set_host_store_sec)
    | (with_reducible apply Fr.set_host_store)
    | (with_reducible apply Fr.set_host_sec)
    | (with_reducible apply Fr.set_store_sec)
    | (with_reducible apply Fr.set_host)
    | (with_reducible apply Fr.set_store)
    | (with_reducible apply Fr.set_sec)

theorem Fr.switchTick {m : Mask} {s t : State} (q_hub : m.hub = false) (q_host : m.host = false) (q_store : m.store = false) (q_sec : m.sec = false) (q_out : m.out = false) (q_chans : m.chans = false)  
    (h : Fr m s t) : Fr m s (@State.switchTick t) := by
  unfold Sys2Proof.Machine.State.switchTick
  repeat' first
    | with_reducible assumption
    | (with_reducible apply Fr.dropRefreshes)
    | (with_reducible apply Fr.switchPkg)
    | (with_reducible apply Fr.wantRecord)
    | (with_reducible apply Fr.modFacet)
    | (with_reducible apply Fr.mbxDone)
    | (with_reducible apply Fr.modChan)
    | (with_reducible apply Fr.revoke)
    | (exact fun b => ⟨b.events, b.waiting, b.audit, b.auditWriting, b.auditA, b.auditB, b.owners, b.level, b.samples, b.sessions⟩)
    | (with_reducible apply Fr.foldl)
    | intro _
    | split
    | (with_reducible apply Fr.set_host_store)
    | (with_reducible apply Fr.set_host)
    | (with_reducible apply Fr.set_store)

theorem Fr.takeInfer {m : Mask} {s t : State} (q_hub : m.hub = false) (q_host : m.host = false) (q_chans : m.chans = false) {ecc : List Sys2Proof.Ecc} {j : Job} 
    (h : Fr m s t) : Fr m s (@State.takeInfer ecc t j) := by
  unfold Sys2Proof.Machine.State.takeInfer
  repeat' first
    | with_reducible assumption
    | (with_reducible apply Fr.eccAll)
    | (with_reducible apply Fr.stopAt)
    | (with_reducible apply Fr.modChan)
    | (with_reducible apply Fr.arrive)
    | (with_reducible apply Fr.defer)
    | dsimp -proj only
    | split

theorem Fr.takeMove {m : Mask} {s t : State} (q_hub : m.hub = false) (q_host : m.host = false) (q_out : m.out = false) (q_chans : m.chans = false) {j : Job} 
    (h : Fr m s t) : Fr m s (@State.takeMove t j) := by
  unfold Sys2Proof.Machine.State.takeMove
  repeat' first
    | with_reducible assumption
    | (with_reducible apply Fr.enqueue)
    | (with_reducible apply Fr.chargeMove)
    | split

theorem Fr.takeProgs {m : Mask} {s t : State} (q_hub : m.hub = false) (q_host : m.host = false) (q_store : m.store = false) (q_sec : m.sec = false) (q_out : m.out = false) (q_chans : m.chans = false) {progs : List Sys2Proof.ProgFill} {sigOk : Bool} {j : Job} 
    (h : Fr m s t) : Fr m s (@State.takeProgs progs sigOk t j) := by
  unfold Sys2Proof.Machine.State.takeProgs
  repeat' first
    | with_reducible assumption
    | (with_reducible apply Fr.endFetched)
    | (with_reducible apply Fr.audit)
    | (with_reducible apply Fr.enterProgs)
    | (exact fun b => ⟨b.events, b.waiting, b.audit, b.auditWriting, b.auditA, b.auditB, b.owners, b.level, b.samples, b.sessions⟩)
    | split
    | (with_reducible apply Fr.set_sec)

theorem Fr.takeRelease {m : Mask} {s t : State} (q_hub : m.hub = false) (q_host : m.host = false) (q_out : m.out = false) (q_chans : m.chans = false) {j : Job} 
    (h : Fr m s t) : Fr m s (@State.takeRelease t j) := by
  unfold Sys2Proof.Machine.State.takeRelease
  repeat' first
    | with_reducible assumption
    | (with_reducible apply Fr.enqueue)
    | (with_reducible apply Fr.modCtx)
    | split

theorem Fr.takeSample {m : Mask} {s t : State} (q_hub : m.hub = false) (q_host : m.host = false) (q_out : m.out = false) (q_chans : m.chans = false) {j : Job} 
    (h : Fr m s t) : Fr m s (@State.takeSample t j) := by
  unfold Sys2Proof.Machine.State.takeSample
  repeat' first
    | with_reducible assumption
    | (with_reducible apply Fr.endFetched)
    | (with_reducible apply Fr.modChan)
    | (exact fun b => ⟨b.events, b.waiting, b.audit, b.auditWriting, b.auditA, b.auditB, b.owners, b.level, b.samples, b.sessions⟩)
    | split
    | (with_reducible apply Fr.set_host)

theorem Fr.takeWeights {m : Mask} {s t : State} (q_hub : m.hub = false) (q_host : m.host = false) (q_store : m.store = false) (q_out : m.out = false) (q_chans : m.chans = false) (q_fresh : m.fresh = false) {pkg : Sys2Proof.ReadRes} {sigOk : Bool} {j : Job} 
    (h : Fr m s t) : Fr m s (@State.takeWeights pkg sigOk t j) := by
  unfold Sys2Proof.Machine.State.takeWeights
  repeat' first
    | with_reducible assumption
    | (with_reducible apply Fr.endFetched)
    | (with_reducible apply Fr.draw)
    | (with_reducible apply Fr.audit)
    | (with_reducible apply Fr.refusePkg)
    | (exact fun b => ⟨b.events, b.waiting, b.audit, b.auditWriting, b.auditA, b.auditB, b.owners, b.level, b.samples, b.sessions⟩)
    | split
    | (with_reducible apply Fr.set_host)

theorem Fr.testCheck {m : Mask} {s t : State} (q_chans : m.chans = false) {c : Nat} {t' : Nat} {l : Nat} {k : Nat} {x : Sys2Proof.TestFound} 
    (h : Fr m s t) : Fr m s (@State.testCheck t c t' l k x).1 := by
  unfold Sys2Proof.Machine.State.testCheck
  repeat' first
    | with_reducible assumption
    | (with_reducible apply Fr.count)
    | (with_reducible apply Fr.countN)
    | (with_reducible apply Fr.foldl)
    | (with_reducible apply Fr.foldl_fst)
    | intro _
    | dsimp -proj only
    | split
    | (refine Fr.of_pair ‹_› ?_)

theorem Fr.testChecks {m : Mask} {s t : State} (q_chans : m.chans = false) {c : Nat} {x : Sys2Proof.TestFound} 
    (h : Fr m s t) : Fr m s (@State.testChecks t c x).1 := by
  unfold Sys2Proof.Machine.State.testChecks
  repeat' first
    | with_reducible assumption
    | (with_reducible apply Fr.testCheck)
    | (with_reducible apply Fr.foldl)
    | (with_reducible apply Fr.foldl_fst)
    | intro _
    | dsimp -proj only
    | split
    | (refine Fr.of_pair ‹_› ?_)

theorem Fr.testRelease {m : Mask} {s t : State} (q_store : m.store = false) (q_integ : m.integ = false) (q_chans : m.chans = false) {c : Nat} 
    (h : Fr m s t) : Fr m s (@State.testRelease t c) := by
  unfold Sys2Proof.Machine.State.testRelease
  repeat' first
    | with_reducible assumption
    | (with_reducible apply Fr.setChan)
    | (with_reducible apply Fr.resumePv)
    | (exact fun b => ⟨b.events, b.waiting, b.audit, b.auditWriting, b.auditA, b.auditB, b.owners, b.level, b.samples, b.sessions⟩)
    | (exact fun b => ⟨by first | exact b.events | (simp; done) | (have := b.events; simp; omega), by first | exact b.waiting | (simp; done) | (have := b.waiting; simp; omega), by first | exact b.audit | (simp; done) | (have := b.audit; simp; omega), by first | exact b.auditWriting | (simp; done) | (have := b.auditWriting; simp; omega), by first | exact b.auditA | (simp; done) | (have := b.auditA; simp; omega), by first | exact b.auditB | (simp; done) | (have := b.auditB; simp; omega), by first | exact b.owners | (simp; done) | (have := b.owners; simp; omega), by first | exact b.level | (simp; done) | (have := b.level; simp; omega), by first | exact b.samples | (simp; done) | (have := b.samples; simp; omega), by first | exact b.sessions | (simp; done) | (have := b.sessions; simp; omega)⟩)
    | (with_reducible apply Fr.foldl)
    | (with_reducible apply Fr.foldl_fst)
    | intro _
    | dsimp -proj only
    | split
    | (with_reducible apply Fr.set_integ)
    | (refine Fr.of_pair ‹_› ?_)

theorem Fr.testTick {m : Mask} {s t : State} (q_integ : m.integ = false) (q_chans : m.chans = false) {c : Nat} 
    (h : Fr m s t) : Fr m s (@State.testTick t c) := by
  unfold Sys2Proof.Machine.State.testTick
  repeat' first
    | with_reducible assumption
    | (with_reducible apply Fr.modChan)
    | (with_reducible apply Fr.count)
    | (with_reducible apply Fr.setChan)
    | (exact fun b => ⟨b.events, b.waiting, b.audit, b.auditWriting, b.auditA, b.auditB, b.owners, b.level, b.samples, b.sessions⟩)
    | split
    | (with_reducible apply Fr.set_integ)

theorem Fr.tickClock {m : Mask} {s t : State} (q_clk : m.clk = false) (q_hub : m.hub = false) (q_out : m.out = false) (q_chans : m.chans = false) {ts : Nat} 
    (h : Fr m s t) : Fr m s (@State.tickClock t ts) := by
  unfold Sys2Proof.Machine.State.tickClock
  repeat' first
    | with_reducible assumption
    | (with_reducible apply Fr.event)
    | (with_reducible apply Fr.countAll)
    | (exact fun b => ⟨b.events, b.waiting, b.audit, b.auditWriting, b.auditA, b.auditB, b.owners, b.level, b.samples, b.sessions⟩)
    | split
    | (with_reducible apply Fr.set_clk_out)
    | (with_reducible apply Fr.set_clk)
    | (with_reducible apply Fr.set_out)

theorem Fr.tickFns {m : Mask} {s t : State} (q_hub : m.hub = false) (q_host : m.host = false) (q_out : m.out = false) (q_chans : m.chans = false)  
    (h : Fr m s t) : Fr m s (@State.tickFns t) := by
  unfold Sys2Proof.Machine.State.tickFns
  repeat' first
    | with_reducible assumption
    | (with_reducible apply Fr.modFn)
    | (with_reducible apply Fr.activate)
    | (with_reducible apply Fr.foldl)
    | intro _
    | dsimp -proj only
    | split

theorem Fr.tickHub {m : Mask} {s t : State} (q_hub : m.hub = false) (q_chans : m.chans = false)  
    (h : Fr m s t) : Fr m s (@State.tickHub t) := by
  unfold Sys2Proof.Machine.State.tickHub
  repeat' first
    | with_reducible assumption
    | (with_reducible apply Fr.allChans)
    | (exact fun b => ⟨b.events, b.waiting, b.audit, b.auditWriting, b.auditA, b.auditB, b.owners, b.level, b.samples, b.sessions⟩)
    | split
    | (with_reducible apply Fr.set_hub)

theorem Fr.tickMbx {m : Mask} {s t : State} (q_host : m.host = false)  
    (h : Fr m s t) : Fr m s (@State.tickMbx t) := by
  unfold Sys2Proof.Machine.State.tickMbx
  repeat' first
    | with_reducible assumption
    | (with_reducible apply Fr.modPort)
    | (with_reducible apply Fr.foldl)
    | intro _
    | split

theorem Fr.tickPeers {m : Mask} {s t : State} (q_hub : m.hub = false) (q_host : m.host = false) (q_out : m.out = false)  
    (h : Fr m s t) : Fr m s (@State.tickPeers t) := by
  unfold Sys2Proof.Machine.State.tickPeers
  repeat' first
    | with_reducible assumption
    | (with_reducible apply Fr.sendCredit)
    | (with_reducible apply Fr.modPeer)
    | (with_reducible apply Fr.openPeer)
    | (with_reducible apply Fr.sendPeer)
    | (with_reducible apply Fr.foldl)
    | intro _
    | split

theorem Fr.tickRoles {m : Mask} {s t : State} (q_hub : m.hub = false) (q_host : m.host = false) (q_store : m.store = false)  
    (h : Fr m s t) : Fr m s (@State.tickRoles t) := by
  unfold Sys2Proof.Machine.State.tickRoles
  repeat' first
    | with_reducible assumption
    | (with_reducible apply Fr.endDebug)
    | (with_reducible apply Fr.audit)
    | (with_reducible apply Fr.modPort)
    | (with_reducible apply Fr.endRole)
    | (exact fun b => ⟨b.events, b.waiting, b.audit, b.auditWriting, b.auditA, b.auditB, b.owners, b.level, b.samples, b.sessions⟩)
    | (with_reducible apply Fr.foldl)
    | intro _
    | split
    | (with_reducible apply Fr.set_hub)

theorem Fr.tickSamples {m : Mask} {s t : State} (q_chans : m.chans = false)  
    (h : Fr m s t) : Fr m s (@State.tickSamples t) := by
  unfold Sys2Proof.Machine.State.tickSamples
  repeat' first
    | with_reducible assumption
    | (with_reducible apply Fr.allChans)
    | split

theorem Fr.unlessFault {m : Mask} {s t : State} (q_host : m.host = false) (q_store : m.store = false) (q_fresh : m.fresh = false) {p : Nat} {action : Nat} {f : State → State} (p_f : ∀ u, Fr m s u → Fr m s (f u))
    (h : Fr m s t) : Fr m s (@State.unlessFault t p action f) := by
  unfold Sys2Proof.Machine.State.unlessFault
  repeat' first
    | with_reducible assumption
    | (with_reducible apply Fr.draw)
    | (with_reducible apply Fr.mbxDone)
    | (with_reducible apply Fr.audit)
    | (with_reducible apply p_f)
    | split

theorem Fr.useReading {m : Mask} {s t : State} (q_hub : m.hub = false) (q_host : m.host = false) (q_store : m.store = false) (q_integ : m.integ = false) (q_therm : m.therm = false) (q_out : m.out = false) (q_chans : m.chans = false) (q_fresh : m.fresh = false) {n : Nat} {r : Int} 
    (h : Fr m s t) : Fr m s (@State.useReading t n r) := by
  unfold Sys2Proof.Machine.State.useReading
  repeat' first
    | with_reducible assumption
    | (with_reducible apply Fr.setSensor)
    | (with_reducible apply Fr.modChan)
    | (with_reducible apply Fr.event)
    | (with_reducible apply Fr.drain)
    | (exact fun b => ⟨b.events, b.waiting, b.audit, b.auditWriting, b.auditA, b.auditB, b.owners, b.level, b.samples, b.sessions⟩)
    | split
    | (with_reducible apply Fr.set_integ)

theorem Fr.verifyFw {m : Mask} {s t : State} (q_pwr : m.pwr = false) (q_hub : m.hub = false) {b : Boot} 
    (h : Fr m s t) : Fr m s (@State.verifyFw t b) := by
  unfold Sys2Proof.Machine.State.verifyFw
  repeat' first
    | with_reducible assumption
    | (with_reducible apply Fr.event)
    | (exact fun b => ⟨b.events, b.waiting, b.audit, b.auditWriting, b.auditA, b.auditB, b.owners, b.level, b.samples, b.sessions⟩)
    | split
    | (with_reducible apply Fr.set_pwr)

theorem Fr.waitAt {m : Mask} {s t : State} (q_hub : m.hub = false) (q_host : m.host = false) (q_out : m.out = false) (q_chans : m.chans = false) {c : Nat} {sl : Nat} {o : Outst} 
    (h : Fr m s t) : Fr m s (@State.waitAt t c sl o) := by
  unfold Sys2Proof.Machine.State.waitAt
  repeat' first
    | with_reducible assumption
    | (with_reducible apply Fr.fault)
    | (with_reducible apply Fr.spillAll)
    | (with_reducible apply Fr.modVtx)
    | (with_reducible apply Fr.resumeAll)
    | (with_reducible apply Fr.sampleDone)
    | (with_reducible apply Fr.addOut)
    | (with_reducible apply Fr.modSlot)
    | dsimp -proj only
    | split

theorem Fr.wantChecks {m : Mask} {s t : State} (q_chans : m.chans = false) {c : Nat} 
    (h : Fr m s t) : Fr m s (@State.wantChecks t c) := by
  unfold Sys2Proof.Machine.State.wantChecks
  repeat' first
    | with_reducible assumption
    | (with_reducible apply Fr.setChan)
    | split

theorem Fr.withEcc {m : Mask} {s t : State} (q_chans : m.chans = false) {c : Nat} {sl : Nat} {ecc : List Sys2Proof.Ecc} 
    (h : Fr m s t) : Fr m s (@State.withEcc t c sl ecc) := by
  unfold Sys2Proof.Machine.State.withEcc
  repeat' first
    | with_reducible assumption
    | (with_reducible apply Fr.modSlot)
    | split

theorem Fr.wrMbxData {m : Mask} {s t : State} (q_host : m.host = false) {fn : Nat} {at_ : Nat} {n : Nat} {v : Nat} 
    (h : Fr m s t) : Fr m s (@State.wrMbxData t fn at_ n v) := by
  unfold Sys2Proof.Machine.State.wrMbxData
  repeat' first
    | with_reducible assumption
    | (with_reducible apply Fr.modPort)
    | split

theorem Fr.wrSetup {m : Mask} {s t : State} (q_hub : m.hub = false) {fn : Nat} {v : Nat} 
    (h : Fr m s t) : Fr m s (@State.wrSetup t fn v) := by
  unfold Sys2Proof.Machine.State.wrSetup
  repeat' first
    | with_reducible assumption
    | (with_reducible apply Fr.pfOnly)
    | (with_reducible apply Fr.rsvBits)
    | (with_reducible apply Fr.errlog)
    | (exact fun b => ⟨b.events, b.waiting, b.audit, b.auditWriting, b.auditA, b.auditB, b.owners, b.level, b.samples, b.sessions⟩)
    | intro _
    | split
    | (with_reducible apply Fr.set_hub)

theorem Fr.wrTickCfg {m : Mask} {s t : State} (q_clk : m.clk = false) (q_hub : m.hub = false) (q_store : m.store = false) {fn : Nat} {v : Nat} 
    (h : Fr m s t) : Fr m s (@State.wrTickCfg t fn v) := by
  have key : ∀ (x : BitVec 32) (u : State), Fr m s u →
      Fr m s { u with clk := { u.clk with cfgNext := some x }, store := { u.store with live := { u.store.live with tickCfg := x } } } :=
    fun x u k => Fr.set_clk_store q_clk q_store (fun b => ⟨b.events, b.waiting, b.audit, b.auditWriting, b.auditA, b.auditB, b.owners, b.level, b.samples, b.sessions⟩) k
  unfold State.wrTickCfg
  exact Fr.roleWrite q_store (fun u k => key _ u k) (Fr.rsvBits q_hub h)


theorem Fr.wrCheckCfg {m : Mask} {s t : State} (q_hub : m.hub = false) (q_store : m.store = false) {fn : Nat} {v : Nat} 
    (h : Fr m s t) : Fr m s (@State.wrCheckCfg t fn v) := by
  unfold Sys2Proof.Machine.State.wrCheckCfg
  repeat' first
    | with_reducible assumption
    | (with_reducible apply Fr.roleWrite)
    | (with_reducible apply Fr.rsvBits)
    | (exact fun b => ⟨b.events, b.waiting, b.audit, b.auditWriting, b.auditA, b.auditB, b.owners, b.level, b.samples, b.sessions⟩)
    | intro _
    | split
    | (with_reducible apply Fr.set_hub_store)
    | (with_reducible apply Fr.set_hub)
    | (with_reducible apply Fr.set_store)

theorem Fr.wrPwrCfg {m : Mask} {s t : State} (q_hub : m.hub = false) (q_store : m.store = false) {fn : Nat} {v : Nat} 
    (h : Fr m s t) : Fr m s (@State.wrPwrCfg t fn v) := by
  unfold Sys2Proof.Machine.State.wrPwrCfg
  repeat' first
    | with_reducible assumption
    | (with_reducible apply Fr.roleWrite)
    | (with_reducible apply Fr.rsvBits)
    | (exact fun b => ⟨b.events, b.waiting, b.audit, b.auditWriting, b.auditA, b.auditB, b.owners, b.level, b.samples, b.sessions⟩)
    | intro _
    | split
    | (with_reducible apply Fr.set_hub_store)
    | (with_reducible apply Fr.set_hub)
    | (with_reducible apply Fr.set_store)

theorem Fr.wrTestCfg {m : Mask} {s t : State} (q_hub : m.hub = false) (q_store : m.store = false) (q_chans : m.chans = false) {fn : Nat} {v : Nat} 
    (h : Fr m s t) : Fr m s (@State.wrTestCfg t fn v) := by
  unfold Sys2Proof.Machine.State.wrTestCfg
  repeat' first
    | with_reducible assumption
    | (with_reducible apply Fr.roleWrite)
    | (with_reducible apply Fr.rsvBits)
    | (with_reducible apply Fr.allChans)
    | (exact fun b => ⟨b.events, b.waiting, b.audit, b.auditWriting, b.auditA, b.auditB, b.owners, b.level, b.samples, b.sessions⟩)
    | intro _
    | split
    | (with_reducible apply Fr.set_hub_store)
    | (with_reducible apply Fr.set_hub)
    | (with_reducible apply Fr.set_store)

theorem Fr.wrCommit {m : Mask} {s t : State} (q_hub : m.hub = false) (q_host : m.host = false) (q_store : m.store = false) (q_chans : m.chans = false) {fn : Nat} {v : Nat} 
    (h : Fr m s t) : Fr m s (@State.wrCommit t fn v) := by
  unfold Sys2Proof.Machine.State.wrCommit
  repeat' first
    | with_reducible assumption
    | (with_reducible apply Fr.protWrite)
    | (with_reducible apply Fr.rsvBits)
    | (with_reducible apply Fr.errlog)
    | (with_reducible apply Fr.applyStaged)
    | (exact fun b => ⟨by first | exact b.events | (simp; done) | (have := b.events; simp; omega), by first | exact b.waiting | (simp; done) | (have := b.waiting; simp; omega), by first | exact b.audit | (simp; done) | (have := b.audit; simp; omega), by first | exact b.auditWriting | (simp; done) | (have := b.auditWriting; simp; omega), by first | exact b.auditA | (simp; done) | (have := b.auditA; simp; omega), by first | exact b.auditB | (simp; done) | (have := b.auditB; simp; omega), by first | exact b.owners | (simp; done) | (have := b.owners; simp; omega), by first | exact b.level | (simp; done) | (have := b.level; simp; omega), by first | exact b.samples | (simp; done) | (have := b.samples; simp; omega), by first | exact b.sessions | (simp; done) | (have := b.sessions; simp; omega)⟩)
    | intro _
    | split
    | (with_reducible apply Fr.set_host)

theorem Fr.wrOwn {m : Mask} {s t : State} (q_hub : m.hub = false) (q_host : m.host = false) (q_store : m.store = false) {fn : Nat} {v : Nat} 
    (h : Fr m s t) : Fr m s (@State.wrOwn t fn v) := by
  unfold Sys2Proof.Machine.State.wrOwn
  repeat' first
    | with_reducible assumption
    | (with_reducible apply Fr.protWrite)
    | (with_reducible apply Fr.rsvBits)
    | (with_reducible apply Fr.errlog)
    | (exact fun b => ⟨by first | exact b.events | (simp; done) | (have := b.events; simp; omega), by first | exact b.waiting | (simp; done) | (have := b.waiting; simp; omega), by first | exact b.audit | (simp; done) | (have := b.audit; simp; omega), by first | exact b.auditWriting | (simp; done) | (have := b.auditWriting; simp; omega), by first | exact b.auditA | (simp; done) | (have := b.auditA; simp; omega), by first | exact b.auditB | (simp; done) | (have := b.auditB; simp; omega), by first | exact b.owners | (simp; done) | (have := b.owners; simp; omega), by first | exact b.level | (simp; done) | (have := b.level; simp; omega), by first | exact b.samples | (simp; done) | (have := b.samples; simp; omega), by first | exact b.sessions | (simp; done) | (have := b.sessions; simp; omega)⟩)
    | intro _
    | split
    | (with_reducible apply Fr.set_host)

theorem Fr.wrRings {m : Mask} {s t : State} (q_hub : m.hub = false) (q_host : m.host = false) (q_store : m.store = false) {fn : Nat} {f : Nat} {v : Nat} 
    (h : Fr m s t) : Fr m s (@State.wrRings t fn f v) := by
  unfold Sys2Proof.Machine.State.wrRings
  repeat' first
    | with_reducible assumption
    | (with_reducible apply Fr.protWrite)
    | (with_reducible apply Fr.stage)
    | (with_reducible apply Fr.rsvBits)
    | intro _
    | split

theorem Fr.wrPeer {m : Mask} {s t : State} (q_hub : m.hub = false) (q_host : m.host = false) (q_store : m.store = false) {fn : Nat} {n : Nat} {v : Nat} 
    (h : Fr m s t) : Fr m s (@State.wrPeer t fn n v) := by
  unfold Sys2Proof.Machine.State.wrPeer
  repeat' first
    | with_reducible assumption
    | (with_reducible apply Fr.protWrite)
    | (with_reducible apply Fr.rsvBits)
    | (with_reducible apply Fr.stage)
    | intro _
    | split

theorem Fr.wrWin {m : Mask} {s t : State} (q_hub : m.hub = false) (q_host : m.host = false) (q_store : m.store = false) {fn : Nat} {i : Nat} {v : Nat} 
    (h : Fr m s t) : Fr m s (@State.wrWin t fn i v) := by
  unfold Sys2Proof.Machine.State.wrWin
  repeat' first
    | with_reducible assumption
    | (with_reducible apply Fr.protWrite)
    | (with_reducible apply Fr.stage)
    | (with_reducible apply Fr.rsvBits)
    | intro _
    | split

theorem Fr.wrQuantThresh {m : Mask} {s t : State} (q_hub : m.hub = false) (q_chans : m.chans = false) {fn : Nat} {c : Nat} {v : Nat} 
    (h : Fr m s t) : Fr m s (@State.wrQuantThresh t fn c v) := by
  unfold Sys2Proof.Machine.State.wrQuantThresh
  repeat' first
    | with_reducible assumption
    | (with_reducible apply Fr.inChan)
    | (with_reducible apply Fr.pfOnly)
    | (with_reducible apply Fr.modChan)
    | intro _
    | split

theorem Fr.wrSchedCfg {m : Mask} {s t : State} (q_hub : m.hub = false) (q_chans : m.chans = false) {fn : Nat} {c : Nat} {v : Nat} 
    (h : Fr m s t) : Fr m s (@State.wrSchedCfg t fn c v) := by
  unfold Sys2Proof.Machine.State.wrSchedCfg
  repeat' first
    | with_reducible assumption
    | (with_reducible apply Fr.inChan)
    | (with_reducible apply Fr.pfOnly)
    | (with_reducible apply Fr.errlog)
    | (with_reducible apply Fr.modChan)
    | intro _
    | split

theorem Fr.wrSyncCfg {m : Mask} {s t : State} (q_hub : m.hub = false) (q_chans : m.chans = false) {fn : Nat} {c : Nat} {v : Nat} 
    (h : Fr m s t) : Fr m s (@State.wrSyncCfg t fn c v) := by
  unfold Sys2Proof.Machine.State.wrSyncCfg
  repeat' first
    | with_reducible assumption
    | (with_reducible apply Fr.inChan)
    | (with_reducible apply Fr.pfOnly)
    | (with_reducible apply Fr.rsvBits)
    | (with_reducible apply Fr.errlog)
    | (with_reducible apply Fr.modChan)
    | intro _
    | split

theorem Fr.wrVtxLink {m : Mask} {s t : State} (q_hub : m.hub = false) (q_chans : m.chans = false) {fn : Nat} {c : Nat} {i : Nat} {v : Nat} 
    (h : Fr m s t) : Fr m s (@State.wrVtxLink t fn c i v) := by
  unfold Sys2Proof.Machine.State.wrVtxLink
  repeat' first
    | with_reducible assumption
    | (with_reducible apply Fr.inChan)
    | (with_reducible apply Fr.pfOnly)
    | (with_reducible apply Fr.rsvBits)
    | (with_reducible apply Fr.errlog)
    | (with_reducible apply Fr.modChan)
    | intro _
    | dsimp -proj only
    | split

theorem Fr.wrBarCfg {m : Mask} {s t : State} (q_hub : m.hub = false) (q_chans : m.chans = false) {fn : Nat} {c : Nat} {b : Nat} {v : Nat} 
    (h : Fr m s t) : Fr m s (@State.wrBarCfg t fn c b v) := by
  unfold Sys2Proof.Machine.State.wrBarCfg
  repeat' first
    | with_reducible assumption
    | (with_reducible apply Fr.inChan)
    | (with_reducible apply Fr.pfOnly)
    | (with_reducible apply Fr.rsvBits)
    | (with_reducible apply Fr.errlog)
    | (with_reducible apply Fr.modChan)
    | intro _
    | dsimp -proj only
    | split

theorem Fr.wrFnOpen {m : Mask} {s t : State} (q_hub : m.hub = false) (q_host : m.host = false) (q_store : m.store = false) (q_out : m.out = false) (q_chans : m.chans = false) {fn : Nat} {v : Nat} 
    (h : Fr m s t) : Fr m s (@State.wrFnOpen t fn v) := by
  unfold Sys2Proof.Machine.State.wrFnOpen
  repeat' first
    | with_reducible assumption
    | (with_reducible apply Fr.rsvBits)
    | (with_reducible apply Fr.modFn)
    | (with_reducible apply Fr.errlog)
    | (with_reducible apply Fr.closeFn)
    | dsimp -proj only
    | split

theorem Fr.wrDbell {m : Mask} {s t : State} (q_hub : m.hub = false) (q_host : m.host = false) {fn : Nat} {v : Nat} 
    (h : Fr m s t) : Fr m s (@State.wrDbell t fn v) := by
  unfold Sys2Proof.Machine.State.wrDbell
  repeat' first
    | with_reducible assumption
    | (with_reducible apply Fr.modFn)
    | (with_reducible apply Fr.rsvBits)
    | split

theorem Fr.wrMbxOpen {m : Mask} {s t : State} (q_hub : m.hub = false) (q_host : m.host = false) {fn : Nat} {v : Nat} 
    (h : Fr m s t) : Fr m s (@State.wrMbxOpen t fn v) := by
  unfold Sys2Proof.Machine.State.wrMbxOpen
  repeat' first
    | with_reducible assumption
    | (with_reducible apply Fr.rsvBits)
    | (with_reducible apply Fr.errlog)
    | (with_reducible apply Fr.modPort)
    | dsimp -proj only
    | split

end Sys2Proof.Machine
end

