-- ==== Sys2Proof/Laws/FrameCommands.lean ====
section
/-! SUPPORT. For every command: the parts of the state its effect may change; it leaves the others, and it keeps `Bounded`. -/

namespace Sys2Proof.Machine

theorem FrOut.execOpenMailbox {m : Mask} {s t : State} (q_hub : m.hub = false) (q_host : m.host = false) {port : Nat} {r : Sys2Proof.MbxReq} 
    (h : Fr m s t) : FrOut m s (@execOpenMailbox port r t) := by
  unfold Sys2Proof.Machine.execOpenMailbox
  repeat' first
    | with_reducible assumption
    | (with_reducible apply FrOut.go)
    | (with_reducible apply FrOut.onlyIf)
    | (with_reducible exact FrOut.fault)
    | (with_reducible apply FrOut.mailbox)
    | (with_reducible apply Fr.mbxDone)
    | (with_reducible apply Fr.modPort)
    | intro _
    | split

theorem FrOut.execGetChallenge {m : Mask} {s t : State} (q_hub : m.hub = false) (q_host : m.host = false) (q_fresh : m.fresh = false) {port : Nat} {r : Sys2Proof.MbxReq} 
    (h : Fr m s t) : FrOut m s (@execGetChallenge port r t) := by
  unfold Sys2Proof.Machine.execGetChallenge
  repeat' first
    | with_reducible assumption
    | (with_reducible apply FrOut.go)
    | (with_reducible apply FrOut.onlyIf)
    | (with_reducible exact FrOut.fault)
    | (with_reducible apply FrOut.mailbox)
    | (with_reducible apply Fr.mbxDone)
    | (with_reducible apply Fr.modPort)
    | (exact fun b => ⟨b.events, b.waiting, b.audit, b.auditWriting, b.auditA, b.auditB, b.owners, b.level, b.samples, b.sessions⟩)
    | intro _
    | split
    | (with_reducible apply Fr.set_fresh)

theorem FrOut.execAssumeRole {m : Mask} {s t : State} (q_hub : m.hub = false) (q_host : m.host = false) (q_store : m.store = false) {port : Nat} {r : Sys2Proof.MbxReq} {sigOk : Bool} 
    (h : Fr m s t) : FrOut m s (@execAssumeRole port r sigOk t) := by
  unfold Sys2Proof.Machine.execAssumeRole
  repeat' first
    | with_reducible assumption
    | (with_reducible apply FrOut.go)
    | (with_reducible apply FrOut.onlyIf)
    | (with_reducible exact FrOut.fault)
    | (with_reducible apply FrOut.mailbox)
    | (with_reducible apply Fr.mbxDone)
    | (with_reducible apply Fr.modPort)
    | (with_reducible apply Fr.audit)
    | intro _
    | dsimp -proj only
    | split

theorem FrOut.execReleaseRole {m : Mask} {s t : State} (q_hub : m.hub = false) (q_host : m.host = false) (q_store : m.store = false) {port : Nat} {r : Sys2Proof.MbxReq} 
    (h : Fr m s t) : FrOut m s (@execReleaseRole port r t) := by
  unfold Sys2Proof.Machine.execReleaseRole
  repeat' first
    | with_reducible assumption
    | (with_reducible apply FrOut.go)
    | (with_reducible apply FrOut.onlyIf)
    | (with_reducible exact FrOut.fault)
    | (with_reducible apply FrOut.mailbox)
    | (with_reducible apply Fr.mbxDone)
    | (with_reducible apply Fr.endRole)
    | intro _
    | split

theorem FrOut.execReadEvents {m : Mask} {s t : State} (q_hub : m.hub = false) (q_host : m.host = false) {port : Nat} {r : Sys2Proof.MbxReq} 
    (h : Fr m s t) : FrOut m s (@execReadEvents port r t) := by
  unfold Sys2Proof.Machine.execReadEvents
  repeat' first
    | with_reducible assumption
    | (with_reducible apply FrOut.go)
    | (with_reducible apply FrOut.onlyIf)
    | (with_reducible exact FrOut.fault)
    | (with_reducible apply FrOut.mailbox)
    | (with_reducible apply Fr.mbxDone)
    | (exact fun b => ⟨by first | exact b.events | (simp; done) | (have := b.events; simp; omega), by first | exact b.waiting | (simp; done) | (have := b.waiting; simp; omega), by first | exact b.audit | (simp; done) | (have := b.audit; simp; omega), by first | exact b.auditWriting | (simp; done) | (have := b.auditWriting; simp; omega), by first | exact b.auditA | (simp; done) | (have := b.auditA; simp; omega), by first | exact b.auditB | (simp; done) | (have := b.auditB; simp; omega), by first | exact b.owners | (simp; done) | (have := b.owners; simp; omega), by first | exact b.level | (simp; done) | (have := b.level; simp; omega), by first | exact b.samples | (simp; done) | (have := b.samples; simp; omega), by first | exact b.sessions | (simp; done) | (have := b.sessions; simp; omega)⟩)
    | intro _
    | split
    | (with_reducible apply Fr.set_hub)

theorem FrOut.execReadAudit {m : Mask} {s t : State} (q_hub : m.hub = false) (q_host : m.host = false) {port : Nat} {r : Sys2Proof.MbxReq} 
    (h : Fr m s t) : FrOut m s (@execReadAudit port r t) := by
  unfold Sys2Proof.Machine.execReadAudit
  repeat' first
    | with_reducible assumption
    | (with_reducible apply FrOut.go)
    | (with_reducible apply FrOut.onlyIf)
    | (with_reducible exact FrOut.fault)
    | (with_reducible apply FrOut.mailbox)
    | (with_reducible apply Fr.mbxDone)
    | intro _
    | split

theorem FrOut.execReadErrlog {m : Mask} {s t : State} (q_hub : m.hub = false) (q_host : m.host = false) {port : Nat} {r : Sys2Proof.MbxReq} 
    (h : Fr m s t) : FrOut m s (@execReadErrlog port r t) := by
  unfold Sys2Proof.Machine.execReadErrlog
  repeat' first
    | with_reducible assumption
    | (with_reducible apply FrOut.go)
    | (with_reducible apply FrOut.onlyIf)
    | (with_reducible exact FrOut.fault)
    | (with_reducible apply FrOut.mailbox)
    | (with_reducible apply Fr.mbxDone)
    | intro _
    | split

theorem FrOut.execFlushStore {m : Mask} {s t : State} (q_hub : m.hub = false) (q_host : m.host = false) (q_store : m.store = false) (q_fresh : m.fresh = false) {port : Nat} {r : Sys2Proof.MbxReq} 
    (h : Fr m s t) : FrOut m s (@execFlushStore port r t) := by
  unfold Sys2Proof.Machine.execFlushStore
  repeat' first
    | with_reducible assumption
    | (with_reducible apply FrOut.go)
    | (with_reducible apply FrOut.onlyIf)
    | (with_reducible exact FrOut.fault)
    | (with_reducible apply FrOut.mailbox)
    | (with_reducible apply Fr.draw)
    | (with_reducible apply Fr.mbxDone)
    | (with_reducible apply Fr.audit)
    | (with_reducible apply Fr.wantRecord)
    | (exact fun b => ⟨b.events, b.waiting, b.audit, b.auditWriting, b.auditA, b.auditB, b.owners, b.level, b.samples, b.sessions⟩)
    | intro _
    | split
    | (with_reducible apply Fr.set_store)

theorem FrOut.execSetModuleId {m : Mask} {s t : State} (q_hub : m.hub = false) (q_host : m.host = false) (q_store : m.store = false) (q_fresh : m.fresh = false) {port : Nat} {r : Sys2Proof.MbxReq} 
    (h : Fr m s t) : FrOut m s (@execSetModuleId port r t) := by
  unfold Sys2Proof.Machine.execSetModuleId
  repeat' first
    | with_reducible assumption
    | (with_reducible apply FrOut.go)
    | (with_reducible apply FrOut.onlyIf)
    | (with_reducible exact FrOut.fault)
    | (with_reducible apply FrOut.mailbox)
    | (with_reducible apply Fr.withRight)
    | (with_reducible apply Fr.refuseField)
    | (with_reducible apply Fr.unlessFault)
    | (with_reducible apply Fr.mbxDone)
    | (with_reducible apply Fr.auditDraw)
    | (exact fun b => ⟨b.events, b.waiting, b.audit, b.auditWriting, b.auditA, b.auditB, b.owners, b.level, b.samples, b.sessions⟩)
    | intro _
    | split
    | (with_reducible apply Fr.set_store)

theorem FrOut.execAuthSlot {m : Mask} {s t : State} (q_hub : m.hub = false) (q_host : m.host = false) (q_store : m.store = false) (q_fresh : m.fresh = false) {port : Nat} {r : Sys2Proof.MbxReq} 
    (h : Fr m s t) : FrOut m s (@execAuthSlot port r t) := by
  unfold Sys2Proof.Machine.execAuthSlot
  repeat' first
    | with_reducible assumption
    | (with_reducible apply FrOut.go)
    | (with_reducible apply FrOut.onlyIf)
    | (with_reducible exact FrOut.fault)
    | (with_reducible apply FrOut.mailbox)
    | (with_reducible apply Fr.withRight)
    | (with_reducible apply Fr.refuseField)
    | (with_reducible apply Fr.unlessFault)
    | (with_reducible apply Fr.mbxDone)
    | (with_reducible apply Fr.auditDraw)
    | (exact fun b => ⟨b.events, b.waiting, b.audit, b.auditWriting, b.auditA, b.auditB, b.owners, b.level, b.samples, b.sessions⟩)
    | intro _
    | split
    | (with_reducible apply Fr.set_host)

theorem FrOut.execUnmapFacet {m : Mask} {s t : State} (q_hub : m.hub = false) (q_host : m.host = false) (q_store : m.store = false) (q_fresh : m.fresh = false) {port : Nat} {r : Sys2Proof.MbxReq} 
    (h : Fr m s t) : FrOut m s (@execUnmapFacet port r t) := by
  unfold Sys2Proof.Machine.execUnmapFacet
  repeat' first
    | with_reducible assumption
    | (with_reducible apply FrOut.go)
    | (with_reducible apply FrOut.onlyIf)
    | (with_reducible exact FrOut.fault)
    | (with_reducible apply FrOut.mailbox)
    | (with_reducible apply Fr.withRight)
    | (with_reducible apply Fr.draw)
    | (with_reducible apply Fr.refuseField)
    | (with_reducible apply Fr.mbxDone)
    | (with_reducible apply Fr.unlessFault)
    | (with_reducible apply Fr.wantRecord)
    | (with_reducible apply Fr.auditDraw)
    | (exact fun b => ⟨b.events, b.waiting, b.audit, b.auditWriting, b.auditA, b.auditB, b.owners, b.level, b.samples, b.sessions⟩)
    | intro _
    | split
    | (with_reducible apply Fr.set_host)

theorem FrOut.execReadModuleId {m : Mask} {s t : State} (q_hub : m.hub = false) (q_host : m.host = false) {port : Nat} {r : Sys2Proof.MbxReq} 
    (h : Fr m s t) : FrOut m s (@execReadModuleId port r t) := by
  unfold Sys2Proof.Machine.execReadModuleId
  repeat' first
    | with_reducible assumption
    | (with_reducible apply FrOut.go)
    | (with_reducible apply FrOut.onlyIf)
    | (with_reducible exact FrOut.fault)
    | (with_reducible apply FrOut.mailbox)
    | (with_reducible apply Fr.mbxDone)
    | intro _
    | split

theorem FrOut.execFirmwareStage {m : Mask} {s t : State} (q_hub : m.hub = false) (q_host : m.host = false) (q_store : m.store = false) (q_fresh : m.fresh = false) {port : Nat} {r : Sys2Proof.MbxReq} {hdr : BitVec 256} {sigOk : Bool} 
    (h : Fr m s t) : FrOut m s (@execFirmwareStage port r hdr sigOk t) := by
  unfold Sys2Proof.Machine.execFirmwareStage
  repeat' first
    | with_reducible assumption
    | (with_reducible apply FrOut.go)
    | (with_reducible apply FrOut.onlyIf)
    | (with_reducible exact FrOut.fault)
    | (with_reducible apply FrOut.maker)
    | (with_reducible apply Fr.mbxDone)
    | (with_reducible apply Fr.audit)
    | (exact fun b => ⟨b.events, b.waiting, b.audit, b.auditWriting, b.auditA, b.auditB, b.owners, b.level, b.samples, b.sessions⟩)
    | intro _
    | split
    | (with_reducible apply Fr.set_store)

theorem FrOut.execFirmwareActivate {m : Mask} {s t : State} (q_hub : m.hub = false) (q_host : m.host = false) (q_store : m.store = false) (q_fresh : m.fresh = false) {port : Nat} {r : Sys2Proof.MbxReq} 
    (h : Fr m s t) : FrOut m s (@execFirmwareActivate port r t) := by
  unfold Sys2Proof.Machine.execFirmwareActivate
  repeat' first
    | with_reducible assumption
    | (with_reducible apply FrOut.go)
    | (with_reducible apply FrOut.onlyIf)
    | (with_reducible exact FrOut.fault)
    | (with_reducible apply FrOut.maker)
    | (with_reducible apply Fr.mbxDone)
    | (with_reducible apply Fr.audit)
    | (with_reducible apply Fr.unlessFault)
    | (with_reducible apply Fr.wantRecord)
    | (exact fun b => ⟨b.events, b.waiting, b.audit, b.auditWriting, b.auditA, b.auditB, b.owners, b.level, b.samples, b.sessions⟩)
    | intro _
    | split
    | (with_reducible apply Fr.set_store)

theorem FrOut.execCalibrate {m : Mask} {s t : State} (q_hub : m.hub = false) (q_host : m.host = false) (q_store : m.store = false) (q_fresh : m.fresh = false) {port : Nat} {r : Sys2Proof.MbxReq} 
    (h : Fr m s t) : FrOut m s (@execCalibrate port r t) := by
  unfold Sys2Proof.Machine.execCalibrate
  repeat' first
    | with_reducible assumption
    | (with_reducible apply FrOut.go)
    | (with_reducible apply FrOut.onlyIf)
    | (with_reducible exact FrOut.fault)
    | (with_reducible apply FrOut.maker)
    | (with_reducible apply Fr.mbxDone)
    | (with_reducible apply Fr.auditDraw)
    | intro _
    | split

theorem FrOut.execProvision {m : Mask} {s t : State} (q_hub : m.hub = false) (q_host : m.host = false) (q_store : m.store = false) (q_sec : m.sec = false) (q_fresh : m.fresh = false) {port : Nat} {r : Sys2Proof.MbxReq} 
    (h : Fr m s t) : FrOut m s (@execProvision port r t) := by
  unfold Sys2Proof.Machine.execProvision
  repeat' first
    | with_reducible assumption
    | (with_reducible apply FrOut.go)
    | (with_reducible apply FrOut.onlyIf)
    | (with_reducible exact FrOut.fault)
    | (with_reducible apply FrOut.maker)
    | (with_reducible apply Fr.unlessFault)
    | (with_reducible apply Fr.mbxDone)
    | (with_reducible apply Fr.auditDraw)
    | (exact fun b => ⟨b.events, b.waiting, b.audit, b.auditWriting, b.auditA, b.auditB, b.owners, b.level, b.samples, b.sessions⟩)
    | intro _
    | split
    | (with_reducible apply Fr.set_store_sec_fresh)
    | (with_reducible apply Fr.set_store_sec)
    | (with_reducible apply Fr.set_store_fresh)
    | (with_reducible apply Fr.set_sec_fresh)
    | (with_reducible apply Fr.set_store)
    | (with_reducible apply Fr.set_sec)
    | (with_reducible apply Fr.set_fresh)

theorem FrOut.execClearReplacementFlag {m : Mask} {s t : State} (q_hub : m.hub = false) (q_host : m.host = false) (q_store : m.store = false) (q_fresh : m.fresh = false) {port : Nat} {r : Sys2Proof.MbxReq} 
    (h : Fr m s t) : FrOut m s (@execClearReplacementFlag port r t) := by
  unfold Sys2Proof.Machine.execClearReplacementFlag
  repeat' first
    | with_reducible assumption
    | (with_reducible apply FrOut.go)
    | (with_reducible apply FrOut.onlyIf)
    | (with_reducible exact FrOut.fault)
    | (with_reducible apply FrOut.maker)
    | (with_reducible apply Fr.unlessFault)
    | (with_reducible apply Fr.mbxDone)
    | (with_reducible apply Fr.wantRecord)
    | (with_reducible apply Fr.auditDraw)
    | (exact fun b => ⟨b.events, b.waiting, b.audit, b.auditWriting, b.auditA, b.auditB, b.owners, b.level, b.samples, b.sessions⟩)
    | intro _
    | split
    | (with_reducible apply Fr.set_store)

theorem FrOut.execOpenDebugWindow {m : Mask} {s t : State} (q_hub : m.hub = false) (q_host : m.host = false) (q_store : m.store = false) (q_fresh : m.fresh = false) {port : Nat} {r : Sys2Proof.MbxReq} 
    (h : Fr m s t) : FrOut m s (@execOpenDebugWindow port r t) := by
  unfold Sys2Proof.Machine.execOpenDebugWindow
  repeat' first
    | with_reducible assumption
    | (with_reducible apply FrOut.go)
    | (with_reducible apply FrOut.onlyIf)
    | (with_reducible exact FrOut.fault)
    | (with_reducible apply FrOut.maker)
    | (with_reducible apply Fr.mbxDone)
    | (with_reducible apply Fr.auditDraw)
    | (with_reducible apply Fr.endDebug)
    | (with_reducible apply Fr.refuseField)
    | (exact fun b => ⟨b.events, b.waiting, b.audit, b.auditWriting, b.auditA, b.auditB, b.owners, b.level, b.samples, b.sessions⟩)
    | intro _
    | split
    | (with_reducible apply Fr.set_hub)

theorem Fr.wrMbxCmd {m : Mask} {s t : State} (q_hub : m.hub = false) (q_host : m.host = false) (q_store : m.store = false) (q_sec : m.sec = false) (q_fresh : m.fresh = false) {fn : Nat} {v : Nat} 
    (h : Fr m s t) : Fr m s (@State.wrMbxCmd t fn v) := by
  unfold Sys2Proof.Machine.State.wrMbxCmd
  repeat' first
    | with_reducible assumption
    | (with_reducible apply FrOut.execOpenMailbox)
    | (with_reducible apply FrOut.execGetChallenge)
    | (with_reducible apply FrOut.execAssumeRole)
    | (with_reducible apply FrOut.execReleaseRole)
    | (with_reducible apply FrOut.execReadEvents)
    | (with_reducible apply FrOut.execReadAudit)
    | (with_reducible apply FrOut.execReadErrlog)
    | (with_reducible apply FrOut.execFlushStore)
    | (with_reducible apply FrOut.execSetModuleId)
    | (with_reducible apply FrOut.execAuthSlot)
    | (with_reducible apply FrOut.execUnmapFacet)
    | (with_reducible apply FrOut.execReadModuleId)
    | (with_reducible apply FrOut.execFirmwareStage)
    | (with_reducible apply FrOut.execFirmwareActivate)
    | (with_reducible apply FrOut.execCalibrate)
    | (with_reducible apply FrOut.execProvision)
    | (with_reducible apply FrOut.execClearReplacementFlag)
    | (with_reducible apply FrOut.execOpenDebugWindow)
    | (with_reducible apply Fr.command)
    | (with_reducible apply Fr.stateOf)
    | intro _
    | split
    | (dsimp only [id])

theorem Fr.wrRing {m : Mask} {s t : State} (q_hub : m.hub = false) (q_host : m.host = false) {f : Nat} {isCq : Bool} {n : Nat} {v : Nat} 
    (h : Fr m s t) : Fr m s (@State.wrRing t f isCq n v) := by
  unfold Sys2Proof.Machine.State.wrRing
  repeat' first
    | with_reducible assumption
    | (with_reducible apply Fr.rsvBits)
    | (with_reducible apply Fr.ringErr)
    | (with_reducible apply Fr.modRing)
    | dsimp -proj only
    | split

theorem Fr.wrCntSel {m : Mask} {s t : State} (q_hub : m.hub = false) (q_chans : m.chans = false) {fn : Nat} {c : Nat} {n : Nat} {v : Nat} 
    (h : Fr m s t) : Fr m s (@State.wrCntSel t fn c n v) := by
  unfold Sys2Proof.Machine.State.wrCntSel
  repeat' first
    | with_reducible assumption
    | (with_reducible apply Fr.inChan)
    | (with_reducible apply Fr.pfOnly)
    | (with_reducible apply Fr.modChan)
    | (with_reducible apply Fr.rsvBits)
    | intro _
    | split

theorem Fr.wrCnt {m : Mask} {s t : State} (q_hub : m.hub = false) (q_chans : m.chans = false) {fn : Nat} {c : Nat} {n : Nat} {v : Nat} 
    (h : Fr m s t) : Fr m s (@State.wrCnt t fn c n v) := by
  unfold Sys2Proof.Machine.State.wrCnt
  repeat' first
    | with_reducible assumption
    | (with_reducible apply Fr.inChan)
    | (with_reducible apply Fr.pfOnly)
    | (with_reducible apply Fr.modChan)
    | intro _
    | split

theorem Fr.wrSeed {m : Mask} {s t : State} (q_hub : m.hub = false) (q_chans : m.chans = false) {fn : Nat} {c : Nat} {v : Nat} 
    (h : Fr m s t) : Fr m s (@State.wrSeed t fn c v) := by
  unfold Sys2Proof.Machine.State.wrSeed
  repeat' first
    | with_reducible assumption
    | (with_reducible apply Fr.inDebug)
    | (with_reducible apply Fr.errlog)
    | (with_reducible apply Fr.modChan)
    | intro _
    | split

theorem Fr.wrMapCmd {m : Mask} {s t : State} (q_hub : m.hub = false) (q_store : m.store = false) (q_chans : m.chans = false) {fn : Nat} {c : Nat} {v : Nat} 
    (h : Fr m s t) : Fr m s (@State.wrMapCmd t fn c v) := by
  unfold Sys2Proof.Machine.State.wrMapCmd
  repeat' first
    | with_reducible assumption
    | (with_reducible apply Fr.inDebug)
    | (with_reducible apply Fr.rsvBits)
    | (with_reducible apply Fr.errlog)
    | (with_reducible apply Fr.modChan)
    | (with_reducible apply Fr.startMap)
    | intro _
    | dsimp -proj only
    | split

theorem Fr.wrReg {m : Mask} {s t : State} (q_clk : m.clk = false) (q_hub : m.hub = false) (q_host : m.host = false) (q_store : m.store = false) (q_sec : m.sec = false) (q_out : m.out = false) (q_chans : m.chans = false) (q_fresh : m.fresh = false) {fn : Nat} {r : Reg} {off : Nat} {v : Nat} 
    (h : Fr m s t) : Fr m s (@State.wrReg t fn r off v) := by
  unfold Sys2Proof.Machine.State.wrReg
  repeat' first
    | with_reducible assumption
    | (with_reducible apply Fr.errlog)
    | (with_reducible apply Fr.wrSetup)
    | (with_reducible apply Fr.wrTickCfg)
    | (with_reducible apply Fr.wrCheckCfg)
    | (with_reducible apply Fr.wrPwrCfg)
    | (with_reducible apply Fr.wrTestCfg)
    | (with_reducible apply Fr.wrCommit)
    | (with_reducible apply Fr.wrOwn)
    | (with_reducible apply Fr.wrRings)
    | (with_reducible apply Fr.wrPeer)
    | (with_reducible apply Fr.wrWin)
    | (with_reducible apply Fr.wrQuantThresh)
    | (with_reducible apply Fr.wrSchedCfg)
    | (with_reducible apply Fr.wrSyncCfg)
    | (with_reducible apply Fr.wrVtxLink)
    | (with_reducible apply Fr.wrBarCfg)
    | (with_reducible apply Fr.wrFnOpen)
    | (with_reducible apply Fr.wrDbell)
    | (with_reducible apply Fr.wrMbxOpen)
    | (with_reducible apply Fr.wrMbxCmd)
    | (with_reducible apply Fr.wrRing)
    | (with_reducible apply Fr.wrCntSel)
    | (with_reducible apply Fr.wrCnt)
    | (with_reducible apply Fr.wrSeed)
    | (with_reducible apply Fr.wrMapCmd)
    | split

theorem Fr.wrHalf {m : Mask} {s t : State} (q_clk : m.clk = false) (q_hub : m.hub = false) (q_host : m.host = false) (q_store : m.store = false) (q_sec : m.sec = false) (q_out : m.out = false) (q_chans : m.chans = false) (q_fresh : m.fresh = false) {fn : Nat} {r : Reg} {acc : Nat} {rel : Nat} {off : Nat} {key : Nat} {v : Nat} 
    (h : Fr m s t) : Fr m s (@State.wrHalf t fn r acc rel off key v) := by
  unfold Sys2Proof.Machine.State.wrHalf
  repeat' first
    | with_reducible assumption
    | (with_reducible apply Fr.draw)
    | (with_reducible apply Fr.wrReg)
    | (exact fun b => ⟨b.events, b.waiting, b.audit, b.auditWriting, b.auditA, b.auditB, b.owners, b.level, b.samples, b.sessions⟩)
    | split
    | (with_reducible apply Fr.set_host)

theorem Fr.wrAt {m : Mask} {s t : State} (q_clk : m.clk = false) (q_hub : m.hub = false) (q_host : m.host = false) (q_store : m.store = false) (q_sec : m.sec = false) (q_out : m.out = false) (q_chans : m.chans = false) (q_fresh : m.fresh = false) {fn : Nat} {space : Sys2Proof.RegSpace} {off : Nat} {acc : Nat} {v : Nat} 
    (h : Fr m s t) : Fr m s (@State.wrAt t fn space off acc v) := by
  unfold Sys2Proof.Machine.State.wrAt
  repeat' first
    | with_reducible assumption
    | (with_reducible apply Fr.errlog)
    | (with_reducible apply Fr.wrMbxData)
    | (with_reducible apply Fr.wrHalf)
    | (with_reducible apply Fr.wrReg)
    | (exact fun b => ⟨b.events, b.waiting, b.audit, b.auditWriting, b.auditA, b.auditB, b.owners, b.level, b.samples, b.sessions⟩)
    | split
    | (with_reducible apply Fr.set_host)

theorem Fr.writeLate {m : Mask} {s t : State} (q_hub : m.hub = false) (q_host : m.host = false) (q_out : m.out = false) (q_chans : m.chans = false)  
    (h : Fr m s t) : Fr m s (@State.writeLate t) := by
  unfold Sys2Proof.Machine.State.writeLate
  repeat' first
    | with_reducible assumption
    | (with_reducible apply Fr.writeCpl)
    | (with_reducible apply Fr.count)
    | (exact fun b => ⟨b.events, b.waiting, b.audit, b.auditWriting, b.auditA, b.auditB, b.owners, b.level, b.samples, b.sessions⟩)
    | (exact fun b => ⟨by first | exact b.events | (simp; done) | (have := b.events; simp; omega), by first | exact b.waiting | (simp; done) | (have := b.waiting; simp; omega), by first | exact b.audit | (simp; done) | (have := b.audit; simp; omega), by first | exact b.auditWriting | (simp; done) | (have := b.auditWriting; simp; omega), by first | exact b.auditA | (simp; done) | (have := b.auditA; simp; omega), by first | exact b.auditB | (simp; done) | (have := b.auditB; simp; omega), by first | exact b.owners | (simp; done) | (have := b.owners; simp; omega), by first | exact b.level | (simp; done) | (have := b.level; simp; omega), by first | exact b.samples | (simp; done) | (have := b.samples; simp; omega), by first | exact b.sessions | (simp; done) | (have := b.sessions; simp; omega)⟩)
    | (with_reducible apply Fr.foldl)
    | (with_reducible apply Fr.foldl_fst)
    | intro _
    | dsimp -proj only
    | split
    | (with_reducible apply Fr.set_host)
    | (refine Fr.of_pair ‹_› ?_)

theorem FrOut.execPowerUp {m : Mask} {s t : State} (q_pwr : m.pwr = false)  
    (h : Fr m s t) : FrOut m s (@execPowerUp t) := by
  unfold Sys2Proof.Machine.execPowerUp
  repeat' first
    | with_reducible assumption
    | (with_reducible apply FrOut.go)
    | (with_reducible apply FrOut.onlyIf)
    | (with_reducible exact FrOut.fault)
    | (exact fun b => ⟨b.events, b.waiting, b.audit, b.auditWriting, b.auditA, b.auditB, b.owners, b.level, b.samples, b.sessions⟩)
    | split
    | (with_reducible apply Fr.set_pwr)

theorem choose_audit {x : Store} {b : Bool} {r : Record} (e : x.choose = some (b, r)) (ha : x.bankA.body.audit.length ≤ 8192)
    (hb : x.bankB.body.audit.length ≤ 8192) : r.body.audit.length ≤ 8192 := by
  unfold Store.choose at e
  split at e
  · split at e <;> cases e <;> assumption
  · cases e; assumption
  · cases e; assumption
  · cases e

theorem FrOut.execPowerGood {m : Mask} {s t : State} (q_pwr : m.pwr = false) (q_clk : m.clk = false) (q_hub : m.hub = false) (q_store : m.store = false) (q_integ : m.integ = false) (q_chans : m.chans = false) (q_fresh : m.fresh = false) {seeds : List Sys2Proof.Word} 
    (h : Fr m s t) : FrOut m s (@execPowerGood seeds t) := by
  unfold Sys2Proof.Machine.execPowerGood
  extract_lets _ t1 t2 _ _ _ f
  have h2 : Fr m s t2 := Fr.seedAll (by assumption) (by assumption) (Fr.set_pwr_clk (by assumption) (by assumption) (fun b => ⟨b.events, b.waiting, b.audit, b.auditWriting, b.auditA, b.auditB, b.owners, b.level, b.samples, b.sessions⟩) h)
  refine FrOut.onlyIf h ?_
  clear_value t2
  unfold f
  split
  · exact Fr.set_pwr q_pwr (fun b => ⟨b.events, b.waiting, b.audit, b.auditWriting, b.auditA, b.auditB, b.owners, b.level, b.samples, b.sessions⟩) h2
  · rename_i b r e
    refine Fr.verifyFw (by assumption) (by assumption) ?_
    exact Fr.set_pwr_store_integ q_pwr q_store q_integ (fun b => ⟨b.events, b.waiting, choose_audit e b.auditA b.auditB, b.auditWriting,
      b.auditA, b.auditB, b.owners, b.level, b.samples, b.sessions⟩) h2


theorem FrOut.execApexRelease {m : Mask} {s t : State} (q_pwr : m.pwr = false) (q_clk : m.clk = false) (q_hub : m.hub = false) (q_store : m.store = false) (q_sec : m.sec = false) (q_chans : m.chans = false) {gcmOk : Bool} {survey : List Sys2Proof.SurveyReading} 
    (h : Fr m s t) : FrOut m s (@execApexRelease gcmOk survey t) := by
  unfold Sys2Proof.Machine.execApexRelease
  repeat' first
    | with_reducible assumption
    | (with_reducible apply FrOut.go)
    | (with_reducible apply FrOut.onlyIf)
    | (with_reducible exact FrOut.fault)
    | (with_reducible apply Fr.event)
    | (with_reducible apply Fr.allChans)
    | (with_reducible apply Fr.loadTrims)
    | (with_reducible apply Fr.survey)
    | (exact fun b => ⟨b.events, b.waiting, b.audit, b.auditWriting, b.auditA, b.auditB, b.owners, b.level, b.samples, b.sessions⟩)
    | split
    | (with_reducible apply Fr.set_pwr_clk_hub_sec)
    | (with_reducible apply Fr.set_pwr_clk)
    | (with_reducible apply Fr.set_pwr_hub)
    | (with_reducible apply Fr.set_pwr_sec)
    | (with_reducible apply Fr.set_clk_hub)
    | (with_reducible apply Fr.set_clk_sec)
    | (with_reducible apply Fr.set_hub_sec)
    | (with_reducible apply Fr.set_pwr)
    | (with_reducible apply Fr.set_clk)
    | (with_reducible apply Fr.set_hub)
    | (with_reducible apply Fr.set_sec)

theorem FrOut.execBootComplete {m : Mask} {s t : State} (q_pwr : m.pwr = false) (q_hub : m.hub = false) (q_integ : m.integ = false) (q_chans : m.chans = false)  
    (h : Fr m s t) : FrOut m s (@execBootComplete t) := by
  unfold Sys2Proof.Machine.execBootComplete
  repeat' first
    | with_reducible assumption
    | (with_reducible apply FrOut.go)
    | (with_reducible apply FrOut.onlyIf)
    | (with_reducible exact FrOut.fault)
    | (with_reducible apply Fr.allChans)
    | (with_reducible apply Fr.bootDone)
    | (with_reducible apply Fr.foldl)
    | split

theorem FrOut.execBootTimeout {m : Mask} {s t : State} (q_pwr : m.pwr = false)  
    (h : Fr m s t) : FrOut m s (@execBootTimeout t) := by
  unfold Sys2Proof.Machine.execBootTimeout
  repeat' first
    | with_reducible assumption
    | (with_reducible apply FrOut.go)
    | (with_reducible apply FrOut.onlyIf)
    | (with_reducible exact FrOut.fault)
    | (exact fun b => ⟨b.events, b.waiting, b.audit, b.auditWriting, b.auditA, b.auditB, b.owners, b.level, b.samples, b.sessions⟩)
    | split
    | (with_reducible apply Fr.set_pwr)

theorem FrOut.execLinkTrained {m : Mask} {s t : State} (q_pwr : m.pwr = false) (q_hub : m.hub = false) {mode : Sys2Proof.LinkMode} 
    (h : Fr m s t) : FrOut m s (@execLinkTrained mode t) := by
  unfold Sys2Proof.Machine.execLinkTrained
  repeat' first
    | with_reducible assumption
    | (with_reducible apply FrOut.go)
    | (with_reducible apply FrOut.onlyIf)
    | (with_reducible exact FrOut.fault)
    | (with_reducible apply Fr.event)
    | (exact fun b => ⟨b.events, b.waiting, b.audit, b.auditWriting, b.auditA, b.auditB, b.owners, b.level, b.samples, b.sessions⟩)
    | split
    | (with_reducible apply Fr.set_pwr)

theorem FrOut.execEnterService {m : Mask} {s t : State} (q_store : m.store = false) (q_integ : m.integ = false) (q_chans : m.chans = false)  
    (h : Fr m s t) : FrOut m s (@execEnterService t) := by
  unfold Sys2Proof.Machine.execEnterService
  repeat' first
    | with_reducible assumption
    | (with_reducible apply FrOut.go)
    | (with_reducible apply FrOut.onlyIf)
    | (with_reducible exact FrOut.fault)
    | (with_reducible apply Fr.enter)
    | split

theorem FrOut.execPowerLoss {m : Mask} {s t : State} (q_pwr : m.pwr = false) (q_clk : m.clk = false) (q_hub : m.hub = false) (q_host : m.host = false) (q_store : m.store = false) (q_sec : m.sec = false) (q_integ : m.integ = false) (q_therm : m.therm = false) (q_chans : m.chans = false)  
    (h : Fr m s t) : FrOut m s (@execPowerLoss t) := by
  unfold Sys2Proof.Machine.execPowerLoss
  repeat' first
    | with_reducible assumption
    | (with_reducible apply FrOut.go)
    | (with_reducible apply FrOut.onlyIf)
    | (with_reducible exact FrOut.fault)
    | (with_reducible apply Fr.powerDown)
    | split

theorem FrOut.execOvervoltageShutdown {m : Mask} {s t : State} (q_pwr : m.pwr = false) (q_clk : m.clk = false) (q_hub : m.hub = false) (q_host : m.host = false) (q_store : m.store = false) (q_sec : m.sec = false) (q_integ : m.integ = false) (q_therm : m.therm = false) (q_chans : m.chans = false)  
    (h : Fr m s t) : FrOut m s (@execOvervoltageShutdown t) := by
  unfold Sys2Proof.Machine.execOvervoltageShutdown
  repeat' first
    | with_reducible assumption
    | (with_reducible apply FrOut.go)
    | (with_reducible apply FrOut.onlyIf)
    | (with_reducible exact FrOut.fault)
    | (with_reducible apply Fr.powerDown)
    | split

theorem FrOut.execSupplyLowEntry {m : Mask} {s t : State} (q_pwr : m.pwr = false) (q_hub : m.hub = false)  
    (h : Fr m s t) : FrOut m s (@execSupplyLowEntry t) := by
  unfold Sys2Proof.Machine.execSupplyLowEntry
  repeat' first
    | with_reducible assumption
    | (with_reducible apply FrOut.go)
    | (with_reducible apply FrOut.onlyIf)
    | (with_reducible exact FrOut.fault)
    | (with_reducible apply Fr.event)
    | (exact fun b => ⟨b.events, b.waiting, b.audit, b.auditWriting, b.auditA, b.auditB, b.owners, b.level, b.samples, b.sessions⟩)
    | split
    | (with_reducible apply Fr.set_pwr)

theorem FrOut.execSupplyHighEntry {m : Mask} {s t : State} (q_pwr : m.pwr = false) (q_hub : m.hub = false)  
    (h : Fr m s t) : FrOut m s (@execSupplyHighEntry t) := by
  unfold Sys2Proof.Machine.execSupplyHighEntry
  repeat' first
    | with_reducible assumption
    | (with_reducible apply FrOut.go)
    | (with_reducible apply FrOut.onlyIf)
    | (with_reducible exact FrOut.fault)
    | (with_reducible apply Fr.event)
    | (exact fun b => ⟨b.events, b.waiting, b.audit, b.auditWriting, b.auditA, b.auditB, b.owners, b.level, b.samples, b.sessions⟩)
    | split
    | (with_reducible apply Fr.set_pwr)

theorem FrOut.execSupplyBandMs {m : Mask} {s t : State} (q_chans : m.chans = false)  
    (h : Fr m s t) : FrOut m s (@execSupplyBandMs t) := by
  unfold Sys2Proof.Machine.execSupplyBandMs
  repeat' first
    | with_reducible assumption
    | (with_reducible apply FrOut.go)
    | (with_reducible apply FrOut.onlyIf)
    | (with_reducible exact FrOut.fault)
    | (with_reducible apply Fr.countAll)
    | split

theorem FrOut.execPerstAssert {m : Mask} {s t : State} (q_pwr : m.pwr = false)  
    (h : Fr m s t) : FrOut m s (@execPerstAssert t) := by
  unfold Sys2Proof.Machine.execPerstAssert
  repeat' first
    | with_reducible assumption
    | (with_reducible apply FrOut.go)
    | (with_reducible apply FrOut.onlyIf)
    | (with_reducible exact FrOut.fault)
    | (exact fun b => ⟨b.events, b.waiting, b.audit, b.auditWriting, b.auditA, b.auditB, b.owners, b.level, b.samples, b.sessions⟩)
    | split
    | (with_reducible apply Fr.set_pwr)

theorem FrOut.execPerstGlitch {m : Mask} {s t : State} (q_pwr : m.pwr = false) (q_chans : m.chans = false)  
    (h : Fr m s t) : FrOut m s (@execPerstGlitch t) := by
  unfold Sys2Proof.Machine.execPerstGlitch
  repeat' first
    | with_reducible assumption
    | (with_reducible apply FrOut.go)
    | (with_reducible apply FrOut.onlyIf)
    | (with_reducible exact FrOut.fault)
    | (with_reducible apply Fr.countAll)
    | (exact fun b => ⟨b.events, b.waiting, b.audit, b.auditWriting, b.auditA, b.auditB, b.owners, b.level, b.samples, b.sessions⟩)
    | split
    | (with_reducible apply Fr.set_pwr)

theorem FrOut.execWarmReset {m : Mask} {s t : State} (q_pwr : m.pwr = false) (q_clk : m.clk = false) (q_hub : m.hub = false) (q_host : m.host = false) (q_store : m.store = false) (q_sec : m.sec = false) (q_integ : m.integ = false) (q_therm : m.therm = false) (q_out : m.out = false) (q_chans : m.chans = false) (q_fresh : m.fresh = false) {seeds : List Sys2Proof.Word} 
    (h : Fr m s t) : FrOut m s (@execWarmReset seeds t) := by
  unfold Sys2Proof.Machine.execWarmReset
  repeat' first
    | with_reducible assumption
    | (with_reducible apply FrOut.go)
    | (with_reducible apply FrOut.onlyIf)
    | (with_reducible exact FrOut.fault)
    | (with_reducible apply Fr.recordStart)
    | (with_reducible apply Fr.recordDone)
    | (with_reducible apply Fr.abandonLoads)
    | (with_reducible apply Fr.allChans)
    | (with_reducible apply Fr.verifyFw)
    | (with_reducible apply Fr.seedAll)
    | (exact fun b => ⟨by first | exact b.events | (simp; done) | (have := b.events; simp; omega), by first | exact b.waiting | (simp; done) | (have := b.waiting; simp; omega), by first | exact b.audit | (simp; done) | (have := b.audit; simp; omega), by first | exact b.auditWriting | (simp; done) | (have := b.auditWriting; simp; omega), by first | exact b.auditA | (simp; done) | (have := b.auditA; simp; omega), by first | exact b.auditB | (simp; done) | (have := b.auditB; simp; omega), by first | exact b.owners | (simp; done) | (have := b.owners; simp; omega), by first | exact b.level | (simp; done) | (have := b.level; simp; omega), by first | exact b.samples | (simp; done) | (have := b.samples; simp; omega), by first | exact b.sessions | (simp; done) | (have := b.sessions; simp; omega)⟩)
    | split
    | (with_reducible apply Fr.set_pwr_clk_hub_host_store_sec_integ_therm)
    | (with_reducible apply Fr.set_pwr_clk)
    | (with_reducible apply Fr.set_pwr_hub)
    | (with_reducible apply Fr.set_pwr_host)
    | (with_reducible apply Fr.set_pwr_store)
    | (with_reducible apply Fr.set_pwr_sec)
    | (with_reducible apply Fr.set_pwr_integ)
    | (with_reducible apply Fr.set_pwr_therm)
    | (with_reducible apply Fr.set_clk_hub)
    | (with_reducible apply Fr.set_clk_host)
    | (with_reducible apply Fr.set_clk_store)
    | (with_reducible apply Fr.set_clk_sec)
    | (with_reducible apply Fr.set_clk_integ)
    | (with_reducible apply Fr.set_clk_therm)
    | (with_reducible apply Fr.set_hub_host)
    | (with_reducible apply Fr.set_hub_store)
    | (with_reducible apply Fr.set_hub_sec)
    | (with_reducible apply Fr.set_hub_integ)
    | (with_reducible apply Fr.set_hub_therm)
    | (with_reducible apply Fr.set_host_store)
    | (with_reducible apply Fr.set_host_sec)
    | (with_reducible apply Fr.set_host_integ)
    | (with_reducible apply Fr.set_host_therm)
    | (with_reducible apply Fr.set_store_sec)
    | (with_reducible apply Fr.set_store_integ)
    | (with_reducible apply Fr.set_store_therm)
    | (with_reducible apply Fr.set_sec_integ)
    | (with_reducible apply Fr.set_sec_therm)
    | (with_reducible apply Fr.set_integ_therm)
    | (with_reducible apply Fr.set_pwr)
    | (with_reducible apply Fr.set_clk)
    | (with_reducible apply Fr.set_hub)
    | (with_reducible apply Fr.set_host)
    | (with_reducible apply Fr.set_store)
    | (with_reducible apply Fr.set_sec)
    | (with_reducible apply Fr.set_integ)
    | (with_reducible apply Fr.set_therm)

theorem FrOut.execPerstRelease {m : Mask} {s t : State} (q_pwr : m.pwr = false) (q_hub : m.hub = false) (q_store : m.store = false) (q_integ : m.integ = false) (q_chans : m.chans = false) {survey : List Sys2Proof.SurveyReading} 
    (h : Fr m s t) : FrOut m s (@execPerstRelease survey t) := by
  unfold Sys2Proof.Machine.execPerstRelease
  repeat' first
    | with_reducible assumption
    | (with_reducible apply FrOut.go)
    | (with_reducible apply FrOut.onlyIf)
    | (with_reducible exact FrOut.fault)
    | (with_reducible apply Fr.loadTrims)
    | (with_reducible apply Fr.allChans)
    | (with_reducible apply Fr.bootDone)
    | (with_reducible apply Fr.redue)
    | (with_reducible apply Fr.survey)
    | (exact fun b => ⟨b.events, b.waiting, b.audit, b.auditWriting, b.auditA, b.auditB, b.owners, b.level, b.samples, b.sessions⟩)
    | (with_reducible apply Fr.foldl)
    | split
    | (with_reducible apply Fr.set_pwr)

theorem FrOut.execTickInEdge {m : Mask} {s t : State} (q_clk : m.clk = false) (q_hub : m.hub = false) (q_chans : m.chans = false)  
    (h : Fr m s t) : FrOut m s (@execTickInEdge t) := by
  unfold Sys2Proof.Machine.execTickInEdge
  repeat' first
    | with_reducible assumption
    | (with_reducible apply FrOut.go)
    | (with_reducible apply FrOut.onlyIf)
    | (with_reducible exact FrOut.fault)
    | (with_reducible apply Fr.event)
    | (with_reducible apply Fr.countAll)
    | (exact fun b => ⟨b.events, b.waiting, b.audit, b.auditWriting, b.auditA, b.auditB, b.owners, b.level, b.samples, b.sessions⟩)
    | split
    | (with_reducible apply Fr.set_clk)

theorem FrOut.execHoldoverTimeout {m : Mask} {s t : State} (q_clk : m.clk = false) (q_hub : m.hub = false)  
    (h : Fr m s t) : FrOut m s (@execHoldoverTimeout t) := by
  unfold Sys2Proof.Machine.execHoldoverTimeout
  repeat' first
    | with_reducible assumption
    | (with_reducible apply FrOut.go)
    | (with_reducible apply FrOut.onlyIf)
    | (with_reducible exact FrOut.fault)
    | (with_reducible apply Fr.event)
    | (exact fun b => ⟨b.events, b.waiting, b.audit, b.auditWriting, b.auditA, b.auditB, b.owners, b.level, b.samples, b.sessions⟩)
    | split
    | (with_reducible apply Fr.set_clk)

theorem FrOut.execInternalTick {m : Mask} {s t : State} (q_clk : m.clk = false)  
    (h : Fr m s t) : FrOut m s (@execInternalTick t) := by
  unfold Sys2Proof.Machine.execInternalTick
  repeat' first
    | with_reducible assumption
    | (with_reducible apply FrOut.go)
    | (with_reducible apply FrOut.onlyIf)
    | (with_reducible exact FrOut.fault)
    | (exact fun b => ⟨b.events, b.waiting, b.audit, b.auditWriting, b.auditA, b.auditB, b.owners, b.level, b.samples, b.sessions⟩)
    | split
    | (with_reducible apply Fr.set_clk)

theorem FrOut.execTick {m : Mask} {s t : State} (q_clk : m.clk = false) (q_hub : m.hub = false) (q_host : m.host = false) (q_store : m.store = false) (q_sec : m.sec = false) (q_integ : m.integ = false) (q_out : m.out = false) (q_chans : m.chans = false) (q_fresh : m.fresh = false)  
    (h : Fr m s t) : FrOut m s (@execTick t) := by
  unfold Sys2Proof.Machine.execTick
  repeat' first
    | with_reducible assumption
    | (with_reducible apply FrOut.go)
    | (with_reducible apply FrOut.onlyIf)
    | (with_reducible exact FrOut.fault)
    | (with_reducible apply Fr.tickClock)
    | (with_reducible apply Fr.tickHub)
    | (with_reducible apply Fr.allChans)
    | (with_reducible apply Fr.switchTick)
    | (with_reducible apply Fr.ageUpdates)
    | (with_reducible apply Fr.tickRoles)
    | (with_reducible apply Fr.tickFns)
    | (with_reducible apply Fr.tickMbx)
    | (with_reducible apply Fr.testRelease)
    | (with_reducible apply Fr.testTick)
    | (with_reducible apply Fr.markRotation)
    | (with_reducible apply Fr.setBudget)
    | (with_reducible apply Fr.startPrograms)
    | (with_reducible apply Fr.startRefreshes)
    | (with_reducible apply Fr.startMap)
    | (with_reducible apply Fr.tickSamples)
    | (with_reducible apply Fr.tickPeers)
    | (with_reducible apply Fr.foldl)
    | intro _
    | split

theorem FrOut.execIntakeClose {m : Mask} {s t : State} (q_clk : m.clk = false) (q_hub : m.hub = false) (q_host : m.host = false) (q_integ : m.integ = false) (q_out : m.out = false) (q_chans : m.chans = false) {x : Sys2Proof.Intake} 
    (h : Fr m s t) : FrOut m s (@execIntakeClose x t) := by
  unfold Sys2Proof.Machine.execIntakeClose
  repeat' first
    | with_reducible assumption
    | (with_reducible apply FrOut.go)
    | (with_reducible apply FrOut.onlyIf)
    | (with_reducible exact FrOut.fault)
    | (with_reducible apply Fr.freeWrites)
    | (with_reducible apply Fr.intakeFn)
    | (with_reducible apply Fr.flushWhere)
    | (with_reducible apply Fr.flushRetract)
    | (with_reducible apply Fr.ecc1)
    | (with_reducible apply Fr.admitCarried)
    | (with_reducible apply Fr.wantChecks)
    | (exact fun b => ⟨b.events, b.waiting, b.audit, b.auditWriting, b.auditA, b.auditB, b.owners, b.level, b.samples, b.sessions⟩)
    | (with_reducible apply Fr.foldl)
    | intro _
    | split
    | (with_reducible apply Fr.set_clk)

theorem FrOut.execYieldMark {m : Mask} {s t : State} (q_clk : m.clk = false) (q_chans : m.chans = false)  
    (h : Fr m s t) : FrOut m s (@execYieldMark t) := by
  unfold Sys2Proof.Machine.execYieldMark
  repeat' first
    | with_reducible assumption
    | (with_reducible apply FrOut.go)
    | (with_reducible apply FrOut.onlyIf)
    | (with_reducible exact FrOut.fault)
    | (with_reducible apply Fr.allChans)
    | (exact fun b => ⟨b.events, b.waiting, b.audit, b.auditWriting, b.auditA, b.auditB, b.owners, b.level, b.samples, b.sessions⟩)
    | split
    | (with_reducible apply Fr.set_clk)

theorem FrOut.execEndOfCompute {m : Mask} {s t : State} (q_clk : m.clk = false) (q_hub : m.hub = false) (q_host : m.host = false) (q_out : m.out = false) (q_chans : m.chans = false)  
    (h : Fr m s t) : FrOut m s (@execEndOfCompute t) := by
  unfold Sys2Proof.Machine.execEndOfCompute
  repeat' first
    | with_reducible assumption
    | (with_reducible apply FrOut.go)
    | (with_reducible apply FrOut.onlyIf)
    | (with_reducible exact FrOut.fault)
    | (with_reducible apply Fr.deferUnbound)
    | (with_reducible apply Fr.endSending)
    | (with_reducible apply Fr.endExperts)
    | (with_reducible apply Fr.endArrivals)
    | (with_reducible apply Fr.endUnsent)
    | (with_reducible apply Fr.stallSlots)
    | (with_reducible apply Fr.overruns)
    | (exact fun b => ⟨b.events, b.waiting, b.audit, b.auditWriting, b.auditA, b.auditB, b.owners, b.level, b.samples, b.sessions⟩)
    | (with_reducible apply Fr.foldl)
    | intro _
    | split
    | (with_reducible apply Fr.set_clk)

theorem FrOut.execCheckSlot {m : Mask} {s t : State} (q_clk : m.clk = false) (q_integ : m.integ = false) (q_chans : m.chans = false)  
    (h : Fr m s t) : FrOut m s (@execCheckSlot t) := by
  unfold Sys2Proof.Machine.execCheckSlot
  repeat' first
    | with_reducible assumption
    | (with_reducible apply FrOut.go)
    | (with_reducible apply FrOut.onlyIf)
    | (with_reducible exact FrOut.fault)
    | (with_reducible apply Fr.setChan)
    | (with_reducible apply Fr.count)
    | (exact fun b => ⟨b.events, b.waiting, b.audit, b.auditWriting, b.auditA, b.auditB, b.owners, b.level, b.samples, b.sessions⟩)
    | (with_reducible apply Fr.foldl)
    | intro _
    | split
    | (with_reducible apply Fr.set_clk_integ)
    | (with_reducible apply Fr.set_clk)
    | (with_reducible apply Fr.set_integ)

theorem FrOut.execEmissionClose {m : Mask} {s t : State} (q_clk : m.clk = false) (q_hub : m.hub = false) (q_host : m.host = false) (q_integ : m.integ = false) (q_out : m.out = false) (q_chans : m.chans = false) {refused : Bool} 
    (h : Fr m s t) : FrOut m s (@execEmissionClose refused t) := by
  unfold Sys2Proof.Machine.execEmissionClose
  repeat' first
    | with_reducible assumption
    | (with_reducible apply FrOut.go)
    | (with_reducible apply FrOut.onlyIf)
    | (with_reducible exact FrOut.fault)
    | (with_reducible apply Fr.flushCpls)
    | (with_reducible apply Fr.writeLate)
    | (with_reducible apply Fr.flushRetract)
    | (with_reducible apply Fr.sendMsix)
    | (exact fun b => ⟨b.events, b.waiting, b.audit, b.auditWriting, b.auditA, b.auditB, b.owners, b.level, b.samples, b.sessions⟩)
    | split
    | (with_reducible apply Fr.set_clk_host)
    | (with_reducible apply Fr.set_clk)
    | (with_reducible apply Fr.set_host)

theorem FrOut.execLateCompletionWrite {m : Mask} {s t : State} (q_hub : m.hub = false) (q_host : m.host = false) (q_integ : m.integ = false) (q_out : m.out = false) (q_chans : m.chans = false)  
    (h : Fr m s t) : FrOut m s (@execLateCompletionWrite t) := by
  unfold Sys2Proof.Machine.execLateCompletionWrite
  repeat' first
    | with_reducible assumption
    | (with_reducible apply FrOut.go)
    | (with_reducible apply FrOut.onlyIf)
    | (with_reducible exact FrOut.fault)
    | (with_reducible apply Fr.writeLate)
    | (with_reducible apply Fr.flushWhere)
    | (with_reducible apply Fr.flushRetract)
    | (with_reducible apply Fr.foldl)
    | intro _
    | split

theorem FrOut.execInfer {m : Mask} {s t : State} (q_hub : m.hub = false) (q_host : m.host = false) (q_out : m.out = false) (q_chans : m.chans = false) {fn : Nat} {sq : Nat} {f : Sys2Proof.InferFetch} 
    (h : Fr m s t) : FrOut m s (@execInfer fn sq f t) := by
  unfold Sys2Proof.Machine.execInfer
  repeat' first
    | with_reducible assumption
    | (with_reducible apply FrOut.go)
    | (with_reducible apply FrOut.onlyIf)
    | (with_reducible exact FrOut.fault)
    | (with_reducible apply Fr.fetched)
    | (with_reducible apply Fr.takeInfer)
    | intro _
    | split

theorem FrOut.execInputReadDone {m : Mask} {s t : State} (q_hub : m.hub = false) (q_host : m.host = false) (q_out : m.out = false) (q_chans : m.chans = false) {ch : Nat} {id : Nat} {r : Sys2Proof.ReadRes} 
    (h : Fr m s t) : FrOut m s (@execInputReadDone ch id r t) := by
  unfold Sys2Proof.Machine.execInputReadDone
  repeat' first
    | with_reducible assumption
    | (with_reducible apply FrOut.go)
    | (with_reducible apply FrOut.onlyIf)
    | (with_reducible exact FrOut.fault)
    | (with_reducible apply Fr.modJob)
    | (with_reducible apply Fr.endUnbound)
    | split

theorem FrOut.execSlotBind {m : Mask} {s t : State} (q_hub : m.hub = false) (q_host : m.host = false) (q_out : m.out = false) (q_chans : m.chans = false) {ch : Nat} {slot : Nat} 
    (h : Fr m s t) : FrOut m s (@execSlotBind ch slot t) := by
  unfold Sys2Proof.Machine.execSlotBind
  repeat' first
    | with_reducible assumption
    | (with_reducible apply FrOut.go)
    | (with_reducible apply FrOut.onlyIf)
    | (with_reducible exact FrOut.fault)
    | (with_reducible apply Fr.readRec)
    | (with_reducible apply Fr.endUnbound)
    | (with_reducible apply Fr.modJob)
    | (with_reducible apply Fr.modSlot)
    | dsimp -proj only
    | split

theorem FrOut.execCtxOpen {m : Mask} {s t : State} (q_hub : m.hub = false) (q_host : m.host = false) (q_out : m.out = false) (q_chans : m.chans = false) {fn : Nat} {sq : Nat} {f : Sys2Proof.Fetch} 
    (h : Fr m s t) : FrOut m s (@execCtxOpen fn sq f t) := by
  unfold Sys2Proof.Machine.execCtxOpen
  repeat' first
    | with_reducible assumption
    | (with_reducible apply FrOut.go)
    | (with_reducible apply FrOut.onlyIf)
    | (with_reducible exact FrOut.fault)
    | (with_reducible apply Fr.fetched)
    | (with_reducible apply Fr.openCtx)
    | intro _
    | split

theorem FrOut.execCtxReset {m : Mask} {s t : State} (q_hub : m.hub = false) (q_host : m.host = false) (q_out : m.out = false) (q_chans : m.chans = false) {fn : Nat} {sq : Nat} {f : Sys2Proof.Fetch} 
    (h : Fr m s t) : FrOut m s (@execCtxReset fn sq f t) := by
  unfold Sys2Proof.Machine.execCtxReset
  repeat' first
    | with_reducible assumption
    | (with_reducible apply FrOut.go)
    | (with_reducible apply FrOut.onlyIf)
    | (with_reducible exact FrOut.fault)
    | (with_reducible apply Fr.fetched)
    | (with_reducible apply Fr.enqueue)
    | intro _
    | split

theorem FrOut.execCtxRelease {m : Mask} {s t : State} (q_hub : m.hub = false) (q_host : m.host = false) (q_out : m.out = false) (q_chans : m.chans = false) {fn : Nat} {sq : Nat} {f : Sys2Proof.Fetch} 
    (h : Fr m s t) : FrOut m s (@execCtxRelease fn sq f t) := by
  unfold Sys2Proof.Machine.execCtxRelease
  repeat' first
    | with_reducible assumption
    | (with_reducible apply FrOut.go)
    | (with_reducible apply FrOut.onlyIf)
    | (with_reducible exact FrOut.fault)
    | (with_reducible apply Fr.fetched)
    | (with_reducible apply Fr.takeRelease)
    | intro _
    | split

theorem FrOut.execCtxReleaseComplete {m : Mask} {s t : State} (q_hub : m.hub = false) (q_host : m.host = false) (q_out : m.out = false) (q_chans : m.chans = false) {ctx : Nat} 
    (h : Fr m s t) : FrOut m s (@execCtxReleaseComplete ctx t) := by
  unfold Sys2Proof.Machine.execCtxReleaseComplete
  repeat' first
    | with_reducible assumption
    | (with_reducible apply FrOut.go)
    | (with_reducible apply FrOut.onlyIf)
    | (with_reducible exact FrOut.fault)
    | (with_reducible apply Fr.freeCtx)
    | (with_reducible apply Fr.advance)
    | (with_reducible apply Fr.finish)
    | dsimp -proj only
    | split

theorem FrOut.execStateGet {m : Mask} {s t : State} (q_hub : m.hub = false) (q_host : m.host = false) (q_out : m.out = false) (q_chans : m.chans = false) {fn : Nat} {sq : Nat} {f : Sys2Proof.Fetch} 
    (h : Fr m s t) : FrOut m s (@execStateGet fn sq f t) := by
  unfold Sys2Proof.Machine.execStateGet
  repeat' first
    | with_reducible assumption
    | (with_reducible apply FrOut.go)
    | (with_reducible apply FrOut.onlyIf)
    | (with_reducible exact FrOut.fault)
    | (with_reducible apply Fr.fetched)
    | (with_reducible apply Fr.takeMove)
    | intro _
    | split

theorem FrOut.execStatePut {m : Mask} {s t : State} (q_hub : m.hub = false) (q_host : m.host = false) (q_out : m.out = false) (q_chans : m.chans = false) {fn : Nat} {sq : Nat} {f : Sys2Proof.Fetch} 
    (h : Fr m s t) : FrOut m s (@execStatePut fn sq f t) := by
  unfold Sys2Proof.Machine.execStatePut
  repeat' first
    | with_reducible assumption
    | (with_reducible apply FrOut.go)
    | (with_reducible apply FrOut.onlyIf)
    | (with_reducible exact FrOut.fault)
    | (with_reducible apply Fr.fetched)
    | (with_reducible apply Fr.takeMove)
    | intro _
    | split

theorem FrOut.execCtxQuery {m : Mask} {s t : State} (q_hub : m.hub = false) (q_host : m.host = false) (q_out : m.out = false) (q_chans : m.chans = false) {fn : Nat} {sq : Nat} {f : Sys2Proof.Fetch} 
    (h : Fr m s t) : FrOut m s (@execCtxQuery fn sq f t) := by
  unfold Sys2Proof.Machine.execCtxQuery
  repeat' first
    | with_reducible assumption
    | (with_reducible apply FrOut.go)
    | (with_reducible apply FrOut.onlyIf)
    | (with_reducible exact FrOut.fault)
    | (with_reducible apply Fr.fetched)
    | (with_reducible apply Fr.enqueue)
    | intro _
    | split

theorem FrOut.execLoadWeights {m : Mask} {s t : State} (q_hub : m.hub = false) (q_host : m.host = false) (q_store : m.store = false) (q_out : m.out = false) (q_chans : m.chans = false) (q_fresh : m.fresh = false) {fn : Nat} {sq : Nat} {f : Sys2Proof.Fetch} {pkg : Sys2Proof.ReadRes} {sigOk : Bool} 
    (h : Fr m s t) : FrOut m s (@execLoadWeights fn sq f pkg sigOk t) := by
  unfold Sys2Proof.Machine.execLoadWeights
  repeat' first
    | with_reducible assumption
    | (with_reducible apply FrOut.go)
    | (with_reducible apply FrOut.onlyIf)
    | (with_reducible exact FrOut.fault)
    | (with_reducible apply Fr.fetched)
    | (with_reducible apply Fr.takeWeights)
    | intro _
    | split

theorem FrOut.execLoadProgram {m : Mask} {s t : State} (q_hub : m.hub = false) (q_host : m.host = false) (q_store : m.store = false) (q_sec : m.sec = false) (q_out : m.out = false) (q_chans : m.chans = false) {fn : Nat} {sq : Nat} {f : Sys2Proof.Fetch} {progs : List Sys2Proof.ProgFill} {sigOk : Bool} 
    (h : Fr m s t) : FrOut m s (@execLoadProgram fn sq f progs sigOk t) := by
  unfold Sys2Proof.Machine.execLoadProgram
  repeat' first
    | with_reducible assumption
    | (with_reducible apply FrOut.go)
    | (with_reducible apply FrOut.onlyIf)
    | (with_reducible exact FrOut.fault)
    | (with_reducible apply Fr.fetched)
    | (with_reducible apply Fr.takeProgs)
    | intro _
    | split

theorem FrOut.execSample {m : Mask} {s t : State} (q_hub : m.hub = false) (q_host : m.host = false) (q_out : m.out = false) (q_chans : m.chans = false) {fn : Nat} {sq : Nat} {f : Sys2Proof.Fetch} 
    (h : Fr m s t) : FrOut m s (@execSample fn sq f t) := by
  unfold Sys2Proof.Machine.execSample
  repeat' first
    | with_reducible assumption
    | (with_reducible apply FrOut.go)
    | (with_reducible apply FrOut.onlyIf)
    | (with_reducible exact FrOut.fault)
    | (with_reducible apply Fr.fetched)
    | (with_reducible apply Fr.takeSample)
    | intro _
    | split

theorem FrOut.execSampleRunEnd {m : Mask} {s t : State} (q_hub : m.hub = false) (q_host : m.host = false) (q_out : m.out = false) (q_chans : m.chans = false) {ch : Nat} 
    (h : Fr m s t) : FrOut m s (@execSampleRunEnd ch t) := by
  unfold Sys2Proof.Machine.execSampleRunEnd
  repeat' first
    | with_reducible assumption
    | (with_reducible apply FrOut.go)
    | (with_reducible apply FrOut.onlyIf)
    | (with_reducible exact FrOut.fault)
    | (with_reducible apply Fr.endSample)
    | split

theorem FrOut.execAdd {m : Mask} {s t : State} (q_hub : m.hub = false) (q_host : m.host = false) (q_out : m.out = false) (q_chans : m.chans = false) {ch : Nat} {slot : Nat} 
    (h : Fr m s t) : FrOut m s (@execAdd ch slot t) := by
  unfold Sys2Proof.Machine.execAdd
  repeat' first
    | with_reducible assumption
    | (with_reducible apply FrOut.go)
    | (with_reducible apply FrOut.onlyIf)
    | (with_reducible exact FrOut.fault)
    | (with_reducible apply Fr.alu)
    | split

theorem FrOut.execSub {m : Mask} {s t : State} (q_hub : m.hub = false) (q_host : m.host = false) (q_out : m.out = false) (q_chans : m.chans = false) {ch : Nat} {slot : Nat} 
    (h : Fr m s t) : FrOut m s (@execSub ch slot t) := by
  unfold Sys2Proof.Machine.execSub
  repeat' first
    | with_reducible assumption
    | (with_reducible apply FrOut.go)
    | (with_reducible apply FrOut.onlyIf)
    | (with_reducible exact FrOut.fault)
    | (with_reducible apply Fr.alu)
    | split

theorem FrOut.execAnd {m : Mask} {s t : State} (q_hub : m.hub = false) (q_host : m.host = false) (q_out : m.out = false) (q_chans : m.chans = false) {ch : Nat} {slot : Nat} 
    (h : Fr m s t) : FrOut m s (@execAnd ch slot t) := by
  unfold Sys2Proof.Machine.execAnd
  repeat' first
    | with_reducible assumption
    | (with_reducible apply FrOut.go)
    | (with_reducible apply FrOut.onlyIf)
    | (with_reducible exact FrOut.fault)
    | (with_reducible apply Fr.alu)
    | split

theorem FrOut.execOr {m : Mask} {s t : State} (q_hub : m.hub = false) (q_host : m.host = false) (q_out : m.out = false) (q_chans : m.chans = false) {ch : Nat} {slot : Nat} 
    (h : Fr m s t) : FrOut m s (@execOr ch slot t) := by
  unfold Sys2Proof.Machine.execOr
  repeat' first
    | with_reducible assumption
    | (with_reducible apply FrOut.go)
    | (with_reducible apply FrOut.onlyIf)
    | (with_reducible exact FrOut.fault)
    | (with_reducible apply Fr.alu)
    | split

theorem FrOut.execXor {m : Mask} {s t : State} (q_hub : m.hub = false) (q_host : m.host = false) (q_out : m.out = false) (q_chans : m.chans = false) {ch : Nat} {slot : Nat} 
    (h : Fr m s t) : FrOut m s (@execXor ch slot t) := by
  unfold Sys2Proof.Machine.execXor
  repeat' first
    | with_reducible assumption
    | (with_reducible apply FrOut.go)
    | (with_reducible apply FrOut.onlyIf)
    | (with_reducible exact FrOut.fault)
    | (with_reducible apply Fr.alu)
    | split

theorem FrOut.execShl {m : Mask} {s t : State} (q_hub : m.hub = false) (q_host : m.host = false) (q_out : m.out = false) (q_chans : m.chans = false) {ch : Nat} {slot : Nat} 
    (h : Fr m s t) : FrOut m s (@execShl ch slot t) := by
  unfold Sys2Proof.Machine.execShl
  repeat' first
    | with_reducible assumption
    | (with_reducible apply FrOut.go)
    | (with_reducible apply FrOut.onlyIf)
    | (with_reducible exact FrOut.fault)
    | (with_reducible apply Fr.alu)
    | split

theorem FrOut.execShr {m : Mask} {s t : State} (q_hub : m.hub = false) (q_host : m.host = false) (q_out : m.out = false) (q_chans : m.chans = false) {ch : Nat} {slot : Nat} 
    (h : Fr m s t) : FrOut m s (@execShr ch slot t) := by
  unfold Sys2Proof.Machine.execShr
  repeat' first
    | with_reducible assumption
    | (with_reducible apply FrOut.go)
    | (with_reducible apply FrOut.onlyIf)
    | (with_reducible exact FrOut.fault)
    | (with_reducible apply Fr.alu)
    | split

theorem FrOut.execSra {m : Mask} {s t : State} (q_hub : m.hub = false) (q_host : m.host = false) (q_out : m.out = false) (q_chans : m.chans = false) {ch : Nat} {slot : Nat} 
    (h : Fr m s t) : FrOut m s (@execSra ch slot t) := by
  unfold Sys2Proof.Machine.execSra
  repeat' first
    | with_reducible assumption
    | (with_reducible apply FrOut.go)
    | (with_reducible apply FrOut.onlyIf)
    | (with_reducible exact FrOut.fault)
    | (with_reducible apply Fr.alu)
    | split

theorem FrOut.execMul {m : Mask} {s t : State} (q_hub : m.hub = false) (q_host : m.host = false) (q_out : m.out = false) (q_chans : m.chans = false) {ch : Nat} {slot : Nat} 
    (h : Fr m s t) : FrOut m s (@execMul ch slot t) := by
  unfold Sys2Proof.Machine.execMul
  repeat' first
    | with_reducible assumption
    | (with_reducible apply FrOut.go)
    | (with_reducible apply FrOut.onlyIf)
    | (with_reducible exact FrOut.fault)
    | (with_reducible apply Fr.alu)
    | split

theorem FrOut.execSlt {m : Mask} {s t : State} (q_hub : m.hub = false) (q_host : m.host = false) (q_out : m.out = false) (q_chans : m.chans = false) {ch : Nat} {slot : Nat} 
    (h : Fr m s t) : FrOut m s (@execSlt ch slot t) := by
  unfold Sys2Proof.Machine.execSlt
  repeat' first
    | with_reducible assumption
    | (with_reducible apply FrOut.go)
    | (with_reducible apply FrOut.onlyIf)
    | (with_reducible exact FrOut.fault)
    | (with_reducible apply Fr.alu)
    | split

theorem FrOut.execSltu {m : Mask} {s t : State} (q_hub : m.hub = false) (q_host : m.host = false) (q_out : m.out = false) (q_chans : m.chans = false) {ch : Nat} {slot : Nat} 
    (h : Fr m s t) : FrOut m s (@execSltu ch slot t) := by
  unfold Sys2Proof.Machine.execSltu
  repeat' first
    | with_reducible assumption
    | (with_reducible apply FrOut.go)
    | (with_reducible apply FrOut.onlyIf)
    | (with_reducible exact FrOut.fault)
    | (with_reducible apply Fr.alu)
    | split

theorem FrOut.execLi {m : Mask} {s t : State} (q_hub : m.hub = false) (q_host : m.host = false) (q_out : m.out = false) (q_chans : m.chans = false) {ch : Nat} {slot : Nat} 
    (h : Fr m s t) : FrOut m s (@execLi ch slot t) := by
  unfold Sys2Proof.Machine.execLi
  repeat' first
    | with_reducible assumption
    | (with_reducible apply FrOut.go)
    | (with_reducible apply FrOut.onlyIf)
    | (with_reducible exact FrOut.fault)
    | (with_reducible apply Fr.issueNow)
    | (with_reducible apply Fr.setReg)
    | intro _
    | split

theorem FrOut.execLdS {m : Mask} {s t : State} (q_hub : m.hub = false) (q_host : m.host = false) (q_out : m.out = false) (q_chans : m.chans = false) {ch : Nat} {slot : Nat} 
    (h : Fr m s t) : FrOut m s (@execLdS ch slot t) := by
  unfold Sys2Proof.Machine.execLdS
  repeat' first
    | with_reducible assumption
    | (with_reducible apply FrOut.go)
    | (with_reducible apply FrOut.onlyIf)
    | (with_reducible exact FrOut.fault)
    | (with_reducible apply Fr.issueWord)
    | split

theorem FrOut.execStS {m : Mask} {s t : State} (q_hub : m.hub = false) (q_host : m.host = false) (q_out : m.out = false) (q_chans : m.chans = false) {ch : Nat} {slot : Nat} 
    (h : Fr m s t) : FrOut m s (@execStS ch slot t) := by
  unfold Sys2Proof.Machine.execStS
  repeat' first
    | with_reducible assumption
    | (with_reducible apply FrOut.go)
    | (with_reducible apply FrOut.onlyIf)
    | (with_reducible exact FrOut.fault)
    | (with_reducible apply Fr.issueWord)
    | split

theorem FrOut.execBdSet {m : Mask} {s t : State} (q_hub : m.hub = false) (q_host : m.host = false) (q_out : m.out = false) (q_chans : m.chans = false) {ch : Nat} {slot : Nat} 
    (h : Fr m s t) : FrOut m s (@execBdSet ch slot t) := by
  unfold Sys2Proof.Machine.execBdSet
  repeat' first
    | with_reducible assumption
    | (with_reducible apply FrOut.go)
    | (with_reducible apply FrOut.onlyIf)
    | (with_reducible exact FrOut.fault)
    | (with_reducible apply Fr.issueNow)
    | (with_reducible apply Fr.modSlot)
    | (with_reducible apply Fr.fault)
    | intro _
    | dsimp -proj only
    | split

theorem FrOut.execRdSys {m : Mask} {s t : State} (q_hub : m.hub = false) (q_host : m.host = false) (q_out : m.out = false) (q_chans : m.chans = false) {ch : Nat} {slot : Nat} 
    (h : Fr m s t) : FrOut m s (@execRdSys ch slot t) := by
  unfold Sys2Proof.Machine.execRdSys
  repeat' first
    | with_reducible assumption
    | (with_reducible apply FrOut.go)
    | (with_reducible apply FrOut.onlyIf)
    | (with_reducible exact FrOut.fault)
    | (with_reducible apply Fr.issueNow)
    | (with_reducible apply Fr.fault)
    | (with_reducible apply Fr.setReg)
    | intro _
    | dsimp -proj only
    | split

theorem FrOut.execBeq {m : Mask} {s t : State} (q_hub : m.hub = false) (q_host : m.host = false) (q_out : m.out = false) (q_chans : m.chans = false) {ch : Nat} {slot : Nat} 
    (h : Fr m s t) : FrOut m s (@execBeq ch slot t) := by
  unfold Sys2Proof.Machine.execBeq
  repeat' first
    | with_reducible assumption
    | (with_reducible apply FrOut.go)
    | (with_reducible apply FrOut.onlyIf)
    | (with_reducible exact FrOut.fault)
    | (with_reducible apply Fr.branch)
    | split

theorem FrOut.execBne {m : Mask} {s t : State} (q_hub : m.hub = false) (q_host : m.host = false) (q_out : m.out = false) (q_chans : m.chans = false) {ch : Nat} {slot : Nat} 
    (h : Fr m s t) : FrOut m s (@execBne ch slot t) := by
  unfold Sys2Proof.Machine.execBne
  repeat' first
    | with_reducible assumption
    | (with_reducible apply FrOut.go)
    | (with_reducible apply FrOut.onlyIf)
    | (with_reducible exact FrOut.fault)
    | (with_reducible apply Fr.branch)
    | split

theorem FrOut.execBlt {m : Mask} {s t : State} (q_hub : m.hub = false) (q_host : m.host = false) (q_out : m.out = false) (q_chans : m.chans = false) {ch : Nat} {slot : Nat} 
    (h : Fr m s t) : FrOut m s (@execBlt ch slot t) := by
  unfold Sys2Proof.Machine.execBlt
  repeat' first
    | with_reducible assumption
    | (with_reducible apply FrOut.go)
    | (with_reducible apply FrOut.onlyIf)
    | (with_reducible exact FrOut.fault)
    | (with_reducible apply Fr.branch)
    | split

theorem FrOut.execBge {m : Mask} {s t : State} (q_hub : m.hub = false) (q_host : m.host = false) (q_out : m.out = false) (q_chans : m.chans = false) {ch : Nat} {slot : Nat} 
    (h : Fr m s t) : FrOut m s (@execBge ch slot t) := by
  unfold Sys2Proof.Machine.execBge
  repeat' first
    | with_reducible assumption
    | (with_reducible apply FrOut.go)
    | (with_reducible apply FrOut.onlyIf)
    | (with_reducible exact FrOut.fault)
    | (with_reducible apply Fr.branch)
    | split

theorem FrOut.execJmp {m : Mask} {s t : State} (q_hub : m.hub = false) (q_host : m.host = false) (q_out : m.out = false) (q_chans : m.chans = false) {ch : Nat} {slot : Nat} 
    (h : Fr m s t) : FrOut m s (@execJmp ch slot t) := by
  unfold Sys2Proof.Machine.execJmp
  repeat' first
    | with_reducible assumption
    | (with_reducible apply FrOut.go)
    | (with_reducible apply FrOut.onlyIf)
    | (with_reducible exact FrOut.fault)
    | (with_reducible apply Fr.branch)
    | split

theorem FrOut.execMvmA {m : Mask} {s t : State} (q_hub : m.hub = false) (q_host : m.host = false) (q_out : m.out = false) (q_chans : m.chans = false) {ch : Nat} {slot : Nat} 
    (h : Fr m s t) : FrOut m s (@execMvmA ch slot t) := by
  unfold Sys2Proof.Machine.execMvmA
  repeat' first
    | with_reducible assumption
    | (with_reducible apply FrOut.go)
    | (with_reducible apply FrOut.onlyIf)
    | (with_reducible exact FrOut.fault)
    | (with_reducible apply Fr.issueUnit)
    | split

theorem FrOut.execMvmD {m : Mask} {s t : State} (q_hub : m.hub = false) (q_host : m.host = false) (q_out : m.out = false) (q_chans : m.chans = false) {ch : Nat} {slot : Nat} 
    (h : Fr m s t) : FrOut m s (@execMvmD ch slot t) := by
  unfold Sys2Proof.Machine.execMvmD
  repeat' first
    | with_reducible assumption
    | (with_reducible apply FrOut.go)
    | (with_reducible apply FrOut.onlyIf)
    | (with_reducible exact FrOut.fault)
    | (with_reducible apply Fr.issueUnit)
    | split

theorem FrOut.execQuantRow {m : Mask} {s t : State} (q_hub : m.hub = false) (q_host : m.host = false) (q_out : m.out = false) (q_chans : m.chans = false) {ch : Nat} {slot : Nat} 
    (h : Fr m s t) : FrOut m s (@execQuantRow ch slot t) := by
  unfold Sys2Proof.Machine.execQuantRow
  repeat' first
    | with_reducible assumption
    | (with_reducible apply FrOut.go)
    | (with_reducible apply FrOut.onlyIf)
    | (with_reducible exact FrOut.fault)
    | (with_reducible apply Fr.issueUnit)
    | split

theorem FrOut.execDeq {m : Mask} {s t : State} (q_hub : m.hub = false) (q_host : m.host = false) (q_out : m.out = false) (q_chans : m.chans = false) {ch : Nat} {slot : Nat} 
    (h : Fr m s t) : FrOut m s (@execDeq ch slot t) := by
  unfold Sys2Proof.Machine.execDeq
  repeat' first
    | with_reducible assumption
    | (with_reducible apply FrOut.go)
    | (with_reducible apply FrOut.onlyIf)
    | (with_reducible exact FrOut.fault)
    | (with_reducible apply Fr.issueUnit)
    | split

theorem FrOut.execRedTopk {m : Mask} {s t : State} (q_hub : m.hub = false) (q_host : m.host = false) (q_out : m.out = false) (q_chans : m.chans = false) {ch : Nat} {slot : Nat} 
    (h : Fr m s t) : FrOut m s (@execRedTopk ch slot t) := by
  unfold Sys2Proof.Machine.execRedTopk
  repeat' first
    | with_reducible assumption
    | (with_reducible apply FrOut.go)
    | (with_reducible apply FrOut.onlyIf)
    | (with_reducible exact FrOut.fault)
    | (with_reducible apply Fr.issueUnit)
    | split

theorem FrOut.execRedMm {m : Mask} {s t : State} (q_hub : m.hub = false) (q_host : m.host = false) (q_out : m.out = false) (q_chans : m.chans = false) {ch : Nat} {slot : Nat} 
    (h : Fr m s t) : FrOut m s (@execRedMm ch slot t) := by
  unfold Sys2Proof.Machine.execRedMm
  repeat' first
    | with_reducible assumption
    | (with_reducible apply FrOut.go)
    | (with_reducible apply FrOut.onlyIf)
    | (with_reducible exact FrOut.fault)
    | (with_reducible apply Fr.issueUnit)
    | split

theorem FrOut.execNormRow {m : Mask} {s t : State} (q_hub : m.hub = false) (q_host : m.host = false) (q_out : m.out = false) (q_chans : m.chans = false) {ch : Nat} {slot : Nat} 
    (h : Fr m s t) : FrOut m s (@execNormRow ch slot t) := by
  unfold Sys2Proof.Machine.execNormRow
  repeat' first
    | with_reducible assumption
    | (with_reducible apply FrOut.go)
    | (with_reducible apply FrOut.onlyIf)
    | (with_reducible exact FrOut.fault)
    | (with_reducible apply Fr.issueUnit)
    | split

theorem FrOut.execActTab {m : Mask} {s t : State} (q_hub : m.hub = false) (q_host : m.host = false) (q_out : m.out = false) (q_chans : m.chans = false) {ch : Nat} {slot : Nat} 
    (h : Fr m s t) : FrOut m s (@execActTab ch slot t) := by
  unfold Sys2Proof.Machine.execActTab
  repeat' first
    | with_reducible assumption
    | (with_reducible apply FrOut.go)
    | (with_reducible apply FrOut.onlyIf)
    | (with_reducible exact FrOut.fault)
    | (with_reducible apply Fr.issueUnit)
    | split

theorem FrOut.execVecOp {m : Mask} {s t : State} (q_hub : m.hub = false) (q_host : m.host = false) (q_out : m.out = false) (q_chans : m.chans = false) {ch : Nat} {slot : Nat} 
    (h : Fr m s t) : FrOut m s (@execVecOp ch slot t) := by
  unfold Sys2Proof.Machine.execVecOp
  repeat' first
    | with_reducible assumption
    | (with_reducible apply FrOut.go)
    | (with_reducible apply FrOut.onlyIf)
    | (with_reducible exact FrOut.fault)
    | (with_reducible apply Fr.issueUnit)
    | split

theorem FrOut.execCtxLd {m : Mask} {s t : State} (q_hub : m.hub = false) (q_host : m.host = false) (q_out : m.out = false) (q_chans : m.chans = false) {ch : Nat} {slot : Nat} {ecc : List Sys2Proof.Ecc} 
    (h : Fr m s t) : FrOut m s (@execCtxLd ch slot ecc t) := by
  unfold Sys2Proof.Machine.execCtxLd
  repeat' first
    | with_reducible assumption
    | (with_reducible apply FrOut.go)
    | (with_reducible apply FrOut.onlyIf)
    | (with_reducible exact FrOut.fault)
    | (with_reducible apply Fr.issueUnit)
    | (with_reducible apply Fr.modSlot)
    | (with_reducible apply Fr.withEcc)
    | dsimp -proj only
    | split

theorem FrOut.execCtxSt {m : Mask} {s t : State} (q_hub : m.hub = false) (q_host : m.host = false) (q_out : m.out = false) (q_chans : m.chans = false) {ch : Nat} {slot : Nat} {ecc : List Sys2Proof.Ecc} 
    (h : Fr m s t) : FrOut m s (@execCtxSt ch slot ecc t) := by
  unfold Sys2Proof.Machine.execCtxSt
  repeat' first
    | with_reducible assumption
    | (with_reducible apply FrOut.go)
    | (with_reducible apply FrOut.onlyIf)
    | (with_reducible exact FrOut.fault)
    | (with_reducible apply Fr.issueUnit)
    | (with_reducible apply Fr.withEcc)
    | split

theorem FrOut.execEmit {m : Mask} {s t : State} (q_hub : m.hub = false) (q_host : m.host = false) (q_out : m.out = false) (q_chans : m.chans = false) {ch : Nat} {slot : Nat} 
    (h : Fr m s t) : FrOut m s (@execEmit ch slot t) := by
  unfold Sys2Proof.Machine.execEmit
  repeat' first
    | with_reducible assumption
    | (with_reducible apply FrOut.go)
    | (with_reducible apply FrOut.onlyIf)
    | (with_reducible exact FrOut.fault)
    | (with_reducible apply Fr.issueUnit)
    | split

theorem FrOut.execXchSnd {m : Mask} {s t : State} (q_hub : m.hub = false) (q_host : m.host = false) (q_out : m.out = false) (q_chans : m.chans = false) {ch : Nat} {slot : Nat} 
    (h : Fr m s t) : FrOut m s (@execXchSnd ch slot t) := by
  unfold Sys2Proof.Machine.execXchSnd
  repeat' first
    | with_reducible assumption
    | (with_reducible apply FrOut.go)
    | (with_reducible apply FrOut.onlyIf)
    | (with_reducible exact FrOut.fault)
    | (with_reducible apply Fr.issueUnit)
    | split

theorem FrOut.execXchRcv {m : Mask} {s t : State} (q_hub : m.hub = false) (q_host : m.host = false) (q_out : m.out = false) (q_chans : m.chans = false) {ch : Nat} {slot : Nat} 
    (h : Fr m s t) : FrOut m s (@execXchRcv ch slot t) := by
  unfold Sys2Proof.Machine.execXchRcv
  repeat' first
    | with_reducible assumption
    | (with_reducible apply FrOut.go)
    | (with_reducible apply FrOut.onlyIf)
    | (with_reducible exact FrOut.fault)
    | (with_reducible apply Fr.issue)
    | (with_reducible apply Fr.endInf)
    | (with_reducible apply Fr.takeMessage)
    | (with_reducible apply Fr.addOut)
    | (with_reducible apply Fr.blockPort)
    | intro _
    | split

theorem FrOut.execSpill {m : Mask} {s t : State} (q_hub : m.hub = false) (q_host : m.host = false) (q_out : m.out = false) (q_chans : m.chans = false) {ch : Nat} {slot : Nat} 
    (h : Fr m s t) : FrOut m s (@execSpill ch slot t) := by
  unfold Sys2Proof.Machine.execSpill
  repeat' first
    | with_reducible assumption
    | (with_reducible apply FrOut.go)
    | (with_reducible apply FrOut.onlyIf)
    | (with_reducible exact FrOut.fault)
    | (with_reducible apply Fr.issueUnit)
    | split

theorem FrOut.execResume {m : Mask} {s t : State} (q_hub : m.hub = false) (q_host : m.host = false) (q_out : m.out = false) (q_chans : m.chans = false) {ch : Nat} {slot : Nat} 
    (h : Fr m s t) : FrOut m s (@execResume ch slot t) := by
  unfold Sys2Proof.Machine.execResume
  repeat' first
    | with_reducible assumption
    | (with_reducible apply FrOut.go)
    | (with_reducible apply FrOut.onlyIf)
    | (with_reducible exact FrOut.fault)
    | (with_reducible apply Fr.issueUnit)
    | split

theorem FrOut.execSig {m : Mask} {s t : State} (q_hub : m.hub = false) (q_host : m.host = false) (q_out : m.out = false) (q_chans : m.chans = false) {ch : Nat} {slot : Nat} 
    (h : Fr m s t) : FrOut m s (@execSig ch slot t) := by
  unfold Sys2Proof.Machine.execSig
  repeat' first
    | with_reducible assumption
    | (with_reducible apply FrOut.go)
    | (with_reducible apply FrOut.onlyIf)
    | (with_reducible exact FrOut.fault)
    | (with_reducible apply Fr.issueUnit)
    | split

theorem FrOut.execWait {m : Mask} {s t : State} (q_hub : m.hub = false) (q_host : m.host = false) (q_out : m.out = false) (q_chans : m.chans = false) {ch : Nat} {slot : Nat} 
    (h : Fr m s t) : FrOut m s (@execWait ch slot t) := by
  unfold Sys2Proof.Machine.execWait
  repeat' first
    | with_reducible assumption
    | (with_reducible apply FrOut.go)
    | (with_reducible apply FrOut.onlyIf)
    | (with_reducible exact FrOut.fault)
    | (with_reducible apply Fr.issue)
    | (with_reducible apply Fr.waitAt)
    | intro _
    | split

theorem FrOut.execBar {m : Mask} {s t : State} (q_hub : m.hub = false) (q_host : m.host = false) (q_out : m.out = false) (q_chans : m.chans = false) {ch : Nat} {slot : Nat} 
    (h : Fr m s t) : FrOut m s (@execBar ch slot t) := by
  unfold Sys2Proof.Machine.execBar
  repeat' first
    | with_reducible assumption
    | (with_reducible apply FrOut.go)
    | (with_reducible apply FrOut.onlyIf)
    | (with_reducible exact FrOut.fault)
    | (with_reducible apply Fr.issue)
    | (with_reducible apply Fr.barAt)
    | intro _
    | split

theorem FrOut.execYield {m : Mask} {s t : State} (q_hub : m.hub = false) (q_host : m.host = false) (q_out : m.out = false) (q_chans : m.chans = false) {ch : Nat} {slot : Nat} 
    (h : Fr m s t) : FrOut m s (@execYield ch slot t) := by
  unfold Sys2Proof.Machine.execYield
  repeat' first
    | with_reducible assumption
    | (with_reducible apply FrOut.go)
    | (with_reducible apply FrOut.onlyIf)
    | (with_reducible exact FrOut.fault)
    | (with_reducible apply Fr.issueNow)
    | (with_reducible apply Fr.modSlot)
    | (with_reducible apply Fr.countBy)
    | (with_reducible apply Fr.spillAll)
    | (with_reducible apply Fr.modJob)
    | intro _
    | dsimp -proj only
    | split

theorem FrOut.execHalt {m : Mask} {s t : State} (q_hub : m.hub = false) (q_host : m.host = false) (q_out : m.out = false) (q_chans : m.chans = false) {ch : Nat} {slot : Nat} 
    (h : Fr m s t) : FrOut m s (@execHalt ch slot t) := by
  unfold Sys2Proof.Machine.execHalt
  repeat' first
    | with_reducible assumption
    | (with_reducible apply FrOut.go)
    | (with_reducible apply FrOut.onlyIf)
    | (with_reducible exact FrOut.fault)
    | (with_reducible apply Fr.issue)
    | (with_reducible apply Fr.modSlot)
    | intro _
    | split

theorem FrOut.execInferenceCommit {m : Mask} {s t : State} (q_hub : m.hub = false) (q_host : m.host = false) (q_out : m.out = false) (q_chans : m.chans = false) {ch : Nat} {slot : Nat} 
    (h : Fr m s t) : FrOut m s (@execInferenceCommit ch slot t) := by
  unfold Sys2Proof.Machine.execInferenceCommit
  repeat' first
    | with_reducible assumption
    | (with_reducible apply FrOut.go)
    | (with_reducible apply FrOut.onlyIf)
    | (with_reducible exact FrOut.fault)
    | (with_reducible apply Fr.commit)
    | dsimp -proj only
    | split

theorem FrOut.execUnitStart {m : Mask} {s t : State} (q_hub : m.hub = false) (q_host : m.host = false) (q_out : m.out = false) (q_chans : m.chans = false) {ch : Nat} {slot : Nat} {seq : Nat} {ecc : List Sys2Proof.Ecc} 
    (h : Fr m s t) : FrOut m s (@execUnitStart ch slot seq ecc t) := by
  unfold Sys2Proof.Machine.execUnitStart
  repeat' first
    | with_reducible assumption
    | (with_reducible apply FrOut.go)
    | (with_reducible apply FrOut.onlyIf)
    | (with_reducible exact FrOut.fault)
    | (with_reducible apply Fr.startNow)
    | (with_reducible apply Fr.eccAll)
    | split

theorem FrOut.execInstructionComplete {m : Mask} {s t : State} (q_hub : m.hub = false) (q_host : m.host = false) (q_out : m.out = false) (q_chans : m.chans = false) {ch : Nat} {slot : Nat} {seq : Nat} 
    (h : Fr m s t) : FrOut m s (@execInstructionComplete ch slot seq t) := by
  unfold Sys2Proof.Machine.execInstructionComplete
  repeat' first
    | with_reducible assumption
    | (with_reducible apply FrOut.go)
    | (with_reducible apply FrOut.onlyIf)
    | (with_reducible exact FrOut.fault)
    | (with_reducible apply Fr.finishSig)
    | (with_reducible apply Fr.complete1)
    | split

theorem FrOut.execTileGrant {m : Mask} {s t : State} (q_chans : m.chans = false) {ch : Nat} {tile : Nat} 
    (h : Fr m s t) : FrOut m s (@execTileGrant ch tile t) := by
  unfold Sys2Proof.Machine.execTileGrant
  repeat' first
    | with_reducible assumption
    | (with_reducible apply FrOut.go)
    | (with_reducible apply FrOut.onlyIf)
    | (with_reducible exact FrOut.fault)
    | (with_reducible apply Fr.beginMvm)
    | (with_reducible apply Fr.beginSwitch)
    | dsimp -proj only
    | split

theorem FrOut.execFacetSwitchDone {m : Mask} {s t : State} (q_store : m.store = false) (q_chans : m.chans = false) {ch : Nat} {tile : Nat} 
    (h : Fr m s t) : FrOut m s (@execFacetSwitchDone ch tile t) := by
  unfold Sys2Proof.Machine.execFacetSwitchDone
  repeat' first
    | with_reducible assumption
    | (with_reducible apply FrOut.go)
    | (with_reducible apply FrOut.onlyIf)
    | (with_reducible exact FrOut.fault)
    | (with_reducible apply Fr.resumePv)
    | (with_reducible apply Fr.modTile)
    | dsimp -proj only
    | split

theorem FrOut.execMvmComplete {m : Mask} {s t : State} (q_hub : m.hub = false) (q_host : m.host = false) (q_store : m.store = false) (q_integ : m.integ = false) (q_out : m.out = false) (q_chans : m.chans = false) (q_fresh : m.fresh = false) {ch : Nat} {tile : Nat} {err : List Sys2Proof.ConvErr} {dacFault : Bool} 
    (h : Fr m s t) : FrOut m s (@execMvmComplete ch tile err dacFault t) := by
  unfold Sys2Proof.Machine.execMvmComplete
  repeat' first
    | with_reducible assumption
    | (with_reducible apply FrOut.go)
    | (with_reducible apply FrOut.onlyIf)
    | (with_reducible exact FrOut.fault)
    | (with_reducible apply Fr.mvmEnd)
    | dsimp -proj only
    | split

theorem FrOut.execBankDrain {m : Mask} {s t : State} (q_host : m.host = false) (q_out : m.out = false) (q_chans : m.chans = false) {ch : Nat} {tile : Nat} {bank : Nat} 
    (h : Fr m s t) : FrOut m s (@execBankDrain ch tile bank t) := by
  unfold Sys2Proof.Machine.execBankDrain
  repeat' first
    | with_reducible assumption
    | (with_reducible apply FrOut.go)
    | (with_reducible apply FrOut.onlyIf)
    | (with_reducible exact FrOut.fault)
    | (with_reducible apply Fr.drainWork)
    | (with_reducible apply Fr.drainExpert)
    | (with_reducible apply Fr.modTile)
    | dsimp -proj only
    | split

theorem FrOut.execAutoSpill {m : Mask} {s t : State} (q_hub : m.hub = false) (q_host : m.host = false) (q_out : m.out = false) (q_chans : m.chans = false) {ch : Nat} {slot : Nat} {handle : Nat} 
    (h : Fr m s t) : FrOut m s (@execAutoSpill ch slot handle t) := by
  unfold Sys2Proof.Machine.execAutoSpill
  repeat' first
    | with_reducible assumption
    | (with_reducible apply FrOut.go)
    | (with_reducible apply FrOut.onlyIf)
    | (with_reducible exact FrOut.fault)
    | (with_reducible apply Fr.fault)
    | (with_reducible apply Fr.count)
    | (with_reducible apply Fr.spillHandle)
    | (with_reducible apply Fr.resumeRecord)
    | (with_reducible apply Fr.waitGroup)
    | dsimp -proj only
    | split

theorem FrOut.execGroupGrant {m : Mask} {s t : State} (q_hub : m.hub = false) (q_host : m.host = false) (q_out : m.out = false) (q_chans : m.chans = false) {ch : Nat} 
    (h : Fr m s t) : FrOut m s (@execGroupGrant ch t) := by
  unfold Sys2Proof.Machine.execGroupGrant
  repeat' first
    | with_reducible assumption
    | (with_reducible apply FrOut.go)
    | (with_reducible apply FrOut.onlyIf)
    | (with_reducible exact FrOut.fault)
    | (with_reducible apply Fr.grantGroups)
    | split

theorem FrOut.execLookbackVerdict {m : Mask} {s t : State} (q_chans : m.chans = false) {ch : Nat} {slot : Nat} {seq : Nat} 
    (h : Fr m s t) : FrOut m s (@execLookbackVerdict ch slot seq t) := by
  unfold Sys2Proof.Machine.execLookbackVerdict
  repeat' first
    | with_reducible assumption
    | (with_reducible apply FrOut.go)
    | (with_reducible apply FrOut.onlyIf)
    | (with_reducible exact FrOut.fault)
    | (with_reducible apply Fr.rowFinal)
    | (with_reducible apply Fr.countBy)
    | (with_reducible apply Fr.replayRow)
    | dsimp -proj only
    | split

theorem FrOut.execRequantDone {m : Mask} {s t : State} (q_chans : m.chans = false) {ch : Nat} {slot : Nat} {seq : Nat} 
    (h : Fr m s t) : FrOut m s (@execRequantDone ch slot seq t) := by
  unfold Sys2Proof.Machine.execRequantDone
  repeat' first
    | with_reducible assumption
    | (with_reducible apply FrOut.go)
    | (with_reducible apply FrOut.onlyIf)
    | (with_reducible exact FrOut.fault)
    | (with_reducible apply Fr.reissue)
    | (with_reducible apply Fr.rowFinal)
    | dsimp -proj only
    | split

theorem FrOut.execWeightStreamStart {m : Mask} {s t : State} (q_chans : m.chans = false) {ch : Nat} 
    (h : Fr m s t) : FrOut m s (@execWeightStreamStart ch t) := by
  unfold Sys2Proof.Machine.execWeightStreamStart
  repeat' first
    | with_reducible assumption
    | (with_reducible apply FrOut.go)
    | (with_reducible apply FrOut.onlyIf)
    | (with_reducible exact FrOut.fault)
    | (with_reducible apply Fr.modChan)
    | (with_reducible apply Fr.count)
    | dsimp -proj only
    | split

theorem FrOut.execWeightBlockArrival {m : Mask} {s t : State} (q_hub : m.hub = false) (q_chans : m.chans = false) {ch : Nat} {base : Nat} {ecc : List Sys2Proof.Ecc} 
    (h : Fr m s t) : FrOut m s (@execWeightBlockArrival ch base ecc t) := by
  unfold Sys2Proof.Machine.execWeightBlockArrival
  repeat' first
    | with_reducible assumption
    | (with_reducible apply FrOut.go)
    | (with_reducible apply FrOut.onlyIf)
    | (with_reducible exact FrOut.fault)
    | (with_reducible apply Fr.streamGranule)
    | (with_reducible apply Fr.eccAll)
    | (with_reducible apply Fr.modChan)
    | (with_reducible apply Fr.countN)
    | (with_reducible apply Fr.foldl)
    | (with_reducible apply Fr.foldl_fst)
    | intro _
    | dsimp -proj only
    | split
    | (refine Fr.of_pair ‹_› ?_)

theorem FrOut.execCacheSetWaitEnd {m : Mask} {s t : State} (q_hub : m.hub = false) (q_host : m.host = false) (q_out : m.out = false) (q_chans : m.chans = false) {ch : Nat} {slot : Nat} {seq : Nat} 
    (h : Fr m s t) : FrOut m s (@execCacheSetWaitEnd ch slot seq t) := by
  unfold Sys2Proof.Machine.execCacheSetWaitEnd
  repeat' first
    | with_reducible assumption
    | (with_reducible apply FrOut.go)
    | (with_reducible apply FrOut.onlyIf)
    | (with_reducible exact FrOut.fault)
    | (with_reducible apply Fr.startMove)
    | (with_reducible apply Fr.modOut)
    | split

theorem FrOut.execPatrolScrub {m : Mask} {s t : State} (q_hub : m.hub = false) (q_chans : m.chans = false) {ch : Nat} {granule : Nat} {ecc : List Sys2Proof.Ecc} 
    (h : Fr m s t) : FrOut m s (@execPatrolScrub ch granule ecc t) := by
  unfold Sys2Proof.Machine.execPatrolScrub
  repeat' first
    | with_reducible assumption
    | (with_reducible apply FrOut.go)
    | (with_reducible apply FrOut.onlyIf)
    | (with_reducible exact FrOut.fault)
    | (with_reducible apply Fr.eccAll)
    | split

theorem FrOut.execXchMessageDelivered {m : Mask} {s t : State} (q_hub : m.hub = false) (q_host : m.host = false) (q_out : m.out = false) (q_chans : m.chans = false) {ch : Nat} {slot : Nat} {seq : Nat} 
    (h : Fr m s t) : FrOut m s (@execXchMessageDelivered ch slot seq t) := by
  unfold Sys2Proof.Machine.execXchMessageDelivered
  repeat' first
    | with_reducible assumption
    | (with_reducible apply FrOut.go)
    | (with_reducible apply FrOut.onlyIf)
    | (with_reducible exact FrOut.fault)
    | (with_reducible apply Fr.deliver)
    | (with_reducible apply Fr.endAt)
    | split

theorem FrOut.execExpertRequestArrival {m : Mask} {s t : State} (q_hub : m.hub = false) (q_host : m.host = false) (q_out : m.out = false) (q_chans : m.chans = false) {ch : Nat} {id : Nat} 
    (h : Fr m s t) : FrOut m s (@execExpertRequestArrival ch id t) := by
  unfold Sys2Proof.Machine.execExpertRequestArrival
  repeat' first
    | with_reducible assumption
    | (with_reducible apply FrOut.go)
    | (with_reducible apply FrOut.onlyIf)
    | (with_reducible exact FrOut.fault)
    | (with_reducible apply Fr.endAt)
    | (with_reducible apply Fr.modExp)
    | (with_reducible apply Fr.queueExpert)
    | (with_reducible apply Fr.modOut)
    | dsimp -proj only
    | split

theorem FrOut.execExpertReplyArrival {m : Mask} {s t : State} (q_chans : m.chans = false) {ch : Nat} {id : Nat} 
    (h : Fr m s t) : FrOut m s (@execExpertReplyArrival ch id t) := by
  unfold Sys2Proof.Machine.execExpertReplyArrival
  repeat' first
    | with_reducible assumption
    | (with_reducible apply FrOut.go)
    | (with_reducible apply FrOut.onlyIf)
    | (with_reducible exact FrOut.fault)
    | (with_reducible apply Fr.fillHandle)
    | split

theorem FrOut.execLinkedVertexSignal {m : Mask} {s t : State} (q_hub : m.hub = false) (q_host : m.host = false) (q_out : m.out = false) (q_chans : m.chans = false) {ch : Nat} 
    (h : Fr m s t) : FrOut m s (@execLinkedVertexSignal ch t) := by
  unfold Sys2Proof.Machine.execLinkedVertexSignal
  repeat' first
    | with_reducible assumption
    | (with_reducible apply FrOut.go)
    | (with_reducible apply FrOut.onlyIf)
    | (with_reducible exact FrOut.fault)
    | (with_reducible apply Fr.forwarded)
    | (with_reducible apply Fr.modChan)
    | split

theorem FrOut.execBarrierArrival {m : Mask} {s t : State} (q_host : m.host = false) (q_out : m.out = false) (q_chans : m.chans = false) {ch : Nat} {src : Sys2Proof.BarSource} 
    (h : Fr m s t) : FrOut m s (@execBarrierArrival ch src t) := by
  unfold Sys2Proof.Machine.execBarrierArrival
  repeat' first
    | with_reducible assumption
    | (with_reducible apply FrOut.go)
    | (with_reducible apply FrOut.onlyIf)
    | (with_reducible exact FrOut.fault)
    | (with_reducible apply Fr.nextBar)
    | (with_reducible apply Fr.arriveAt)
    | (with_reducible apply FrOut.fromPeer)
    | (with_reducible apply Fr.peerBar)
    | (with_reducible apply Fr.barSend)
    | intro _
    | split

theorem FrOut.execBarrierRelease {m : Mask} {s t : State} (q_host : m.host = false) (q_out : m.out = false) (q_chans : m.chans = false) {ch : Nat} {src : Sys2Proof.BarSource} 
    (h : Fr m s t) : FrOut m s (@execBarrierRelease ch src t) := by
  unfold Sys2Proof.Machine.execBarrierRelease
  repeat' first
    | with_reducible assumption
    | (with_reducible apply FrOut.go)
    | (with_reducible apply FrOut.onlyIf)
    | (with_reducible exact FrOut.fault)
    | (with_reducible apply Fr.nextBar)
    | (with_reducible apply Fr.releaseAt)
    | (with_reducible apply FrOut.fromPeer)
    | (with_reducible apply Fr.peerBar)
    | (with_reducible apply Fr.barSend)
    | intro _
    | split

theorem FrOut.execHeldReleaseWake {m : Mask} {s t : State} (q_chans : m.chans = false) {ch : Nat} {b : Nat} 
    (h : Fr m s t) : FrOut m s (@execHeldReleaseWake ch b t) := by
  unfold Sys2Proof.Machine.execHeldReleaseWake
  repeat' first
    | with_reducible assumption
    | (with_reducible apply FrOut.go)
    | (with_reducible apply FrOut.onlyIf)
    | (with_reducible exact FrOut.fault)
    | (with_reducible apply Fr.release)
    | dsimp -proj only
    | split

theorem FrOut.execArantHello {m : Mask} {s t : State} (q_hub : m.hub = false) (q_host : m.host = false) (q_chans : m.chans = false) {n : Nat} {hdr : BitVec 256} 
    (h : Fr m s t) : FrOut m s (@execArantHello n hdr t) := by
  unfold Sys2Proof.Machine.execArantHello
  repeat' first
    | with_reducible assumption
    | (with_reducible apply FrOut.go)
    | (with_reducible apply FrOut.onlyIf)
    | (with_reducible exact FrOut.fault)
    | (with_reducible apply Fr.countAll)
    | (with_reducible apply Fr.modPeer)
    | (with_reducible apply Fr.openPeer)
    | (with_reducible apply FrOut.fromPeer)
    | (with_reducible apply Fr.foldl)
    | (with_reducible apply Fr.foldl_fst)
    | intro _
    | dsimp -proj only
    | split
    | (refine Fr.of_pair ‹_› ?_)

theorem FrOut.execArantExchange {m : Mask} {s t : State} (q_hub : m.hub = false) (q_host : m.host = false) (q_out : m.out = false) (q_chans : m.chans = false) {n : Nat} {hdr : BitVec 256} {body : List Sys2Proof.Byte} 
    (h : Fr m s t) : FrOut m s (@execArantExchange n hdr body t) := by
  unfold Sys2Proof.Machine.execArantExchange
  repeat' first
    | with_reducible assumption
    | (with_reducible apply FrOut.go)
    | (with_reducible apply FrOut.onlyIf)
    | (with_reducible exact FrOut.fault)
    | (with_reducible apply Fr.arantIn)
    | (with_reducible apply Fr.discardMsg)
    | (with_reducible apply Fr.portArrive)
    | (with_reducible apply Fr.owe)
    | (with_reducible apply FrOut.fromPeer)
    | split

theorem FrOut.execArantExpertRequest {m : Mask} {s t : State} (q_host : m.host = false) (q_out : m.out = false) (q_chans : m.chans = false) {n : Nat} {hdr : BitVec 256} {body : List Sys2Proof.Byte} 
    (h : Fr m s t) : FrOut m s (@execArantExpertRequest n hdr body t) := by
  unfold Sys2Proof.Machine.execArantExpertRequest
  repeat' first
    | with_reducible assumption
    | (with_reducible apply FrOut.go)
    | (with_reducible apply FrOut.onlyIf)
    | (with_reducible exact FrOut.fault)
    | (with_reducible apply Fr.arantIn)
    | (with_reducible apply Fr.discardMsg)
    | (with_reducible apply Fr.owe)
    | (with_reducible apply Fr.queueExpert)
    | (with_reducible apply Fr.modChan)
    | (with_reducible apply FrOut.fromPeer)
    | split

theorem FrOut.execArantExpertReply {m : Mask} {s t : State} (q_host : m.host = false) (q_out : m.out = false) (q_chans : m.chans = false) {n : Nat} {hdr : BitVec 256} {body : List Sys2Proof.Byte} 
    (h : Fr m s t) : FrOut m s (@execArantExpertReply n hdr body t) := by
  unfold Sys2Proof.Machine.execArantExpertReply
  repeat' first
    | with_reducible assumption
    | (with_reducible apply FrOut.go)
    | (with_reducible apply FrOut.onlyIf)
    | (with_reducible exact FrOut.fault)
    | (with_reducible apply Fr.arantIn)
    | (with_reducible apply Fr.discardMsg)
    | (with_reducible apply Fr.fillHandle)
    | (with_reducible apply Fr.owe)
    | (with_reducible apply Fr.modSlot)
    | (with_reducible apply FrOut.fromPeer)
    | split

theorem FrOut.execArantCredit {m : Mask} {s t : State} (q_host : m.host = false) (q_out : m.out = false) (q_chans : m.chans = false) {n : Nat} {hdr : BitVec 256} {body : List Sys2Proof.Byte} 
    (h : Fr m s t) : FrOut m s (@execArantCredit n hdr body t) := by
  unfold Sys2Proof.Machine.execArantCredit
  repeat' first
    | with_reducible assumption
    | (with_reducible apply FrOut.go)
    | (with_reducible apply FrOut.onlyIf)
    | (with_reducible exact FrOut.fault)
    | (with_reducible apply Fr.arantIn)
    | (with_reducible apply Fr.sendWaiting)
    | (with_reducible apply Fr.allChans)
    | (with_reducible apply Fr.modPeer)
    | (with_reducible apply FrOut.fromPeer)
    | split

theorem FrOut.execArantRetraction {m : Mask} {s t : State} (q_hub : m.hub = false) (q_host : m.host = false) (q_integ : m.integ = false) (q_out : m.out = false) (q_chans : m.chans = false) {n : Nat} {hdr : BitVec 256} {body : List Sys2Proof.Byte} 
    (h : Fr m s t) : FrOut m s (@execArantRetraction n hdr body t) := by
  unfold Sys2Proof.Machine.execArantRetraction
  repeat' first
    | with_reducible assumption
    | (with_reducible apply FrOut.go)
    | (with_reducible apply FrOut.onlyIf)
    | (with_reducible exact FrOut.fault)
    | (with_reducible apply Fr.arantIn)
    | (with_reducible apply Fr.discardMsg)
    | (with_reducible apply Fr.countAll)
    | (with_reducible apply Fr.owe)
    | (with_reducible apply Fr.retractChan)
    | (with_reducible apply Fr.flushRetract)
    | (with_reducible apply FrOut.fromPeer)
    | (with_reducible apply Fr.foldl)
    | intro _
    | dsimp -proj only
    | split

theorem FrOut.execPeerApertureRead {m : Mask} {s t : State} (q_out : m.out = false)  
    (h : Fr m s t) : FrOut m s (@execPeerApertureRead t) := by
  unfold Sys2Proof.Machine.execPeerApertureRead
  repeat' first
    | with_reducible assumption
    | (with_reducible apply FrOut.go)
    | (with_reducible apply FrOut.onlyIf)
    | (with_reducible exact FrOut.fault)
    | (exact fun b => ⟨b.events, b.waiting, b.audit, b.auditWriting, b.auditA, b.auditB, b.owners, b.level, b.samples, b.sessions⟩)
    | split
    | (with_reducible apply Fr.set_out)

theorem FrOut.execIdeIntegrityFail {m : Mask} {s t : State} (q_hub : m.hub = false) (q_sec : m.sec = false) (q_chans : m.chans = false) {stream : Nat} 
    (h : Fr m s t) : FrOut m s (@execIdeIntegrityFail stream t) := by
  unfold Sys2Proof.Machine.execIdeIntegrityFail
  repeat' first
    | with_reducible assumption
    | (with_reducible apply FrOut.go)
    | (with_reducible apply FrOut.onlyIf)
    | (with_reducible exact FrOut.fault)
    | (with_reducible apply Fr.event)
    | (with_reducible apply Fr.countAll)
    | (exact fun b => ⟨b.events, b.waiting, b.audit, b.auditWriting, b.auditA, b.auditB, b.owners, b.level, b.samples, b.sessions⟩)
    | split
    | (with_reducible apply Fr.set_sec)

theorem FrOut.execFunctionLevelReset {m : Mask} {s t : State} (q_hub : m.hub = false) (q_host : m.host = false) (q_store : m.store = false) (q_out : m.out = false) (q_chans : m.chans = false) {fn : Nat} 
    (h : Fr m s t) : FrOut m s (@execFunctionLevelReset fn t) := by
  unfold Sys2Proof.Machine.execFunctionLevelReset
  repeat' first
    | with_reducible assumption
    | (with_reducible apply FrOut.go)
    | (with_reducible apply FrOut.onlyIf)
    | (with_reducible exact FrOut.fault)
    | (with_reducible apply FrOut.regCmd)
    | (with_reducible apply Fr.modFn)
    | (with_reducible apply Fr.closeFn)
    | (with_reducible apply Fr.reportFlr)
    | intro _
    | split

theorem FrOut.execFunctionOpen {m : Mask} {s t : State} (q_hub : m.hub = false) (q_host : m.host = false) (q_store : m.store = false) (q_out : m.out = false) (q_chans : m.chans = false) {fn : Nat} {v : BitVec 64} 
    (h : Fr m s t) : FrOut m s (@execFunctionOpen fn v t) := by
  unfold Sys2Proof.Machine.execFunctionOpen
  repeat' first
    | with_reducible assumption
    | (with_reducible apply FrOut.go)
    | (with_reducible apply FrOut.onlyIf)
    | (with_reducible exact FrOut.fault)
    | (with_reducible apply FrOut.regCmd)
    | (with_reducible apply Fr.wrFnOpen)
    | intro _
    | split

theorem FrOut.execFunctionClose {m : Mask} {s t : State} (q_hub : m.hub = false) (q_host : m.host = false) (q_store : m.store = false) (q_out : m.out = false) (q_chans : m.chans = false) {fn : Nat} 
    (h : Fr m s t) : FrOut m s (@execFunctionClose fn t) := by
  unfold Sys2Proof.Machine.execFunctionClose
  repeat' first
    | with_reducible assumption
    | (with_reducible apply FrOut.go)
    | (with_reducible apply FrOut.onlyIf)
    | (with_reducible exact FrOut.fault)
    | (with_reducible apply FrOut.regCmd)
    | (with_reducible apply Fr.closeFn)
    | intro _
    | split

theorem FrOut.execFunctionClosed {m : Mask} {s t : State} (q_host : m.host = false) (q_out : m.out = false) {fn : Nat} 
    (h : Fr m s t) : FrOut m s (@execFunctionClosed fn t) := by
  unfold Sys2Proof.Machine.execFunctionClosed
  repeat' first
    | with_reducible assumption
    | (with_reducible apply FrOut.go)
    | (with_reducible apply FrOut.onlyIf)
    | (with_reducible exact FrOut.fault)
    | (with_reducible apply Fr.reportFlr)
    | (with_reducible apply Fr.modFn)
    | dsimp -proj only
    | split

theorem FrOut.execRingEnable {m : Mask} {s t : State} (q_hub : m.hub = false) (q_host : m.host = false) {fn : Nat} {isCq : Bool} {n : Nat} {v : BitVec 128} 
    (h : Fr m s t) : FrOut m s (@execRingEnable fn isCq n v t) := by
  unfold Sys2Proof.Machine.execRingEnable
  repeat' first
    | with_reducible assumption
    | (with_reducible apply FrOut.go)
    | (with_reducible apply FrOut.onlyIf)
    | (with_reducible exact FrOut.fault)
    | (with_reducible apply FrOut.regCmd)
    | (with_reducible apply Fr.wrRing)
    | intro _
    | split

theorem FrOut.execRingDisable {m : Mask} {s t : State} (q_hub : m.hub = false) (q_host : m.host = false) {fn : Nat} {isCq : Bool} {n : Nat} 
    (h : Fr m s t) : FrOut m s (@execRingDisable fn isCq n t) := by
  unfold Sys2Proof.Machine.execRingDisable
  repeat' first
    | with_reducible assumption
    | (with_reducible apply FrOut.go)
    | (with_reducible apply FrOut.onlyIf)
    | (with_reducible exact FrOut.fault)
    | (with_reducible apply FrOut.regCmd)
    | (with_reducible apply Fr.wrRing)
    | intro _
    | split

theorem FrOut.execRingFreed {m : Mask} {s t : State} (q_host : m.host = false) (q_out : m.out = false) {fn : Nat} {isCq : Bool} {n : Nat} 
    (h : Fr m s t) : FrOut m s (@execRingFreed fn isCq n t) := by
  unfold Sys2Proof.Machine.execRingFreed
  repeat' first
    | with_reducible assumption
    | (with_reducible apply FrOut.go)
    | (with_reducible apply FrOut.onlyIf)
    | (with_reducible exact FrOut.fault)
    | (with_reducible apply Fr.sendVector)
    | (with_reducible apply Fr.modRing)
    | split

theorem FrOut.execProtCommit {m : Mask} {s t : State} (q_hub : m.hub = false) (q_host : m.host = false) (q_store : m.store = false) (q_chans : m.chans = false) {fn : Nat} 
    (h : Fr m s t) : FrOut m s (@execProtCommit fn t) := by
  unfold Sys2Proof.Machine.execProtCommit
  repeat' first
    | with_reducible assumption
    | (with_reducible apply FrOut.go)
    | (with_reducible apply FrOut.onlyIf)
    | (with_reducible exact FrOut.fault)
    | (with_reducible apply FrOut.regCmd)
    | (with_reducible apply Fr.wrCommit)
    | intro _
    | split

theorem FrOut.execProtDiscard {m : Mask} {s t : State} (q_hub : m.hub = false) (q_host : m.host = false) (q_store : m.store = false) (q_chans : m.chans = false) {fn : Nat} 
    (h : Fr m s t) : FrOut m s (@execProtDiscard fn t) := by
  unfold Sys2Proof.Machine.execProtDiscard
  repeat' first
    | with_reducible assumption
    | (with_reducible apply FrOut.go)
    | (with_reducible apply FrOut.onlyIf)
    | (with_reducible exact FrOut.fault)
    | (with_reducible apply FrOut.regCmd)
    | (with_reducible apply Fr.wrCommit)
    | intro _
    | split

theorem FrOut.execProtOwnWrite {m : Mask} {s t : State} (q_hub : m.hub = false) (q_host : m.host = false) (q_store : m.store = false) {fn : Nat} {v : BitVec 64} 
    (h : Fr m s t) : FrOut m s (@execProtOwnWrite fn v t) := by
  unfold Sys2Proof.Machine.execProtOwnWrite
  repeat' first
    | with_reducible assumption
    | (with_reducible apply FrOut.go)
    | (with_reducible apply FrOut.onlyIf)
    | (with_reducible exact FrOut.fault)
    | (with_reducible apply FrOut.regCmd)
    | (with_reducible apply Fr.wrOwn)
    | intro _
    | split

theorem FrOut.execSetupDone {m : Mask} {s t : State} (q_hub : m.hub = false) {fn : Nat} 
    (h : Fr m s t) : FrOut m s (@execSetupDone fn t) := by
  unfold Sys2Proof.Machine.execSetupDone
  repeat' first
    | with_reducible assumption
    | (with_reducible apply FrOut.go)
    | (with_reducible apply FrOut.onlyIf)
    | (with_reducible exact FrOut.fault)
    | (with_reducible apply FrOut.regCmd)
    | (with_reducible apply Fr.wrSetup)
    | intro _
    | split

theorem FrOut.execSmbInstallerClear {m : Mask} {s t : State} (q_hub : m.hub = false) {fn : Nat} 
    (h : Fr m s t) : FrOut m s (@execSmbInstallerClear fn t) := by
  unfold Sys2Proof.Machine.execSmbInstallerClear
  repeat' first
    | with_reducible assumption
    | (with_reducible apply FrOut.go)
    | (with_reducible apply FrOut.onlyIf)
    | (with_reducible exact FrOut.fault)
    | (with_reducible apply FrOut.regCmd)
    | (with_reducible apply Fr.wrSetup)
    | intro _
    | split

theorem FrOut.execTickCfgWrite {m : Mask} {s t : State} (q_clk : m.clk = false) (q_hub : m.hub = false) (q_store : m.store = false) {fn : Nat} {v : BitVec 32} 
    (h : Fr m s t) : FrOut m s (@execTickCfgWrite fn v t) := by
  unfold Sys2Proof.Machine.execTickCfgWrite
  repeat' first
    | with_reducible assumption
    | (with_reducible apply FrOut.go)
    | (with_reducible apply FrOut.onlyIf)
    | (with_reducible exact FrOut.fault)
    | (with_reducible apply FrOut.regCmd)
    | (with_reducible apply Fr.wrTickCfg)
    | intro _
    | split

theorem FrOut.execCheckCfgWrite {m : Mask} {s t : State} (q_hub : m.hub = false) (q_store : m.store = false) {fn : Nat} {v : BitVec 32} 
    (h : Fr m s t) : FrOut m s (@execCheckCfgWrite fn v t) := by
  unfold Sys2Proof.Machine.execCheckCfgWrite
  repeat' first
    | with_reducible assumption
    | (with_reducible apply FrOut.go)
    | (with_reducible apply FrOut.onlyIf)
    | (with_reducible exact FrOut.fault)
    | (with_reducible apply FrOut.regCmd)
    | (with_reducible apply Fr.wrCheckCfg)
    | intro _
    | split

theorem FrOut.execPwrCfgWrite {m : Mask} {s t : State} (q_hub : m.hub = false) (q_store : m.store = false) {fn : Nat} {v : BitVec 32} 
    (h : Fr m s t) : FrOut m s (@execPwrCfgWrite fn v t) := by
  unfold Sys2Proof.Machine.execPwrCfgWrite
  repeat' first
    | with_reducible assumption
    | (with_reducible apply FrOut.go)
    | (with_reducible apply FrOut.onlyIf)
    | (with_reducible exact FrOut.fault)
    | (with_reducible apply FrOut.regCmd)
    | (with_reducible apply Fr.wrPwrCfg)
    | intro _
    | split

theorem FrOut.execTestPeriodWrite {m : Mask} {s t : State} (q_hub : m.hub = false) (q_store : m.store = false) (q_chans : m.chans = false) {fn : Nat} {v : BitVec 64} 
    (h : Fr m s t) : FrOut m s (@execTestPeriodWrite fn v t) := by
  unfold Sys2Proof.Machine.execTestPeriodWrite
  repeat' first
    | with_reducible assumption
    | (with_reducible apply FrOut.go)
    | (with_reducible apply FrOut.onlyIf)
    | (with_reducible exact FrOut.fault)
    | (with_reducible apply FrOut.regCmd)
    | (with_reducible apply Fr.wrTestCfg)
    | intro _
    | split

theorem FrOut.execTestRunNow {m : Mask} {s t : State} (q_hub : m.hub = false) (q_store : m.store = false) (q_chans : m.chans = false) {fn : Nat} {v : BitVec 64} 
    (h : Fr m s t) : FrOut m s (@execTestRunNow fn v t) := by
  unfold Sys2Proof.Machine.execTestRunNow
  repeat' first
    | with_reducible assumption
    | (with_reducible apply FrOut.go)
    | (with_reducible apply FrOut.onlyIf)
    | (with_reducible exact FrOut.fault)
    | (with_reducible apply FrOut.regCmd)
    | (with_reducible apply Fr.wrTestCfg)
    | intro _
    | split

theorem FrOut.execSchedCfgWrite {m : Mask} {s t : State} (q_hub : m.hub = false) (q_chans : m.chans = false) {fn : Nat} {ch : Nat} {v : BitVec 32} 
    (h : Fr m s t) : FrOut m s (@execSchedCfgWrite fn ch v t) := by
  unfold Sys2Proof.Machine.execSchedCfgWrite
  repeat' first
    | with_reducible assumption
    | (with_reducible apply FrOut.go)
    | (with_reducible apply FrOut.onlyIf)
    | (with_reducible exact FrOut.fault)
    | (with_reducible apply FrOut.regCmd)
    | (with_reducible apply Fr.wrSchedCfg)
    | intro _
    | split

theorem FrOut.execSyncCfgWrite {m : Mask} {s t : State} (q_hub : m.hub = false) (q_chans : m.chans = false) {fn : Nat} {ch : Nat} {v : BitVec 32} 
    (h : Fr m s t) : FrOut m s (@execSyncCfgWrite fn ch v t) := by
  unfold Sys2Proof.Machine.execSyncCfgWrite
  repeat' first
    | with_reducible assumption
    | (with_reducible apply FrOut.go)
    | (with_reducible apply FrOut.onlyIf)
    | (with_reducible exact FrOut.fault)
    | (with_reducible apply FrOut.regCmd)
    | (with_reducible apply Fr.wrSyncCfg)
    | intro _
    | split

theorem FrOut.execVtxLinkWrite {m : Mask} {s t : State} (q_hub : m.hub = false) (q_chans : m.chans = false) {fn : Nat} {ch : Nat} {i : Nat} {v : BitVec 32} 
    (h : Fr m s t) : FrOut m s (@execVtxLinkWrite fn ch i v t) := by
  unfold Sys2Proof.Machine.execVtxLinkWrite
  repeat' first
    | with_reducible assumption
    | (with_reducible apply FrOut.go)
    | (with_reducible apply FrOut.onlyIf)
    | (with_reducible exact FrOut.fault)
    | (with_reducible apply FrOut.regCmd)
    | (with_reducible apply Fr.wrVtxLink)
    | intro _
    | split

theorem FrOut.execBarCfgWrite {m : Mask} {s t : State} (q_hub : m.hub = false) (q_chans : m.chans = false) {fn : Nat} {ch : Nat} {b : Nat} {v : BitVec 64} 
    (h : Fr m s t) : FrOut m s (@execBarCfgWrite fn ch b v t) := by
  unfold Sys2Proof.Machine.execBarCfgWrite
  repeat' first
    | with_reducible assumption
    | (with_reducible apply FrOut.go)
    | (with_reducible apply FrOut.onlyIf)
    | (with_reducible exact FrOut.fault)
    | (with_reducible apply FrOut.regCmd)
    | (with_reducible apply Fr.wrBarCfg)
    | intro _
    | split

theorem FrOut.execCntSelWrite {m : Mask} {s t : State} (q_hub : m.hub = false) (q_chans : m.chans = false) {fn : Nat} {ch : Nat} {n : Nat} {v : BitVec 64} 
    (h : Fr m s t) : FrOut m s (@execCntSelWrite fn ch n v t) := by
  unfold Sys2Proof.Machine.execCntSelWrite
  repeat' first
    | with_reducible assumption
    | (with_reducible apply FrOut.go)
    | (with_reducible apply FrOut.onlyIf)
    | (with_reducible exact FrOut.fault)
    | (with_reducible apply FrOut.regCmd)
    | (with_reducible apply Fr.wrCntSel)
    | intro _
    | split

theorem FrOut.execCntWrite {m : Mask} {s t : State} (q_hub : m.hub = false) (q_chans : m.chans = false) {fn : Nat} {ch : Nat} {n : Nat} {v : BitVec 64} 
    (h : Fr m s t) : FrOut m s (@execCntWrite fn ch n v t) := by
  unfold Sys2Proof.Machine.execCntWrite
  repeat' first
    | with_reducible assumption
    | (with_reducible apply FrOut.go)
    | (with_reducible apply FrOut.onlyIf)
    | (with_reducible exact FrOut.fault)
    | (with_reducible apply FrOut.regCmd)
    | (with_reducible apply Fr.wrCnt)
    | intro _
    | split

theorem FrOut.execRngSeedWrite {m : Mask} {s t : State} (q_hub : m.hub = false) (q_chans : m.chans = false) {fn : Nat} {ch : Nat} {v : BitVec 64} 
    (h : Fr m s t) : FrOut m s (@execRngSeedWrite fn ch v t) := by
  unfold Sys2Proof.Machine.execRngSeedWrite
  repeat' first
    | with_reducible assumption
    | (with_reducible apply FrOut.go)
    | (with_reducible apply FrOut.onlyIf)
    | (with_reducible exact FrOut.fault)
    | (with_reducible apply FrOut.regCmd)
    | (with_reducible apply Fr.wrSeed)
    | intro _
    | split

theorem FrOut.execMapReadbackGo {m : Mask} {s t : State} (q_hub : m.hub = false) (q_store : m.store = false) (q_chans : m.chans = false) {fn : Nat} {ch : Nat} {v : BitVec 64} 
    (h : Fr m s t) : FrOut m s (@execMapReadbackGo fn ch v t) := by
  unfold Sys2Proof.Machine.execMapReadbackGo
  repeat' first
    | with_reducible assumption
    | (with_reducible apply FrOut.go)
    | (with_reducible apply FrOut.onlyIf)
    | (with_reducible exact FrOut.fault)
    | (with_reducible apply FrOut.regCmd)
    | (with_reducible apply Fr.wrMapCmd)
    | intro _
    | split

theorem FrOut.execMapReadbackDone {m : Mask} {s t : State} (q_chans : m.chans = false) {ch : Nat} {readings : List (Nat × Int)} 
    (h : Fr m s t) : FrOut m s (@execMapReadbackDone ch readings t) := by
  unfold Sys2Proof.Machine.execMapReadbackDone
  repeat' first
    | with_reducible assumption
    | (with_reducible apply FrOut.go)
    | (with_reducible apply FrOut.onlyIf)
    | (with_reducible exact FrOut.fault)
    | (with_reducible apply Fr.modTile)
    | (with_reducible apply Fr.modChan)
    | dsimp -proj only
    | split

theorem FrOut.execRegisterWrite {m : Mask} {s t : State} (q_clk : m.clk = false) (q_hub : m.hub = false) (q_host : m.host = false) (q_store : m.store = false) (q_sec : m.sec = false) (q_out : m.out = false) (q_chans : m.chans = false) (q_fresh : m.fresh = false) {fn : Nat} {space : Sys2Proof.RegSpace} {off : Nat} {width : Nat} {v : BitVec 64} 
    (h : Fr m s t) : FrOut m s (@execRegisterWrite fn space off width v t) := by
  unfold Sys2Proof.Machine.execRegisterWrite
  repeat' first
    | with_reducible assumption
    | (with_reducible apply FrOut.go)
    | (with_reducible apply FrOut.onlyIf)
    | (with_reducible exact FrOut.fault)
    | (with_reducible apply FrOut.regCmd)
    | (with_reducible apply Fr.wrAt)
    | intro _
    | split

theorem FrOut.execMailboxOpen {m : Mask} {s t : State} (q_hub : m.hub = false) (q_host : m.host = false) {fn : Nat} {v : BitVec 64} 
    (h : Fr m s t) : FrOut m s (@execMailboxOpen fn v t) := by
  unfold Sys2Proof.Machine.execMailboxOpen
  repeat' first
    | with_reducible assumption
    | (with_reducible apply FrOut.go)
    | (with_reducible apply FrOut.onlyIf)
    | (with_reducible exact FrOut.fault)
    | (with_reducible apply FrOut.regCmd)
    | (with_reducible apply Fr.wrMbxOpen)
    | intro _
    | split

theorem FrOut.execGetVersion {m : Mask} {s t : State} (q_sec : m.sec = false) (q_out : m.out = false) {port : Nat} 
    (h : Fr m s t) : FrOut m s (@execGetVersion port t) := by
  unfold Sys2Proof.Machine.execGetVersion
  repeat' first
    | with_reducible assumption
    | (with_reducible apply FrOut.go)
    | (with_reducible apply FrOut.onlyIf)
    | (with_reducible exact FrOut.fault)
    | (with_reducible apply FrOut.spdm)
    | (with_reducible apply Fr.answer)
    | (with_reducible apply Fr.setConn)
    | intro _
    | split

theorem FrOut.execGetCapabilities {m : Mask} {s t : State} (q_sec : m.sec = false) (q_out : m.out = false) {port : Nat} {ver : Nat} 
    (h : Fr m s t) : FrOut m s (@execGetCapabilities port ver t) := by
  unfold Sys2Proof.Machine.execGetCapabilities
  repeat' first
    | with_reducible assumption
    | (with_reducible apply FrOut.go)
    | (with_reducible apply FrOut.onlyIf)
    | (with_reducible exact FrOut.fault)
    | (with_reducible apply FrOut.spdm)
    | (with_reducible apply Fr.answer)
    | (with_reducible apply Fr.setConn)
    | intro _
    | split

theorem FrOut.execNegotiateAlgorithms {m : Mask} {s t : State} (q_sec : m.sec = false) (q_out : m.out = false) {offer : Sys2Proof.AlgOffer} 
    (h : Fr m s t) : FrOut m s (@execNegotiateAlgorithms offer t) := by
  unfold Sys2Proof.Machine.execNegotiateAlgorithms
  repeat' first
    | with_reducible assumption
    | (with_reducible apply FrOut.go)
    | (with_reducible apply FrOut.onlyIf)
    | (with_reducible exact FrOut.fault)
    | (with_reducible apply FrOut.spdm)
    | (with_reducible apply Fr.answer)
    | (with_reducible apply Fr.setConn)
    | intro _
    | split

theorem FrOut.execGetDigests {m : Mask} {s t : State} (q_out : m.out = false) {port : Nat} 
    (h : Fr m s t) : FrOut m s (@execGetDigests port t) := by
  unfold Sys2Proof.Machine.execGetDigests
  repeat' first
    | with_reducible assumption
    | (with_reducible apply FrOut.go)
    | (with_reducible apply FrOut.onlyIf)
    | (with_reducible exact FrOut.fault)
    | (with_reducible apply FrOut.spdm)
    | (with_reducible apply Fr.answer)
    | intro _
    | split

theorem FrOut.execGetCertificate {m : Mask} {s t : State} (q_out : m.out = false) {port : Nat} {slot : Nat} {off : Nat} {len : Nat} 
    (h : Fr m s t) : FrOut m s (@execGetCertificate port slot off len t) := by
  unfold Sys2Proof.Machine.execGetCertificate
  repeat' first
    | with_reducible assumption
    | (with_reducible apply FrOut.go)
    | (with_reducible apply FrOut.onlyIf)
    | (with_reducible exact FrOut.fault)
    | (with_reducible apply FrOut.spdm)
    | (with_reducible apply Fr.answer)
    | intro _
    | split

theorem FrOut.execChallenge {m : Mask} {s t : State} (q_out : m.out = false) (q_fresh : m.fresh = false) {port : Nat} {slot : Nat} 
    (h : Fr m s t) : FrOut m s (@execChallenge port slot t) := by
  unfold Sys2Proof.Machine.execChallenge
  repeat' first
    | with_reducible assumption
    | (with_reducible apply FrOut.go)
    | (with_reducible apply FrOut.onlyIf)
    | (with_reducible exact FrOut.fault)
    | (with_reducible apply FrOut.spdm)
    | (with_reducible apply Fr.answer)
    | (with_reducible apply Fr.sign)
    | intro _
    | split

theorem FrOut.execGetMeasurements {m : Mask} {s t : State} (q_out : m.out = false) (q_fresh : m.fresh = false) {port : Nat} {index : Nat} {signedReq : Bool} 
    (h : Fr m s t) : FrOut m s (@execGetMeasurements port index signedReq t) := by
  unfold Sys2Proof.Machine.execGetMeasurements
  repeat' first
    | with_reducible assumption
    | (with_reducible apply FrOut.go)
    | (with_reducible apply FrOut.onlyIf)
    | (with_reducible exact FrOut.fault)
    | (with_reducible apply FrOut.spdm)
    | (with_reducible apply Fr.answer)
    | (with_reducible apply Fr.sign)
    | intro _
    | split

theorem FrOut.execKeyExchange {m : Mask} {s t : State} (q_sec : m.sec = false) (q_out : m.out = false) (q_fresh : m.fresh = false) {port : Nat} {x : Sys2Proof.KeyOffer} 
    (h : Fr m s t) : FrOut m s (@execKeyExchange port x t) := by
  unfold Sys2Proof.Machine.execKeyExchange State.spdm
  refine FrOut.onlyIf h ?_
  split
  · rename_i g
    simp only [Bool.and_eq_true, decide_eq_true_eq] at g
    have h1 : Fr m s ({ t with fresh := t.fresh + 1 } : State) := Fr.set_fresh q_fresh (fun b => ⟨b.events, b.waiting, b.audit, b.auditWriting, b.auditA, b.auditB, b.owners, b.level, b.samples, b.sessions⟩) h
    refine Fr.answer q_out (Fr.set_sec q_sec (fun b => ⟨b.events, b.waiting, b.audit, b.auditWriting, b.auditA, b.auditB,
      b.owners, b.level, b.samples, ?_⟩) (Fr.sign q_fresh h1))
    show (t.sec.sessions ++ [_]).length ≤ 4
    simp only [List.length_append, List.length_singleton]; omega
  · exact Fr.answerError q_out h


theorem FrOut.execFinish {m : Mask} {s t : State} (q_sec : m.sec = false) (q_out : m.out = false) {port : Nat} {session : Nat} {macOk : Bool} 
    (h : Fr m s t) : FrOut m s (@execFinish port session macOk t) := by
  unfold Sys2Proof.Machine.execFinish
  repeat' first
    | with_reducible assumption
    | (with_reducible apply FrOut.go)
    | (with_reducible apply FrOut.onlyIf)
    | (with_reducible exact FrOut.fault)
    | (with_reducible apply Fr.answerError)
    | (with_reducible apply Fr.answer)
    | (with_reducible apply Fr.modSession)
    | (with_reducible apply Fr.dropSession)
    | (with_reducible apply Fr.foldl)
    | (with_reducible apply Fr.foldl_fst)
    | intro _
    | dsimp -proj only
    | split
    | (refine Fr.of_pair ‹_› ?_)

theorem FrOut.execHeartbeat {m : Mask} {s t : State} (q_out : m.out = false) {port : Nat} {session : Nat} 
    (h : Fr m s t) : FrOut m s (@execHeartbeat port session t) := by
  unfold Sys2Proof.Machine.execHeartbeat
  repeat' first
    | with_reducible assumption
    | (with_reducible apply FrOut.go)
    | (with_reducible apply FrOut.onlyIf)
    | (with_reducible exact FrOut.fault)
    | (with_reducible apply FrOut.spdm)
    | (with_reducible apply Fr.answer)
    | intro _
    | split

theorem FrOut.execKeyUpdate {m : Mask} {s t : State} (q_sec : m.sec = false) (q_out : m.out = false) {port : Nat} {session : Nat} 
    (h : Fr m s t) : FrOut m s (@execKeyUpdate port session t) := by
  unfold Sys2Proof.Machine.execKeyUpdate
  repeat' first
    | with_reducible assumption
    | (with_reducible apply FrOut.go)
    | (with_reducible apply FrOut.onlyIf)
    | (with_reducible exact FrOut.fault)
    | (with_reducible apply FrOut.spdm)
    | (with_reducible apply Fr.answer)
    | (with_reducible apply Fr.modSession)
    | intro _
    | split

theorem FrOut.execEndSession {m : Mask} {s t : State} (q_sec : m.sec = false) (q_out : m.out = false) {port : Nat} {session : Nat} 
    (h : Fr m s t) : FrOut m s (@execEndSession port session t) := by
  unfold Sys2Proof.Machine.execEndSession
  repeat' first
    | with_reducible assumption
    | (with_reducible apply FrOut.go)
    | (with_reducible apply FrOut.onlyIf)
    | (with_reducible exact FrOut.fault)
    | (with_reducible apply FrOut.spdm)
    | (with_reducible apply Fr.answer)
    | (with_reducible apply Fr.dropSession)
    | (with_reducible apply Fr.foldl)
    | (with_reducible apply Fr.foldl_fst)
    | intro _
    | dsimp -proj only
    | split
    | (refine Fr.of_pair ‹_› ?_)

theorem FrOut.execChallengeExpire {m : Mask} {s t : State} (q_host : m.host = false) {port : Nat} 
    (h : Fr m s t) : FrOut m s (@execChallengeExpire port t) := by
  unfold Sys2Proof.Machine.execChallengeExpire
  repeat' first
    | with_reducible assumption
    | (with_reducible apply FrOut.go)
    | (with_reducible apply FrOut.onlyIf)
    | (with_reducible exact FrOut.fault)
    | (with_reducible apply Fr.modPort)
    | split

theorem FrOut.execConfigRecordWriteStart {m : Mask} {s t : State} (q_host : m.host = false) (q_store : m.store = false)  
    (h : Fr m s t) : FrOut m s (@execConfigRecordWriteStart t) := by
  unfold Sys2Proof.Machine.execConfigRecordWriteStart
  repeat' first
    | with_reducible assumption
    | (with_reducible apply FrOut.go)
    | (with_reducible apply FrOut.onlyIf)
    | (with_reducible exact FrOut.fault)
    | (with_reducible apply Fr.recordStart)
    | split

theorem FrOut.execConfigRecordWriteDone {m : Mask} {s t : State} (q_hub : m.hub = false) (q_host : m.host = false) (q_store : m.store = false) (q_integ : m.integ = false) (q_out : m.out = false) (q_chans : m.chans = false) (q_fresh : m.fresh = false) {readBackOk : Bool} 
    (h : Fr m s t) : FrOut m s (@execConfigRecordWriteDone readBackOk t) := by
  unfold Sys2Proof.Machine.execConfigRecordWriteDone
  repeat' first
    | with_reducible assumption
    | (with_reducible apply FrOut.go)
    | (with_reducible apply FrOut.onlyIf)
    | (with_reducible exact FrOut.fault)
    | (with_reducible apply Fr.recordDone)
    | split

theorem FrOut.execPackageStagingStart {m : Mask} {s t : State} (q_host : m.host = false) (q_store : m.store = false) (q_chans : m.chans = false)  
    (h : Fr m s t) : FrOut m s (@execPackageStagingStart t) := by
  unfold Sys2Proof.Machine.execPackageStagingStart
  repeat' first
    | with_reducible assumption
    | (with_reducible apply FrOut.go)
    | (with_reducible apply FrOut.onlyIf)
    | (with_reducible exact FrOut.fault)
    | (with_reducible apply Fr.dropRefreshes)
    | (with_reducible apply Fr.stagedNow)
    | (exact fun b => ⟨b.events, b.waiting, b.audit, b.auditWriting, b.auditA, b.auditB, b.owners, b.level, b.samples, b.sessions⟩)
    | split
    | (with_reducible apply Fr.set_host)

theorem FrOut.execPvCycleEnd {m : Mask} {s t : State} (q_hub : m.hub = false) (q_host : m.host = false) (q_store : m.store = false) (q_integ : m.integ = false) (q_out : m.out = false) (q_chans : m.chans = false) (q_fresh : m.fresh = false) {ch : Nat} {tile : Nat} {dacFault : Bool} 
    (h : Fr m s t) : FrOut m s (@execPvCycleEnd ch tile dacFault t) := by
  unfold Sys2Proof.Machine.execPvCycleEnd
  repeat' first
    | with_reducible assumption
    | (with_reducible apply FrOut.go)
    | (with_reducible apply FrOut.onlyIf)
    | (with_reducible exact FrOut.fault)
    | (with_reducible apply Fr.modChan)
    | (with_reducible apply Fr.modTile)
    | (with_reducible apply Fr.drain)
    | dsimp -proj only
    | split

theorem FrOut.execFacetProgramDone {m : Mask} {s t : State} (q_hub : m.hub = false) (q_host : m.host = false) (q_store : m.store = false) (q_out : m.out = false) (q_chans : m.chans = false) (q_fresh : m.fresh = false) {ch : Nat} {tile : Nat} {o : Sys2Proof.ProgOutcome} 
    (h : Fr m s t) : FrOut m s (@execFacetProgramDone ch tile o t) := by
  unfold Sys2Proof.Machine.execFacetProgramDone
  repeat' first
    | with_reducible assumption
    | (with_reducible apply FrOut.go)
    | (with_reducible apply FrOut.onlyIf)
    | (with_reducible exact FrOut.fault)
    | (with_reducible apply Fr.modTile)
    | (with_reducible apply Fr.acceptFacet)
    | (with_reducible apply Fr.reprogram)
    | (with_reducible apply Fr.foldl)
    | (with_reducible apply Fr.foldl_fst)
    | intro _
    | dsimp -proj only
    | split
    | (refine Fr.of_pair ‹_› ?_)

theorem FrOut.execFacetFreed {m : Mask} {s t : State} (q_hub : m.hub = false) (q_store : m.store = false) (q_chans : m.chans = false) {ch : Nat} {tile : Nat} {facet : Nat} 
    (h : Fr m s t) : FrOut m s (@execFacetFreed ch tile facet t) := by
  unfold Sys2Proof.Machine.execFacetFreed
  repeat' first
    | with_reducible assumption
    | (with_reducible apply FrOut.go)
    | (with_reducible apply FrOut.onlyIf)
    | (with_reducible exact FrOut.fault)
    | (with_reducible apply Fr.freeFacet)
    | split

theorem FrOut.execAgeAccrue {m : Mask} {s t : State} (q_hub : m.hub = false) (q_store : m.store = false)  
    (h : Fr m s t) : FrOut m s (@execAgeAccrue t) := by
  unfold Sys2Proof.Machine.execAgeAccrue
  repeat' first
    | with_reducible assumption
    | (with_reducible apply FrOut.go)
    | (with_reducible apply FrOut.onlyIf)
    | (with_reducible exact FrOut.fault)
    | (with_reducible apply Fr.modFacet)
    | (with_reducible apply Fr.refreshDue)
    | (with_reducible apply Fr.laterRecord)
    | (with_reducible apply Fr.foldl)
    | intro _
    | dsimp -proj only
    | split

theorem FrOut.execRefreshOverdue {m : Mask} {s t : State} (q_store : m.store = false) {ch : Nat} {tile : Nat} {facet : Nat} 
    (h : Fr m s t) : FrOut m s (@execRefreshOverdue ch tile facet t) := by
  unfold Sys2Proof.Machine.execRefreshOverdue
  repeat' first
    | with_reducible assumption
    | (with_reducible apply FrOut.go)
    | (with_reducible apply FrOut.onlyIf)
    | (with_reducible exact FrOut.fault)
    | (with_reducible apply Fr.modFacet)
    | split

theorem FrOut.execRefreshReadbackDone {m : Mask} {s t : State} (q_hub : m.hub = false) (q_host : m.host = false) (q_store : m.store = false) (q_chans : m.chans = false) {ch : Nat} {tile : Nat} {facet : Nat} {readings : List (Nat × Int)} {stuck : List Nat} 
    (h : Fr m s t) : FrOut m s (@execRefreshReadbackDone ch tile facet readings stuck t) := by
  unfold Sys2Proof.Machine.execRefreshReadbackDone
  repeat' first
    | with_reducible assumption
    | (with_reducible apply FrOut.go)
    | (with_reducible apply FrOut.onlyIf)
    | (with_reducible exact FrOut.fault)
    | (with_reducible apply Fr.count)
    | (with_reducible apply Fr.modTile)
    | (with_reducible apply Fr.modFacet)
    | (with_reducible apply Fr.event)
    | (exact fun b => ⟨b.events, b.waiting, b.audit, b.auditWriting, b.auditA, b.auditB, b.owners, b.level, b.samples, b.sessions⟩)
    | split
    | (with_reducible apply Fr.set_host)

theorem FrOut.execFacetCheckResult {m : Mask} {s t : State} (q_hub : m.hub = false) (q_host : m.host = false) (q_store : m.store = false) (q_integ : m.integ = false) (q_out : m.out = false) (q_chans : m.chans = false) (q_fresh : m.fresh = false) {ch : Nat} {tile : Nat} 
    (h : Fr m s t) : FrOut m s (@execFacetCheckResult ch tile t) := by
  unfold Sys2Proof.Machine.execFacetCheckResult
  repeat' first
    | with_reducible assumption
    | (with_reducible apply FrOut.go)
    | (with_reducible apply FrOut.onlyIf)
    | (with_reducible exact FrOut.fault)
    | (with_reducible apply Fr.checkResult)
    | dsimp -proj only
    | split

theorem FrOut.execResidueCheckPass {m : Mask} {s t : State} (q_hub : m.hub = false) (q_host : m.host = false) (q_store : m.store = false) (q_integ : m.integ = false) (q_out : m.out = false) (q_chans : m.chans = false) (q_fresh : m.fresh = false) {ch : Nat} {fmt : Nat} {steps : List Sys2Proof.ResidueStep} 
    (h : Fr m s t) : FrOut m s (@execResidueCheckPass ch fmt steps t) := by
  unfold Sys2Proof.Machine.execResidueCheckPass
  repeat' first
    | with_reducible assumption
    | (with_reducible apply FrOut.go)
    | (with_reducible apply FrOut.onlyIf)
    | (with_reducible exact FrOut.fault)
    | (with_reducible apply Fr.modChan)
    | (with_reducible apply Fr.count)
    | (with_reducible apply Fr.drain)
    | split

theorem FrOut.execTaintScanDone {m : Mask} {s t : State} (q_hub : m.hub = false) (q_host : m.host = false) (q_integ : m.integ = false) (q_out : m.out = false) (q_chans : m.chans = false)  
    (h : Fr m s t) : FrOut m s (@execTaintScanDone t) := by
  unfold Sys2Proof.Machine.execTaintScanDone
  repeat' first
    | with_reducible assumption
    | (with_reducible apply FrOut.go)
    | (with_reducible apply FrOut.onlyIf)
    | (with_reducible exact FrOut.fault)
    | (with_reducible apply Fr.scanChan)
    | (with_reducible apply Fr.flushWhere)
    | (with_reducible apply Fr.flushRetract)
    | (exact fun b => ⟨b.events, b.waiting, b.audit, b.auditWriting, b.auditA, b.auditB, b.owners, b.level, b.samples, b.sessions⟩)
    | (with_reducible apply Fr.foldl)
    | intro _
    | split
    | (with_reducible apply Fr.set_integ)

theorem FrOut.execQuiescence {m : Mask} {s t : State} (q_hub : m.hub = false) (q_host : m.host = false) (q_integ : m.integ = false)  
    (h : Fr m s t) : FrOut m s (@execQuiescence t) := by
  unfold Sys2Proof.Machine.execQuiescence
  repeat' first
    | with_reducible assumption
    | (with_reducible apply FrOut.go)
    | (with_reducible apply FrOut.onlyIf)
    | (with_reducible exact FrOut.fault)
    | (with_reducible apply Fr.event)
    | (with_reducible apply Fr.becomeDrained)
    | (exact fun b => ⟨b.events, b.waiting, b.audit, b.auditWriting, b.auditA, b.auditB, b.owners, b.level, b.samples, b.sessions⟩)
    | (with_reducible apply Fr.foldl)
    | intro _
    | split
    | (with_reducible apply Fr.set_integ)

theorem FrOut.execTestDue {m : Mask} {s t : State} (q_chans : m.chans = false) {ch : Nat} 
    (h : Fr m s t) : FrOut m s (@execTestDue ch t) := by
  unfold Sys2Proof.Machine.execTestDue
  repeat' first
    | with_reducible assumption
    | (with_reducible apply FrOut.go)
    | (with_reducible apply FrOut.onlyIf)
    | (with_reducible exact FrOut.fault)
    | (with_reducible apply Fr.modChan)
    | split

theorem FrOut.execTestShed {m : Mask} {s t : State} (q_chans : m.chans = false) {ch : Nat} 
    (h : Fr m s t) : FrOut m s (@execTestShed ch t) := by
  unfold Sys2Proof.Machine.execTestShed
  repeat' first
    | with_reducible assumption
    | (with_reducible apply FrOut.go)
    | (with_reducible apply FrOut.onlyIf)
    | (with_reducible exact FrOut.fault)
    | (with_reducible apply Fr.modChan)
    | split

theorem FrOut.execTestHeatingEnd {m : Mask} {s t : State} (q_chans : m.chans = false) {ch : Nat} 
    (h : Fr m s t) : FrOut m s (@execTestHeatingEnd ch t) := by
  unfold Sys2Proof.Machine.execTestHeatingEnd
  repeat' first
    | with_reducible assumption
    | (with_reducible apply FrOut.go)
    | (with_reducible apply FrOut.onlyIf)
    | (with_reducible exact FrOut.fault)
    | (with_reducible apply Fr.modChan)
    | split

theorem FrOut.execTestVerdict {m : Mask} {s t : State} (q_hub : m.hub = false) (q_host : m.host = false) (q_store : m.store = false) (q_integ : m.integ = false) (q_out : m.out = false) (q_chans : m.chans = false) (q_fresh : m.fresh = false) {ch : Nat} {found : Sys2Proof.TestFound} 
    (h : Fr m s t) : FrOut m s (@execTestVerdict ch found t) := by
  unfold Sys2Proof.Machine.execTestVerdict
  repeat' first
    | with_reducible assumption
    | (with_reducible apply FrOut.go)
    | (with_reducible apply FrOut.onlyIf)
    | (with_reducible exact FrOut.fault)
    | (with_reducible apply Fr.testChecks)
    | (with_reducible apply Fr.event)
    | (with_reducible apply Fr.drain)
    | (with_reducible apply Fr.modChan)
    | split

theorem FrOut.execSensorSample {m : Mask} {s t : State} (q_hub : m.hub = false) (q_host : m.host = false) (q_store : m.store = false) (q_integ : m.integ = false) (q_therm : m.therm = false) (q_out : m.out = false) (q_chans : m.chans = false) (q_fresh : m.fresh = false) {n : Nat} {reading : Int} 
    (h : Fr m s t) : FrOut m s (@execSensorSample n reading t) := by
  unfold Sys2Proof.Machine.execSensorSample
  repeat' first
    | with_reducible assumption
    | (with_reducible apply FrOut.go)
    | (with_reducible apply FrOut.onlyIf)
    | (with_reducible exact FrOut.fault)
    | (with_reducible apply Fr.breakSensor)
    | (with_reducible apply Fr.substitute)
    | (with_reducible apply Fr.useReading)
    | split

theorem FrOut.execThermalLevelStep {m : Mask} {s t : State} (q_chans : m.chans = false) {ch : Nat} 
    (h : Fr m s t) : FrOut m s (@execThermalLevelStep ch t) := by
  unfold Sys2Proof.Machine.execThermalLevelStep
  repeat' first
    | with_reducible assumption
    | (with_reducible apply FrOut.go)
    | (with_reducible apply FrOut.onlyIf)
    | (with_reducible exact FrOut.fault)
    | (with_reducible apply Fr.countAll)
    | (with_reducible apply Fr.modChan)
    | split

theorem FrOut.execPowerMeterSample {m : Mask} {s t : State} (q_therm : m.therm = false) {centiwatts : Nat} 
    (h : Fr m s t) : FrOut m s (@execPowerMeterSample centiwatts t) := by
  unfold Sys2Proof.Machine.execPowerMeterSample
  repeat' first
    | with_reducible assumption
    | (with_reducible apply FrOut.go)
    | (with_reducible apply FrOut.onlyIf)
    | (with_reducible exact FrOut.fault)
    | (exact fun b => ⟨by first | exact b.events | (simp; done) | (have := b.events; simp; omega), by first | exact b.waiting | (simp; done) | (have := b.waiting; simp; omega), by first | exact b.audit | (simp; done) | (have := b.audit; simp; omega), by first | exact b.auditWriting | (simp; done) | (have := b.auditWriting; simp; omega), by first | exact b.auditA | (simp; done) | (have := b.auditA; simp; omega), by first | exact b.auditB | (simp; done) | (have := b.auditB; simp; omega), by first | exact b.owners | (simp; done) | (have := b.owners; simp; omega), by first | exact b.level | (simp; done) | (have := b.level; simp; omega), by first | exact b.samples | (simp; done) | (have := b.samples; simp; omega), by first | exact b.sessions | (simp; done) | (have := b.sessions; simp; omega)⟩)
    | split
    | (with_reducible apply Fr.set_therm)

theorem Therm.control_level (x : Therm) (cap : Nat) (b : Bool) (h : x.level ≤ 11) : (x.control cap b).level ≤ 11 := by
  unfold Therm.control
  dsimp only
  split
  · rename_i g; simp only [Bool.and_eq_true, decide_eq_true_eq] at g; omega
  · split <;> omega

theorem FrOut.execControlStep {m : Mask} {s t : State} (q_hub : m.hub = false) (q_therm : m.therm = false) (q_chans : m.chans = false)  
    (h : Fr m s t) : FrOut m s (@execControlStep t) := by
  unfold Sys2Proof.Machine.execControlStep
  extract_lets n cap x _ t1 t2 t3
  have h1 : Fr m s t1 := Fr.set_hub_therm q_hub q_therm (fun b => ⟨b.events, b.waiting, b.audit, b.auditWriting, b.auditA, b.auditB, b.owners,
    Therm.control_level _ _ _ b.level, b.samples, b.sessions⟩) h
  have h2 : Fr m s t2 := Fr.ite (Fr.countAll q_chans h1) (Fr.ite (Fr.countAll q_chans h1) h1)
  exact FrOut.onlyIf h (Fr.ite (Fr.event q_hub h2) h2)


theorem FrOut.execSupplyReturnToRange {m : Mask} {s t : State} (q_pwr : m.pwr = false)  
    (h : Fr m s t) : FrOut m s (@execSupplyReturnToRange t) := by
  unfold Sys2Proof.Machine.execSupplyReturnToRange
  repeat' first
    | with_reducible assumption
    | (with_reducible apply FrOut.go)
    | (with_reducible apply FrOut.onlyIf)
    | (with_reducible exact FrOut.fault)
    | (exact fun b => ⟨b.events, b.waiting, b.audit, b.auditWriting, b.auditA, b.auditB, b.owners, b.level, b.samples, b.sessions⟩)
    | split
    | (with_reducible apply Fr.set_pwr)

theorem FrOut.execSupplyBelow1V {m : Mask} {s t : State} (q_pwr : m.pwr = false)  
    (h : Fr m s t) : FrOut m s (@execSupplyBelow1V t) := by
  unfold Sys2Proof.Machine.execSupplyBelow1V
  repeat' first
    | with_reducible assumption
    | (with_reducible apply FrOut.go)
    | (with_reducible apply FrOut.onlyIf)
    | (with_reducible exact FrOut.fault)
    | (exact fun b => ⟨b.events, b.waiting, b.audit, b.auditWriting, b.auditA, b.auditB, b.owners, b.level, b.samples, b.sessions⟩)
    | split
    | (with_reducible apply Fr.set_pwr)

theorem FrOut.execIdeKmKeyProgram {m : Mask} {s t : State} (q_sec : m.sec = false) {stream : Nat} {session : Nat} 
    (h : Fr m s t) : FrOut m s (@execIdeKmKeyProgram stream session t) := by
  unfold Sys2Proof.Machine.execIdeKmKeyProgram
  repeat' first
    | with_reducible assumption
    | (with_reducible apply FrOut.go)
    | (with_reducible apply FrOut.onlyIf)
    | (with_reducible exact FrOut.fault)
    | (exact fun b => ⟨b.events, b.waiting, b.audit, b.auditWriting, b.auditA, b.auditB, b.owners, b.level, b.samples, b.sessions⟩)
    | split
    | (with_reducible apply Fr.set_sec)

theorem FrOut.execStateTransferEnd {m : Mask} {s t : State} (q_hub : m.hub = false) (q_host : m.host = false) (q_out : m.out = false) (q_chans : m.chans = false) {ch : Nat} {id : Nat} {data : Sys2Proof.ReadRes} 
    (h : Fr m s t) : FrOut m s (@execStateTransferEnd ch id data t) := by
  unfold Sys2Proof.Machine.execStateTransferEnd
  repeat' first
    | with_reducible assumption
    | (with_reducible apply FrOut.go)
    | (with_reducible apply FrOut.onlyIf)
    | (with_reducible exact FrOut.fault)
    | (with_reducible apply Fr.advance)
    | (with_reducible apply Fr.finish)
    | (with_reducible apply Fr.getState)
    | (with_reducible apply Fr.putState)
    | split

theorem FrOut.execSharedTablesCopyEnd {m : Mask} {s t : State} (q_chans : m.chans = false) {ch : Nat} 
    (h : Fr m s t) : FrOut m s (@execSharedTablesCopyEnd ch t) := by
  unfold Sys2Proof.Machine.execSharedTablesCopyEnd
  repeat' first
    | with_reducible assumption
    | (with_reducible apply FrOut.go)
    | (with_reducible apply FrOut.onlyIf)
    | (with_reducible exact FrOut.fault)
    | (with_reducible apply Fr.modChan)
    | split

theorem Fr.passNs {m : Mask} {s t : State} (q_clk : m.clk = false) (q_chans : m.chans = false)  
    (h : Fr m s t) : Fr m s (@passNs t) := by
  unfold Sys2Proof.Machine.passNs
  repeat' first
    | with_reducible assumption
    | (with_reducible apply Fr.allChans)
    | (with_reducible apply Fr.chordNs)
    | (with_reducible apply Fr.countWaits)
    | (exact fun b => ⟨b.events, b.waiting, b.audit, b.auditWriting, b.auditA, b.auditB, b.owners, b.level, b.samples, b.sessions⟩)
    | split
    | (with_reducible apply Fr.set_clk)

end Sys2Proof.Machine
end

