-- ==== Sys2Proof/Laws/Memory.lean ====
section
/-! SUPPORT. Every operation of a channel's memory keeps the canonical form of its LPDDR5X; what a line written back reads as. -/

namespace Sys2Proof.Machine

theorem Mem.wf_iff (m : Mem) : m.wf = true ↔ Sparse.wf 0 m.lpddr = true ∧ Sparse.wf false m.poison = true := by
  simp [Mem.wf]

/-- Reset memory is canonical. -/
theorem Mem.wf_reset : ({} : Mem).wf = true := rfl

theorem wf_foldl_sput {α β : Type} [DecidableEq α] (d : α) (key : β → Nat) (val : β → α) : ∀ (l : List β) (m : Sparse α),
    Sparse.wf d m = true → Sparse.wf d (l.foldl (fun m e => sput d m (key e) (val e)) m) = true
  | [], _, h => h
  | _ :: l, m, h => wf_foldl_sput d key val l _ (Sparse.wf_sput d _ m _ h)

theorem Mem.wf_writeLine (m : Mem) (n : Nat) (d : LineData) (h : m.wf = true) : (m.writeLine n d).wf = true := by
  rw [Mem.wf_iff] at h ⊢
  exact ⟨Sparse.wf_sputList 0 _ _ _ h.1, wf_foldl_sput false (fun e : Bool × Nat => 4 * n + e.2) (fun e => e.1) _ _ h.2⟩

theorem Mem.wf_zeroPage (m : Mem) (p : Nat) (h : m.wf = true) : (m.zeroPage p).wf = true := by
  rw [Mem.wf_iff] at h ⊢
  exact ⟨Sparse.wf_filter 0 _ _ h.1, Sparse.wf_filter false _ _ h.2⟩

theorem Mem.wf_makeRoom (m : Mem) (n : Nat) (h : m.wf = true) : (m.makeRoom n).1.wf = true := by
  unfold Mem.makeRoom
  split
  · exact h
  · dsimp only
    split
    · exact h
    · split
      · exact h
      · split
        · split
          · exact Mem.wf_writeLine _ _ _ h
          · exact h
        · exact h

theorem Mem.wf_readLine (m : Mem) (h n : Nat) (k : m.wf = true) : (m.readLine h n).mem.wf = true := by
  unfold Mem.readLine
  dsimp only
  split
  · split
    · exact k
    · split
      · exact k
      · exact k
  · split
    · exact k
    · split
      · exact Mem.wf_makeRoom m n k
      · exact k

theorem Mem.wf_stageLine (m : Mem) (h n : Nat) (d : LineData) (k : m.wf = true) : (m.stageLine h n d).1.wf = true :=
  Mem.wf_makeRoom m n k

theorem Mem.wf_fitLine (m : Mem) (n : Nat) (k : m.wf = true) : (m.fitLine n).wf = true := by
  unfold Mem.fitLine
  split
  · exact k
  · dsimp only
    split
    · split
      · exact Mem.wf_writeLine _ _ _ k
      · exact k
    · exact k

theorem Mem.wf_endFills (m : Mem) (ps : List Page) (k : m.wf = true) : (m.endFills ps).wf = true := k

theorem Mem.wf_commitStaged (m : Mem) (h : Nat) (k : m.wf = true) : (m.commitStaged h).wf = true := k

theorem Mem.wf_discardStaged (m : Mem) (h : Nat) (k : m.wf = true) : (m.discardStaged h).wf = true := k

theorem Mem.wf_strike (m : Mem) (sl g : Nat) (k : m.wf = true) : (m.strike sl g).wf = true := k

theorem Mem.wf_flush (m : Mem) (k : m.wf = true) : m.flush.wf = true := by
  have step : ∀ (l : Sparse Line) (m : Mem), m.wf = true → (l.foldl (fun m e => match e.2.data with
      | some d => if d.dirty then { m.writeLine e.1 d with cache := sput {} m.cache e.1 { e.2 with data := some { d with dirty := false } } } else m
      | none => m) m).wf = true := by
    intro l
    induction l with
    | nil => exact fun _ h => h
    | cons e l ih =>
      intro m h
      rw [List.foldl_cons]
      refine ih _ ?_
      split
      · split
        · exact Mem.wf_writeLine _ _ _ h
        · exact h
      · exact h
  exact step _ _ k

theorem Mem.wf_readBlobLines (x : Ctx) (h : Nat) : ∀ (n off : Nat) (r : BlobRead), r.mem.wf = true →
    (Mem.readBlobLines x h n off r).mem.wf = true
  | 0, _, _, k => k
  | n + 1, off, r, k => by
    unfold Mem.readBlobLines
    split
    · exact Mem.wf_readBlobLines x h n _ _ k
    · dsimp only
      split
      · exact Mem.wf_readBlobLines x h n _ _ k
      · exact Mem.wf_readBlobLines x h n _ _ (Mem.wf_readLine _ _ _ k)

theorem Mem.wf_readBlob (m : Mem) (x : Ctx) (h off n : Nat) (k : m.wf = true) : (m.readBlob x h off n).mem.wf = true :=
  Mem.wf_readBlobLines x h _ _ _ k

theorem BlobWrite.wf_line (w : BlobWrite) (h off : Nat) (v : List Byte) (k : w.mem.wf = true) : (w.line h off v).mem.wf = true := by
  unfold BlobWrite.line
  split
  · exact k
  · rename_i p ln _
    extract_lets q w' whole l cached a lo d r
    have kw : w'.mem.wf = true := by
      unfold w'; split
      · exact Mem.wf_zeroPage _ _ k
      · exact k
    have ka : a.mem.wf = true := by
      unfold a; split
      · exact kw
      · exact Mem.wf_readLine _ _ _ kw
    exact Mem.wf_stageLine _ _ _ _ ka

theorem BlobWrite.wf_bytes : ∀ (n : Nat) (w : BlobWrite) (h off : Nat) (v : List Byte), w.mem.wf = true →
    (BlobWrite.bytes n w h off v).mem.wf = true
  | 0, _, _, _, _, k => k
  | n + 1, w, h, off, v, k => by
    unfold BlobWrite.bytes
    split
    · exact k
    · exact BlobWrite.wf_bytes n _ _ _ _ (BlobWrite.wf_line w h off _ k)

theorem Mem.wf_stageBlob (m : Mem) (x : Ctx) (h off : Nat) (v : List Byte) (k : m.wf = true) : (m.stageBlob x h off v).mem.wf = true :=
  BlobWrite.wf_bytes _ _ _ _ _ k

/-- A byte of a line written back. -/
theorem Mem.writeLine_byte (m : Mem) (n : Nat) (d : LineData) (a : Nat) :
    sget 0 (m.writeLine n d).lpddr a = if 256 * n ≤ a ∧ a < 256 * n + d.bytes.length then d.bytes.getD (a - 256 * n) 0 else sget 0 m.lpddr a :=
  sget_sputList 0 d.bytes m.lpddr (256 * n) a

end Sys2Proof.Machine
end

