-- ==== Sys2Proof/WellFormed.lean ====
section
/-! DEFINITION. Which commands are well formed: every index lies in the range the manual gives its kind. -/

namespace Sys2Proof

/-- Channels 0 to 7 (R1). -/
def chOk (c : Nat) : Bool := decide (c < 8)
/-- Issue slots 0 to 15 (R132). -/
def slotOk (n : Nat) : Bool := decide (n < 16)
/-- Tiles 0 to 383 (00_scope.md, Names). -/
def tileOk (t : Nat) : Bool := decide (t < 384)
/-- Facets 0 to 15. -/
def facetOk (f : Nat) : Bool := decide (f < 16)
/-- Functions 0 to 31 (R244). -/
def fnOk (f : Nat) : Bool := decide (f < 32)
/-- Rings 0 to 31 of a function (R248). -/
def ringOk (q : Nat) : Bool := decide (q < 32)
/-- Peer windows 0 to 63 (R266). -/
def peerOk (n : Nat) : Bool := decide (n < 64)
/-- Mailbox ports: a function, or 63 for SMBus (R317, R384). -/
def portOk (p : Nat) : Bool := decide (p < 32) || p == 63
/-- A mailbox request carries at most 4,096 bytes of data (R385). -/
def mbxOk (r : MbxReq) : Bool := decide (r.ver < 256 ∧ r.tag < 2 ^ 32 ∧ r.data.length ≤ 4096)
/-- Barriers 0 to 255 (R275). -/
def barOk (b : Nat) : Bool := decide (b < 256)

/-- Is the command well formed? -/
def Instr.wf : Instr → Bool
  | .add c n | .sub c n | .and c n | .or c n | .xor c n | .shl c n | .shr c n | .sra c n | .mul c n | .slt c n | .sltu c n
  | .li c n | .ldS c n | .stS c n | .bdSet c n | .rdSys c n | .beq c n | .bne c n | .blt c n | .bge c n | .jmp c n | .mvmA c n
  | .mvmD c n | .quantRow c n | .deq c n | .redTopk c n | .redMm c n | .normRow c n | .actTab c n | .vecOp c n | .emit c n
  | .xchSnd c n | .xchRcv c n | .spill c n | .resume c n | .sig c n | .wait c n | .bar c n | .yield c n | .halt c n
  | .inferenceCommit c n | .slotBind c n => chOk c && slotOk n
  | .ctxLd c n _ | .ctxSt c n _ => chOk c && slotOk n
  | .unitStart c n _ _ | .instructionComplete c n _ | .lookbackVerdict c n _ | .requantDone c n _ | .cacheSetWaitEnd c n _
  | .xchMessageDelivered c n _ => chOk c && slotOk n
  | .tileGrant c t | .facetSwitchDone c t | .mvmComplete c t _ _ | .pvCycleEnd c t _ | .facetProgramDone c t _
  | .facetCheckResult c t => chOk c && tileOk t
  | .bankDrain c t b => chOk c && tileOk t && decide (b < 2)
  | .facetFreed c t f | .refreshOverdue c t f | .refreshReadbackDone c t f _ _ => chOk c && tileOk t && facetOk f
  | .autoSpill c n h => chOk c && slotOk n && decide (h < 4)
  | .groupGrant c | .weightStreamStart c | .weightBlockArrival c _ _ | .patrolScrub c _ _ | .expertRequestArrival c _
  | .expertReplyArrival c _ | .linkedVertexSignal c | .sampleRunEnd c | .inputReadDone c _ _ | .mapReadbackDone c _
  | .testDue c | .testShed c | .testHeatingEnd c | .testVerdict c _ | .thermalLevelStep c | .stateTransferEnd c _ _
  | .sharedTablesCopyEnd c => chOk c
  | .residueCheckPass c f _ => chOk c && decide (f < 8)
  | .barrierArrival c _ | .barrierRelease c _ => chOk c
  | .heldReleaseWake c b => chOk c && barOk b
  | .infer f q _ | .ctxOpen f q _ | .ctxReset f q _ | .ctxRelease f q _ | .stateGet f q _ | .statePut f q _ | .ctxQuery f q _
  | .loadWeights f q _ _ _ | .loadProgram f q _ _ _ | .sample f q _ => fnOk f && ringOk q
  | .ctxReleaseComplete x => decide (x < 262144)
  | .intakeClose x => x.doorbells.all (fun d => fnOk d.fn && decide (d.words.length = 64)) && x.ecc.all (fun e => chOk e.1)
  | .arantHello n _ | .arantExchange n _ _ | .arantExpertRequest n _ _ | .arantExpertReply n _ _ | .arantCredit n _ _
  | .arantRetraction n _ _ => peerOk n
  | .ideIntegrityFail k | .ideKmKeyProgram k _ => decide (k < 65)
  | .functionLevelReset f | .functionOpen f _ | .functionClose f | .functionClosed f | .protCommit f | .protDiscard f
  | .protOwnWrite f _ | .setupDone f | .smbInstallerClear f | .tickCfgWrite f _ | .checkCfgWrite f _ | .pwrCfgWrite f _
  | .testPeriodWrite f _ | .testRunNow f _ | .mailboxOpen f _ => fnOk f
  | .ringEnable f _ n _ | .ringDisable f _ n | .ringFreed f _ n => fnOk f && ringOk n
  | .schedCfgWrite f c _ | .syncCfgWrite f c _ | .rngSeedWrite f c _ | .mapReadbackGo f c _ => fnOk f && chOk c
  | .vtxLinkWrite f c i _ => fnOk f && chOk c && decide (i < 32)
  | .barCfgWrite f c b _ => fnOk f && chOk c && barOk b
  | .cntSelWrite f c n _ | .cntWrite f c n _ => fnOk f && chOk c && decide (n < 8)
  | .registerWrite f _ _ w _ => fnOk f && decide (0 < w ∧ w ≤ 64)
  | .openMailbox p r | .getChallenge p r | .assumeRole p r _ | .releaseRole p r | .readEvents p r | .readAudit p r
  | .readErrlog p r | .flushStore p r | .setModuleId p r | .authSlot p r | .unmapFacet p r | .readModuleId p r
  | .firmwareStage p r _ _ | .firmwareActivate p r | .calibrate p r | .provision p r | .clearReplacementFlag p r
  | .openDebugWindow p r => portOk p && mbxOk r
  | .getVersion p | .getCapabilities p _ | .getDigests p | .getCertificate p _ _ _ | .challenge p _
  | .getMeasurements p _ _ | .keyExchange p _ | .finish p _ _ | .heartbeat p _ | .keyUpdate p _ | .endSession p _
  | .challengeExpire p => portOk p
  | .negotiateAlgorithms x => portOk x.port
  | .sensorSample k _ => decide (k < 74)
  | .powerUp | .powerGood _ | .apexRelease _ _ | .bootComplete | .bootTimeout | .linkTrained _ | .enterService | .powerLoss
  | .overvoltageShutdown | .supplyLowEntry | .supplyHighEntry | .supplyBandMs | .perstAssert | .perstGlitch | .warmReset _
  | .perstRelease _ | .tickInEdge | .holdoverTimeout | .internalTick | .tick | .endOfCompute | .checkSlot | .yieldMark
  | .emissionClose _ | .lateCompletionWrite | .peerApertureRead | .configRecordWriteStart
  | .configRecordWriteDone _ | .packageStagingStart | .ageAccrue | .taintScanDone | .quiescence | .powerMeterSample _
  | .controlStep | .supplyReturnToRange | .supplyBelow1V => true

end Sys2Proof
end

