-- ==== Sys2Proof/Tests/Slice0.lean ====
section
/-! SUPPORT. Tests of the model: ill-formed commands, worked examples of the manual, and for each statement with hypotheses a state
and operands that meet them. -/

namespace Sys2Proof.Tests

open Sys2Proof.Machine Sys2Proof.Claims

/-! ### Well-formedness: one ill-formed command for each check -/

theorem test_illFormed_refused : (List.all [Instr.tick, .add 7 15, .mvmComplete 7 383 [] false, .infer 31 31 { fetch := .ur, ecc := [] }, .getChallenge 63 { ver := 16, tag := 0, data := [] }]
    Instr.wf = true) ∧
  List.all [Instr.testDue 8, .add 8 0, .add 0 16, .unitStart 0 16 0 [], .ctxLd 8 0 [], .tileGrant 0 384, .bankDrain 0 0 2, .facetFreed 0 0 16,
    .autoSpill 0 0 4, .groupGrant 8, .residueCheckPass 0 8 [], .barrierArrival 8 .own, .heldReleaseWake 0 256, .infer 32 0 { fetch := .ur, ecc := [] }, .infer 0 32 { fetch := .ur, ecc := [] },
    .ctxReleaseComplete 262144, .intakeClose { doorbells := [{ fn := 0, words := [] }], ecc := [] }, .intakeClose { doorbells := [], ecc := [(8, .single 0)] }, .arantHello 64 0, .ideIntegrityFail 65, .functionClose 32,
    .ringFreed 0 true 32, .schedCfgWrite 0 8 0, .vtxLinkWrite 0 0 32 0, .barCfgWrite 0 0 256 0, .cntWrite 0 0 8 0, .registerWrite 0 .bar0 0 65 0,
    .getChallenge 32 { ver := 16, tag := 0, data := [] }, .getChallenge 0 { ver := 256, tag := 0, data := [] }, .getVersion 62, .sensorSample 74 0]
    (fun i => !i.wf) = true := by decide

/-! ### Small states -/

/-- A module in service in the compute part of a frame, with `k` as channel 0. -/
def base (k : Chan := {}) : State :=
  { pwr := { supply := .on, boot := .booted, perstLow := false, link := some { gen := 5, width := 4 }, recordOk := true, keyOk := true
             trimsOk := true, surveyOk := true }
    clk := { running := true, first := false, phase := .compute }
    integ := { svc := .inService }
    chans := [(0, k)] }

/-- An instruction word: opcode and fields. -/
def ins (op : Nat) (l : List (Nat × Nat × Nat)) : Word := BitVec.ofNat 64 (pack ((63, 56, op) :: l))

/-- Descriptors: FP32 rows of four at 0 and 64, INT8, BF16, a state row, a host row, INT32, the shared region, a 4 by 4 matrix, a row of 1,024. -/
def bds : List (BitVec 128) :=
  [mkBd 0 0 0 3 0 0, mkBd 0 0 0 3 0 64, mkBd 0 7 0 3 0 128, mkBd 0 1 0 3 0 192, mkBd 2 0 0 3 0 0, mkBd 4 0 0 3 0 0, mkBd 0 6 0 3 0 256, mkBd 1 0 0 3 0 0,
   mkBd 0 0 3 3 0 512, mkBd 0 0 0 1023 0 4096]

/-- A slot bound to job 1 with those descriptors. -/
def slot1 : Slot := { job := some 1, bds := bds, recIssued := true }

/-- Channel 0 with slot 0 as `x`, about to issue `w`. -/
def chan1 (w : Word) (x : Slot) : Chan :=
  { jobs := [{ id := 1, stage := .bound 0 }], seqr := { slots := [(0, x)], images := [(0, { words := [w] })] } }

/-- The module with that channel. -/
def at1 (w : Word) (x : Slot := slot1) : State := base (chan1 w x)

/-! ### Hypotheses are met: the machine -/

theorem test_witness_queue : ({ base with pending := [.tick, .yieldMark] } : State).pending = .tick :: [.yieldMark] ∧
    base.pending = [] ∧ base.pwr.supply = .on ∧ base.pwr.boot ≠ .off ∧ State.reset.pending = [] ∧ State.reset.pwr.supply ≠ .on := by decide

theorem test_witness_next : ∃ t, exec .yieldMark base = .next t := ⟨_, rfl⟩

theorem test_witness_EveryStepKeepsTheBounds : Bounded { base with pending := [.yieldMark] } ∧ ∃ t, step { base with pending := [.yieldMark] } = .next t :=
  ⟨⟨by decide, by decide, by decide, by simp [base], by decide, by decide, by decide, by decide, by decide, by decide⟩, _, rfl⟩

/-! ### The sequencer -/

theorem test_witness_ArithmeticWritesItsResult : ∀ e ∈ arith, Issues (at1 (ins e.2.1 [])) 0 0 e.2.1 (ins e.2.1 []) := by
  simp only [Issues]; decide

theorem test_witness_BranchesGoWhereTheyHold : ∀ e ∈ branches, Issues (at1 (ins e.2.1 [])) 0 0 e.2.1 (ins e.2.1 []) := by
  simp only [Issues]; decide

theorem test_witness_immediates : Issues (at1 (ins 0x0C [(49, 49, 1)])) 0 0 0x0C (ins 0x0C [(49, 49, 1)]) ∧
    (∀ n, n < 7 → let x := { slot1 with recDone := true }
      Issues (at1 (ins 0x10 [(23, 0, n)]) x) 0 0 0x10 (ins 0x10 [(23, 0, n)]) ∧ fld (ins 0x10 [(23, 0, n)]) 23 0 = n ∧
      ((at1 0 x).slot 0 0).recDone = true ∧ ((at1 0 x).chan 0).job? (((at1 0 x).slot 0 0).job.getD 0) ≠ none) ∧
    ((at1 0).slot 0 0).recDone = false := by simp only [Issues]; decide

theorem test_witness_SetDescriptorWritesTheField : ∀ e ∈ [(0, 64), (1, 1), (1, 4096), (2, 1), (2, 32768), (3, 0), (3, 1048575)],
    let w := ins 0x0F [(42, 38, 1), (29, 28, e.1)]
    let s := at1 w { slot1 with regs := [(1, BitVec.ofNat 64 e.2)] }
    Issues s 0 0 0x0F w ∧ fld w 29 28 = e.1 ∧ e.2 = ((s.slot 0 0).reg (fld w 42 38) + BitVec.ofInt 64 (signed 24 (fld w 23 0))).toNat := by
  simp only [Issues]; decide

/-- The outstanding instruction with word `w`, number 7. -/
def out7 (w : Word) : Outst := { seq := 7, word := w, bds := bds }

theorem test_witness_window : (∀ op, op = 0x0D ∨ op = 0x0E → let w := ins op [(27, 24, 1), (23, 0, 262072)]
      Issues (at1 w) 0 0 op w ∧ (BitVec.ofNat 64 (bdBase (((at1 w).slot 0 0).bd (fld w 27 24))) + ((at1 w).slot 0 0).reg (fld w 42 38) +
        BitVec.ofInt 64 (signed 24 (fld w 23 0))).toNat = 262136 ∧ 262136 + 8 ≤ windowBytes ∧
      let s := at1 0 { slot1 with outs := [{ out7 w with started := true }] }
      (s.slot 0 0).out? 7 = some { out7 w with started := true } ∧ opOf w = op) := by
  simp only [Issues]; rintro op (rfl | rfl) <;> decide

theorem test_witness_runaway : (∀ e ∈ arith, let s := at1 (ins e.2.1 []) { slot1 with sinceYield := 1048575 }
      s.atIssue 0 0 e.2.1 = some (ins e.2.1 []) ∧ runawayLimit ≤ (s.slot 0 0).sinceYield + 1) ∧
    (let w := ins 0x29 []
     Issues (at1 w) 0 0 0x29 w ∧ State.deqBad ((at1 w).issued 0 0 w) 0 0 (entryWith (at1 w) 0 0 w) = some (stProgramFault, 5)) := by
  simp only [Issues]; decide

/-- For each row of `unitRows` a word that passes its checks in `unitState`. -/
def unitWords : List Word :=
  [ins 0x20 [(47, 44, 2)], ins 0x21 [(47, 44, 0), (43, 40, 8), (39, 36, 1)], ins 0x28 [(47, 44, 0), (43, 40, 2), (39, 36, 3)],
   ins 0x29 [(47, 44, 9), (43, 40, 3), (30, 29, 1)], ins 0x30 [(47, 44, 0), (43, 40, 1), (39, 36, 6), (33, 30, 1)],
   ins 0x31 [(47, 44, 0), (43, 40, 1), (39, 36, 6)], ins 0x32 [(47, 44, 0), (43, 40, 1), (39, 36, 0)], ins 0x38 [(47, 44, 1), (43, 40, 0), (39, 36, 7)],
   ins 0x39 [(47, 44, 1), (43, 40, 0), (39, 36, 0)], ins 0x42 [(47, 44, 0), (43, 40, 5)], ins 0x48 [(47, 44, 0)], ins 0x50 [(47, 46, 2)],
   ins 0x51 [(47, 46, 3)], ins 0x58 []]

/-- Slot 0 with an expert's result in handle 1, a group open in handle 2 and a record for handle 3. -/
def unitState (w : Word) : State :=
  base { chan1 w { slot1 with handles := [(1, { kind := .expert }), (2, { kind := .group })] } with
         seqr := { (chan1 w { slot1 with handles := [(1, { kind := .expert }), (2, { kind := .group })] }).seqr with
           spill := [(0, { valid := true, handle := 3, keep := { kind := .group } })] } }

theorem test_witness_UnitInstructionsIssue : (∀ e ∈ unitRows.zip unitWords, Issues (unitState e.2) 0 0 e.1.2.1 e.2 ∧
      e.1.2.2 ((unitState e.2).issued 0 0 e.2) 0 0 (entryWith (unitState e.2) 0 0 e.2) = none) ∧ unitWords.length = unitRows.length ∧
    (∀ e ∈ [(0x40, ins 0x40 [(55, 55, 1)]), (0x40, ins 0x40 [(47, 44, 4), (43, 40, 0)]), (0x41, ins 0x41 [(47, 44, 0), (43, 40, 4)])],
      let s := base { chan1 e.2 slot1 with mem := { ctxs := [(0, { life := .open, blobPages := 1 })] } }
      Issues s 0 0 e.1 e.2 ∧ State.moveBad (s.issued 0 0 e.2) 0 0 (entryWith s 0 0 e.2) = none) := by
  simp only [Issues]; decide +kernel

theorem test_witness_HaltBlocksTheSlot : (at1 (ins 0x61 [])).atIssue 0 0 0x61 = some (ins 0x61 []) := by decide

/-! ### Registers -/

/-- The module with port 0 in a role with rights, its mailbox open at 1.3. -/
def roled (role : Role) (rights : Nat) (s : State := base) : State :=
  { s with host := { s.host with ports := [(0, { roleNow := { role := role, rights := rights }, mbxOpen := true, mbxVer := 0x13 })] } }

theorem test_witness_SetUpAndSettingsAreWritten :
    Heard base 0 ∧ Heard base 1 ∧ base.hub.setupDone = false ∧ ({ base with hub := { setupDone := true } } : State).hub.smbInstaller = true ∧
    Heard { base with hub := { setupDone := true } } 0 ∧ Heard (roled .installer 0xFF) 0 ∧ AuditRoom (roled .installer 0xFF) ∧
    (roled .installer 0xFF).store.fault = false := by simp only [Heard, AuditRoom]; decide

theorem test_witness_rights : ∀ b ∈ [3, 5, 2, 6], (roled .installer 0xFF).rightResult 0 .installer b = 0 ∧ base.rightResult 0 .installer b = 1 ∧
    (roled .installer 0).rightResult 0 .installer b = 2 := by decide

theorem test_witness_settings :
    (∀ e ∈ [(3, 0xC0000000 + 250, true), (3, 249, false), (3, 1000001, false), (5, 0x80000000, true), (5, 0xA0000000, false),
        (2, 0x19000000, true), (2, 0x4B000000, true), (2, 0x18000000, false), (2, 0x4C000000, false)],
      let w : BitVec 32 := BitVec.ofNat 32 e.2.1
      w.toNat &&& (if e.1 = 3 then maskBits 29 20 else if e.1 = 5 then maskBits 28 0 else maskBits 23 0) = 0 ∧
      (if e.1 = 3 then decide (250 ≤ fld w 19 0 ∧ fld w 19 0 ≤ 1000000) else if e.1 = 5 then decide (fld w 31 29 ≤ 4)
       else decide (25 ≤ fld w 31 24 ∧ fld w 31 24 ≤ 75)) = e.2.2) ∧
    (∀ e ∈ [(24, true), (2160, true), (23, false), (2161, false)], let v : BitVec 64 := BitVec.ofNat 64 (pack [(63, 56, 1), (55, 44, e.1)])
      v.toNat &&& maskBits 43 0 = 0 ∧ decide (24 ≤ fld v 55 44 ∧ fld v 55 44 ≤ 2160) = e.2) := by decide

theorem test_witness_ChannelRegistersAreWritten :
    Heard base 0 ∧ base.fitted 0 = true ∧ base.fitted 7 = true ∧ (let w : BitVec 32 := 0x40100420; fld w 31 24 ≠ 0 ∧ fld w 23 16 ≠ 0 ∧ fld w 15 8 ≠ 0) ∧
    (∀ n ∈ [0, 0x01000000, 0xFF000000], (BitVec.ofNat 32 n).toNat &&& maskBits 23 0 = 0) ∧ ({ base with clk := { due := some 0 } } : State).clk.due = some 0 ∧
    (let w := fun d => BitVec.ofNat 32 (pack [(31, 31, 1), (30, 19, 4095), (18, 16, d)]);
      (w 1).toNat &&& 15 = 0 ∧ base.linkRefused 0 31 (w 1).toNat = false ∧ base.linkRefused 0 0 (w 0).toNat = true) ∧
    (let v := BitVec.ofNat 64 (pack [(63, 63, 1), (56, 54, 7), (43, 32, 4095)]);
      v.toNat &&& maskBits 53 44 = 0 ∧ (base.chan 0).barrier 255 = {} ∧ base.homeRefused v.toNat = false) ∧
    ((base { sync := { bars := [(255, { waiters := [{}] })] } }).chan 0 |>.barrier 255).waiters ≠ [] ∧
    (let v : BitVec 64 := 0xFFFFF000000000FF; 7 < base.counters ∧ v.toNat &&& maskBits 43 8 = 0) ∧
    base.debugOk 0 = false ∧ State.debugOk { roled .maker 0 with hub := { debug := true } } 0 = true ∧
    (let v := BitVec.ofNat 64 (pack [(63, 63, 1), (60, 52, 383), (51, 48, 15)]);
      v.toNat &&& (maskBits 61 61 + maskBits 47 0) = 0 ∧ bit v 63 = true ∧ fld v 60 52 < 384 ∧ (base.chan 0).dbg.mapRunning = false ∧
      (base.tile 0 (fld v 60 52)).pv = none ∧ (base.tile 0 (fld v 60 52)).st ≠ .testing) ∧
    (let p : Pv := { why := .debug, facet := 15, cycle := 160 }
     let s := base { arr := { tiles := [(3, { st := .programming, pv := some p })] }, dbg := { mapRunning := true, mapCmd := BitVec.ofNat 64 (3 * 2 ^ 52) } }
     let t := s.tile 0 (fld (s.chan 0).dbg.mapCmd 60 52)
     t.pv = some p ∧ t.st = .programming ∧ (s.chan 0).dbg.mapRunning = true) := by
  simp only [Heard]; decide

theorem test_witness_RegisterWritesGoWhereTheyPoint : Heard base 0 ∧ Heard base 31 ∧ base.fitted 0 = true ∧
    (∃ t u, exec (.registerWrite 1 .fnPage 0x10 64 0x10000) base = .next t ∧ (0x10000 : BitVec 64).toNat &&& maskBits 15 0 = 0 ∧
      exec (.registerWrite 1 .fnPage 0x18 64 1) t = .next u) := by
  simp only [Heard]
  refine ⟨by decide, by decide, by decide, _, _, rfl, by decide, rfl⟩

/-! ### The mailbox -/

/-- A request of version 1.0 with the given data. -/
def req (d : List Byte) : MbxReq := { ver := 0x10, tag := 5, data := d }

/-- Port 0 takes command `op` of a short request in the state `roled`. -/
theorem test_takes (role : Role) (rights op v : Nat) (d : List Byte) (h : mbxFrom op = some v) (k : v ≤ 0x13) (l : d.length ≤ 4096) :
    Takes (roled role rights) 0 op (req d) :=
  ⟨rfl, rfl, l, .inl ⟨rfl, by show 0x10 ≤ 0x13; decide, v, h, k⟩⟩

/-- The ROM answers the maker's firmware commands on the SMBus port, without a mailbox or a role. -/
theorem test_takes_rom : let s : State := { base with pwr := { supply := .on, boot := .romOnly, recordOk := true } }
    (∀ op ∈ [0x10, 0x11], Takes s 63 op (req []) ∧ rightHere s 63 op .maker 8 = 0) ∧ s.romHears 0x12 = false ∧
    ({ s with pwr := { supply := .on, boot := .romOnly } } : State).romHears 0x13 = true := by
  simp only [Takes, rightHere]; decide

theorem test_witness_MailboxRefusesByItsRules :
    (∀ e ∈ openCommands ++ roleCommands.map (fun e => (e.1, e.2.1)), base.portHears 0 e.2 = true ∧ base.portHears 63 e.2 = true ∧ base.romHears e.2 = false ∧
      (base.port 0).busy = false ∧ (base.port 0).mbxOpen = false) ∧
    (State.port { base with host := { ports := [(0, { busy := true })] } } 0).busy = true ∧
    (∀ e ∈ roleCommands, (∃ v, mbxFrom e.2.1 = some v ∧ v ≤ 0x13) ∧ rightHere (roled .operator 0) 0 e.2.1 e.2.2.1 e.2.2.2 = 1 ∧
      rightHere (roled e.2.2.1 0) 0 e.2.1 e.2.2.1 e.2.2.2 = 2 ∧ rightHere (roled e.2.2.1 0xFFFF) 0 e.2.1 e.2.2.1 e.2.2.2 = 0) ∧
    AuditRoom (roled .operator 0) ∧ 256 ≤ (List.replicate 256 ({} : Audit)).length := by
  simp only [AuditRoom]
  refine ⟨by decide, by decide, ?_, by decide, by decide +kernel⟩
  intro e he
  simp only [roleCommands, List.mem_cons, List.not_mem_nil, or_false] at he
  rcases he with rfl | rfl | rfl | rfl | rfl | rfl | rfl | rfl <;> exact ⟨⟨_, rfl, by decide⟩, by decide, by decide, by decide⟩

/-- The first 1,024 bits of an installer token of port 0, all rights, signed by slot 0, for every module, unbound. -/
def token : BitVec 1024 := BitVec.ofNat 1024 (pack [(1023, 1016, 1), (1015, 1014, 1), (1013, 1013, 1), (911, 879, 1), (878, 863, 0xFF)])

theorem test_witness_MailboxCommandsAnswer :
    (base.portHears 63 0 = true ∧ (base.port 63).busy = false ∧ settle 0x10 0x11 = 0x11) ∧
    Takes (roled .operator 0) 0 1 (req []) ∧ Takes (roled .operator 0) 0 3 (req []) ∧ Takes (roled .operator 0) 0 4 (req []) ∧
    Takes (roled .operator 0) 0 5 (req (leBytes 8 0)) ∧ Takes (roled .operator 0) 0 6 (req (leBytes 4 0)) ∧ Takes (roled .installer 0) 0 7 (req []) ∧
    Takes (roled .operator 0) 0 0x0B (req []) ∧ base.apexUp = true ∧
    (State.port { base with host := { ports := [(0, { challenge := some 1 })] } } 0).challenge ≠ none ∧
    ((roled .installer 0).port 0).roleNow.role = .installer ∧ AuditRoom (roled .installer 0) ∧
    (let s := { roled .operator 0 with store := { live := { auth := [(0, { key := some [] })] } } }
     let d := leBytes 128 token.toNat ++ List.replicate 1280 0
     d.length = 1408 ∧ BitVec.ofNat 1024 (leNat (d.take 128)) = token ∧ s.tokenResult 0 token true = 0 ∧ s.store.waiting.length < 256) := by
  refine ⟨by decide, test_takes _ _ _ 0x10 _ rfl (by decide) (by decide), test_takes _ _ _ 0x10 _ rfl (by decide) (by decide),
    test_takes _ _ _ 0x10 _ rfl (by decide) (by decide), test_takes _ _ _ 0x10 _ rfl (by decide) (by decide), test_takes _ _ _ 0x11 _ rfl (by decide) (by decide),
    test_takes _ _ _ 0x10 _ rfl (by decide) (by decide), test_takes _ _ _ 0x10 _ rfl (by decide) (by decide), by decide, by decide, by decide, ?_, ?_⟩
  · simp only [AuditRoom]; decide
  · decide +kernel

theorem test_witness_RoleCommandsAct : (∀ e ∈ roleCommands, AuditRoom (roled e.2.2.1 0xFFFF) ∧ (roled e.2.2.1 0xFFFF).store.fault = false ∧
      rightHere (roled e.2.2.1 0xFFFF) 0 e.2.1 e.2.2.1 e.2.2.2 = 0) ∧
    (∀ e ∈ roleCommands, ∀ d : List Byte, d.length ≤ 4096 → Takes (roled e.2.2.1 0xFFFF) 0 e.2.1 (req d)) ∧
    Takes (roled .maker 0) 0 9 (req [3, 3, 0, 0, 1, 0, 0, 0]) ∧ authChange {} [3, 3, 0, 0, 1, 0, 0, 0] = some { epoch := 1 } ∧
    (let d : List Byte := [0, 1, 0, 2, 0, 0, 0, 0]
     let k : Chan := { arr := { map := [(18, { valid := true })] } }
     d.length = 8 ∧ leNat (d.drop 4) = 0 ∧ leNat ((d.drop 1).take 2) = 1 ∧ (d.getD 3 0).toNat = 2 ∧ (sget {} k.arr.map (16 * 1 + 2)).valid = true ∧
     ((∀ l e p, Config.resident l e p = none) → State.facetNamed (base k) 0 1 2 = false)) ∧
    (let s : State := { roled .maker 0xFFFF with store := { fwStaged := true } }; s.store.fwStaged = true) ∧
    (let w : FwSlot := { hdr := BitVec.ofNat 256 (2 ^ 248), valid := true }; ({} : Persist).fwOk w = true) ∧
    (State.hub { roled .maker 0xFFFF with hub := { debug := true } }).debug = true := by
  refine ⟨?_, ?_, test_takes _ _ _ 0x10 _ rfl (by decide) (by decide), by decide, ⟨by decide, by decide, by decide, by decide, by decide, ?_⟩, by decide, by decide, by decide⟩
  · simp only [AuditRoom]; decide
  · intro e he d hd
    simp only [roleCommands, List.mem_cons, List.not_mem_nil, or_false] at he
    rcases he with rfl | rfl | rfl | rfl | rfl | rfl | rfl | rfl <;> exact test_takes _ _ _ _ _ rfl (by decide) hd
  · intro h
    simp [State.facetNamed, Chan.namesFacet, residentNames, h, base, State.chan, sget]

/-! ### Attestation -/

theorem test_witness_AttestationAnswers : base.spdmHears 0 = true ∧ base.spdmHears 63 = true ∧
    (let s := base.setConn 0 { version := 0x13, caps := true, algs := true }
     s.spdmHears 0 = true ∧ (s.conn 0).version ≠ 0 ∧ (s.conn 0).caps = true ∧ (s.conn 0).algs = true ∧ s.sec.sessions.length < 4 ∧ s.session? 0 9 = none) ∧
    State.sec { base with sec := { key := true } } = { key := true } ∧
    Sys2Proof.Machine.AlgOffer.ok { port := 0, extAsym := [falconEntry], hash := 0x20, dhe := 0x10, aead := 0x2 } = true ∧
    Sys2Proof.Machine.AlgOffer.ok { port := 0, extAsym := [falconEntry], hash := 0x10, dhe := 0x10, aead := 0x2 } = false ∧
    (List.replicate 96 (0 : Byte)).length = 96 ∧
    State.session? { base with sec := { sessions := [(0, 9, .handshake, 0)] } } 0 9 = some .handshake ∧
    State.session? { base with sec := { sessions := [(0, 9, .established, 0)] } } 0 9 = some .established :=
  ⟨by decide, by decide, by decide, rfl, by simp [AlgOffer.ok, nfld], by simp [AlgOffer.ok, nfld], by decide, by decide, by decide⟩

/-! ### The store, programming and ageing -/

theorem test_witness_RecordsAreWritten :
    ({ base with store := { urgent := true } } : State).recordDue = true ∧ base.answers = true ∧
    ({ base with store := { coalesced := true }, clk := { nanos := 10000000000 } } : State).recordDue = true ∧
    (({ base with store := { writing := some ({}, false) } } : State).store.writing = some ({}, false)) ∧
    (({ base with store := { writing := some ({}, true) } } : State).store.writing = some ({}, true)) := by decide

/-- A tile whose facet 2 is being programmed for record 0 of package 0. -/
def programming (v : Pv) : State :=
  { base { arr := { tiles := [(3, { st := .programming, pv := some v })] } } with
    host := { pkgs := [{ recs := [{ hdr := BitVec.ofNat 128 (3 * 2 ^ 116), st := .programming, facet := 2 }] }] } }

/-- At the reading of a sensor not yet sampled, with no trim values, the temperature factor is 1. -/
theorem test_kappa : ∃ n, 0 < n ∧ base.kappa 0 3 = .fin false n n := ⟨2 ^ 310, Nat.two_pow_pos _, by decide +kernel⟩

/-- Codes of 0 give no slope but the reference's: a calibration of them is accepted. -/
theorem test_calibration : (Calib.run { codes := [], remap := [], tile := 3, facet := 2 } [] (base.kappa 0 3)).2 = true := by
  obtain ⟨n, h, e⟩ := test_kappa
  rw [e]; exact Calib.run_blank 3 2 n h

theorem test_witness_FacetsAreProgrammed :
    (let s : State := { base with host := { pkgs := [{ recs := [{}] }] } }
     (s.host.pkgs.zipIdx).find? (fun e => !e.1.refresh && !e.1.staged) = some ({ recs := [{}] }, 0) ∧ s.host.staging = false ∧ s.apexUp = true ∧
     (∀ q ∈ s.host.pkgs, q.refresh = false) ∧ (∃ r ∈ ({ recs := [{}] } : Pkg).recs, r.st ≠ .done)) ∧
    ((programming { why := .package 0, facet := 2 }).tile 0 3).dacsSound = true ∧ (∃ n ∈ (programming { why := .package 0, facet := 2 }).freeFacets 0 3, n ≠ 2) ∧
    (∀ second, second = true ∨ second = false → let v : Pv := { why := .package 0, facet := 2, cycle := 1600, second := second }
      ((programming v).tile 0 3).st = .programming ∧ ((programming v).tile 0 3).pv = some v ∧ ((programming v).recOf 0 3 v).isSome = true ∧ 1600 ≤ v.cycle) ∧
    (mapAllFailed 0 3 2 {} [(0, 0), (128, 0), (132, 0)]).isSome = true ∧ mapAllFailed 0 3 2 {} ((List.range 5).map (fun n => (n, 0))) = none ∧
    (let s : State := { base with store := { live := { chans := [(0, { facets := [(16 * 3 + 2, { st := .mapped })] })] } } }
     (s.facet 0 3 2).st = .mapped ∧ mapNames (s.chan 0).arr.map 3 2 = false ∧ (s.tile 0 3).run = none ∧ (2 < 16)) ∧
    ((base { arr := { copying := true } }).chan 0).arr.copying = true := by
  refine ⟨by decide, by decide, by decide, ?_, by decide, by decide, by decide, by decide⟩
  rintro second (rfl | rfl) <;> decide

theorem test_checksumOf_zeros : (aw5 0 == checksumOf ((List.range 128).map (fun _ => aw5 0))) = true := by decide +kernel

theorem test_checksumsHold : checksumsHold [] = true := by
  unfold checksumsHold
  exact List.all_eq_true.2 (fun _ _ => List.all_eq_true.2 (fun _ _ => test_checksumOf_zeros))

theorem test_witness_FacetsAgeAndAreRefreshed : base.apexUp = true ∧ 0 < base.channels ∧
    (let s : State := { base with store := { live := { chans := [(0, { facets := [(16 * 3 + 2, { st := .mapped, due := true })] })] } } }
     (s.facet 0 3 2).due = true ∧ (s.facet 0 3 2).st = .mapped) ∧
    (let v : Pv := { why := .readback 5, facet := 2, cycle := 160 }
     ((programming v).tile 0 3).st = .programming ∧ ((programming v).tile 0 3).pv = some v) ∧
    (readingsClose [(0, 1350)] = true ∧ readingsClose [(0, 1351)] = false ∧ checksumsHold [] = true) :=
  ⟨by decide, by decide, by decide, by decide, by decide, by decide, test_checksumsHold⟩

/-! ### Checks, drains and tests -/

/-- A tile whose bank 0 holds a check of vector 1 of facet 2; the block's reference is 0 within 0. -/
def checked (failed : Nat) (sum : BitVec 32) : State :=
  { base { arr := { tiles := [(3, { bank0 := .full { why := .check 1 failed, origin := 2 } false, sums0 := List.replicate 1032 sum })] } } with
    store := { live := { chans := [(0, { facets := [(16 * 3 + 2, { cal := [{ c := 0, r := 0, rho := [], tau := [] }] })] })] } } }

theorem test_witness_DetectedFailuresDrain :
    (∀ failed, failed = 0 ∨ failed = 1 → ((checked failed 0).tile 0 3).bank0 = .full { why := .check 1 failed, origin := 2 } false) ∧
    blockPasses ((checked 0 0).facet 0 3 2) (List.replicate 1032 0) 1 0 = true ∧
    ((List.range 8).filter (fun i => !blockPasses ((checked 0 0).facet 0 3 2) ((0x3F800000 : BitVec 32) :: List.replicate 1031 0) 1 i)) = [0] ∧
    (checked 0 0).failed = false ∧
    (let s := base { check := { isRotation := true, residue := [7] } }
     (s.chan 0).check.residue.head? = some 7 ∧ (s.chan 0).check.isRotation = true ∧ s.integ.svc = .inService ∧ s.fitted 0 = true) ∧
    (Sys2Proof.Machine.ResidueStep.agrees { products := [-120, 100, 3], sum := -17 } = true ∧
      Sys2Proof.Machine.ResidueStep.agrees { products := [1, 2], sum := 4 } = false) ∧
    (let s : State := { base { test := { phase := .cooling } } with clk := { nanos := 1990000000, phase := .compute } }
     (s.chan 0).test.phase = .cooling ∧ (s.chan 0).test.heated + 1990000000 ≤ s.nowNs ∧ s.integ.svc = .inService ∧
     (s.testChecks 0 { scan := true, march := true, dacs := [], errs := [] }).2 = false) ∧
    (base.apexUp = true ∧ base.sensorFitted 71 = true ∧ (base.sensor 71).broken = false ∧ base.departs 71 1760 = false ∧ base.reading 71 < 1760) ∧
    (let s : State := { base with integ := { svc := .draining }, chans := [(0, { mem := { ctxs := [(5, { life := .open })] } })] }
     (s.ctx 5).life = .open ∧ (s.ctx 5).cacheBad = false ∧ older (s.ctx 5).checkEpoch (s.integ.wm % 2 ^ 32) = false ∧ s.integ.scanDone = false) ∧
    (let s : State := { base with integ := { svc := .draining, scanDone := true, recordDone := true } }
     s.integ.retract = [] ∧ s.noneRunning = true ∧ s.allClosed = true ∧ s.integ.recordDone = true) := by
  refine ⟨?_, by decide +kernel, ?_, by decide, by decide, by decide, by decide, by decide, by decide, by decide⟩
  · rintro failed (rfl | rfl) <;> decide
  · decide +kernel

theorem test_witness_TestsRunTheirPhases : base.apexUp = true ∧ base.fitted 0 = true ∧ (base.chan 0).test.phase = .notDue ∧
    (let s : State := { base with clk := { nanos := BitVec.ofNat 64 (21 * hourNs) } }; s.testDueAt 0 ≤ s.nowNs) ∧
    (let s : State := { base { test := { phase := .running, began := some 0 } } with clk := { nanos := 1200000000 } }; s.heatDone 0 = true) ∧
    (∀ p ∈ [TestPhase.due, .running, .cooling], ((base { test := { phase := p, waited := 1000 } }).chan 0).test = { phase := p, waited := 1000 }) := by decide

/-! ### Temperature and power -/

/-- Sensors read as given, all sound. -/
def sensors (l : List (Nat × Int)) : State := { base with therm := { sensors := l.map (fun e => (e.1, { reading := e.2, sampled := true })) } }

theorem test_witness_SensorsAndThermalLevels :
    ((sensors [(1, 500), (8, 500)]).departs 0 628 = false ∧ (sensors [(1, 500), (8, 500)]).departs 0 629 = true ∧
      median2 ((sensors [(1, 500), (8, 500)]).sound ((sensors [(1, 500), (8, 500)]).neighbours 0)) % 2 = 0 ∧ base.sensorFitted 0 = true) ∧
    ((sensors [(3, 1600)]).hotAt 0 = true ∧ (sensors [(3, 1599)]).hotAt 0 = false ∧ (sensors [(3, 1599)]).coolAt 0 = false ∧ (sensors [(3, 1552)]).coolAt 0 = true) ∧
    ((base { thermal := 11 }).chan 0).thermal = 11 := by decide

theorem test_witness_PowerIsMeteredAndHeld : base.apexUp = true ∧ base.clk.nanos.toNat % 100000 = 0 ∧
    base.therm.step ≠ base.clk.nanos.toNat / 100000 + 1 := by decide

/-! ### Supply, reset and service -/

theorem test_witness_SupplyAndPinsMoveAndReport :
    State.reset.pwr.supply = .off ∧ (base.pwr.supply = .on ∧ base.pwr.band = .normal) ∧
    (∀ b ∈ [Band.low, .high], ({ base with pwr := { supply := .on, band := b } } : State).pwr.band = b) ∧
    ({ base with pwr := { supply := .latched } } : State).pwr.supply = .latched ∧ base.pwr.perstLow = false ∧ base.pwr.boot = .booted ∧
    (State.reset.pwr.perstLow = true ∧ State.reset.pwr.window = false) ∧
    ({ base with pwr := { supply := .on, boot := .started, perstLow := false } } : State).apexUp = true ∧
    ({ base with pwr := { window := true } } : State).pwr.window = true := by decide

theorem test_witness_power : base.pwr.supply = .on ∧ ({ base with pwr := { supply := .rising } } : State).pwr.supply = .rising ∧
    State.reset.store.choose ≠ none ∧ ({ base with store := { bankA := {} } } : State).store.choose = none ∧
    ({ base with pwr := { supply := .on, boot := .verifying } } : State).pwr.boot = .verifying ∧
    ({ base with pwr := { supply := .on, boot := .started } } : State).pwr.boot = .started := by decide

/-- The base module in the starting state. -/
def starting : State := { base with integ := {} }

theorem test_witness_ServiceBeginsWhereAllConditionsHold : starting.integ.svc = .starting ∧ EntryConditions starting ∧
    ¬ (base.integ.svc = .starting) :=
  ⟨by decide, ⟨by decide, by decide, ⟨_, rfl, by decide, by decide⟩, by decide, by decide, by decide, by decide, by decide⟩, by decide⟩

theorem test_witness_WarmResetClearsTheHostSide :
    (let s : State := { base with pwr := { supply := .on, boot := .booted, perstLow := true, window := true } }; s.pwr.window = true ∧ s.pwr.supply = .on) ∧
    (let s : State := { base with pwr := { supply := .on, boot := .warm } }; s.pwr.perstLow = true ∧ s.pwr.window = false ∧ s.pwr.supply = .on) := by decide

/-! ### Ticks and the parts of a frame -/

/-- The tick logic at nanosecond `n`, the last tick at 0, period 1,000 µs, with tick source `src`. -/
def clockAt (n src : Nat) : State :=
  { base with clk := { running := true, first := false, nanos := BitVec.ofNat 64 n, cfg := BitVec.ofNat 32 (pack [(30, 30, src), (19, 0, 1000)]) } }

theorem test_witness_TicksComeFromEdgeOrGenerator :
    (∀ n ∈ [999000, 1000000, 1001000], fld (clockAt n 1).clk.cfg 19 0 * 1000 = 1000000 ∧ bit (clockAt n 1).clk.cfg 30 = true ∧ (clockAt n 1).clk.due = none ∧
      (clockAt n 1).clk.lastTick + 1000000 ≤ (clockAt n 1).clk.nanos.toNat + 1000 ∧ (clockAt n 1).clk.nanos.toNat ≤ (clockAt n 1).clk.lastTick + 1000000 + 1000) ∧
    (clockAt 998999 1).clk.lastTick + 1000000 > (clockAt 998999 1).clk.nanos.toNat + 1000 ∧
    (clockAt 1001000 1).clk.lastTick + 1000000 + 1000 ≤ (clockAt 1001000 1).clk.nanos.toNat ∧
    bit (clockAt 1000000 0).clk.cfg 30 = false ∧ (clockAt 1000000 0).clk.rejoin = false ∧
    (clockAt 1000000 0).clk.lastTick + 1000000 ≤ (clockAt 1000000 0).clk.nanos.toNat := by decide

theorem test_witness_TickOpensTheFrame : ({ base with clk := { due := some 7 } } : State).clk.due = some 7 := by decide

/-- The base module in part `p` of its frame. -/
def part (p : Phase) : State := { base with clk := { running := true, phase := p } }

/-- Function 0 open, its completion ring 0 active. -/
def opened (s : State := base) : State :=
  { s with host := { s.host with
      fns := [(0, { ver := 0x13, st := .open, sqs := [(0, { st := .active, cfg := BitVec.ofNat 128 (2 ^ 69) })]
                    cqs := [(0, { st := .active, cfg := BitVec.ofNat 128 (2 ^ 69 + 16 * 2 ^ 76) })] })]
      rules := { wins := [(0, BitVec.ofNat 128 (pack [(75, 52, 4096), (2, 0, 7)]))] } } }

theorem test_witness_FramePartsFollowAndLateEntriesAreWritten :
    (∀ p ∈ [Phase.intake, .compute, .yieldMark, .checkDone, .endOfCompute], (part p).clk.phase = p ∧ (part p).clk.running = true) ∧
    (let s : State := { part .compute with clk := { phase := .compute, nanos := 944000 } }; s.markDue 0 = true ∧ s.fitted 0 = true) ∧
    (let e : Cpl := { late := true }
     let t : State := opened
     let s : State := { t with host := { t.host with cpls := [e] } }
     s.host.cpls = [e] ∧ e.late = true ∧ s.clk.phase ≠ .guard ∧ s.integ.svc ≠ .draining ∧ s.integ.retract = [] ∧ e.reserved = true ∧
     s.dmaOk e.fn ((s.fn e.fn).cqRing e.cq).tailAddr 32 true = true) := by decide

theorem test_witness_WatermarkIsTheLowestOwnMark : (part .endOfCompute).clk.phase = .endOfCompute ∧ (part .endOfCompute).integ.svc = .inService ∧
    State.reset.integ.svc ≠ .inService := by decide

/-! ### Descriptors and contexts -/

/-- A descriptor of version 1.3 and kind `k` with further fields. -/
def desc (k : Nat) (l : List (Nat × Nat × Nat)) : BitVec 512 := BitVec.ofNat 512 (pack ((511, 504, 0x13) :: (503, 500, k) :: l))

/-- Context 5, open, one page of blob, priority 0. -/
def ctx5 : Ctx := { life := .open, blobPages := 1, hotPages := 1, cadence := 1, pages := [{ valid := true, zero := true, page := 9 }] }

/-- The module with function 0 open as installer and owner of every context, a fetch under way, and `k` as channel 0. -/
def hosted (k : Chan := { mem := { ctxs := [(5, ctx5)] } }) : State :=
  { opened (base k) with host := { (opened (base k)).host with
      fetchQ := [(0, 0, 0)], own := [{ last := 262143, owner := some 0 }], nextJob := 40
      ports := [(0, { roleNow := { role := .installer, rights := 0xFF } })] } }

theorem test_witness_FailedFetchesComplete : ∀ f ∈ [Fetch.ur, .ca, .poison], (hosted.host.fetchQ.head? = some (0, 0, 0)) ∧
    hosted.dmaOk 0 (((hosted.fn 0).sqRing 0).descAddr 0) 64 false = true ∧ hosted.hostSecure = true ∧
    (opened.dmaOk 1 (((hosted.fn 1).sqRing 0).descAddr 0) 64 false = false) ∧ f ≠ .data 0 := by decide +kernel

/-- Work of context 5 under way. -/
def busyChan : Chan := { jobs := [{ id := 3, stage := .moving, desc := desc 5 [(495, 478, 5)] }], mem := { ctxs := [(5, ctx5)] } }

/-- Descriptors for context 5: kind and further fields. -/
def ctxDescs : List (Nat × List (Nat × Nat × Nat)) := [(3, []), (4, []), (5, [(329, 307, 64)]), (6, [(329, 307, 64)]), (7, [])]

theorem test_witness_ContextWorkWaitsItsTurn : ∀ e ∈ ctxDescs, let d := desc e.1 ((495, 478, 5) :: e.2)
    let s := hosted busyChan
    let j := s.newJob 0 0 0 d
    j.kind = e.1 ∧ j.ctx = 5 ∧ (fetchedFor s j).verdictOf j = none ∧
    (s.chan (j.ctx / 32768)).jobs.find? (fun x => x.ctx == j.ctx) = busyChan.jobs.head? ∧ (∀ x ∈ busyChan.jobs, x.stage ≠ .ordered) := by decide +kernel

theorem test_witness_ContextsOpenAndAreFreed :
    (let d := desc 2 [(495, 478, 6), (351, 345, 2), (344, 338, 1), (335, 320, 1)]
     let s := hosted
     let j := s.newJob 0 0 0 d
     j.kind = 2 ∧ (fetchedFor s j).verdictOf j = none ∧ (s.ctx j.ctx).life = .free ∧ (s.ctx j.ctx).cacheBad = false ∧
     fld (sget 0 s.host.rules.rings 0) 33 32 ≤ fld d 337 336) ∧
    (let j := hosted.newJob 0 0 0 (desc 2 [(495, 478, 5), (351, 345, 2), (335, 320, 1)])
     (fetchedFor hosted j).verdictOf j = none ∧ (hosted.ctx j.ctx).life ≠ .free ∧ (hosted.ctx j.ctx).cacheBad = false) ∧
    (let k : Chan := { mem := { ctxs := [(5, { ctx5 with life := .releasing })] } }
     ((hosted k).ctx 5).life = .releasing ∧ ((hosted k).chan (5 / 32768)).jobs.find? (fun j => j.ctx == 5) = none ∧
     let j : Job := { id := 3, stage := .moving, desc := desc 4 [(495, 478, 5)] }
     j.ctx = 5 ∧ j.kind = 4 ∧ j.verdict = none) := by decide +kernel

theorem test_allocPages : (hosted.chan 0).mem.allocPages hosted.light 1 ≠ none := by decide +kernel

theorem test_witness_ContextWorkRunsInTurn : ∀ e ∈ ctxDescs, let d := desc e.1 ((495, 478, 5) :: e.2)
    let s := hosted
    let j := s.newJob 0 0 0 d
    j.kind = e.1 ∧ (fetchedFor s j).verdictOf j = none ∧ (∀ x ∈ (s.chan (j.ctx / 32768)).jobs, x.ctx ≠ j.ctx ∧ x.id < s.host.nextJob) ∧
    (s.ctx j.ctx).cacheBad = false ∧ (∀ p ∈ (s.ctx j.ctx).pages, p.poisoned = false) ∧ s.dmaOk 0 j.addr 128 true = true := by decide +kernel

/-- A state move of context 5 under way. -/
def moving (d : BitVec 512) : State := hosted { jobs := [{ id := 3, stage := .moving, desc := d }], mem := { ctxs := [(5, ctx5)] } }

theorem test_witness_ContextWorkEnds :
    (let j : Job := { id := 3, stage := .moving, desc := desc 5 [(495, 478, 5), (329, 307, 64)] }
     let s := moving j.desc
     (s.chan 0).job? j.id = some j ∧ j.ctx / 32768 = 0 ∧ s.owns j.fn j.ctx = true ∧ (∀ x ∈ (s.chan 0).jobs, x.ctx = j.ctx → x.id = j.id) ∧
     j.kind = 5 ∧ s.dmaOk j.fn j.addr j.length true = true ∧ ((s.chan 0).mem.readBlob (s.ctx j.ctx) (16 + j.id) j.blobOff j.length).poison = []) ∧
    (let j : Job := { id := 3, stage := .moving, desc := desc 6 [(495, 478, 5), (329, 307, 65536)] }
     let s := moving j.desc
     (s.chan 0).job? j.id = some j ∧ j.kind = 6 ∧ s.dmaOk j.fn j.addr j.length false = true ∧ s.hostSecure = true ∧ j.blobOff = 0 ∧
     j.length = ((s.chan 0).mem.stageBlob (s.ctx j.ctx) (16 + j.id) j.blobOff []).ctx.blobPages * 65536) := by decide +kernel

/-! ### Inferences, loads and sampling runs -/

/-- An INFER of context 5 with one row of four FP32 elements in and out. -/
def inferDesc : BitVec 512 := desc 1 [(495, 478, 5), (335, 321, 3), (207, 193, 3)]

/-- Channel 0 with budgets, program 0 and context 5. -/
def readyChan : Chan :=
  { sched := { left := { tile := 10 ^ 9, eng := 10 ^ 9, bytes := 10 ^ 9 } }
    seqr := { images := [(1, { words := [ins 0x61 []] })], current := [(0, 2)] }, mem := { ctxs := [(5, ctx5)] } }

theorem test_fetches : Fetches hosted 0 0 0 ∧ Fetches (hosted busyChan) 0 0 0 ∧ Fetches (hosted readyChan) 0 0 0 :=
  ⟨⟨rfl, by decide, rfl⟩, ⟨rfl, by decide, rfl⟩, ⟨rfl, by decide, rfl⟩⟩

theorem test_witness_InferencesAreAdmitted :
    (let s := hosted readyChan
     let j := s.newJob 0 0 0 inferDesc
     let u := fetchedFor s j
     let q := u.chargeOf 0 { j with stage := .carried }
     j.kind = 1 ∧ u.verdictOf j = none ∧ j.ctx / 32768 = 0 ∧ (s.chan 0).carriedCount < 8192 ∧ s.clk.phase = .compute ∧ s.integ.svc = .inService ∧
     (s.chan 0).held = false ∧ (s.chan 0).sheds (u.ctx j.ctx).prio = false ∧ (u.ctx j.ctx).prio < (s.chan 0).sched.blockedFrom ∧
     q.tile ≤ (s.chan 0).sched.left.tile ∧ q.eng ≤ (s.chan 0).sched.left.eng ∧ q.bytes ≤ (s.chan 0).sched.left.bytes) ∧
    (let s : State := { hosted readyChan with clk := { phase := .endOfCompute } }; s.clk.phase ≠ .compute ∧ s.clk.phase ≠ .yieldMark ∧
      (fetchedFor s (s.newJob 0 0 0 inferDesc)).verdictOf (s.newJob 0 0 0 inferDesc) = none) := by decide +kernel

theorem test_witness_InferencesAreBound :
    (let j : Job := { id := 3, stage := .admitted, desc := inferDesc }
     let s := hosted { readyChan with jobs := [j] }
     (s.chan 0).job? 3 = some j ∧ j.kind = 1 ∧ j.input = none ∧ s.inputOk j = true ∧ s.hostSecure = true) ∧
    (let j : Job := { id := 3, stage := .admitted, desc := inferDesc, input := some [7] }
     let s := hosted { readyChan with jobs := [j] }
     s.bindable 0 = [j] ∧ (s.slot 0 0).job = none ∧ (s.ctx j.ctx).cacheBad = false ∧ (∀ p ∈ (s.ctx j.ctx).pages, p.poisoned = false) ∧
     (s.ctx j.ctx).poisonSrc ≠ 1 ∧ (s.ctx j.ctx).poisonSrc ≠ 3 ∧ sget 0 (s.chan 0).seqr.current (s.ctx j.ctx).program = 1 + 1) := by decide +kernel

/-- A program image: one rd.sys of selector `n`, then halt. -/
def image (n : Nat) : List Byte :=
  leBytes 16 (pack [(127, 112, 2), (71, 64, 16)]) ++ leBytes 8 (ins 0x10 [(23, 0, n)]).toNat ++ leBytes 8 (ins 0x61 []).toNat

theorem test_witness_PackagesProgramsAndRunsAreTaken :
    (∀ e ∈ [(8, []), (9, []), (10, [(351, 347, 8), (343, 336, 0x90), (335, 312, 1), (311, 296, 1)])], let d := desc e.1 e.2
     let s := hosted
     (s.newJob 0 0 0 d).kind = e.1 ∧ s.popFetch.countJob.verdictOf (s.newJob 0 0 0 d) = none ∧ (e.1 ≠ 10 → s.dmaOk 0 (s.newJob 0 0 0 d).addr (fld d 351 312) false = true)) ∧
    hosted.store.waiting.length < 256 ∧ hosted.store.fault = false ∧ (hosted.host.pkgs.filter (fun p => !p.refresh)).length < 5 ∧
    hosted.pkgFault (leBytes 64 (pack [(127, 120, 1), (119, 119, 1), (79, 40, 48)])) true = .none ∧
    hosted.progsFault [{ ch := 0, number := 3, image := image 6 }] = none ∧
    (∀ c, c < hosted.channels → ((hosted.enterProgs [{ ch := 0, number := 3, image := image 6 }]).chan c).seqr.wordsHeld ≤ 32768) ∧
    (readProg 3 (image 7)).words.any (fun w => opOf w == 0x10 && decide (6 < fld w 23 0)) = true ∧
    (hosted.chan 0).dbg.sample = none ∧ ((hosted { dbg := { sample := some {} } }).chan 0).dbg.sample ≠ none := by decide +kernel

theorem test_witness_sampleRunEnd : let j : Job := { id := 3, desc := desc 10 [(311, 296, 1)] }
    let s : State := { hosted { dbg := { sample := some { job := 3, started := true } } } with clk := { frame := 1 }, host := { hosted.host with jobs := [j] } }
    (s.chan 0).dbg.sample = some { job := 3, started := true } ∧ s.host.jobs.find? (fun x => x.id == 3) = some j ∧
    0 + fld j.desc 311 296 ≤ s.clk.frame.toNat := by decide +kernel

/-! ### Blocking, starting, committing -/

theorem test_witness_WaitsBlockTheirSlots :
    (∀ e ∈ [(0x59, ins 0x59 [(15, 0, 2)]), (0x5A, ins 0x5A []), (0x49, ins 0x49 [(47, 44, 0)]), (0x60, ins 0x60 [])],
      Issues (at1 e.2) 0 0 e.1 e.2 ∧ ((at1 e.2).slot 0 0).rowsDone = true ∧ (∀ h, h < 4 → ((((at1 e.2).slot 0 0).handle h).phys = none ∧
        (((at1 e.2).slot 0 0).handle h).implicit = false)) ∧ ((at1 e.2).chan 0).linkOf (fld e.2 47 36) = none) ∧
    (({ value := 2 } : Vtx).passes 2 true = true ∧ ({ value := 1 } : Vtx).passes 2 true = false) ∧
    ({ cfg := BitVec.ofNat 64 (2 ^ 63) } : Bar).valid = true ∧
    (let w := ins 0x49 [(47, 44, 0)]
     State.operandsBad ((at1 w).issued 0 0 w) 0 0 ((at1 w).entryOf 0 0 w) = none ∧ sget {} ((at1 w).chan 0).seqr.ports 0 = ({} : XPort)) := by
  simp only [Issues]; decide

/-- Slot 0 with instruction 7 outstanding, its window as `x`. -/
def started (w : Word) (p : Sparse PSrc) : State :=
  base { jobs := [{ id := 1, stage := .bound 0 }], seqr := { slots := [(0, { slot1 with outs := [out7 w], winPoison := p })] } }

theorem test_witness_UnitsStartInstructions :
    (∀ w ∈ [ins 0x39 [(47, 44, 1), (43, 40, 0), (39, 36, 0)], ins 0x28 [(47, 44, 0), (43, 40, 2), (39, 36, 3)], ins 0x58 []].map (fun w => w.toNat),
      let w : Word := BitVec.ofNat 64 w
      ((started w []).slot 0 0).out? 7 = some (out7 w) ∧ (started w []).canStart 0 0 (out7 w) = true ∧ (out7 w).ecc = [] ∧
      ((started w []).slot 0 0).readsPoisoned w = false ∧
      poisonIn ((started w []).chan 0) ((started w []).slot 0 0) (((started w []).chan 0).readsOf 0 0 (out7 w)) = .none) ∧
    (let w := ins 0x39 [(47, 44, 1), (43, 40, 0), (39, 36, 0)]
     let s := started w [(0, .outside)]
     s.canStart 0 0 (out7 w) = true ∧ (s.slot 0 0).readsPoisoned w = false ∧
     poisonIn (s.chan 0) (s.slot 0 0) ((s.chan 0).readsOf 0 0 (out7 w)) ≠ .none) := by decide +kernel

theorem test_witness_CommitsWriteResultsThenState : let j : Job := { id := 3, stage := .bound 0, desc := inferDesc }
    let x : Slot := { job := some 3, block := .halt, emit := [(bds.getD 5 0, [1, 2, 3, 4, 5, 6, 7, 8, 9, 10, 11, 12, 13, 14, 15, 16])] }
    let s := hosted { jobs := [j], seqr := { slots := [(0, x)] }, mem := { ctxs := [(5, ctx5)] } }
    (s.slot 0 0).job = some j.id ∧ (s.chan 0).job? j.id = some j ∧ j.ctx / 32768 = 0 ∧ (s.slot 0 0).block = .halt ∧ (s.slot 0 0).outs = [] ∧
    (∀ h, h < 4 → ((s.slot 0 0).handle h).kind = .closed) ∧ (s.chan 0).seqr.spill = [] ∧ (s.ctx j.ctx).cacheBad = false ∧
    (∀ p ∈ (s.ctx j.ctx).pages, p.poisoned = false) ∧ (s.ctx j.ctx).poisonSrc ≠ 3 ∧ s.owns j.fn j.ctx = true ∧ (s.slot 0 0).emitPoison = false ∧
    (s.slot 0 0).emitList j ≠ [] ∧ (∀ e ∈ (s.slot 0 0).emitList j, s.dmaOk j.fn e.1 e.2.length true = true) := by decide +kernel

/-! ### Tiles, groups and lookback rows -/

/-- Tile 3 of channel 0 as `x`. -/
def tile3 (x : Tile) : State := base { arr := { tiles := [(3, x)] } }

theorem test_witness_TilesServeTheirRequests :
    (let s := tile3 { st := .idle, queue := [{ id := 1, why := .work 0 7 0 }] }
     s.failed = false ∧
     (s.tile 0 3).st = .idle ∧ (s.tile 0 3).wantRef = false ∧ (s.tile 0 3).wantCheck = [] ∧ (s.tile 0 3).queue.all (s.codesReady 0) = true ∧
     (s.tile 0 3).nextBank = .free ∧ (s.chan 0).computing < s.tileLimit 0 ∧
     (s.tile 0 3).queue.all (fun r => (s.chan 0).physOf 3 r.lfacet == (s.tile 0 3).held) = true ∧ (s.tile 0 3).served < 16 ∧ (s.tile 0 3).queue ≠ []) ∧
    (let s := tile3 { st := .idle, held := 4, queue := [{ id := 1, why := .work 0 7 0 }] }
     (s.tile 0 3).queue.all (fun r => (s.chan 0).physOf 3 r.lfacet != (s.tile 0 3).held) = true ∧ (s.tile 0 3).queue.all (s.codesReady 0) = true) ∧
    ((tile3 { st := .switching 5 }).tile 0 3).st = .switching 5 ∧ ((tile3 { st := .switching 5 }).tile 0 3).pv = none := by decide

/-- Slot 0 with a grouped mvm.a outstanding as 7 and its handle 0 in group 2; tile 3 as `x`. -/
def grouped (h : Handle) (x : Tile) : State :=
  base { jobs := [{ id := 1, stage := .bound 0 }], arr := { tiles := [(3, x)] }
         seqr := { slots := [(0, { slot1 with outs := [{ seq := 7, word := ins 0x20 [(54, 54, 1)], started := true }], handles := [(0, h)] })]
                   groups := [(2, { holder := some (0, 0) })], images := [(0, { hdr := BitVec.ofNat 128 (16 * 2 ^ 64) })] } }

/-- A request of that instruction: signed INT8 of full width. -/
def req7 : Req := { id := 1, why := .work 0 7 0, word := ins 0x20 [(54, 54, 1), (51, 51, 1), (18, 15, 8), (12, 10, 4)] }

theorem test_witness_BanksHoldAndDrainTheirSums :
    (let r : Run := { req := req7 }
     let s := grouped { kind := .group, phys := some 2 } { st := .computing, run := some r }
     (s.tile 0 3).st = .computing ∧ (s.tile 0 3).run = some r ∧ (s.tile 0 3).pv = none ∧ bit r.req.word 54 = true ∧ r.req.r < 2 ∧ r.req.discard = false ∧
     s.reqAlive 0 r.req = true ∧ (s.tile 0 3).dacsSound = true) ∧
    (let s := grouped { kind := .group, phys := some 2 } { bank0 := .full req7 false }
     (s.tile 0 3).bank0 = .full req7 false ∧ s.reqAlive 0 req7 = true ∧ s.drainTurn 0 3 0 req7 = true ∧ ((s.slot 0 0).handle 0).phys = some 2 ∧
     ((s.slot 0 0).handle 0).drained < s.depthOf 0 0) := by decide

theorem test_witness_unsaturated : let o := runMvm [] [] 3 0 [] 8 4 1 [] []
    o.satLanes = 0 ∧ (∀ b, b < 8 → ((o.sums.drop (128 * b)).take 128).all (fun v => !aboveEnvelope v 15 4 (fullScale [])) = true) := by decide +kernel

theorem test_witness_GroupsSpillAndReturn :
    (let s := grouped { kind := .group, phys := some 2, named := 17, drained := 16 } {}
     let x := (s.slot 0 0).handle 0
     (s.slot 0 0).job.isSome = true ∧ x.kind ≠ .closed ∧ x.phys = some 2 ∧ x.precise = false ∧ s.depthOf 0 0 ≤ x.drained ∧ x.drained < x.named ∧
     (s.chan 0).quotaShort 0 = false ∧ (s.chan 0).seqr.groupQ = []) ∧
    (let s := base { seqr := { slots := [(0, { slot1 with handles := [(0, { kind := .group, record := some 1 }), (2, { kind := .group, record := some 2, implicit := true })] })]
                               groupQ := [{ slot := 0, handle := 0 }], spill := [(1, { valid := true }), (2, { valid := true })] } }
     (s.chan 0).groupNeeds 0 = [0, 2] ∧ 2 ≤ (s.chan 0).freeGroups ∧ ((s.slot 0 0).handle 0).record = some 1 ∧
     ((s.chan 0).record 1).precise = false ∧ ((s.slot 0 0).handle 2).record = some 2 ∧ ((s.chan 0).record 2).precise = false) ∧
    (let g : Sparse Group := (List.range 15).map (fun i => (i, { holder := some (1, 0) }))
     let s := base { seqr := { slots := [(0, { slot1 with handles := [(0, { kind := .group, record := some 1 }), (2, { kind := .group, record := some 2, implicit := true })] })]
                               groupQ := [{ slot := 0, handle := 0 }], groups := g } }
     (s.chan 0).freeGroups < ((s.chan 0).groupNeeds 0).length) := by decide

theorem test_witness_LookbackRowsGetTheirVerdict : ∀ replaying, replaying = true ∨ replaying = false →
    let o : Outst := { seq := 7, word := ins 0x28 [(55, 55, 1)], bds := bds, started := true }
    let r : PRow := { key := 2, seq := 7, replaying := replaying }
    let s := base { seqr := { slots := [(0, { slot1 with outs := [o], prows := [r] })] } }
    (s.slot 0 0).out? 7 = some o ∧ (s.slot 0 0).prowOf 7 = some r ∧ r.done = false ∧ o.started = true ∧
    (s.slot 0 0).outs.any (fun e => streams e o) = false := by rintro replaying (rfl | rfl) <;> decide

/-- R104 and the defaults of set 0 (R103): 4 clipped in 1,000 and a largest code of 32/256 of qmax. -/
theorem test_lookback : lookbackVerdict (4 * 256 + 32) 16 127 127 4096 = 0 ∧ lookbackVerdict (4 * 256 + 32) 17 127 127 4096 = 1 ∧
    lookbackVerdict (4 * 256 + 32) 0 15 127 4096 = 2 ∧ lookbackVerdict (4 * 256 + 32) 0 16 127 4096 = 0 := by decide

/-! ### Streams and memory errors -/

theorem test_witness_StreamsAndScrubsGoOn :
    (let r : Resident := { base := 0, bytes := 128, waiting := true }
     let s := base { seqr := { streams := [r] } }
     s.fitted 0 = true ∧ (s.chan 0).seqr.streams.find? (fun r => r.waiting) = some r ∧ usedSpace (s.chan 0).seqr.streams + r.space ≤ reserveBytes) ∧
    (let r : Resident := { base := 0, bytes := 128, rows := 1, elems := 128, stride := 128 }
     let s := base { seqr := { streams := [r] } }
     (s.chan 0).seqr.streams.find? (fun r => !r.waiting && decide (r.arrived < r.blocks)) = some r ∧
     (r.blockGranules r.arrived).all (fun g => !sget false (s.chan 0).copy1Poison g) = true) ∧
    (let o : Outst := { seq := 7, word := ins 0x40 [(47, 44, 4), (43, 40, 0)], bds := bds, setWait := true }
     let s := base { jobs := [{ id := 1, stage := .bound 0, desc := desc 1 [(495, 478, 5)] }]
                     seqr := { slots := [(0, { slot1 with outs := [o] })] }, mem := { ctxs := [(5, ctx5)] } }
     let f := Fill.all (s.chan 0).mem (s.ctx (s.slotCtx 0 0)) true (o.bd (fld o.word 47 44))
     (s.slot 0 0).out? o.seq = some o ∧ o.setWait = true ∧ o.started = false ∧ opOf o.word = 0x40 ∧ bit o.word 55 = false ∧ f.full = false ∧ f.wait = false) ∧
    (let g := (secondCopy base.light + 536870912) / 64
     base.granuleCached 0 g = false ∧ base.granuleCached 0 (systemArea base.light / 64) = true ∧
     sget false (base.chan 0).mem.poison g = false ∧ secondCopy base.light + 536870912 ≤ 64 * g ∧ 64 * g < systemArea base.light) := by decide +kernel

/-! ### Exchange, experts, vertices and barriers -/

theorem test_witness_MessagesAndExpertsArrive :
    (let m : Sending := { slot := 0, seq := 7, dst := 1, port := 9, bytes := [1, 2] }
     let s := base { seqr := { sending := [m] } }
     (s.chan 0).seqr.sending.find? (fun x => x.slot == m.slot && x.seq == m.seq) = some m ∧ m.remote = none ∧ (s.chan m.dst).held = false ∧
     (sget {} (s.chan m.dst).seqr.ports m.port).msgs.length < 4 ∧ (s.chan m.dst).regionUsed + m.bytes.length ≤ 524288 ∧
     (sget {} (s.chan m.dst).seqr.ports m.port).waiters = [] ∧ m.flits = 0) ∧
    (let e : ExpReq := { id := 8, expert := 4 }
     let s := base { seqr := { experts := [e] } }
     s.exp? 0 8 = some e ∧ e.peer = none ∧ e.id < 2 ^ 48 ∧ e.arrived = false ∧ e.flits = 0 ∧ (s.chan e.home).seqr.experts.find? (fun y => !y.arrived && y.sameSet e) = some e ∧
     s.fitted 0 = true ∧ (s.chan 0).held = false ∧ (s.chan 0).copiesOf 3 1 = [(3, 1)]) ∧
    (let e : ExpReq := { id := 8, expert := 4, reply := some [] }
     (base { seqr := { experts := [e] } }).exp? 0 8 = some e ∧ e.flits = 0) ∧
    (let s := base { sync := { sigIn := [{ src := 2, vertex := 1, amount := 1 }] } }
     nextInput (s.chan 0).chord.ctl (fun n => (s.chan 0).sync.ctlWaits n) = some 3) := by decide +kernel

theorem test_witness_SignalsAndBarriersArrive :
    (let m : Signal := { src := 1, seq := 7, vertex := 5, amount := 1, flits := 0 }
     let s := base { sync := { sigIn := [m], vtx := [(5, { value := 2 ^ 32 - 2 })] } }
     (s.chan 0).sync.sigIn = m :: [] ∧ (s.chan 0).held = false ∧ ((s.chan 0).vtx m.vertex).value + m.amount < 2 ^ 32 ∧ ((s.chan 0).vtx m.vertex).waiters = [] ∧
     m.flits = 0 ∧ (s.chan 0).sigFirst (s.nowNs - 1) none = false) ∧
    (let x : Bar := { cfg := BitVec.ofNat 64 (pack [(63, 63, 1), (43, 32, 1)]) }
     let m : BMsg := { b := 5, src := { chan := 2 } }
     let s := base { sync := { barIn := [m], bars := [(5, x)] } }
     (s.chan 0).barrier m.b = x ∧ x.valid = true ∧ x.homeModule = s.hub.moduleId ∧ x.homeChan = 0 ∧ m.release = false ∧
     (s.chan 0).sync.barIn.find? (fun y => y.release == false && y.flits == 0) = some m ∧ x.arrived + 1 < fld x.cfg 43 32 + 1 ∧
     ¬ ({ x with arrived := 1 } : Bar).arrived + 1 < fld x.cfg 43 32 + 1) ∧
    (∀ leaving, leaving = true ∨ leaving = false →
     let x : Bar := { cfg := BitVec.ofNat 64 (2 ^ 63), gen := 4, leaving := if leaving then [{ slot := 3, tag := 3 }] else [], waiters := [{ slot := 2, tag := 4 }] }
     let m : BMsg := { release := true, b := 5, gen := 4 }
     let s := base { sync := { barIn := [m], bars := [(5, x)] } }
     (s.chan 0).barrier m.b = x ∧ x.homeChan = m.src.chan ∧ (s.chan 0).sync.barIn.find? (fun y => y.release == true && y.flits == 0) = some m ∧
     (x.leaving.any (fun w => before32 w.tag m.gen)) = leaving) ∧
    ({ cfg := BitVec.ofNat 64 (2 ^ 63), heldRel := some 4 } : Bar).heldRel = some 4 := by
  refine ⟨by decide, by decide, ?_, by decide⟩
  rintro leaving (rfl | rfl) <;> decide

/-! ### Peers and streams -/

/-- The module with peer 9's window valid and its state as `p`. -/
def peered (p : Peer) (k : Chan := {}) : State :=
  { base k with host := { peers := [(9, p)], rules := { peers := [(9, 1)] } } }

/-- A header of version 1.1 from module 9. -/
def header (typ len : Nat) (l : List (Nat × Nat × Nat)) : BitVec 256 :=
  BitVec.ofNat 256 (pack ([(255, 248, 0x11), (247, 244, typ), (243, 238, 9), (223, 209, len)] ++ l))

theorem test_witness_hello : (let s := peered { st := .helloSent }
     let h := readHdr (header 0 0 [(128, 113, 0x1110)])
     h.typ = 0 ∧ h.rsv = 0 ∧ s.linkUp = true ∧ s.peerSecure 9 = true ∧ s.peerValid 9 = true ∧ h.srcModule = 9 ∧ h.length = 0 ∧ (s.peer 9).st = .helloSent ∧
     settle (h.tag % 256) (h.tag / 256) = 0x11 ∧ settle 0x20 0x21 = 0) := by decide +kernel

theorem test_witness_PeerMessagesAreTaken :
    (∀ e ∈ [(1, 8), (2, 4), (3, 2048), (4, 32), (6, 32)], let body : List Byte := List.replicate e.2 0
     let h := readHdr (header e.1 e.2 [])
     let s := peered { st := .open, ver := 0x11 }
     h.typ = e.1 ∧ s.linkUp = true ∧ s.peerSecure 9 = true ∧ (s.peer 9).st = .open ∧ s.failed = false ∧ h.inLayout 9 body = true ∧
     h.faulty (s.peer 9) body = false ∧ body.length = e.2 ∧ s.fitted h.dstChan = true ∧ (s.chan h.dstChan).held = false ∧ (s.peer 9).outQ = [] ∧
     (s.chan h.dstChan).portRoom h.port body.length = true ∧ (sget {} (s.chan h.dstChan).seqr.ports h.port : XPort) = {}) := by decide +kernel

theorem test_witness_expertReply : (let h := readHdr (header 3 2048 [])
     let e : ExpReq := { dst := 25 }
     [e].find? (fun e => e.peer.isNone && e.dst == 16 + 9 && e.tag == h.tag && (!e.grp || e.last)) = some e) := by decide +kernel

theorem test_witness_retraction : (let s := peered { st := .open } { mem := { ctxs := [(5, { life := .open, peerMask := 512, peerEpoch := 7 })] } }
     (s.ctx 5).life = .open ∧ (s.ctx 5).cacheBad = false ∧ bit (s.ctx 5).peerMask 9 = true ∧
     older (s.ctx 5).peerEpoch (nfld (leNat (List.replicate 32 (0 : Byte))) 215 184) = false) := by decide +kernel

theorem test_witness_StreamsAreKeyedAndFail : base.linkUp = true ∧
    State.session? { base with sec := { sessions := [(0, 9, .established, 0)] } } 0 9 = some .established ∧
    (let s : State := { base with sec := { keyed := [64] } }; 64 ∈ s.sec.keyed ∧ 64 ∉ s.sec.insecure ∧ s.linkUp = true) := by decide

/-! ### Functions, rings and protection -/

/-- A write of HUB_FN_OPEN for 1.0 to 1.1. -/
def openWord : BitVec 64 := BitVec.ofNat 64 (pack [(63, 56, 0x11), (55, 48, 0x10), (0, 0, 1)])

/-- Function 0 in state `x`. -/
def fnIn (x : FnState) : State := { base with host := { fns := [(0, { st := x })] } }

theorem test_witness_FunctionsOpenAndClose : Heard base 0 ∧ openWord.toNat &&& openRsv = 0 ∧ bit openWord 0 = true ∧
    settle (fld openWord 55 48) (fld openWord 63 56) = 0x11 ∧
    (∀ x ∈ [FnState.closed, .closing, .open, .held], ((fnIn x).fn 0).st = x ∧ ((fnIn x).fn 0).allFree = true ∧ ((fnIn x).port 0).mbxOpen = false ∧
      (fnIn x).integ.svc ≠ .draining ∧ ((fnIn x).chan 0).jobs = [] ∧ ((fnIn x).port 0).roleNow.role = .operator) := by
  simp only [Heard]; decide

theorem test_witness_RingsRunAndStop : Heard (fnIn .open) 0 ∧
    (∀ q, q = true ∨ q = false → ∀ x ∈ [RingState.free, .active, .stopping, .stopped],
      let v : BitVec 128 := BitVec.ofNat 128 (pack [(127, 76, 5), (75, 72, 10)])
      let r : Ring := { st := x, cfg := v }
      let s : State := { base with host := { fns := [(0, { st := .open, sqs := [(31, r)], cqs := [(31, r)] })] } }
      s.ring 0 q 31 = r ∧ (s.fn 0).st = .open ∧ v.toNat % 2 ^ 64 &&& ringRsv q % 2 ^ 64 = 0 ∧ v.toNat / 2 ^ 64 &&& ringRsv q / 2 ^ 64 = 0 ∧
      setFld r.cfg 69 69 0 = v ∧ BitVec.ofNat 128 (v.toNat &&& ringMask q) = v ∧ bit v 69 = false ∧ (s.fn 0).cqNamed 30 = false) ∧
    (let s : State := { base with host := { fns := [(0, { st := .open, sqs := [(31, { st := .stopping })] })] } }; s.ringDone 0 false 31 = true) ∧
    (let r : Ring := { st := .stopping, wrote := true, cfg := BitVec.ofNat 128 (2 ^ 47) }
     let s : State := { base with host := { fns := [(0, { st := .open, ver := 0x11, cqs := [(31, r)] })] } }
     s.ringDone 0 true 31 = true ∧ (s.ring 0 true 31).wrote = true ∧ bit (s.ring 0 true 31).cfg 47 = true ∧ 0x11 ≤ (s.fn 0).ver) := by
  simp only [Heard]
  refine ⟨by decide, ?_, by decide, by decide⟩
  rintro q (rfl | rfl) <;> decide +kernel

theorem test_witness_ProtectionIsStagedAndCommitted : Heard base 0 ∧ AuditRoom base ∧
    (let v : BitVec 64 := BitVec.ofNat 64 (pack [(63, 63, 1), (62, 58, 31), (35, 18, 0), (17, 0, 262143)])
     v.toNat &&& maskBits 57 36 = 0 ∧ base.host.ownQueue.length < 256 ∧ 256 ≤ (List.replicate 256 v).length ∧
     let s : State := { base with host := { ownQueue := [v, v], order := [ownOff, ownOff] } }
     s.host.order ≠ [] ∧ s.firstStagedBad s.host.order 0 0 = none ∧
     let s : State := { base with host := { ownQueue := [v + BitVec.ofNat 64 (2 ^ 18)], order := [ownOff] } }
     s.firstStagedBad s.host.order 0 0 = some 0) ∧ base.host.order = [] := by
  simp only [Heard, AuditRoom]; decide +kernel

/-! ### Worked examples of the manual -/

/-- The state after one command. -/
def after (i : Instr) (s : State) : State := match exec i s with | .next t => t | _ => s

/-- 02_number_formats.md, the format conversions table: 300.375. -/
theorem test_conversions : [Fmt.bf16, .fp16, .e4m3, .e5m2, .e2m1, .int16, .int8].map (fun f => ((convert .fp32 f 0x43963000).1, (convert .fp32 f 0x43963000).2.overflow)) =
    [(0x4396, false), (0x5CB2, false), (0x79, false), (0x5D, false), (0x7, true), (0x012C, false), (0x7F, true)] := by decide +kernel

/-- 03_analogue_arrays.md, the sparse bit-step table: the largest counts 4, 9, 14, 19 split 11 and 8, 17, 16 take 3,300 ns. -/
theorem test_bitSteps : mvmNs ((List.range 32).map (fun i => ((if i < 4 then 32 else 0) + (if 7 ≤ i ∧ i < 16 then 16 else 0) + (if 18 ≤ i then 8 else 0) +
    (if i < 11 ∨ (16 ≤ i ∧ i < 24) then 4 else 0) + (if 15 ≤ i then 2 else 0) + (if i < 16 then 1 else 0) : Int))) 8 = 3300 := by decide +kernel

/-- 03_analogue_arrays.md: with every input code zero an MVM takes 20 ns. -/
theorem test_allSkipped : mvmNs (List.replicate 1024 0) 8 = 20 := by decide +kernel

/-- 06_digital_engine.md: 24 rows by a BF16 tensor of 1,024 by 128 take 1.56 µs. -/
theorem test_engineTime : (engineNs .bf16 24 1024 128 16).1 = 1560 := by decide +kernel

/-- 05_quantisation.md: an entry of 1/32 with headroom 1.25 gives 0.0390625; the scale of a row whose largest magnitude is 9.1 is 9.1/127 rounded up. -/
theorem test_scales : lookbackScale .bf16 (.fin false 1 32) 5 = some 0x3D20 ∧
    (measuredScale .bf16 true 127 [.fin false 91 10, .fin true 9 1]).1 = 0x3D93 := by decide +kernel

/-- 12_host_queues.md: 1.0 to 1.1 settles on 1.1, 1.0 to 1.5 on 1.3, 1.4 to 1.5 on none. -/
theorem test_settle : settle 0x10 0x11 = 0x11 ∧ settle 0x10 0x15 = 0x13 ∧ settle 0x14 0x15 = 0 := by decide

/-- 08_accuracy.md, R171: the ageing factor is 1 at 85 °C, 0.211 at 70 °C, 6.58 at 105 °C (in units of 2^-32). -/
theorem test_arrhenius : arrhenius (85 * 16) = 2 ^ 32 ∧ 210 * 2 ^ 32 < 1000 * arrhenius (70 * 16) ∧ 1000 * arrhenius (70 * 16) < 212 * 2 ^ 32 ∧
    657 * 2 ^ 32 < 100 * arrhenius (105 * 16) ∧ 100 * arrhenius (105 * 16) < 659 * 2 ^ 32 := by decide +kernel

/-- 07_sequencer.md: the words of red.topk.cw and mvm.a.xgl. -/
theorem test_words : let t : Word := 0x30E0078452000000
    let a : Word := 0x20CCC50FFFE45003
    [opOf t, fld t 55 53, bnum t 40, bnum t 36, fld t 35 34, fld t 33 30, fld t 29 25] = [0x30, 7, 7, 8, 1, 1, 9] ∧
    [opOf a, bnum a 44, fld a 43 39, fld a 38 31, fld a 30 21, fld a 20 19, fld a 18 15, fld a 5 0] = [0x20, 12, 10, 31, 1023, 0, 8, 3] ∧
    (bit a 55 && bit a 54 && bit a 50 && bit a 51) = true := by decide

/-- 13_synchronisation.md: vertex 300 at 1 with waiters of 2 and 1, both consuming; a signal of 2 wakes slot 6, which leaves 1, then slot 11, which leaves 0. -/
theorem test_vertexWalk : let s := base { sync := { vtx := [(300, { value := 1, waiters := [{ slot := 6, thr := 2, consume := true }, { slot := 11, thr := 1, consume := true }] })]
                                                    sigIn := [{ vertex := 300, amount := 2, flits := 0 }] }
                                          seqr := { slots := [(6, { block := .wait 300 2 true }), (11, { block := .wait 300 1 true })] } }
    let t := after (.linkedVertexSignal 0) s
    ((t.chan 0).vtx 300).value = 0 ∧ ((t.chan 0).vtx 300).waiters = [] ∧ (t.slot 0 6).block = .none ∧ (t.slot 0 11).block = .none := by decide +kernel

/-- 04_accumulation.md, the stochastic trace table: 3,000,000.25, then .5, .5 and 0.25 (the third and fourth lane sums). -/
theorem test_stochastic : stochAdd 0x4A371B01 0x3E400000 0x9F3A21 = 0x4A371B02 ∧ stochAdd 0x4A371B02 0x3E400000 0xD10C44 = 0x4A371B02 ∧
    stochAdd 0x4A371B02 0xCA371B01 0x2207B5 = 0x3E800000 := by decide +kernel

/-- 04_accumulation.md, the compensated trace table: the lane ends with s = 0.5 and c = −0.125. -/
theorem test_compensated : [0x4A371B01, 0x3E400000, 0x3E400000, 0xCA371B01].foldl (fun a t => compAdd a.1 a.2 (BitVec.ofNat 32 t)) ((0, 0) : BitVec 32 × BitVec 32) =
    (0x3F000000, 0xBE000000) := by decide +kernel

/-- A write of rd = x0 is discarded (R132); an addition wraps at 64 bits (R141). -/
theorem test_add : let w := ins 0x01 [(47, 43, 3), (42, 38, 1), (48, 48, 1), (23, 0, 2)]
    let z := ins 0x01 [(47, 43, 0), (42, 38, 1), (48, 48, 1), (23, 0, 2)]
    let x : Slot := { slot1 with regs := [(1, BitVec.ofNat 64 (2 ^ 64 - 1))] }
    ((after (.add 0 0) (at1 w x)).slot 0 0).reg 3 = 1 ∧ ((after (.add 0 0) (at1 w x)).slot 0 0).pc = 1 ∧
    ((after (.add 0 0) (at1 z x)).slot 0 0).reg 0 = 0 := by decide

/-- R141: blt compares as signed and branches from its own place. -/
theorem test_blt : let w := ins 0x1A [(42, 38, 1), (37, 33, 2), (23, 0, 5)]
    ((after (.blt 0 0) (at1 w { slot1 with regs := [(1, BitVec.ofNat 64 (2 ^ 64 - 1))] })).slot 0 0).pc = 5 := by decide

/-- R275 to R277: the last arrival takes the generation on. -/
theorem test_barrier : let x : Bar := { cfg := BitVec.ofNat 64 (2 ^ 63), gen := 40 }
    ((after (.barrierArrival 0 .own) (base { sync := { barIn := [{ b := 17, gen := 40 }], bars := [(17, x)] } })).chan 0 |>.barrier 17).gen = 41 := by decide +kernel

/-- The table gives no row bits, so no word spells a command. -/
theorem test_noWord (n w : Nat) (s : State) : decodeTableWord n w = none ∧ s.withFetchWord n w = s := ⟨rfl, rfl⟩

end Sys2Proof.Tests
end

section
/-! SUPPORT. Instructions that complete at issue: the state they act on, what they read there, and a write of their register
(R132, R137, R140, R144). -/

namespace Sys2Proof.Machine

/-! ### The state at which an instruction that completes at issue acts -/

/-- The instruction has left the slot and its samples' run time is known (R140, R398): what an instruction that completes at issue acts on. -/
def State.issuedNow (s : State) (c sl : Nat) (w : Word) : State :=
  (s.issued c sl w).sampleDone c (s.chan c).seqr.nextSeq 1

theorem State.issueNow_eq (s : State) {c sl op : Nat} {w : Word} (act : State → Outst → State) (h : s.atIssue c sl op = some w)
    (r : (s.slot c sl).sinceYield + 1 < runawayLimit) :
    s.issueNow c sl op act = act (s.issuedNow c sl w) (s.entryOf c sl w) :=
  State.issue_next s _ h (.inl r)

theorem State.issuedNow_frame (s : State) (c sl : Nat) (w : Word) : IssueFrame s (s.issuedNow c sl w) c sl :=
  (s.issued_frame c sl w).counts (State.sampleDone_only _ _ _ _)

theorem State.issuedNow_slot (s : State) (c sl : Nat) (w : Word) :
    (s.issuedNow c sl w).slot c sl =
      { s.slot c sl with pc := (s.slot c sl).pc + 1, sinceYield := (s.slot c sl).sinceYield + 1 } :=
  ((State.sampleDone_only _ _ _ _).slot c sl).trans (s.issued_slot c sl w)

@[simp] theorem State.issuedNow_reg (s : State) (c sl r : Nat) (w : Word) :
    (s.issuedNow c sl w).reg c sl r = (s.slot c sl).reg r := by
  rw [State.reg, State.issuedNow_slot]; rfl

@[simp] theorem State.issuedNow_recDone (s : State) (c sl : Nat) (w : Word) :
    ((s.issuedNow c sl w).slot c sl).recDone = (s.slot c sl).recDone := by
  rw [State.issuedNow_slot]

/-! ### What the issue frame leaves readable -/

theorem IssueFrame.clk {s t : State} {c sl : Nat} (h : IssueFrame s t c sl) : t.clk = s.clk := by rw [h.rest]

theorem IssueFrame.hub {s t : State} {c sl : Nat} (h : IssueFrame s t c sl) : t.hub = s.hub := by rw [h.rest]

theorem IssueFrame.job? {s t : State} {c sl : Nat} (h : IssueFrame s t c sl) (id : Nat) : (t.chan c).job? id = (s.chan c).job? id := by
  rw [h.chan]; rfl

/-- An issue leaves every context record as it was. -/
theorem IssueFrame.ctx {s t : State} {c sl : Nat} (h : IssueFrame s t c sl) (raw : Nat) : t.ctx raw = s.ctx raw := by
  unfold State.ctx
  by_cases hc : raw / 32768 = c
  · rw [hc, h.chan]
  · rw [h.others _ hc]

/-- System values are the same after an issue: none is of the part that an issue changes. -/
theorem IssueFrame.sysValue {s t : State} {c sl : Nat} (h : IssueFrame s t c sl) (hj : (t.slot c sl).job = (s.slot c sl).job) (sel : Nat) :
    t.sysValue c sl sel = s.sysValue c sl sel := by
  simp only [State.sysValue, State.frameNow, hj, h.job?, h.ctx, h.clk, h.hub]

@[simp] theorem State.issuedNow_sysValue (s : State) (c sl sel : Nat) (w : Word) :
    (s.issuedNow c sl w).sysValue c sl sel = s.sysValue c sl sel :=
  (s.issuedNow_frame c sl w).sysValue (by rw [State.issuedNow_slot]) sel

/-! ### The system values one by one (R144) -/

/-- Selector 6, and what a program that was loaded cannot name: the user word. -/
theorem State.sysValue_user (s : State) (c sl : Nat) {sel : Nat} (h : 6 ≤ sel) :
    s.sysValue c sl sel = BitVec.ofNat 64 (((s.chan c).job? ((s.slot c sl).job.getD 0)).getD {}).user := by
  obtain ⟨n, rfl⟩ := Nat.exists_eq_add_of_le' h
  rfl

/-- The system values of the inference that the slot runs. -/
theorem State.sysValue_of_job (s : State) {c sl : Nat} {j : Job} (h : (s.chan c).job? ((s.slot c sl).job.getD 0) = some j) :
    s.sysValue c sl 0 = BitVec.ofNat 64 j.ctx ∧ s.sysValue c sl 4 = BitVec.ofNat 64 (s.ctx j.ctx).routingBase ∧
      ∀ sel, 6 ≤ sel → s.sysValue c sl sel = BitVec.ofNat 64 j.user := by
  refine ⟨?_, ?_, fun sel hs => ?_⟩
  · simp only [State.sysValue, h, Option.getD_some]
  · simp only [State.sysValue, h, Option.getD_some]
  · rw [State.sysValue_user s c sl hs, h, Option.getD_some]

end Sys2Proof.Machine

namespace Sys2Proof.Claims

open Sys2Proof.Machine

/-- A register write of an instruction that completes at issue reaches that register alone. -/
theorem wrote_setReg (s : State) (c sl rd : Nat) (w v : Word) :
    Wrote s ((s.issuedNow c sl w).setReg c sl rd v) c sl (Slot.file (s.slot c sl) rd v) ((s.slot c sl).pc + 1) := by
  have hs : ((s.issuedNow c sl w).setReg c sl rd v).slot c sl = ((s.issuedNow c sl w).slot c sl).setReg rd v :=
    State.slot_modSlot_same _ _ _ _
  refine ⟨fun r => ?_, ?_, (s.issuedNow_frame c sl w).modSlot _⟩
  · rw [hs, Slot.reg_setReg, State.issuedNow_slot]; rfl
  · rw [hs, State.issuedNow_slot]
    unfold Slot.setReg
    split <;> rfl

end Sys2Proof.Claims
end

section
/-! SUPPORT. The check of programs at load: an instruction that fails makes the whole package fail (R130, R144). -/

namespace Sys2Proof.Machine

/-- An rd.sys whose selector is beyond the table of R144 does not pass. -/
theorem Prog.instrOk_rdSys (p : Prog) (map : Sparse FMap) (i : Nat) {w : Word} (ho : opOf w = 0x10) (hs : 6 < fld w 23 0) :
    p.instrOk map i w = false := by
  have hv : p.valuesOk map i w = false := by
    unfold Prog.valuesOk
    rw [ho]
    exact decide_eq_false (by omega)
  simp [Prog.instrOk, hv]

/-- A program with an instruction that passes nowhere fails. -/
theorem progFault_ne_none {number : Nat} {image : List Byte} {map : Sparse FMap} {w : Word}
    (hw : w ∈ (readProg number image).words) (hf : ∀ i, (readProg number image).instrOk map i w = false) :
    progFault number image map ≠ none := by
  unfold progFault
  dsimp only
  split
  · simp
  · cases hx : (readProg number image).words.zipIdx.find? (fun e => !(readProg number image).instrOk map e.2 e.1) with
    | some e => simp
    | none =>
      obtain ⟨i, hi, rfl⟩ := List.mem_iff_getElem.1 hw
      have hp := List.find?_eq_none.1 hx (_, i) (List.mk_mem_zipIdx_iff_getElem?.2 (List.getElem?_eq_getElem hi))
      simp [hf i] at hp

/-- A package with a program that fails fails. -/
theorem State.progsFault_ne_none (s : State) {p : ProgFill} (hf : progFault p.number p.image (s.chan p.ch).arr.map ≠ none) :
    ∀ {l : List ProgFill}, p ∈ l → s.progsFault l ≠ none
  | q :: l, hp => by
    unfold State.progsFault
    split
    · simp
    · split
      · simp
      · next hq =>
        rcases List.mem_cons.1 hp with rfl | hp
        · exact absurd hq hf
        · exact State.progsFault_ne_none s hf hp

/-- A LOAD_PROGRAM that may be read and is signed, with a program that fails: the refusal is audited, and completes with the detail. -/
theorem State.takeProgs_refused (s : State) {progs : List ProgFill} {j : Job} {n : Nat} (ha : s.store.waiting.length < 256)
    (hd : s.dmaOk j.fn j.addr (fld j.desc 351 312) false = true) (hf : s.progsFault progs = some n) :
    s.takeProgs progs true j =
      (s.audit 0x13 j.fn 0x06 (digestObject (Config.shake256 (progs.flatMap (fun p => p.image))))).endFetched j stUnsupported 0x21 n := by
  have hr : s.auditFull = false := decide_eq_false (by unfold auditRoom; omega)
  simp [State.takeProgs, hr, hd, hf]

end Sys2Proof.Machine
end

section
/-! SUPPORT. Fetched descriptors and their completion entries: what follows the checks of a descriptor that passes them, where a completion
entry is found afterwards, and that completing touches no sequencer (R250 to R254, R261). -/

namespace Sys2Proof.Machine

/-! ### Sequencers -/

theorem State.seqr_countAll (s : State) (code c : Nat) : ((s.countAll code).chan c).seqr = (s.chan c).seqr := by
  unfold State.countAll
  rcases Nat.lt_or_ge c s.channels with h | h
  · rw [State.chan_allChans s _ h, Chan.count_dbg]
  · rw [State.chan_allChans_of_le s _ h]

theorem State.seqr_writeCpl (s : State) (e : Cpl) (c : Nat) : ((s.writeCpl e).chan c).seqr = (s.chan c).seqr := by
  unfold State.writeCpl
  dsimp only
  split
  · rfl
  · rw [State.event_rest]
    exact State.seqr_countAll _ _ c

theorem State.seqr_complete (s : State) (e : Cpl) (c : Nat) : ((s.complete e).chan c).seqr = (s.chan c).seqr := by
  unfold State.complete
  split
  · exact State.seqr_writeCpl s e c
  · rfl

theorem State.seqr_endFetched (s : State) (j : Job) (status cause detail c : Nat) :
    ((s.endFetched j status cause detail).chan c).seqr = (s.chan c).seqr :=
  State.seqr_complete _ _ c

theorem State.seqr_headBlock (s : State) (fn c : Nat) : ((s.headBlock fn).chan c).seqr = (s.chan c).seqr := by
  unfold State.headBlock
  dsimp only
  split
  · rfl
  · split
    · rfl
    · exact State.seqr_countAll s _ c

/-! ### What an audit entry leaves -/

theorem State.audit_rest (s : State) (action port result object : Nat) :
    s.audit action port result object = { s with store := (s.audit action port result object).store } := by
  unfold State.audit State.enterDropped
  split
  · rfl
  · split <;> (dsimp only; split <;> rfl)

theorem State.jobCpl_audit (s : State) (action port result object : Nat) (j : Job) (chan status cause : Nat) :
    (s.audit action port result object).jobCpl j chan status cause = s.jobCpl j chan status cause := by
  rw [State.audit_rest]; rfl

end Sys2Proof.Machine

namespace Sys2Proof.Claims

open Sys2Proof.Machine

/-! ### Completion entries -/

/-- What the writing of a completion entry looks at reads the same in both states: the completion rings, the window rules and the watermark. -/
structure SameRings (s t : State) : Prop where
  integ : t.integ = s.integ
  rules : t.host.rules = s.host.rules
  cqRing : ∀ fn n, (t.fn fn).cqRing n = (s.fn fn).cqRing n

theorem SameRings.sqDone (s : State) (fn sq : Nat) : SameRings s (s.sqDone fn sq) := by
  refine ⟨rfl, rfl, fun f n => ?_⟩
  unfold State.sqDone State.modSq
  rw [State.fn_modFn]
  split
  · next h => rw [h]; rfl
  · rfl

theorem SameRings.audit (s : State) (action port result object : Nat) : SameRings s (s.audit action port result object) := by
  rw [State.audit_rest]; exact ⟨rfl, rfl, fun _ _ => rfl⟩

/-- The state an entry is completed from may be exchanged for one whose rings read the same. -/
theorem Completed.of_sameRings {s t u : State} {e : Cpl} (h : SameRings s t) (k : Completed t u e) : Completed s u e := by
  unfold Completed State.dmaOk at k ⊢
  rwa [h.integ, h.rules, h.cqRing] at k

/-- An entry that waits or was written stays where it is while the waiting and the written entries do. -/
theorem Completed.keep {s t u : State} {e : Cpl} (hw : u.host.cpls = t.host.cpls) (ho : u.out.cpl = t.out.cpl) (k : Completed s t e) :
    Completed s u e := by
  unfold Completed at k ⊢
  rwa [hw, ho]

/-- Completing an entry: it waits, is written, or is lost to a denial of its ring's tail. -/
theorem completed_complete (s : State) (e : Cpl) : Completed s (s.complete e) e := by
  unfold State.complete
  split
  · unfold State.writeCpl
    dsimp only
    split
    · exact .inr (.inl ⟨_, _, List.mem_append_right _ (List.mem_singleton.2 rfl)⟩)
    · next h => exact .inr (.inr (by simpa using h))
  · exact .inl (List.mem_append_right _ (List.mem_singleton.2 rfl))

theorem completed_endFetched (s : State) (j : Job) (status cause detail : Nat) :
    Completed s (s.endFetched j status cause detail) { s.jobCpl j 0 status cause with detail := detail } :=
  (completed_complete _ _).of_sameRings (SameRings.sqDone s j.fn j.sq)

theorem Completed.headBlock {s t : State} {e : Cpl} (fn : Nat) (k : Completed s t e) : Completed s (t.headBlock fn) e := by
  unfold State.headBlock
  dsimp only
  split
  · exact k
  · split
    · refine k.keep ?_ ?_
      · unfold State.hostWrite; dsimp only; split <;> rfl
      · unfold State.hostWrite; dsimp only; split <;> rfl
    · refine k.keep ?_ ?_
      · rw [State.countAll, State.allChans_rest]
      · rw [State.countAll, State.allChans_rest]

/-! ### Descriptors that pass their checks -/

/-- A fetch of a kind that names no context, which passes every check, is run; the head block follows. -/
theorem fetched_of_fetches {s : State} {fn sq pos : Nat} {d : BitVec 512} {kinds : List Nat} (run : State → Job → State)
    (h : Fetches s fn sq pos) (hk : (s.newJob fn sq pos d).kind ∈ kinds) (h8 : 8 ≤ (s.newJob fn sq pos d).kind)
    (hv : s.popFetch.countJob.verdictOf (s.newJob fn sq pos d) = none) :
    s.fetched fn sq (.data d) kinds run = (run s.popFetch.countJob (s.newJob fn sq pos d)).headBlock fn := by
  obtain ⟨hq, hd, hs⟩ := h
  have hp : s.fetchPos fn sq = some pos := by
    obtain ⟨l, hl⟩ := List.head?_eq_some_iff.1 hq
    simp [State.fetchPos, hl]
  have hg : s.got fn sq pos (.data d) = .desc d := by simp [State.got, hd, hs]
  have hn : ¬ (1 ≤ (s.newJob fn sq pos d).kind ∧ (s.newJob fn sq pos d).kind ≤ 7 ∧
      s.popFetch.countJob.fitted ((s.newJob fn sq pos d).ctx / 32768) = true) := by omega
  have hc : kinds.contains (s.newJob fn sq pos d).kind = true := List.contains_iff_mem.2 hk
  simp only [State.fetched, hp, hg, hc, hn, hv, Bool.not_true, Bool.false_eq_true, if_false]

/-- R130, R254: a signed LOAD_PROGRAM that passes the checks of its descriptor, with a program that fails, completes with BAD_FIELD and the
detail of the first failure, and no sequencer changes. -/
theorem loadProgram_refuses {s : State} {fn sq pos : Nat} {d : BitVec 512} {l : List ProgFill} {p : ProgFill}
    (hfe : Fetches s fn sq pos) (hk : (s.newJob fn sq pos d).kind = 9)
    (hv : s.popFetch.countJob.verdictOf (s.newJob fn sq pos d) = none) (ha : s.store.waiting.length < 256)
    (hd : s.dmaOk fn (s.newJob fn sq pos d).addr (fld d 351 312) false = true) (hp : p ∈ l)
    (hf : progFault p.number p.image (s.chan p.ch).arr.map ≠ none) :
    ∃ t n, exec (.loadProgram fn sq (.data d) l true) s = .next t ∧
      Completed s t { s.jobCpl (s.newJob fn sq pos d) 0 stUnsupported 0x21 with detail := n } ∧
      ∀ c, (t.chan c).seqr = (s.chan c).seqr := by
  obtain ⟨n, hn⟩ := Option.ne_none_iff_exists'.1 (s.popFetch.countJob.progsFault_ne_none hf hp)
  have hr := s.popFetch.countJob.takeProgs_refused (j := s.newJob fn sq pos d) ha hd hn
  refine ⟨_, n, congrArg Host.Outcome.next (fetched_of_fetches (State.takeProgs l true) hfe (by simp [hk]) (by omega) hv), ?_, fun c => ?_⟩
  · rw [hr]
    have hc := completed_endFetched (s.popFetch.countJob.audit 0x13 fn 0x06 (digestObject (Config.shake256 (l.flatMap (fun p => p.image)))))
      (s.newJob fn sq pos d) stUnsupported 0x21 n
    rw [State.jobCpl_audit] at hc
    have hs : SameRings s s.popFetch.countJob := ⟨rfl, rfl, fun _ _ => rfl⟩
    exact ((hc.of_sameRings (SameRings.audit _ _ _ _ _)).of_sameRings hs).headBlock fn
  · rw [hr, State.seqr_headBlock, State.seqr_endFetched, State.audit_rest]
    rfl

end Sys2Proof.Claims
end

section
/-! Family 07_sequencer: what li and rd.sys write, and how rd.sys fails. -/

namespace Sys2Proof.Claims

open Sys2Proof.Machine

/-- R142: li writes its immediate. -/
theorem li_wrote {c sl : Nat} {w : Word} {s : State} (h : Issues s c sl 0x0C w) :
    ∃ t, exec (.li c sl) s = .next t ∧
      Wrote s t c sl (Slot.file (s.slot c sl) (rdOf w) (liValue w ((s.slot c sl).reg (rdOf w)))) ((s.slot c sl).pc + 1) := by
  obtain ⟨hi, hr⟩ := h
  refine ⟨_, congrArg Host.Outcome.next (State.issueNow_eq s _ hi hr), ?_⟩
  rw [State.issuedNow_reg]
  exact wrote_setReg s c sl _ w _

/-- R144: rd.sys writes the system value its selector names, but the routing base of a record that is not yet fetched. -/
theorem rdSys_wrote {c sl : Nat} {w : Word} {s : State} (h : Issues s c sl 0x10 w)
    (hd : fld w 23 0 = 4 → (s.slot c sl).recDone = true) :
    ∃ t, exec (.rdSys c sl) s = .next t ∧
      Wrote s t c sl (Slot.file (s.slot c sl) (rdOf w) (s.sysValue c sl (fld w 23 0))) ((s.slot c sl).pc + 1) := by
  obtain ⟨hi, hr⟩ := h
  have hn : ¬ (fld w 23 0 = 4 ∧ (!((s.issuedNow c sl w).slot c sl).recDone) = true) := by
    rintro ⟨h4, hb⟩
    simp [hd h4] at hb
  refine ⟨_, congrArg Host.Outcome.next ((State.issueNow_eq s _ hi hr).trans (if_neg hn)), ?_⟩
  rw [State.issuedNow_sysValue]
  exact wrote_setReg s c sl _ w _

/-- R144, R161: rd.sys of the routing base of a record that is not yet fetched ends the inference. -/
theorem rdSys_noRecord {c sl : Nat} {w : Word} {s : State} (h : Issues s c sl 0x10 w) (h4 : fld w 23 0 = 4)
    (hd : (s.slot c sl).recDone = false) :
    exec (.rdSys c sl) s = .next ((s.issuedNow c sl w).fault c sl 0x08 (s.slot c sl).pc) := by
  obtain ⟨hi, hr⟩ := h
  have hp : fld w 23 0 = 4 ∧ (!((s.issuedNow c sl w).slot c sl).recDone) = true := ⟨h4, by simp [hd]⟩
  exact congrArg Host.Outcome.next ((State.issueNow_eq s _ hi hr).trans (if_pos hp))

/-- Settles O9: li and rd.sys write one register on the state their issue leaves, the system values are those before the issue, and an
rd.sys beyond the table fails the check of R130. -/
theorem immediatesAndSystemValuesAreWritten : Obligations.ImmediatesAndSystemValuesAreWritten := by
  refine ⟨fun c sl w s h => li_wrote h, fun c sl w s h hd => ?_, fun c sl w s h h4 hd => rdSys_noRecord h h4 hd, ?_⟩
  · obtain ⟨t, he, hw⟩ := rdSys_wrote h hd
    refine ⟨t, _, he, hw, fun j hj => ?_, ?_, ?_, ?_, ?_⟩
    · obtain ⟨hctx, hbase, huser⟩ := s.sysValue_of_job hj
      exact ⟨fun e => by rw [e, hctx], fun e => by rw [e, hbase], huser _⟩
    all_goals exact fun e => by rw [e]; rfl
  · rintro s fn sq pos d _ l hfe rfl hk hv ha hd ⟨p, hp, w, hw, ho, hsel⟩
    exact loadProgram_refuses hfe hk hv ha hd hp
      (progFault_ne_none hw fun i => (readProg p.number p.image).instrOk_rdSys _ i ho hsel)

end Sys2Proof.Claims
end

section
/-! SUPPORT. The stall limit between ticks (R280): which operations leave the limit in force and the limit that waits as they are in every
channel. One rule for each operation that a tick calls, to be used from the outermost operation inwards; the rules of `Fr` serve those that
touch no channel at all. -/

namespace Sys2Proof.Machine

/-- The stall limit of a channel: the register in force, and the value that waits for the next tick (R280). -/
def Chan.stall (k : Chan) : BitVec 32 × Option (BitVec 32) := (k.sync.cfg, k.sync.cfgNext)

theorem Chan.stall_count (k : Chan) (m code n : Nat) (ctx : Option Nat) : (k.count m code n ctx).stall = k.stall := by
  rw [Chan.count_cnt]; rfl

theorem Chan.stall_dropPart (k : Chan) (e : ExpReq) : (k.dropPart e).stall = k.stall := by
  unfold Chan.dropPart
  dsimp only
  split <;> rfl

theorem Chan.stall_abandonTest (k : Chan) (f : Nat → Trim) : (k.abandonTest f).stall = k.stall := by
  unfold Chan.abandonTest
  split <;> rfl

/-- The channel registers at a tick: the stall limit that waits is in force, and none waits. -/
theorem Chan.stall_tickRegs (k : Chan) : k.tickRegs.stall = (k.stall.2.getD k.stall.1, none) := rfl

/-- From `s` to `t` no channel's stall limit changed. -/
structure SameStall (s t : State) : Prop where
  stall : ∀ c, (t.chan c).stall = (s.chan c).stall

/-- The parts of the state that a rule of `Fr` is asked for here: the channels. -/
def Mask.chansOnly : Mask :=
  { pwr := false, clk := false, hub := false, host := false, store := false, sec := false, integ := false, therm := false, out := false
    chans := true, fresh := false }

namespace SameStall

variable {s t u : State}

/-! ### The shape of an operation -/

theorem refl (s : State) : SameStall s s := ⟨fun _ => rfl⟩

theorem of_chans (h : SameStall s t) (e : u.chans = t.chans) : SameStall s u :=
  ⟨fun c => by rw [← h.stall c, State.chan, e]; rfl⟩

/-- What leaves every channel leaves the stall limits. -/
theorem of_fr (h : SameStall s t) (f : Fr Mask.chansOnly t u) : SameStall s u := h.of_chans (f.chans rfl)

theorem ite {p : Prop} [Decidable p] (h : SameStall s t) (k : SameStall s u) : SameStall s (if p then t else u) := by
  split <;> assumption

theorem foldl {α : Type} {f : State → α → State} (hf : ∀ t a, SameStall s t → SameStall s (f t a)) :
    ∀ (l : List α) {t : State}, SameStall s t → SameStall s (l.foldl f t)
  | [], _, h => h
  | a :: l, t, h => foldl hf l (hf t a h)

/-! ### Channels -/

theorem setChan {c : Nat} {x : Chan} (h : SameStall s t) (e : x.stall = (t.chan c).stall) : SameStall s (t.setChan c x) := by
  refine ⟨fun d => ?_⟩
  rw [State.chan_setChan, ← h.stall d]
  split
  · next hd => rw [e, hd]
  · rfl

theorem modChan {c : Nat} {f : Chan → Chan} (h : SameStall s t) (e : ∀ k, (f k).stall = k.stall := by exact fun _ => rfl) :
    SameStall s (t.modChan c f) := h.setChan (e _)

theorem allChans {f : Nat → Chan → Chan} (h : SameStall s t) (e : ∀ c k, (f c k).stall = k.stall := by exact fun _ _ => rfl) :
    SameStall s (t.allChans f) := foldl (fun _ c h => h.modChan (e c)) _ h

theorem setSlot {c n : Nat} {x : Slot} (h : SameStall s t) : SameStall s (t.setSlot c n x) := h.modChan

theorem modSlot {c n : Nat} {f : Slot → Slot} (h : SameStall s t) : SameStall s (t.modSlot c n f) := h.setSlot

theorem modTile {c n : Nat} {f : Tile → Tile} (h : SameStall s t) : SameStall s (t.modTile c n f) := h.modChan

theorem modBlock {c n f b : Nat} {g : Block8 → Block8} (h : SameStall s t) : SameStall s (t.modBlock c n f b g) := h.modChan

theorem modJob {c id : Nat} {f : Job → Job} (h : SameStall s t) : SameStall s (t.modJob c id f) := h.modChan

theorem dropJob {c id : Nat} (h : SameStall s t) : SameStall s (t.dropJob c id) := h.modChan

theorem setCtx {raw : Nat} {x : Ctx} (h : SameStall s t) : SameStall s (t.setCtx raw x) := h.modChan

theorem modCtx {raw : Nat} {f : Ctx → Ctx} (h : SameStall s t) : SameStall s (t.modCtx raw f) := h.setCtx

/-! ### The other parts of the state -/

theorem set_host {x : HostSide} (h : SameStall s t) : SameStall s { t with host := x } := h.of_chans rfl

theorem set_store {x : Store} (h : SameStall s t) : SameStall s { t with store := x } := h.of_chans rfl

theorem set_sec {x : Sec} (h : SameStall s t) : SameStall s { t with sec := x } := h.of_chans rfl

theorem set_integ {x : Integ} (h : SameStall s t) : SameStall s { t with integ := x } := h.of_chans rfl

theorem modFn {f : Nat} {g : Fn → Fn} (h : SameStall s t) : SameStall s (t.modFn f g) := h.of_chans rfl

theorem modSq {f n : Nat} {g : Ring → Ring} (h : SameStall s t) : SameStall s (t.modSq f n g) := h.of_chans rfl

theorem modCq {f n : Nat} {g : Ring → Ring} (h : SameStall s t) : SameStall s (t.modCq f n g) := h.of_chans rfl

theorem sqDone {f q : Nat} (h : SameStall s t) : SameStall s (t.sqDone f q) := h.of_chans rfl

theorem modPort {p : Nat} {g : Port → Port} (h : SameStall s t) : SameStall s (t.modPort p g) := h.of_chans rfl

theorem mbxDone {p status detail : Nat} {resp : List Byte} (h : SameStall s t) : SameStall s (t.mbxDone p status detail resp) := h.of_chans rfl

theorem modRec {g i : Nat} {f : PkgRec → PkgRec} (h : SameStall s t) : SameStall s (t.modRec g i f) := h.of_chans rfl

theorem modStore {c : Nat} {f : ChanStore → ChanStore} (h : SameStall s t) : SameStall s (t.modStore c f) := h.of_chans rfl

theorem modFacet {c n f : Nat} {g : Facet → Facet} (h : SameStall s t) : SameStall s (t.modFacet c n f g) := h.of_chans rfl

theorem hostWrite {a : Nat} {b : List Byte} (h : SameStall s t) : SameStall s (t.hostWrite a b) := h.of_chans rfl

theorem wantRecord (h : SameStall s t) : SameStall s t.wantRecord := h.of_chans rfl

theorem errlog {p r o d : Nat} {v : BitVec 64} (h : SameStall s t) : SameStall s (t.errlog p r o d v) := h.of_chans rfl

theorem event {cls sub chan arg arg2 : Nat} (h : SameStall s t) : SameStall s (t.event cls sub chan arg arg2) :=
  h.of_fr (.event rfl (.refl _ _))

theorem audit {action port result object : Nat} (h : SameStall s t) : SameStall s (t.audit action port result object) :=
  h.of_fr (.audit rfl (.refl _ _))

theorem auditFailed {p : Pkg} {b : Bool} (h : SameStall s t) : SameStall s (t.auditFailed p b) :=
  h.of_fr (.auditFailed rfl rfl (.refl _ _))

theorem endRole {p : Nat} (h : SameStall s t) : SameStall s (t.endRole p) := h.of_fr (.endRole rfl rfl rfl (.refl _ _))

theorem sendPeer {n : Nat} {x : Hdr} {b : List Byte} (h : SameStall s t) : SameStall s (t.sendPeer n x b) :=
  h.of_fr (.sendPeer rfl rfl (.refl _ _))

theorem refreshDue {c n f why : Nat} (h : SameStall s t) : SameStall s (t.refreshDue c n f why) :=
  h.of_fr (.refreshDue rfl rfl (.refl _ _))

theorem freeStaged {c : Nat} (h : SameStall s t) : SameStall s (t.freeStaged c) := h.of_fr (.freeStaged rfl (.refl _ _))

theorem laterCause {cause chan : Nat} (h : SameStall s t) : SameStall s (t.laterCause cause chan) :=
  h.of_fr (.laterCause rfl rfl rfl (.refl _ _))

theorem stagedNow {g : Nat} (h : SameStall s t) : SameStall s (t.stagedNow g) := h.of_fr (.stagedNow rfl rfl (.refl _ _))

theorem revoke (h : SameStall s t) : SameStall s t.revoke := h.of_fr (.revoke rfl rfl rfl (.refl _ _))

theorem tickRoles (h : SameStall s t) : SameStall s t.tickRoles := h.of_fr (.tickRoles rfl rfl rfl (.refl _ _))

theorem tickMbx (h : SameStall s t) : SameStall s t.tickMbx := h.of_fr (.tickMbx rfl (.refl _ _))

theorem tickPeers (h : SameStall s t) : SameStall s t.tickPeers := h.of_fr (.tickPeers rfl rfl rfl (.refl _ _))

/-! ### Counters and completions -/

theorem countN {c code n : Nat} {ctx : Option Nat} (h : SameStall s t) : SameStall s (t.countN c code n ctx) :=
  .ite h (h.modChan fun k => Chan.stall_count k _ _ _ _)

theorem count {c code : Nat} {ctx : Option Nat} (h : SameStall s t) : SameStall s (t.count c code ctx) := h.countN

theorem countAll {code : Nat} (h : SameStall s t) : SameStall s (t.countAll code) :=
  h.allChans fun _ k => Chan.stall_count k _ _ _ _

theorem writeCpl {e : Cpl} (h : SameStall s t) : SameStall s (t.writeCpl e) := by
  unfold State.writeCpl
  exact .ite (h.of_chans rfl) h.modCq.countAll.event

theorem complete {e : Cpl} (h : SameStall s t) : SameStall s (t.complete e) := .ite h.writeCpl (h.of_chans rfl)

theorem finishWith {c : Nat} {j : Job} {e : Cpl} (h : SameStall s t) : SameStall s (t.finishWith c j e) := by
  have hd : SameStall s (((t.dropJob c j.id).sqDone j.fn j.sq).complete e) := h.dropJob.sqDone.complete
  exact .ite (.ite hd.count.count hd.count) hd

theorem finish {c : Nat} {j : Job} {status cause detail : Nat} (h : SameStall s t) : SameStall s (t.finish c j status cause detail) :=
  h.finishWith

theorem finishHost {id status cause detail : Nat} (h : SameStall s t) : SameStall s (t.finishHost id status cause detail) := by
  unfold State.finishHost
  split
  · exact h
  · exact complete (h.of_chans rfl)

/-! ### The end of an inference -/

theorem readRec {raw : Nat} (h : SameStall s t) : SameStall s (t.readRec raw) := by
  refine .ite (setCtx ?_) ?_
  all_goals exact .ite (.ite h.setCtx h.setCtx) h

theorem runOrdered : ∀ (fuel : Nat) {t : State} (ctx : Nat), SameStall s t → SameStall s (t.runOrdered fuel ctx)
  | 0, _, _, h => h
  | fuel + 1, t, ctx, h => by
    have again : ∀ {u : State}, SameStall s u → SameStall s (u.runOrdered fuel ctx) := fun h => runOrdered fuel ctx h
    unfold State.runOrdered
    dsimp only
    split
    · exact h
    · refine .ite h ?_
      split
      · exact again h.finish
      · exact .ite (.ite (again h.readRec.hostWrite.finish) (again h.readRec.finish)) <|
          .ite (again h.readRec.finish) <|
          .ite (again h.readRec.modChan.modCtx.finish) (.ite h.readRec.modJob h.readRec)

theorem advance {ctx : Nat} (h : SameStall s t) : SameStall s (t.advance ctx) := h.runOrdered _ _

theorem leaveObjects {c sl ctx : Nat} (h : SameStall s t) : SameStall s (t.leaveObjects c sl ctx) := by
  unfold State.leaveObjects
  dsimp only
  split
  · exact modChan h.modChan
  · exact h.modChan

theorem dropParts {c sl : Nat} (h : SameStall s t) : SameStall s (t.dropParts c sl) :=
  foldl (fun _ e h => h.modChan fun k => Chan.stall_dropPart k e) _ h

theorem closeHandle {c sl n : Nat} (h : SameStall s t) : SameStall s (t.closeHandle c sl n) := by
  unfold State.closeHandle
  dsimp only
  split <;> split
  · exact modSlot (modChan h.modChan)
  · exact modSlot h.modChan
  · exact modSlot h.modChan
  · exact h.modSlot

theorem unbind {c sl : Nat} {j : Job} (h : SameStall s t) : SameStall s (t.unbind c sl j) := by
  unfold State.unbind
  exact modChan (setSlot (modChan (foldl (fun _ _ h => h.closeHandle) _ h.leaveObjects.dropParts)))

theorem endWith {c sl status cause detail : Nat} {p : PSrc} (h : SameStall s t) : SameStall s (t.endWith c sl status cause detail p) := by
  unfold State.endWith
  split
  · exact h
  · exact h.unbind.modCtx.finishWith.advance

theorem endInf {c sl status cause idx : Nat} {p : PSrc} (h : SameStall s t) : SameStall s (t.endInf c sl status cause idx p) := h.endWith

theorem endUnbound {c : Nat} {j : Job} {status cause : Nat} (h : SameStall s t) : SameStall s (t.endUnbound c j status cause) :=
  advance (finish (.ite h h.modCtx))

/-! ### Drains -/

theorem dropLate {c : Nat} {j : Job} (h : SameStall s t) : SameStall s (t.dropLate c j) := by
  unfold State.dropLate
  split
  · exact h.endInf
  · exact h.endUnbound

theorem dropCarried {f c : Nat} (h : SameStall s t) : SameStall s (t.dropCarried f c) := foldl (fun _ _ h => .ite h.dropLate h) _ h

theorem closeFn {f : Nat} (h : SameStall s t) : SameStall s (t.closeFn f) := by
  unfold State.closeFn
  split
  · exact foldl (fun _ _ h => h.dropCarried) _ h.modFn.endRole.modPort
  · exact h.modFn
  · exact h.modFn
  · exact h

theorem writeSamples {c : Nat} (h : SameStall s t) : SameStall s (t.writeSamples c).1 := by
  unfold State.writeSamples
  dsimp only
  split
  · exact h
  · split
    · exact h
    · split
      · exact hostWrite h.modChan
      · exact h

theorem endSample {c status cause : Nat} (h : SameStall s t) : SameStall s (t.endSample c status cause) := by
  unfold State.endSample
  split
  · exact h
  · exact .ite (finishHost (modChan (writeSamples h.modChan))) (finishHost (modChan (writeSamples h.modChan)))

theorem endRunning {c : Nat} (h : SameStall s t) : SameStall s (t.endRunning c) := foldl (fun _ _ h => .ite h.endInf h) _ h

theorem reloadDacs (h : SameStall s t) : SameStall s t.reloadDacs := h.allChans

theorem sendRetractions (h : SameStall s t) : SameStall s t.sendRetractions := by
  refine foldl (fun t e h => ?_) _ h
  dsimp only
  split
  · exact h
  · exact .ite h (.ite h.sendPeer.countAll h.event)

theorem abandonLoads {status cause : Nat} (h : SameStall s t) : SameStall s (t.abandonLoads status cause) :=
  foldl (fun _ _ h => .ite h h.auditFailed.finishHost) _ (allChans (foldl (fun _ _ h => h.freeStaged) _ (h.of_chans rfl)))

theorem startDrain {cause chan : Nat} (h : SameStall s t) : SameStall s (t.startDrain cause chan) := by
  unfold State.startDrain
  refine allChans (foldl (fun _ _ h => h.endSample) _ (abandonLoads (foldl (fun _ _ h => h.endRunning) _
    (foldl (fun _ _ h => h.closeFn) _ (sendRetractions (event (reloadDacs (allChans (h.of_chans rfl) fun c k => ?_))))))))
  exact Chan.stall_abandonTest k _

theorem drain {cause chan : Nat} (h : SameStall s t) : SameStall s (t.drain cause chan) := by
  unfold State.drain
  split
  · exact h.startDrain
  · exact h.startDrain
  · exact h.laterCause
  · exact h.laterCause

/-! ### What a tick does -/

theorem tickClock {ts : Nat} (h : SameStall s t) : SameStall s (t.tickClock ts) := by
  unfold State.tickClock
  exact .ite (countAll (.ite (event (h.of_chans rfl)) (h.of_chans rfl))) (.ite (event (h.of_chans rfl)) (h.of_chans rfl))

theorem tickHub (h : SameStall s t) : SameStall s t.tickHub := .ite (allChans (h.of_chans rfl)) (h.of_chans rfl)

theorem dropRefreshes {p : Nat → Nat → Nat → Bool} (h : SameStall s t) : SameStall s (t.dropRefreshes p) :=
  allChans (foldl (fun _ _ h => foldl (fun _ _ h => .ite h h.modFacet) _ h) _ (h.of_chans rfl))

theorem switchPkg {p : Pkg} (h : SameStall s t) : SameStall s (t.switchPkg p) := by
  unfold State.switchPkg
  refine .ite ?_ (set_host (finishHost (audit ?_)))
  all_goals exact foldl (fun _ _ h => .ite h (count (.ite (modChan h.set_store) (set_sec (modChan h.set_store))))) _ h

theorem switchTick (h : SameStall s t) : SameStall s t.switchTick := by
  unfold State.switchTick
  exact revoke <| foldl (fun _ _ h => h.set_store) _ <| set_host <|
    foldl (fun _ _ h => .ite h.mbxDone.wantRecord (mbxDone (modChan h.set_store))) _ <| set_host <|
    foldl (fun _ _ h => .ite h.switchPkg (wantRecord (foldl (fun _ _ h => h.modFacet) _ h))) _ <|
    foldl (fun _ _ h => h.switchPkg.dropRefreshes) _ h.set_host

theorem driftAlarm {c n f : Nat} (h : SameStall s t) : SameStall s (t.driftAlarm c n f) := .ite h.modFacet.count.refreshDue h

theorem setAge {c n f b : Nat} {v : Val} (h : SameStall s t) : SameStall s (t.setAge c n f b v) := .ite h.modBlock.drain h.modBlock.driftAlarm

theorem ageUpdate {c n f b : Nat} (h : SameStall s t) : SameStall s (t.ageUpdate c n f b) := .ite h h.modBlock.count.setAge

theorem ageUpdates (h : SameStall s t) : SameStall s t.ageUpdates := foldl (fun _ _ h => foldl (fun _ _ h => h.ageUpdate) _ h) _ h

theorem activate {f n : Nat} {isCq : Bool} (h : SameStall s t) : SameStall s (t.activate f isCq n) := by
  have hm : ∀ {u : State} {g : Ring → Ring}, SameStall s u → SameStall s (if isCq = true then u.modCq f n g else u.modSq f n g) :=
    fun h => .ite h.modCq h.modSq
  unfold State.activate
  refine .ite h (.ite ?_ (hm h).errlog)
  dsimp only
  split
  · exact (hm h).modFn.complete
  · exact hm h

theorem tickFns (h : SameStall s t) : SameStall s t.tickFns := by
  refine foldl (fun t e h => ?_) _ h
  refine .ite ?_ (foldl (fun _ _ h => h.activate) _ (foldl (fun _ _ h => h.activate) _ ?_))
  all_goals exact .ite h.modFn h

theorem resumePv {c n : Nat} (h : SameStall s t) : SameStall s (t.resumePv c n) := by
  unfold State.resumePv
  dsimp only
  split
  · exact h
  · exact .ite h (.ite (.ite h.modTile h.modTile.modFacet) h.modTile.count.modChan)

theorem testRelease {c : Nat} (h : SameStall s t) : SameStall s (t.testRelease c) :=
  .ite (foldl (fun _ _ h => h.resumePv) _ (set_integ (setChan h rfl))) h

theorem testTick {c : Nat} (h : SameStall s t) : SameStall s (t.testTick c) := by
  unfold State.testTick
  refine .ite ?_ (.ite (count (set_integ (setChan ?_ (by simp only [Chan.stall])))) (.ite (count (count (modChan ?_))) (count (modChan ?_))))
  all_goals exact h.modChan fun k => by split <;> rfl

theorem markRotation (h : SameStall s t) : SameStall s t.markRotation := h.allChans

theorem carryUse {c sl : Nat} (h : SameStall s t) : SameStall s (t.carryUse c sl) := by
  unfold State.carryUse
  exact modSlot h.modChan

theorem setBudget {c : Nat} (h : SameStall s t) : SameStall s (t.setBudget c) := by
  unfold State.setBudget
  exact modChan (foldl (fun _ _ h => .ite h.carryUse h) _ h) fun k => by simp only [Chan.stall]

theorem yieldFacets (h : SameStall s t) : SameStall s t.yieldFacets := foldl (fun _ _ h => .ite h.dropRefreshes h) _ h

theorem failPkg {g : Nat} (h : SameStall s t) : SameStall s (t.failPkg g) := by
  unfold State.failPkg
  split
  · exact h
  · refine .ite (set_host ?_) (finishHost (auditFailed (set_host ?_)))
    all_goals exact foldl (fun _ _ h => .ite h.modTile h.modTile.modFacet) _ h

theorem failStaging (h : SameStall s t) : SameStall s t.failStaging := by
  unfold State.failStaging
  split
  · exact h.failPkg
  · exact h

theorem beginPv {g i : Nat} {r : PkgRec} {refresh second : Bool} {f : Nat} (h : SameStall s t) :
    SameStall s (t.beginPv g i r refresh f second) := by
  have hb : ∀ {p : Pv}, SameStall s (((t.modRec g i (fun r => { r with st := .programming, facet := f, again := false })).modTile r.ch r.tile
      (fun x => { x with pv := some p })).count r.ch 0x38) := h.modRec.modTile.count
  exact resumePv (.ite hb.count hb)

theorem startPv {g i : Nat} {r : PkgRec} {refresh : Bool} (h : SameStall s t) : SameStall s (t.startPv g i r refresh) := by
  unfold State.startPv
  refine .ite h.beginPv ?_
  split
  · exact h
  · exact h.modFacet.modStore.countN.beginPv

theorem startRecord {e : Nat × Nat × PkgRec × Bool} (h : SameStall s t) : SameStall s (t.startRecord e) := .ite h.startPv h

theorem startPrograms (h : SameStall s t) : SameStall s t.startPrograms := by
  unfold State.startPrograms
  refine .ite h (foldl (fun _ _ h => h.startRecord) _ (.ite (failStaging (yieldFacets ?_)) (yieldFacets ?_)))
  all_goals
    split
    · exact h.stagedNow
    · exact h

theorem startRefreshes (h : SameStall s t) : SameStall s t.startRefreshes := by
  unfold State.startRefreshes
  refine .ite h (foldl (fun _ _ h => foldl (fun _ _ h => ?_) _ h) _ h)
  dsimp only
  split
  · exact h
  · exact .ite h.modTile.resumePv h

theorem startMap {c : Nat} (h : SameStall s t) : SameStall s (t.startMap c) := .ite h.modTile.resumePv (.ite h.resumePv h)

theorem tickSamples (h : SameStall s t) : SameStall s t.tickSamples := h.allChans

/-! ### The tick -/

/-- After the channel registers have taken their values, nothing in a tick touches a stall limit (R229). -/
theorem of_tick {ts : Nat} (hd : s.clk.due = some ts) :
    ∃ t, exec .tick s = .next t ∧ SameStall ((s.tickClock ts).tickHub.allChans fun _ k => k.tickRegs) t := by
  have he : exec .tick s = execTick s := rfl
  rw [he]
  unfold execTick
  rw [hd]
  refine ⟨_, rfl, tickPeers <| tickSamples <| (allChans · fun c k => by simp only [Chan.stall]) <|
    foldl (fun _ _ h => h.startMap) _ <| startRefreshes <| startPrograms <|
    foldl (fun _ _ h => h.setBudget) _ <| markRotation <| foldl (fun _ _ h => h.testTick) _ <| foldl (fun _ _ h => h.testRelease) _ <|
    tickMbx <| tickFns <| tickRoles <| ageUpdates <| switchTick <| refl _⟩

end SameStall

/-- R280: a tick that is due puts the stall limit that waits in force. -/
theorem tick_stall {s : State} {ts c : Nat} (hd : s.clk.due = some ts) (hc : s.fitted c = true) :
    ∃ t, exec .tick s = .next t ∧ (t.chan c).stall = ((s.chan c).stall.2.getD (s.chan c).stall.1, none) := by
  obtain ⟨t, he, ht⟩ := SameStall.of_tick hd
  have hf : SameStall s (s.tickClock ts).tickHub := (SameStall.refl s).tickClock.tickHub
  have hn : (s.tickClock ts).tickHub.channels = s.channels := by
    have hv : Fr { Mask.chansOnly with chans := false } s (s.tickClock ts).tickHub := .tickHub rfl rfl (.tickClock rfl rfl rfl rfl (.refl _ s))
    rw [State.channels, hv.variant]; rfl
  refine ⟨t, he, ?_⟩
  rw [ht.stall, State.chan_allChans _ _ (by rw [hn]; exact of_decide_eq_true hc), Chan.stall_tickRegs, hf.stall]

end Sys2Proof.Machine
end

section
/-! SUPPORT. Register writes of the physical function into the blocks of a fitted channel: what passes the common rules (R314, R373, R381), and
what a change of one channel and an entry of the error log leave (R380). -/

namespace Sys2Proof.Machine

/-! ### The common rules -/

theorem State.inChan_fitted (s : State) {c : Nat} (fn off v : Nat) (f : State → State) (h : s.fitted c = true) :
    s.inChan fn c off v f = f s := if_pos h

theorem State.pfOnly_zero (s : State) (off v : Nat) (f : State → State) : s.pfOnly 0 off v f = f s := if_neg (by simp)

/-- The physical function writes a register of a fitted channel's block. -/
theorem State.pfWrite_fitted (s : State) {c : Nat} (off v : Nat) (f : State → State) (h : s.fitted c = true) :
    s.inChan 0 c off v (fun s => s.pfOnly 0 off v f) = f s := by
  rw [State.inChan_fitted _ _ _ _ _ h, State.pfOnly_zero]

theorem State.rsvBits_clear (s : State) {mask v : Nat} (fn off : Nat) (h : v &&& mask = 0) : s.rsvBits fn off mask v = s := if_pos h

theorem State.inDebug_open (s : State) {c fn : Nat} (off v : Nat) (f : State → State) (h : s.fitted c = true) (d : s.debugOk fn = true) :
    s.inDebug fn c off v f = f s := by
  rw [State.inDebug, State.inChan_fitted _ _ _ _ _ h, if_pos d]

theorem State.inDebug_closed (s : State) {c fn : Nat} (off v : Nat) (f : State → State) (h : s.fitted c = true) (d : s.debugOk fn = false) :
    s.inDebug fn c off v f = s.errlog fn 0x0A off 0 (BitVec.ofNat 64 v) := by
  rw [State.inDebug, State.inChan_fitted _ _ _ _ _ h, if_neg (by simp [d])]

/-! ### Fields -/

/-- A field fits its width. -/
theorem fld_mod {n : Nat} (w : BitVec n) (hi lo : Nat) : fld w hi lo % 2 ^ (hi + 1 - lo) = fld w hi lo := Nat.mod_mod _ _

/-- A 32-bit register is made of its four bytes. -/
theorem pack_bytes (w : BitVec 32) : BitVec.ofNat 32 (pack [(31, 24, fld w 31 24), (23, 16, fld w 23 16), (15, 8, fld w 15 8), (7, 0, fld w 7 0)]) = w := by
  have hw := w.isLt
  refine BitVec.eq_of_toNat_eq ?_
  simp only [pack, fld, nfld, List.foldl, BitVec.toNat_ofNat, Nat.shiftRight_eq_div_pow]
  omega

end Sys2Proof.Machine

namespace Sys2Proof.Claims

open Sys2Proof.Machine

/-- A register access that reaches the module has its effect. -/
theorem Heard.regCmd {s : State} {fn : Nat} (h : Heard s fn) (f : State → State) : s.regCmd fn f = .next (f s) := by
  obtain ⟨hl, hs, hf⟩ := h
  simp [State.regCmd, onlyIf, hl, hs, hf]

/-- A change of one channel is one. -/
theorem inChan_modChan (s : State) (c : Nat) (f : Chan → Chan) : InChan s (s.modChan c f) c f :=
  ⟨rfl, fun _ h => State.chan_modChan_ne s f h, State.chan_modChan_same s c f⟩

/-- An entry of the error log is one. -/
theorem logged_errlog (s : State) (port reason off detail : Nat) (v : BitVec 64) :
    Logged s (s.errlog port reason off detail v) port reason off := by
  have he : ∀ k, sget 0 (s.errlog port reason off detail v).hub.errlog k = _ := fun k => sget_sinsert 0 _ (s.hub.errHead % 256) k _
  refine ⟨rfl, fun k h => ?_, ?_, ?_, ?_⟩
  · rw [he, if_neg h]
  all_goals
    rw [he, if_pos rfl]
    exact fld_pack _ _ _ _ rfl (by simp)

end Sys2Proof.Claims
end

section
/-! SUPPORT. The debug read-back of a facet (R395): what its start leaves in the read-back registers and at the tile. -/

namespace Sys2Proof.Machine

/-! ### Tiles and channels -/

/-- Two changes of the channels are one. -/
theorem State.chans_only_trans {s t u : State} (h : t = { s with chans := t.chans }) (k : u = { t with chans := u.chans }) :
    u = { s with chans := u.chans } := by
  rw [k, h]

@[simp] theorem Chan.setTile_dbg (k : Chan) (n : Nat) (x : Tile) : (k.setTile n x).dbg = k.dbg := rfl

theorem Chan.readCodes_setTile (k : Chan) (n t f : Nat) (x : Tile) : (k.setTile n x).arr.readCodes t f = k.arr.readCodes t f := rfl

theorem State.chan_modTile_same (s : State) (c n : Nat) (f : Tile → Tile) :
    (s.modTile c n f).chan c = (s.chan c).setTile n (f ((s.chan c).tile n)) := State.chan_modChan_same _ _ _

/-! ### The start -/

/-- From `s` to `t` only the channels changed, the read-back registers of channel `c` stand, and so does the programming of its tile `n`, but for
the start of its erase. -/
structure KeepsReadback (s t : State) (c n : Nat) : Prop where
  rest : t = { s with chans := t.chans }
  running : (t.chan c).dbg.mapRunning = (s.chan c).dbg.mapRunning
  cmd : (t.chan c).dbg.mapCmd = (s.chan c).dbg.mapCmd
  pv : ∀ p, (s.tile c n).pv = some p → ∃ e, (t.tile c n).pv = some { p with erasing := e }

namespace KeepsReadback

variable {s t u : State} {c n : Nat}

theorem refl (s : State) (c n : Nat) : KeepsReadback s s c n := ⟨rfl, rfl, rfl, fun p h => ⟨p.erasing, h⟩⟩

theorem trans (h : KeepsReadback s t c n) (k : KeepsReadback t u c n) : KeepsReadback s u c n := by
  refine ⟨State.chans_only_trans h.rest k.rest, k.running.trans h.running, k.cmd.trans h.cmd, fun p hp => ?_⟩
  obtain ⟨e, he⟩ := h.pv p hp
  obtain ⟨e', he'⟩ := k.pv _ he
  exact ⟨e', he'⟩

/-- A change of the channel that leaves its arrays and its debug registers. -/
theorem modChan {f : Chan → Chan} (ha : (f (s.chan c)).arr = (s.chan c).arr) (hd : (f (s.chan c)).dbg = (s.chan c).dbg) :
    KeepsReadback s (s.modChan c f) c n := by
  refine ⟨rfl, ?_, ?_, fun p hp => ⟨p.erasing, ?_⟩⟩
  · rw [State.chan_modChan_same, hd]
  · rw [State.chan_modChan_same, hd]
  · rw [State.tile, State.chan_modChan_same, Chan.tile, ha]; exact hp

theorem count (s : State) (c n code : Nat) (ctx : Option Nat) : KeepsReadback s (s.count c code ctx) c n := by
  have hc : s.count c code ctx = s.modChan c (fun k => k.count s.counters code 1 ctx) := by
    rw [State.count, State.countN, if_neg Nat.one_ne_zero]
  rw [hc]
  refine ⟨rfl, ?_, ?_, fun p hp => ⟨p.erasing, ?_⟩⟩
  · rw [State.chan_modChan_same, Chan.count_cnt]
  · rw [State.chan_modChan_same, Chan.count_cnt]
  · rw [State.tile, State.chan_modChan_same, Chan.count_cnt]; exact hp

/-- A change of the tile that leaves its programming, but for the start of its erase. -/
theorem modTile {f : Tile → Tile} (hp : ∀ p, (s.tile c n).pv = some p → ∃ e, (f (s.tile c n)).pv = some { p with erasing := e }) :
    KeepsReadback s (s.modTile c n f) c n := by
  refine ⟨rfl, ?_, ?_, fun p h => ?_⟩
  · rw [State.chan_modTile_same, Chan.setTile_dbg]
  · rw [State.chan_modTile_same, Chan.setTile_dbg]
  · rw [State.tile_modTile, if_pos ⟨rfl, rfl⟩]; exact hp p h

/-- A tile that goes on with a debug read-back, at once or after a switch to the facet (R61, R395). -/
theorem resumePv {p : Pv} (hp : (s.tile c n).pv = some p) (hw : p.why = .debug) : KeepsReadback s (s.resumePv c n) c n := by
  unfold State.resumePv
  dsimp only
  rw [hp]
  dsimp only
  split
  · exact refl s c n
  · split
    · have hr : (p.erasing || p.why.reads) = true := by rw [hw]; exact Bool.or_true _
      rw [if_pos hr]
      exact modTile fun q hq => ⟨true, by rw [Option.some.inj (hp.symm.trans hq)]⟩
    · exact ((modTile fun q hq => ⟨q.erasing, hq⟩).trans (count _ _ _ _ _)).trans (modChan rfl rfl)

end KeepsReadback

/-- A debug read-back that waits in a channel starts at its tile, which is free and not under test. -/
theorem State.startMap_free (s : State) {c n f : Nat} (hn : fld (s.chan c).dbg.mapCmd 60 52 = n) (hf : fld (s.chan c).dbg.mapCmd 51 48 = f)
    (hr : (s.chan c).dbg.mapRunning = true) (hp : (s.tile c n).pv = none) (ht : (s.tile c n).st ≠ .testing) :
    KeepsReadback (s.modTile c n (fun x => { x with pv := some { why := .debug, facet := f } })) (s.startMap c) c n := by
  unfold State.startMap
  dsimp only
  rw [hn, hf, if_pos (by simp [hr, hp, ht])]
  refine KeepsReadback.resumePv (p := { why := .debug, facet := f }) ?_ rfl
  rw [State.tile_modTile, if_pos ⟨rfl, rfl⟩]

end Sys2Proof.Machine
end

section
/-! Family 13_synchronisation: the registers of a fitted channel, written by the physical function. -/

namespace Sys2Proof.Claims

open Sys2Proof.Machine

/-! ### Limits, stall limit, links, barriers, selections, counters and the seed -/

section

variable {s : State} {c n : Nat} {w : BitVec 32} {v : BitVec 64} (hh : Heard s 0) (hf : s.fitted c = true)

include hh in
/-- A register write that comes down to a change of one channel. -/
theorem Heard.inChan {i : Instr} {f : Chan → Chan} (wr : State → State) (he : exec i s = s.regCmd 0 wr) (hw : wr s = s.modChan c f) :
    ∃ t, exec i s = .next t ∧ InChan s t c f :=
  ⟨_, he.trans (hh.regCmd wr), hw ▸ inChan_modChan s c f⟩

include hh in
/-- A register write that comes down to an entry of the error log. -/
theorem Heard.logged {i : Instr} {reason off : Nat} (wr : State → State) (x : Nat) (he : exec i s = s.regCmd 0 wr)
    (hw : wr s = s.errlog 0 reason off 0 (BitVec.ofNat 64 x)) : ∃ t, exec i s = .next t ∧ Logged s t 0 reason off :=
  ⟨_, he.trans (hh.regCmd wr), hw ▸ logged_errlog s _ _ _ _ _⟩

include hh hf

/-- R240: a channel's limits wait for the next tick. -/
theorem schedCfg_waits (h1 : fld w 31 24 ≠ 0) (h2 : fld w 23 16 ≠ 0) (h3 : fld w 15 8 ≠ 0) :
    ∃ t, exec (.schedCfgWrite 0 c w) s = .next t ∧ InChan s t c (fun k => { k with sched := { k.sched with cfgNext := some w } }) := by
  refine hh.inChan (fun s => s.wrSchedCfg 0 c w.toNat) rfl ?_
  have hk : ∀ {cur hi lo : Nat}, fld w hi lo ≠ 0 → orKeep w.toNat cur hi lo = (hi, lo, fld w hi lo) :=
    fun h => congrArg (fun x => (_, _, x)) (if_neg h)
  have hn : ¬ (nfld w.toNat 31 24 = 0 ∨ nfld w.toNat 23 16 = 0 ∨ nfld w.toNat 15 8 = 0) := not_or.2 ⟨h1, not_or.2 ⟨h2, h3⟩⟩
  have hp : BitVec.ofNat 32 (pack [(31, 24, fld w 31 24), (23, 16, fld w 23 16), (15, 8, fld w 15 8), (7, 0, nfld w.toNat 7 0)]) = w := pack_bytes w
  simp only [State.wrSchedCfg, State.pfWrite_fitted _ _ _ _ hf, if_neg hn, hk h1, hk h2, hk h3, hp]

/-- R280: a stall limit other than 0 waits for the next tick. -/
theorem syncCfg_waits (hr : w.toNat &&& maskBits 23 0 = 0) (h : fld w 31 24 ≠ 0) :
    ∃ t, exec (.syncCfgWrite 0 c w) s = .next t ∧
      InChan s t c (fun k => { k with sync := { k.sync with cfgNext := some (BitVec.ofNat 32 (pack [(31, 24, fld w 31 24)])) } }) := by
  refine hh.inChan (fun s => s.wrSyncCfg 0 c w.toNat) rfl ?_
  simp only [State.wrSyncCfg, State.pfWrite_fitted _ _ _ _ hf, State.rsvBits_clear _ _ _ hr]
  exact if_neg h

/-- R280, R381: a stall limit of 0 is refused. -/
theorem syncCfg_refused (hr : w.toNat &&& maskBits 23 0 = 0) (h : fld w 31 24 = 0) :
    ∃ t, exec (.syncCfgWrite 0 c w) s = .next t ∧ Logged s t 0 3 (chanOff c + 0x1C) := by
  refine hh.logged (fun s => s.wrSyncCfg 0 c w.toNat) w.toNat rfl ?_
  simp only [State.wrSyncCfg, State.pfWrite_fitted _ _ _ _ hf, State.rsvBits_clear _ _ _ hr]
  exact if_pos h

/-- R274: a link of a vertex waits for the next tick. -/
theorem vtxLink_waits (hn : n < 32) (hr : w.toNat &&& 15 = 0) (hl : s.linkRefused c n w.toNat = false) :
    ∃ t, exec (.vtxLinkWrite 0 c n w) s = .next t ∧ InChan s t c (fun k =>
      { k with sync := { k.sync with linkNext := sinsert n (BitVec.ofNat 32 (w.toNat / 16 * 16)) k.sync.linkNext } }) := by
  refine hh.inChan (fun s => if n < 32 then s.wrVtxLink 0 c n w.toNat else s) rfl ?_
  simp only [if_pos hn, State.wrVtxLink, State.pfWrite_fitted _ _ _ _ hf, State.rsvBits_clear _ _ _ hr]
  exact if_neg (by simp [hl])

/-- R274, R381: a link to its own channel, to one not fitted, or of a vertex that is linked already is refused. -/
theorem vtxLink_refused (hn : n < 32) (hr : w.toNat &&& 15 = 0) (hl : s.linkRefused c n w.toNat = true) :
    ∃ t, exec (.vtxLinkWrite 0 c n w) s = .next t ∧ Logged s t 0 3 (chanOff c + 0x100 + 4 * n) := by
  refine hh.logged (fun s => if n < 32 then s.wrVtxLink 0 c n w.toNat else s) w.toNat rfl ?_
  simp only [if_pos hn, State.wrVtxLink, State.pfWrite_fitted _ _ _ _ hf, State.rsvBits_clear _ _ _ hr]
  exact if_pos hl

/-- R275: the set-up of a barrier that nobody has entered waits for the next tick. -/
theorem barCfg_waits (hn : n < 256) (hr : v.toNat &&& maskBits 53 44 = 0) (hw : ((s.chan c).barrier n).waiters = [])
    (ha : ((s.chan c).barrier n).arrived = 0) (hm : s.homeRefused v.toNat = false) :
    ∃ t, exec (.barCfgWrite 0 c n v) s = .next t ∧ InChan s t c (fun k => { k with sync := { k.sync with
      barNext := sinsert n (BitVec.ofNat 64 (pack [(63, 54, fld v 63 54), (43, 32, fld v 43 32)])) k.sync.barNext } }) := by
  refine hh.inChan (fun s => if n < 256 then s.wrBarCfg 0 c n v.toNat else s) rfl ?_
  simp only [if_pos hn, State.wrBarCfg, State.pfWrite_fitted _ _ _ _ hf, State.rsvBits_clear _ _ _ hr]
  exact (if_neg (by simp [hw, ha])).trans (if_neg (by simp [hm]))

/-- R275, R381: the set-up of a barrier at which slots wait is refused. -/
theorem barCfg_refused (hn : n < 256) (hr : v.toNat &&& maskBits 53 44 = 0) (hw : ((s.chan c).barrier n).waiters ≠ []) :
    ∃ t, exec (.barCfgWrite 0 c n v) s = .next t ∧ Logged s t 0 4 (chanOff c + 0x800 + 8 * n) := by
  refine hh.logged (fun s => if n < 256 then s.wrBarCfg 0 c n v.toNat else s) v.toNat rfl ?_
  simp only [if_pos hn, State.wrBarCfg, State.pfWrite_fitted _ _ _ _ hf, State.rsvBits_clear _ _ _ hr]
  exact if_pos (by simp [hw])

/-- R392: the selection of a counter waits for the next tick. -/
theorem cntSel_waits (hn : n < s.counters) (hr : v.toNat &&& maskBits 43 8 = 0) :
    ∃ t, exec (.cntSelWrite 0 c n v) s = .next t ∧ InChan s t c (fun k => { k with dbg := { k.dbg with
      cntSelNext := sinsert n (BitVec.ofNat 64 (pack [(63, 44, fld v 63 44), (7, 0, fld v 7 0)])) k.dbg.cntSelNext } }) := by
  refine hh.inChan (fun s => s.wrCntSel 0 c n v.toNat) rfl ?_
  simp only [State.wrCntSel, State.pfWrite_fitted _ _ _ _ hf, State.rsvBits_clear _ _ _ hr]
  exact if_neg (Nat.not_le.2 hn)

/-- R392: a counter takes its value at once. -/
theorem cnt_takes (hn : n < s.counters) :
    ∃ t, exec (.cntWrite 0 c n v) s = .next t ∧ InChan s t c (fun k => { k with dbg := { k.dbg with cnt := sput 0 k.dbg.cnt n v } }) := by
  refine hh.inChan (fun s => s.wrCnt 0 c n v.toNat) rfl ?_
  simp only [State.wrCnt, State.pfWrite_fitted _ _ _ _ hf, BitVec.ofNat_toNat, BitVec.setWidth_eq]
  exact if_neg (Nat.not_le.2 hn)

/-- R393, R395: the seed waits for the next word drawn. -/
theorem rngSeed_waits (hd : s.debugOk 0 = true) (hv : v ≠ 0) :
    ∃ t, exec (.rngSeedWrite 0 c v) s = .next t ∧ InChan s t c (fun k => { k with seqr := { k.seqr with rngNext := some v } }) := by
  refine hh.inChan (fun s => s.wrSeed 0 c v.toNat) rfl ?_
  simp only [State.wrSeed, State.inDebug_open _ _ _ _ hf hd, BitVec.ofNat_toNat, BitVec.setWidth_eq]
  exact if_neg fun e => hv (BitVec.eq_of_toNat_eq e)

/-- R393: outside debug mode, or without the maker's role, the debug part takes no write. -/
theorem rngSeed_refused (hd : s.debugOk 0 = false) :
    ∃ t, exec (.rngSeedWrite 0 c v) s = .next t ∧ Logged s t 0 0x0A (dbgOff c) :=
  hh.logged (fun s => s.wrSeed 0 c v.toNat) v.toNat rfl (s.inDebug_closed _ _ _ hf hd)

end

/-! ### The debug read-back -/

/-- CH_MAP_CMD as a write of `v` with go set leaves it: the tile and the facet, and done clear (R395). -/
def goCmd (v : BitVec 64) : BitVec 64 := BitVec.ofNat 64 (pack [(62, 62, 0), (60, 52, fld v 60 52), (51, 48, fld v 51 48)])

theorem goCmd_tile (v : BitVec 64) : fld (goCmd v) 60 52 = fld v 60 52 := by
  rw [goCmd, fld_pack _ 60 52 _ rfl (.tail _ (.head _)), fld_mod]

theorem goCmd_facet (v : BitVec 64) : fld (goCmd v) 51 48 = fld v 51 48 := by
  rw [goCmd, fld_pack _ 51 48 _ rfl (.tail _ (.tail _ (.head _))), fld_mod]

theorem goCmd_done (v : BitVec 64) : bit (goCmd v) 62 = false := by
  rw [goCmd, bit, fld_pack _ 62 62 0 rfl (.head _)]; rfl

/-- A channel whose read-back waits with the command `x`. -/
def readingBack (k : Chan) (x : BitVec 64) : Chan := { k with dbg := { k.dbg with mapRunning := true, mapCmd := x } }

theorem readingBack_running (k : Chan) (x : BitVec 64) : (readingBack k x).dbg.mapRunning = true := rfl

theorem readingBack_cmd (k : Chan) (x : BitVec 64) : (readingBack k x).dbg.mapCmd = x := rfl

theorem readingBack_tile (k : Chan) (x : BitVec 64) (n : Nat) : (readingBack k x).tile n = k.tile n := rfl

/-- A read-back of facet `f` of tile `n`, free and not under test, starts with its command. -/
theorem startMap_readingBack (s : State) {c n f : Nat} {x : BitVec 64} (hn : fld x 60 52 = n) (hf : fld x 51 48 = f)
    (hp : (s.tile c n).pv = none) (ht : (s.tile c n).st ≠ .testing) :
    ∃ t, (s.setChan c (readingBack (s.chan c) x)).startMap c = t ∧ t = { s with chans := t.chans } ∧ (t.chan c).dbg.mapRunning = true ∧
      (t.chan c).dbg.mapCmd = x ∧ ∃ e, (t.tile c n).pv = some { why := .debug, facet := f, erasing := e } := by
  have hc : (s.setChan c (readingBack (s.chan c) x)).chan c = readingBack (s.chan c) x := State.chan_setChan_same _ _ _
  have htile : (s.setChan c (readingBack (s.chan c) x)).tile c n = s.tile c n := by
    rw [State.tile, hc, readingBack_tile]; rfl
  have hk := State.startMap_free (s.setChan c (readingBack (s.chan c) x)) (n := n) (f := f) (by rw [hc, readingBack_cmd, hn])
    (by rw [hc, readingBack_cmd, hf]) (by rw [hc, readingBack_running]) (by rw [htile]; exact hp) (by rw [htile]; exact ht)
  have hdbg : ∀ g : Tile → Tile,
      (((s.setChan c (readingBack (s.chan c) x)).modTile c n g).chan c).dbg = (readingBack (s.chan c) x).dbg :=
    fun g => by rw [State.chan_modTile_same, Chan.setTile_dbg, hc]
  refine ⟨_, rfl, State.chans_only_trans (State.chans_only_trans rfl rfl) hk.rest, ?_, ?_, hk.pv { why := .debug, facet := f } ?_⟩
  · rw [hk.running, hdbg, readingBack_running]
  · rw [hk.cmd, hdbg, readingBack_cmd]
  · rw [State.tile_modTile, if_pos ⟨rfl, rfl⟩]

/-- R395: what a write of CH_MAP_CMD with go set comes to while no read-back runs. -/
theorem wrMapCmd_go {s : State} {c : Nat} {v : BitVec 64} (hf : s.fitted c = true) (hd : s.debugOk 0 = true)
    (hr : v.toNat &&& (maskBits 61 61 + maskBits 47 0) = 0) (hg : bit v 63 = true) (hn : fld v 60 52 < 384)
    (hm : (s.chan c).dbg.mapRunning = false) : s.wrMapCmd 0 c v.toNat = (s.setChan c (readingBack (s.chan c) (goCmd v))).startMap c := by
  have hg' : (nfld v.toNat 63 63 == 1) = true := hg
  have hn' : ¬ 384 ≤ nfld v.toNat 60 52 := Nat.not_le.2 hn
  simp only [State.wrMapCmd, State.inDebug_open _ _ _ _ hf hd, State.rsvBits_clear _ _ _ hr, hg', hm, if_neg hn', State.modChan,
    Bool.and_false, Bool.false_eq_true, if_false, if_true, Bool.or_true, readingBack, goCmd, fld]

/-- R395: a write of CH_MAP_CMD with go set starts the read-back of a tile that is free and not under test. -/
theorem mapReadback_starts {s : State} {c : Nat} {v : BitVec 64} (hh : Heard s 0) (hf : s.fitted c = true) (hd : s.debugOk 0 = true)
    (hr : v.toNat &&& (maskBits 61 61 + maskBits 47 0) = 0) (hg : bit v 63 = true) (hn : fld v 60 52 < 384)
    (hm : (s.chan c).dbg.mapRunning = false) (hp : (s.tile c (fld v 60 52)).pv = none) (ht : (s.tile c (fld v 60 52)).st ≠ .testing) :
    ∃ t, exec (.mapReadbackGo 0 c v) s = .next t ∧ t = { s with chans := t.chans } ∧ (t.chan c).dbg.mapRunning = true ∧
      bit (t.chan c).dbg.mapCmd 62 = false ∧
      ∃ e, (t.tile c (fld v 60 52)).pv = some { why := .debug, facet := fld v 51 48, erasing := e } := by
  obtain ⟨t, he, hrest, hrun, hcmd, hpv⟩ := startMap_readingBack s (goCmd_tile v) (goCmd_facet v) hp ht
  refine ⟨t, ?_, hrest, hrun, by rw [hcmd, goCmd_done], hpv⟩
  have hx : exec (.mapReadbackGo 0 c v) s = s.regCmd 0 (fun s => s.wrMapCmd 0 c v.toNat) := rfl
  rw [hx, hh.regCmd, wrMapCmd_go hf hd hr hg hn hm, he]

/-- R395: 160 cycles after its start a read-back ends with the facet's codes in the buffer, and its tile is free. -/
theorem mapReadback_ends {s : State} {c : Nat} {l : List (Nat × Int)} {p : Pv} (hf : s.fitted c = true)
    (hp : (s.tile c (fld (s.chan c).dbg.mapCmd 60 52)).pv = some p) (hw : p.why = .debug)
    (ht : (s.tile c (fld (s.chan c).dbg.mapCmd 60 52)).st = .programming) (hm : (s.chan c).dbg.mapRunning = true) (hy : 160 ≤ p.cycle) :
    ∃ t, exec (.mapReadbackDone c l) s = .next t ∧ t = { s with chans := t.chans } ∧
      (t.chan c).dbg.mapRunning = false ∧ (t.chan c).dbg.mapCmd = setFld (s.chan c).dbg.mapCmd 62 62 1 ∧
      (t.tile c (fld (s.chan c).dbg.mapCmd 60 52)).pv = none ∧
      (t.chan c).dbg.mapBuf = mapRows (readBack ((s.chan c).arr.readCodes (fld (s.chan c).dbg.mapCmd 60 52) p.facet) l) := by
  have he : exec (.mapReadbackDone c l) s = execMapReadbackDone c l s := rfl
  rw [he, execMapReadbackDone]
  dsimp only
  rw [hp]
  dsimp only
  rw [onlyIf, if_pos (by simp [hf, hm, hw, ht, hy])]
  refine ⟨_, rfl, rfl, ?_, ?_, ?_, ?_⟩
  · rw [State.chan_modChan_same]
  · rw [State.chan_modChan_same, State.chan_modTile_same, Chan.setTile_dbg]
  · simp only [State.tile, State.chan_modChan_same, State.chan_modTile_same, Chan.tile, Chan.setTile, sget_sput_same]
  · rw [State.chan_modChan_same, State.chan_modTile_same, Chan.readCodes_setTile]

/-! ### The tick, and all together -/

/-- R280: the stall limit that waits is in force after a tick. -/
theorem tick_takes_stall {s : State} {c ts : Nat} (hf : s.fitted c = true) (hd : s.clk.due = some ts) :
    ∃ t, exec .tick s = .next t ∧ (t.chan c).sync.cfgNext = none ∧
      (t.chan c).sync.cfg = (s.chan c).sync.cfgNext.getD (s.chan c).sync.cfg := by
  obtain ⟨t, he, ht⟩ := tick_stall hd hf
  exact ⟨t, he, congrArg Prod.snd ht, congrArg Prod.fst ht⟩

/-- Settles O17: each register's clause is the lemma of its row above; the reset value of the stall limit is the one a channel starts with. -/
theorem channelRegistersAreWritten : Obligations.ChannelRegistersAreWritten := by
  intro s c n w v hh hf
  exact ⟨schedCfg_waits hh hf, fun hr => ⟨syncCfg_waits hh hf hr, syncCfg_refused hh hf hr⟩, rfl, fun _ hd => tick_takes_stall hf hd,
    fun hn hr => ⟨vtxLink_waits hh hf hn hr, vtxLink_refused hh hf hn hr⟩,
    fun hn hr => ⟨barCfg_waits hh hf hn hr, barCfg_refused hh hf hn hr⟩,
    fun hn => ⟨cntSel_waits hh hf hn, cnt_takes hh hf hn⟩, rngSeed_waits hh hf, rngSeed_refused hh hf, mapReadback_starts hh hf,
    fun _ _ hp hw ht hm hy => mapReadback_ends hf hp hw ht hm hy⟩

end Sys2Proof.Claims
end

section
/-! SUPPORT. Writes of the protection registers (R259, R262, R317, R382, R383): what each comes to, what a commit leaves unchanged, and who
owns a context after ownership values are applied. -/

namespace Sys2Proof.Machine

/-! ### Writes of protection registers -/

theorem State.protWrite_zero (s : State) (off v : Nat) (f : State → State) : s.protWrite 0 off v f = f s := if_neg (by simp)

theorem State.protWrite_other (s : State) {fn : Nat} (off v : Nat) (f : State → State) (h : fn ≠ 0) :
    s.protWrite fn off v f = s.audit 0x40 fn 1 (regObject off (BitVec.ofNat 64 v)) := if_pos h

theorem State.wrOwn_joins (s : State) {v : Nat} (hr : v &&& maskBits 57 36 = 0) (h : s.host.ownQueue.length < 256) :
    s.wrOwn 0 v = { s with host := { s.host with
      ownQueue := s.host.ownQueue ++ [BitVec.ofNat 64 (pack [(63, 58, nfld v 63 58), (35, 0, nfld v 35 0)])]
      order := s.host.order ++ [ownOff] } } := by
  simp only [State.wrOwn, State.protWrite_zero, State.rsvBits_clear _ _ _ hr]
  exact if_neg (Nat.not_le.2 h)

theorem State.wrOwn_full (s : State) {v : Nat} (hr : v &&& maskBits 57 36 = 0) (h : 256 ≤ s.host.ownQueue.length) :
    s.wrOwn 0 v = s.errlog 0 0x03 ownOff 0 (BitVec.ofNat 64 v) := by
  simp only [State.wrOwn, State.protWrite_zero, State.rsvBits_clear _ _ _ hr]
  exact if_pos h

/-- What a write of commit = 1 comes to (R259, R382). -/
theorem State.wrCommit_commit (s : State) : s.wrCommit 0 1 =
    if s.host.order = [] then s
    else ((s.firstStagedBad s.host.order 0 0).map (fun i => s.errlog 0 0x06 0x10000 i 1)).getD s.applyStaged := by
  have hr : 1 &&& maskBits 63 2 = 0 := rfl
  have hc : nfld 1 0 0 = 1 := rfl
  have hd : nfld 1 1 1 = 0 := rfl
  simp only [State.wrCommit, State.protWrite_zero, State.rsvBits_clear _ _ _ hr, hc, hd, List.isEmpty_iff]
  cases s.firstStagedBad s.host.order 0 0 <;> rfl

/-- What a write of discard = 1 comes to (R382). -/
theorem State.wrCommit_discard (s : State) :
    s.wrCommit 0 2 = { s with host := { s.host with staged := s.host.rules, order := [], ownQueue := [] } } := by
  have hr : 2 &&& maskBits 63 2 = 0 := rfl
  simp only [State.wrCommit, State.protWrite_zero, State.rsvBits_clear _ _ _ hr]
  rfl

/-! ### Ownership values -/

theorem State.assign_rest (s : State) (v : BitVec 64) :
    s.assign v = { s with host := { s.host with own := (s.assign v).host.own }, chans := (s.assign v).chans } := by
  unfold State.assign
  dsimp only
  rw [State.allChans_rest]

theorem State.foldl_assign_rest : ∀ (q : List (BitVec 64)) (s : State), q.foldl State.assign s =
    { s with host := { s.host with own := (q.foldl State.assign s).host.own }, chans := (q.foldl State.assign s).chans }
  | [], _ => rfl
  | v :: q, s => by
    rw [List.foldl_cons, State.foldl_assign_rest q, State.assign_rest s v]

/-- The ranges after an ownership value: its own, and those of before that it does not cover whole. -/
theorem State.own_assign (s : State) (v : BitVec 64) : (s.assign v).host.own =
    { first := (ownRange v).1, last := (ownRange v).2, owner := if bit v 63 then some (fld v 62 58) else none, gen := s.host.gen : Own } ::
      s.host.own.filter (fun x => !decide ((ownRange v).1 ≤ x.first ∧ x.last ≤ (ownRange v).2)) := by
  unfold State.assign
  dsimp only
  rw [State.allChans_rest]

/-- Ranges inside one that does not name a context may go: they do not name it either. -/
theorem find?_own_filter (l : List Own) {lo hi raw : Nat} (h : ¬ (lo ≤ raw ∧ raw ≤ hi)) :
    (l.filter (fun x => !decide (lo ≤ x.first ∧ x.last ≤ hi))).find? (fun o => decide (o.first ≤ raw ∧ raw ≤ o.last)) =
      l.find? (fun o => decide (o.first ≤ raw ∧ raw ≤ o.last)) := by
  rw [List.find?_filter]
  refine List.find?_congr fun o _ => ?_
  by_cases ho : o.first ≤ raw ∧ raw ≤ o.last
  · have : ¬ (lo ≤ o.first ∧ o.last ≤ hi) := by omega
    simp [ho, this]
  · simp [ho]

/-- An ownership value governs the contexts that it names and no other (R262). -/
theorem State.owner_assign (s : State) (v : BitVec 64) (raw : Nat) : ((s.assign v).ownOf raw).owner =
    if (ownRange v).1 ≤ raw ∧ raw ≤ (ownRange v).2 then (if bit v 63 then some (fld v 62 58) else none) else (s.ownOf raw).owner := by
  rw [State.ownOf, State.own_assign, List.find?_cons]
  by_cases h : (ownRange v).1 ≤ raw ∧ raw ≤ (ownRange v).2
  · simp only [h, and_self, decide_true, if_true, Option.getD_some]
  · simp only [h, decide_false, if_false, find?_own_filter _ h, State.ownOf]

/-- Of ownership values applied in order the last that names a context governs it (R383). -/
theorem State.owner_foldl_assign (raw : Nat) : ∀ (q : List (BitVec 64)) (s : State), ((q.foldl State.assign s).ownOf raw).owner =
    q.foldl (fun o v => if (ownRange v).1 ≤ raw ∧ raw ≤ (ownRange v).2 then (if bit v 63 then some (fld v 62 58) else none) else o)
      (s.ownOf raw).owner
  | [], _ => rfl
  | v :: q, s => by
    rw [List.foldl_cons, List.foldl_cons, State.owner_foldl_assign raw q, State.owner_assign]

/-! ### A commit -/

/-- The staged rules in force as the next generation, nothing staged. -/
def State.putInForce (s : State) : State :=
  { s with host := { s.host with
    rules := s.host.staged, order := [], ownQueue := [], gen := if s.host.gen = 2 ^ 32 - 1 then 1 else s.host.gen + 1 } }

/-- The peer windows that differ between two sets of rules closed (R267). -/
def State.closeChanged (s : State) (old new : Rules) : State :=
  (List.range 64).foldl (fun s n => if sget 0 old.peers n = sget 0 new.peers n then s else s.modPeer n Peer.close) s

theorem State.applyStaged_eq (s : State) :
    s.applyStaged = s.host.ownQueue.foldl State.assign (s.putInForce.closeChanged s.host.rules s.host.staged) := rfl

theorem State.closeChanged_rest (s : State) (old new : Rules) :
    s.closeChanged old new = { s with host := { s.host with peers := (s.closeChanged old new).host.peers } } := by
  unfold State.closeChanged
  generalize List.range 64 = l
  induction l generalizing s with
  | nil => rfl
  | cons n l ih =>
    rw [List.foldl_cons, ih]
    split <;> rfl

theorem State.ownOf_closeChanged (s : State) (old new : Rules) (raw : Nat) : (s.closeChanged old new).ownOf raw = s.ownOf raw := by
  rw [State.closeChanged_rest]; rfl

/-- A commit changes the rules in force, the owners, the peer windows and the context records. -/
theorem State.applyStaged_rest (s : State) : s.applyStaged =
    { s.putInForce with
      host := { s.putInForce.host with own := s.applyStaged.host.own, peers := s.applyStaged.host.peers }, chans := s.applyStaged.chans } := by
  rw [State.applyStaged_eq, State.foldl_assign_rest, State.closeChanged_rest]

/-- Without ownership values a commit leaves owners and channels. -/
theorem State.applyStaged_no_values (s : State) (h : s.host.ownQueue = []) :
    s.applyStaged.host.own = s.host.own ∧ s.applyStaged.chans = s.chans := by
  rw [State.applyStaged_eq, h, List.foldl_nil, State.closeChanged_rest]
  exact ⟨rfl, rfl⟩

theorem State.owner_applyStaged (s : State) (raw : Nat) : (s.applyStaged.ownOf raw).owner =
    s.host.ownQueue.foldl (fun o v => if (ownRange v).1 ≤ raw ∧ raw ≤ (ownRange v).2 then
      (if bit v 63 then some (fld v 62 58) else none) else o) (s.ownOf raw).owner := by
  rw [State.applyStaged_eq, State.owner_foldl_assign, State.ownOf_closeChanged]
  rfl

end Sys2Proof.Machine

namespace Sys2Proof.Claims

open Sys2Proof.Machine

/-! ### The audit log -/

/-- While the audit log takes entries a role action is entered (R317, R318). -/
theorem audited_audit {s : State} (h : AuditRoom s) (action port result object : Nat) :
    Audited s (s.audit action port result object) action port result := by
  obtain ⟨hw, hd⟩ := h
  have hf : s.auditFull = false := decide_eq_false (Nat.not_le.2 hw)
  have he : s.enterDropped = s := if_pos (by simp [hd])
  have ha : s.audit action port result object = s.auditPush action port result object := by
    simp only [State.audit, he, hf, Bool.false_eq_true, if_false]
  rw [ha]
  refine ⟨?_, _, rfl, rfl, ?_, ?_, ?_⟩
  · simp only [State.auditPush, List.length_append, List.length_singleton]
  all_goals exact fld_pack _ _ _ _ rfl (by simp)

end Sys2Proof.Claims
end

section
/-! Family 18_setup_registers: protection set-up, staged and committed. -/

namespace Sys2Proof.Claims

open Sys2Proof.Machine

/-! ### The physical function -/

section

variable {s : State} {v : BitVec 64} (hh : Heard s 0)

include hh

theorem protOwnWrite_exec : exec (.protOwnWrite 0 v) s = .next (s.wrOwn 0 v.toNat) := hh.regCmd (fun s => s.wrOwn 0 v.toNat)

theorem protCommit_exec : exec (.protCommit 0) s = .next (s.wrCommit 0 1) := hh.regCmd (fun s => s.wrCommit 0 1)

theorem protDiscard_exec : exec (.protDiscard 0) s = .next (s.wrCommit 0 2) := hh.regCmd (fun s => s.wrCommit 0 2)

/-- R383: an ownership value joins the queue. -/
theorem protOwnWrite_joins (hr : v.toNat &&& maskBits 57 36 = 0) (h : s.host.ownQueue.length < 256) :
    exec (.protOwnWrite 0 v) s = .next { s with host := { s.host with
      ownQueue := s.host.ownQueue ++ [BitVec.ofNat 64 (pack [(63, 58, fld v 63 58), (35, 0, fld v 35 0)])]
      order := s.host.order ++ [ownOff] } } := by
  rw [protOwnWrite_exec hh, State.wrOwn_joins _ hr h]
  rfl

/-- R381, R383: where the queue is full an ownership value is logged. -/
theorem protOwnWrite_full (hr : v.toNat &&& maskBits 57 36 = 0) (h : 256 ≤ s.host.ownQueue.length) :
    ∃ t, exec (.protOwnWrite 0 v) s = .next t ∧ Logged s t 0 3 0x10010 :=
  hh.logged (fun s => s.wrOwn 0 v.toNat) v.toNat rfl (s.wrOwn_full hr h)

/-- R382: a commit with nothing staged changes nothing. -/
theorem protCommit_nothing (h : s.host.order = []) : exec (.protCommit 0) s = .next s := by
  rw [protCommit_exec hh, State.wrCommit_commit, if_pos h]

/-- R382: a commit of a staged write that breaks a rule is logged and applies nothing. -/
theorem protCommit_refused {i : Nat} (h : s.host.order ≠ []) (hb : s.firstStagedBad s.host.order 0 0 = some i) :
    ∃ t, exec (.protCommit 0) s = .next t ∧ Logged s t 0 6 0x10000 := by
  refine ⟨_, protCommit_exec hh, ?_⟩
  rw [State.wrCommit_commit, if_neg h, hb]
  exact logged_errlog s _ _ _ _ _

/-- R259, R382: a commit of staged writes that break no rule applies them all. -/
theorem protCommit_applies (h : s.host.order ≠ []) (hb : s.firstStagedBad s.host.order 0 0 = none) :
    exec (.protCommit 0) s = .next s.applyStaged := by
  rw [protCommit_exec hh, State.wrCommit_commit, if_neg h, hb]
  rfl

/-- R382: a discard reloads the staging from the rules in force. -/
theorem protDiscard_reloads :
    exec (.protDiscard 0) s = .next { s with host := { s.host with staged := s.host.rules, order := [], ownQueue := [] } } := by
  rw [protDiscard_exec hh, State.wrCommit_discard]

end

/-! ### Another function -/

/-- R259, R317: a protection register that another function writes keeps its value, and the denial is audited. -/
theorem protWrite_denied {s : State} {i : Instr} {fn off x : Nat} (f : State → State) (hh : Heard s fn) (hn : fn ≠ 0) (ha : AuditRoom s)
    (he : exec i s = s.regCmd fn (fun s => s.protWrite fn off x f)) : ∃ t, exec i s = .next t ∧ Audited s t 0x40 fn 1 := by
  refine ⟨_, he.trans (hh.regCmd _), ?_⟩
  rw [State.protWrite_other _ _ _ _ hn]
  exact audited_audit ha _ _ _ _

/-- Settles O60: each write's clause is its lemma above; what a commit changes, and whom it gives contexts, are the lemmas about
`State.applyStaged`. -/
theorem protectionIsStagedAndCommitted : Obligations.ProtectionIsStagedAndCommitted := by
  intro s v hh
  refine ⟨protOwnWrite_joins hh, protOwnWrite_full hh, fun ho hb => ⟨_, protCommit_applies hh ho hb, ?_⟩, fun _ => protCommit_refused hh,
    protCommit_nothing hh, protDiscard_reloads hh, fun fn hf hn ha i hi => ?_⟩
  · refine ⟨?_, ?_, ?_, ?_, ?_, ?_, ?_, s.applyStaged_no_values, s.owner_applyStaged⟩
    all_goals rw [State.applyStaged_rest]; rfl
  · obtain ⟨hl, hs, _⟩ := hh
    have hd : Heard s fn := ⟨hl, hs, hf⟩
    simp only [List.mem_cons, List.not_mem_nil, or_false] at hi
    rcases hi with rfl | rfl | rfl
    all_goals exact protWrite_denied _ hd hn ha rfl

end Sys2Proof.Claims
end

section
/-! SUPPORT. What every command and every step leave: the queue, the variant and the bounds (R1, R317, R327, R336, R338, R383, R389). -/

namespace Sys2Proof.Machine

/-- The mask that marks no part: what `Fr` then says is that the queue, the variant and the bounds are kept. -/
def Mask.none : Mask :=
  { pwr := false, clk := false, hub := false, host := false, store := false, sec := false, integ := false, therm := false
    out := false, chans := false, fresh := false }

/-- Every command keeps the queue, the variant and the bounds: each by the law of its own meaning. -/
theorem exec_keeps (i : Instr) (s : State) : FrOut Mask.none s (exec i s) :=
  match i with
  | .powerUp => FrOut.execPowerUp rfl (Fr.refl _ s)
  | .powerGood _ => FrOut.execPowerGood rfl rfl rfl rfl rfl rfl rfl (Fr.refl _ s)
  | .apexRelease _ _ => FrOut.execApexRelease rfl rfl rfl rfl rfl rfl (Fr.refl _ s)
  | .bootComplete => FrOut.execBootComplete rfl rfl rfl rfl (Fr.refl _ s)
  | .bootTimeout => FrOut.execBootTimeout rfl (Fr.refl _ s)
  | .linkTrained _ => FrOut.execLinkTrained rfl rfl (Fr.refl _ s)
  | .enterService => FrOut.execEnterService rfl rfl rfl (Fr.refl _ s)
  | .powerLoss => FrOut.execPowerLoss rfl rfl rfl rfl rfl rfl rfl rfl rfl (Fr.refl _ s)
  | .overvoltageShutdown => FrOut.execOvervoltageShutdown rfl rfl rfl rfl rfl rfl rfl rfl rfl (Fr.refl _ s)
  | .supplyLowEntry => FrOut.execSupplyLowEntry rfl rfl (Fr.refl _ s)
  | .supplyHighEntry => FrOut.execSupplyHighEntry rfl rfl (Fr.refl _ s)
  | .supplyBandMs => FrOut.execSupplyBandMs rfl (Fr.refl _ s)
  | .perstAssert => FrOut.execPerstAssert rfl (Fr.refl _ s)
  | .perstGlitch => FrOut.execPerstGlitch rfl rfl (Fr.refl _ s)
  | .warmReset _ => FrOut.execWarmReset rfl rfl rfl rfl rfl rfl rfl rfl rfl rfl rfl (Fr.refl _ s)
  | .perstRelease _ => FrOut.execPerstRelease rfl rfl rfl rfl rfl (Fr.refl _ s)
  | .tickInEdge => FrOut.execTickInEdge rfl rfl rfl (Fr.refl _ s)
  | .holdoverTimeout => FrOut.execHoldoverTimeout rfl rfl (Fr.refl _ s)
  | .internalTick => FrOut.execInternalTick rfl (Fr.refl _ s)
  | .tick => FrOut.execTick rfl rfl rfl rfl rfl rfl rfl rfl rfl (Fr.refl _ s)
  | .intakeClose _ => FrOut.execIntakeClose rfl rfl rfl rfl rfl rfl (Fr.refl _ s)
  | .yieldMark => FrOut.execYieldMark rfl rfl (Fr.refl _ s)
  | .endOfCompute => FrOut.execEndOfCompute rfl rfl rfl rfl rfl (Fr.refl _ s)
  | .checkSlot => FrOut.execCheckSlot rfl rfl rfl (Fr.refl _ s)
  | .emissionClose _ => FrOut.execEmissionClose rfl rfl rfl rfl rfl rfl (Fr.refl _ s)
  | .lateCompletionWrite => FrOut.execLateCompletionWrite rfl rfl rfl rfl rfl (Fr.refl _ s)
  | .infer _ _ _ => FrOut.execInfer rfl rfl rfl rfl (Fr.refl _ s)
  | .inputReadDone _ _ _ => FrOut.execInputReadDone rfl rfl rfl rfl (Fr.refl _ s)
  | .slotBind _ _ => FrOut.execSlotBind rfl rfl rfl rfl (Fr.refl _ s)
  | .ctxOpen _ _ _ => FrOut.execCtxOpen rfl rfl rfl rfl (Fr.refl _ s)
  | .ctxReset _ _ _ => FrOut.execCtxReset rfl rfl rfl rfl (Fr.refl _ s)
  | .ctxRelease _ _ _ => FrOut.execCtxRelease rfl rfl rfl rfl (Fr.refl _ s)
  | .ctxReleaseComplete _ => FrOut.execCtxReleaseComplete rfl rfl rfl rfl (Fr.refl _ s)
  | .stateGet _ _ _ => FrOut.execStateGet rfl rfl rfl rfl (Fr.refl _ s)
  | .statePut _ _ _ => FrOut.execStatePut rfl rfl rfl rfl (Fr.refl _ s)
  | .ctxQuery _ _ _ => FrOut.execCtxQuery rfl rfl rfl rfl (Fr.refl _ s)
  | .loadWeights _ _ _ _ _ => FrOut.execLoadWeights rfl rfl rfl rfl rfl rfl (Fr.refl _ s)
  | .loadProgram _ _ _ _ _ => FrOut.execLoadProgram rfl rfl rfl rfl rfl rfl (Fr.refl _ s)
  | .sample _ _ _ => FrOut.execSample rfl rfl rfl rfl (Fr.refl _ s)
  | .sampleRunEnd _ => FrOut.execSampleRunEnd rfl rfl rfl rfl (Fr.refl _ s)
  | .add _ _ => FrOut.execAdd rfl rfl rfl rfl (Fr.refl _ s)
  | .sub _ _ => FrOut.execSub rfl rfl rfl rfl (Fr.refl _ s)
  | .and _ _ => FrOut.execAnd rfl rfl rfl rfl (Fr.refl _ s)
  | .or _ _ => FrOut.execOr rfl rfl rfl rfl (Fr.refl _ s)
  | .xor _ _ => FrOut.execXor rfl rfl rfl rfl (Fr.refl _ s)
  | .shl _ _ => FrOut.execShl rfl rfl rfl rfl (Fr.refl _ s)
  | .shr _ _ => FrOut.execShr rfl rfl rfl rfl (Fr.refl _ s)
  | .sra _ _ => FrOut.execSra rfl rfl rfl rfl (Fr.refl _ s)
  | .mul _ _ => FrOut.execMul rfl rfl rfl rfl (Fr.refl _ s)
  | .slt _ _ => FrOut.execSlt rfl rfl rfl rfl (Fr.refl _ s)
  | .sltu _ _ => FrOut.execSltu rfl rfl rfl rfl (Fr.refl _ s)
  | .li _ _ => FrOut.execLi rfl rfl rfl rfl (Fr.refl _ s)
  | .ldS _ _ => FrOut.execLdS rfl rfl rfl rfl (Fr.refl _ s)
  | .stS _ _ => FrOut.execStS rfl rfl rfl rfl (Fr.refl _ s)
  | .bdSet _ _ => FrOut.execBdSet rfl rfl rfl rfl (Fr.refl _ s)
  | .rdSys _ _ => FrOut.execRdSys rfl rfl rfl rfl (Fr.refl _ s)
  | .beq _ _ => FrOut.execBeq rfl rfl rfl rfl (Fr.refl _ s)
  | .bne _ _ => FrOut.execBne rfl rfl rfl rfl (Fr.refl _ s)
  | .blt _ _ => FrOut.execBlt rfl rfl rfl rfl (Fr.refl _ s)
  | .bge _ _ => FrOut.execBge rfl rfl rfl rfl (Fr.refl _ s)
  | .jmp _ _ => FrOut.execJmp rfl rfl rfl rfl (Fr.refl _ s)
  | .mvmA _ _ => FrOut.execMvmA rfl rfl rfl rfl (Fr.refl _ s)
  | .mvmD _ _ => FrOut.execMvmD rfl rfl rfl rfl (Fr.refl _ s)
  | .quantRow _ _ => FrOut.execQuantRow rfl rfl rfl rfl (Fr.refl _ s)
  | .deq _ _ => FrOut.execDeq rfl rfl rfl rfl (Fr.refl _ s)
  | .redTopk _ _ => FrOut.execRedTopk rfl rfl rfl rfl (Fr.refl _ s)
  | .redMm _ _ => FrOut.execRedMm rfl rfl rfl rfl (Fr.refl _ s)
  | .normRow _ _ => FrOut.execNormRow rfl rfl rfl rfl (Fr.refl _ s)
  | .actTab _ _ => FrOut.execActTab rfl rfl rfl rfl (Fr.refl _ s)
  | .vecOp _ _ => FrOut.execVecOp rfl rfl rfl rfl (Fr.refl _ s)
  | .ctxLd _ _ _ => FrOut.execCtxLd rfl rfl rfl rfl (Fr.refl _ s)
  | .ctxSt _ _ _ => FrOut.execCtxSt rfl rfl rfl rfl (Fr.refl _ s)
  | .emit _ _ => FrOut.execEmit rfl rfl rfl rfl (Fr.refl _ s)
  | .xchSnd _ _ => FrOut.execXchSnd rfl rfl rfl rfl (Fr.refl _ s)
  | .xchRcv _ _ => FrOut.execXchRcv rfl rfl rfl rfl (Fr.refl _ s)
  | .spill _ _ => FrOut.execSpill rfl rfl rfl rfl (Fr.refl _ s)
  | .resume _ _ => FrOut.execResume rfl rfl rfl rfl (Fr.refl _ s)
  | .sig _ _ => FrOut.execSig rfl rfl rfl rfl (Fr.refl _ s)
  | .wait _ _ => FrOut.execWait rfl rfl rfl rfl (Fr.refl _ s)
  | .bar _ _ => FrOut.execBar rfl rfl rfl rfl (Fr.refl _ s)
  | .yield _ _ => FrOut.execYield rfl rfl rfl rfl (Fr.refl _ s)
  | .halt _ _ => FrOut.execHalt rfl rfl rfl rfl (Fr.refl _ s)
  | .inferenceCommit _ _ => FrOut.execInferenceCommit rfl rfl rfl rfl (Fr.refl _ s)
  | .unitStart _ _ _ _ => FrOut.execUnitStart rfl rfl rfl rfl (Fr.refl _ s)
  | .instructionComplete _ _ _ => FrOut.execInstructionComplete rfl rfl rfl rfl (Fr.refl _ s)
  | .tileGrant _ _ => FrOut.execTileGrant rfl (Fr.refl _ s)
  | .facetSwitchDone _ _ => FrOut.execFacetSwitchDone rfl rfl (Fr.refl _ s)
  | .mvmComplete _ _ _ _ => FrOut.execMvmComplete rfl rfl rfl rfl rfl rfl rfl (Fr.refl _ s)
  | .bankDrain _ _ _ => FrOut.execBankDrain rfl rfl rfl (Fr.refl _ s)
  | .autoSpill _ _ _ => FrOut.execAutoSpill rfl rfl rfl rfl (Fr.refl _ s)
  | .groupGrant _ => FrOut.execGroupGrant rfl rfl rfl rfl (Fr.refl _ s)
  | .lookbackVerdict _ _ _ => FrOut.execLookbackVerdict rfl (Fr.refl _ s)
  | .requantDone _ _ _ => FrOut.execRequantDone rfl (Fr.refl _ s)
  | .weightStreamStart _ => FrOut.execWeightStreamStart rfl (Fr.refl _ s)
  | .weightBlockArrival _ _ _ => FrOut.execWeightBlockArrival rfl rfl (Fr.refl _ s)
  | .cacheSetWaitEnd _ _ _ => FrOut.execCacheSetWaitEnd rfl rfl rfl rfl (Fr.refl _ s)
  | .patrolScrub _ _ _ => FrOut.execPatrolScrub rfl rfl (Fr.refl _ s)
  | .xchMessageDelivered _ _ _ => FrOut.execXchMessageDelivered rfl rfl rfl rfl (Fr.refl _ s)
  | .expertRequestArrival _ _ => FrOut.execExpertRequestArrival rfl rfl rfl rfl (Fr.refl _ s)
  | .expertReplyArrival _ _ => FrOut.execExpertReplyArrival rfl (Fr.refl _ s)
  | .linkedVertexSignal _ => FrOut.execLinkedVertexSignal rfl rfl rfl rfl (Fr.refl _ s)
  | .barrierArrival _ _ => FrOut.execBarrierArrival rfl rfl rfl (Fr.refl _ s)
  | .barrierRelease _ _ => FrOut.execBarrierRelease rfl rfl rfl (Fr.refl _ s)
  | .heldReleaseWake _ _ => FrOut.execHeldReleaseWake rfl (Fr.refl _ s)
  | .arantHello _ _ => FrOut.execArantHello rfl rfl rfl (Fr.refl _ s)
  | .arantExchange _ _ _ => FrOut.execArantExchange rfl rfl rfl rfl (Fr.refl _ s)
  | .arantExpertRequest _ _ _ => FrOut.execArantExpertRequest rfl rfl rfl (Fr.refl _ s)
  | .arantExpertReply _ _ _ => FrOut.execArantExpertReply rfl rfl rfl (Fr.refl _ s)
  | .arantCredit _ _ _ => FrOut.execArantCredit rfl rfl rfl (Fr.refl _ s)
  | .arantRetraction _ _ _ => FrOut.execArantRetraction rfl rfl rfl rfl rfl (Fr.refl _ s)
  | .peerApertureRead => FrOut.execPeerApertureRead rfl (Fr.refl _ s)
  | .ideIntegrityFail _ => FrOut.execIdeIntegrityFail rfl rfl rfl (Fr.refl _ s)
  | .functionLevelReset _ => FrOut.execFunctionLevelReset rfl rfl rfl rfl rfl (Fr.refl _ s)
  | .functionOpen _ _ => FrOut.execFunctionOpen rfl rfl rfl rfl rfl (Fr.refl _ s)
  | .functionClose _ => FrOut.execFunctionClose rfl rfl rfl rfl rfl (Fr.refl _ s)
  | .functionClosed _ => FrOut.execFunctionClosed rfl rfl (Fr.refl _ s)
  | .ringEnable _ _ _ _ => FrOut.execRingEnable rfl rfl (Fr.refl _ s)
  | .ringDisable _ _ _ => FrOut.execRingDisable rfl rfl (Fr.refl _ s)
  | .ringFreed _ _ _ => FrOut.execRingFreed rfl rfl (Fr.refl _ s)
  | .protCommit _ => FrOut.execProtCommit rfl rfl rfl rfl (Fr.refl _ s)
  | .protDiscard _ => FrOut.execProtDiscard rfl rfl rfl rfl (Fr.refl _ s)
  | .protOwnWrite _ _ => FrOut.execProtOwnWrite rfl rfl rfl (Fr.refl _ s)
  | .setupDone _ => FrOut.execSetupDone rfl (Fr.refl _ s)
  | .smbInstallerClear _ => FrOut.execSmbInstallerClear rfl (Fr.refl _ s)
  | .tickCfgWrite _ _ => FrOut.execTickCfgWrite rfl rfl rfl (Fr.refl _ s)
  | .checkCfgWrite _ _ => FrOut.execCheckCfgWrite rfl rfl (Fr.refl _ s)
  | .pwrCfgWrite _ _ => FrOut.execPwrCfgWrite rfl rfl (Fr.refl _ s)
  | .testPeriodWrite _ _ => FrOut.execTestPeriodWrite rfl rfl rfl (Fr.refl _ s)
  | .testRunNow _ _ => FrOut.execTestRunNow rfl rfl rfl (Fr.refl _ s)
  | .schedCfgWrite _ _ _ => FrOut.execSchedCfgWrite rfl rfl (Fr.refl _ s)
  | .syncCfgWrite _ _ _ => FrOut.execSyncCfgWrite rfl rfl (Fr.refl _ s)
  | .vtxLinkWrite _ _ _ _ => FrOut.execVtxLinkWrite rfl rfl (Fr.refl _ s)
  | .barCfgWrite _ _ _ _ => FrOut.execBarCfgWrite rfl rfl (Fr.refl _ s)
  | .cntSelWrite _ _ _ _ => FrOut.execCntSelWrite rfl rfl (Fr.refl _ s)
  | .cntWrite _ _ _ _ => FrOut.execCntWrite rfl rfl (Fr.refl _ s)
  | .rngSeedWrite _ _ _ => FrOut.execRngSeedWrite rfl rfl (Fr.refl _ s)
  | .mapReadbackGo _ _ _ => FrOut.execMapReadbackGo rfl rfl rfl (Fr.refl _ s)
  | .mapReadbackDone _ _ => FrOut.execMapReadbackDone rfl (Fr.refl _ s)
  | .registerWrite _ _ _ _ _ => FrOut.execRegisterWrite rfl rfl rfl rfl rfl rfl rfl rfl (Fr.refl _ s)
  | .mailboxOpen _ _ => FrOut.execMailboxOpen rfl rfl (Fr.refl _ s)
  | .openMailbox _ _ => FrOut.execOpenMailbox rfl rfl (Fr.refl _ s)
  | .getChallenge _ _ => FrOut.execGetChallenge rfl rfl rfl (Fr.refl _ s)
  | .assumeRole _ _ _ => FrOut.execAssumeRole rfl rfl rfl (Fr.refl _ s)
  | .releaseRole _ _ => FrOut.execReleaseRole rfl rfl rfl (Fr.refl _ s)
  | .readEvents _ _ => FrOut.execReadEvents rfl rfl (Fr.refl _ s)
  | .readAudit _ _ => FrOut.execReadAudit rfl rfl (Fr.refl _ s)
  | .readErrlog _ _ => FrOut.execReadErrlog rfl rfl (Fr.refl _ s)
  | .flushStore _ _ => FrOut.execFlushStore rfl rfl rfl rfl (Fr.refl _ s)
  | .setModuleId _ _ => FrOut.execSetModuleId rfl rfl rfl rfl (Fr.refl _ s)
  | .authSlot _ _ => FrOut.execAuthSlot rfl rfl rfl rfl (Fr.refl _ s)
  | .unmapFacet _ _ => FrOut.execUnmapFacet rfl rfl rfl rfl (Fr.refl _ s)
  | .readModuleId _ _ => FrOut.execReadModuleId rfl rfl (Fr.refl _ s)
  | .firmwareStage _ _ _ _ => FrOut.execFirmwareStage rfl rfl rfl rfl (Fr.refl _ s)
  | .firmwareActivate _ _ => FrOut.execFirmwareActivate rfl rfl rfl rfl (Fr.refl _ s)
  | .calibrate _ _ => FrOut.execCalibrate rfl rfl rfl rfl (Fr.refl _ s)
  | .provision _ _ => FrOut.execProvision rfl rfl rfl rfl rfl (Fr.refl _ s)
  | .clearReplacementFlag _ _ => FrOut.execClearReplacementFlag rfl rfl rfl rfl (Fr.refl _ s)
  | .openDebugWindow _ _ => FrOut.execOpenDebugWindow rfl rfl rfl rfl (Fr.refl _ s)
  | .getVersion _ => FrOut.execGetVersion rfl rfl (Fr.refl _ s)
  | .getCapabilities _ _ => FrOut.execGetCapabilities rfl rfl (Fr.refl _ s)
  | .negotiateAlgorithms _ => FrOut.execNegotiateAlgorithms rfl rfl (Fr.refl _ s)
  | .getDigests _ => FrOut.execGetDigests rfl (Fr.refl _ s)
  | .getCertificate _ _ _ _ => FrOut.execGetCertificate rfl (Fr.refl _ s)
  | .challenge _ _ => FrOut.execChallenge rfl rfl (Fr.refl _ s)
  | .getMeasurements _ _ _ => FrOut.execGetMeasurements rfl rfl (Fr.refl _ s)
  | .keyExchange _ _ => FrOut.execKeyExchange rfl rfl rfl (Fr.refl _ s)
  | .finish _ _ _ => FrOut.execFinish rfl rfl (Fr.refl _ s)
  | .heartbeat _ _ => FrOut.execHeartbeat rfl (Fr.refl _ s)
  | .keyUpdate _ _ => FrOut.execKeyUpdate rfl rfl (Fr.refl _ s)
  | .endSession _ _ => FrOut.execEndSession rfl rfl (Fr.refl _ s)
  | .challengeExpire _ => FrOut.execChallengeExpire rfl (Fr.refl _ s)
  | .configRecordWriteStart => FrOut.execConfigRecordWriteStart rfl rfl (Fr.refl _ s)
  | .configRecordWriteDone _ => FrOut.execConfigRecordWriteDone rfl rfl rfl rfl rfl rfl rfl (Fr.refl _ s)
  | .packageStagingStart => FrOut.execPackageStagingStart rfl rfl rfl (Fr.refl _ s)
  | .pvCycleEnd _ _ _ => FrOut.execPvCycleEnd rfl rfl rfl rfl rfl rfl rfl (Fr.refl _ s)
  | .facetProgramDone _ _ _ => FrOut.execFacetProgramDone rfl rfl rfl rfl rfl rfl (Fr.refl _ s)
  | .facetFreed _ _ _ => FrOut.execFacetFreed rfl rfl rfl (Fr.refl _ s)
  | .ageAccrue => FrOut.execAgeAccrue rfl rfl (Fr.refl _ s)
  | .refreshOverdue _ _ _ => FrOut.execRefreshOverdue rfl (Fr.refl _ s)
  | .refreshReadbackDone _ _ _ _ _ => FrOut.execRefreshReadbackDone rfl rfl rfl rfl (Fr.refl _ s)
  | .facetCheckResult _ _ => FrOut.execFacetCheckResult rfl rfl rfl rfl rfl rfl rfl (Fr.refl _ s)
  | .residueCheckPass _ _ _ => FrOut.execResidueCheckPass rfl rfl rfl rfl rfl rfl rfl (Fr.refl _ s)
  | .taintScanDone => FrOut.execTaintScanDone rfl rfl rfl rfl rfl (Fr.refl _ s)
  | .quiescence => FrOut.execQuiescence rfl rfl rfl (Fr.refl _ s)
  | .testDue _ => FrOut.execTestDue rfl (Fr.refl _ s)
  | .testShed _ => FrOut.execTestShed rfl (Fr.refl _ s)
  | .testHeatingEnd _ => FrOut.execTestHeatingEnd rfl (Fr.refl _ s)
  | .testVerdict _ _ => FrOut.execTestVerdict rfl rfl rfl rfl rfl rfl rfl (Fr.refl _ s)
  | .sensorSample _ _ => FrOut.execSensorSample rfl rfl rfl rfl rfl rfl rfl rfl (Fr.refl _ s)
  | .thermalLevelStep _ => FrOut.execThermalLevelStep rfl (Fr.refl _ s)
  | .powerMeterSample _ => FrOut.execPowerMeterSample rfl (Fr.refl _ s)
  | .controlStep => FrOut.execControlStep rfl rfl rfl (Fr.refl _ s)
  | .supplyReturnToRange => FrOut.execSupplyReturnToRange rfl (Fr.refl _ s)
  | .supplyBelow1V => FrOut.execSupplyBelow1V rfl (Fr.refl _ s)
  | .ideKmKeyProgram _ _ => FrOut.execIdeKmKeyProgram rfl (Fr.refl _ s)
  | .stateTransferEnd _ _ _ => FrOut.execStateTransferEnd rfl rfl rfl rfl (Fr.refl _ s)
  | .sharedTablesCopyEnd _ => FrOut.execSharedTablesCopyEnd rfl (Fr.refl _ s)

/-! ### Commands that complete -/

/-- A register write within its space completes; one beyond it faults (R244). -/
theorem execRegisterWrite_outcome (fn : Nat) (sp : RegSpace) (off w : Nat) (v : BitVec 64) (s : State) :
    (∃ t, execRegisterWrite fn sp off w v s = .next t) ∨ (execRegisterWrite fn sp off w v s = .fault .outsideBar ∧ spaceBytes sp ≤ off) := by
  unfold execRegisterWrite
  split
  · next h => exact .inr ⟨rfl, h⟩
  · exact .inl ⟨_, rfl⟩

/-- Every other command completes. Most are one `go` or `onlyIf`; the rest first look for what they act on, and complete in every case. -/
theorem exec_completes (i : Instr) (s : State) (hi : ∀ fn sp off w v, i ≠ .registerWrite fn sp off w v) : ∃ t, exec i s = .next t := by
  cases i
  case registerWrite => exact absurd rfl (hi _ _ _ _ _)
  case tick | inputReadDone | slotBind | ctxReleaseComplete | sampleRunEnd | ctxLd | inferenceCommit | unitStart | instructionComplete
    | tileGrant | facetSwitchDone | mvmComplete | bankDrain | groupGrant | lookbackVerdict | requantDone | weightStreamStart
    | weightBlockArrival | cacheSetWaitEnd | xchMessageDelivered | expertRequestArrival | expertReplyArrival | linkedVertexSignal
    | barrierArrival | barrierRelease | heldReleaseWake | functionClosed | mapReadbackDone | packageStagingStart | pvCycleEnd
    | facetProgramDone | refreshReadbackDone | facetCheckResult | stateTransferEnd =>
    simp only [exec, execTick, execInputReadDone, execSlotBind, execCtxReleaseComplete, execSampleRunEnd, execCtxLd, execInferenceCommit,
      execUnitStart, execInstructionComplete, execTileGrant, execFacetSwitchDone, execMvmComplete, execBankDrain, execGroupGrant,
      execLookbackVerdict, execRequantDone, execWeightStreamStart, execWeightBlockArrival, execCacheSetWaitEnd, execXchMessageDelivered,
      execExpertRequestArrival, execExpertReplyArrival, execLinkedVertexSignal, execBarrierArrival, execBarrierRelease,
      execHeldReleaseWake, execFunctionClosed, execMapReadbackDone, execPackageStagingStart, execPvCycleEnd, execFacetProgramDone,
      execRefreshReadbackDone, execFacetCheckResult, execStateTransferEnd, go, onlyIf]
    repeat' split
    all_goals exact ⟨_, rfl⟩
  all_goals exact ⟨_, rfl⟩

/-! ### Steps -/

/-- Taking a command off the queue keeps the bounds, none of which speaks of the queue. -/
theorem Bounded.setPending {s : State} (l : List Instr) (h : Bounded s) : Bounded { s with pending := l } :=
  ⟨h.events, h.waiting, h.audit, h.auditWriting, h.auditA, h.auditB, h.owners, h.level, h.samples, h.sessions⟩

theorem step_nil {s : State} (h : s.pending = []) : step s = .next (passNs s) := by
  rw [step, h]

theorem step_cons {s : State} {i : Instr} {rest : List Instr} (h : s.pending = i :: rest) :
    step s = exec i { s with pending := rest } := by
  rw [step, h]

/-- A step keeps the bounds: the passing of a nanosecond does, and so does every command. -/
theorem step_keeps_bounds {s t : State} (hb : Bounded s) (h : step s = .next t) : Bounded t := by
  cases hp : s.pending with
  | nil =>
    rw [step_nil hp] at h
    cases h
    exact (Fr.passNs (m := Mask.none) rfl rfl (Fr.refl _ s)).bounded hb
  | cons i rest =>
    rw [step_cons hp] at h
    exact ((exec_keeps i _).next t h).bounded (hb.setPending rest)

end Sys2Proof.Machine
end

section
/-! Family 95_what_each_step_holds: the queue, the bounds and the reset state. -/

namespace Sys2Proof.Claims

open Sys2Proof.Machine

/-- Settles O5: no step leaves the bounds, by the law of the command it runs or of the passing of a nanosecond. -/
theorem everyStepKeepsTheBounds : Obligations.EveryStepKeepsTheBounds := fun _ _ hb h => step_keeps_bounds hb h

/-- Settles O3: the law of each command keeps queue and variant. -/
theorem commandsLeaveTheQueue : Obligations.CommandsLeaveTheQueue := by
  intro i s t h
  have hf := (exec_keeps i s).next t h
  exact ⟨hf.pending, hf.variant⟩

/-- Settles O1: it is the equation of a step on a queue that is not empty. -/
theorem stepRunsTheCommandInFront : Obligations.StepRunsTheCommandInFront := fun _ _ _ h => step_cons h

/-- Settles O4: a register write is judged by the offset alone, and every other command completes. -/
theorem onlyWritesBeyondTheirSpaceStop : Obligations.OnlyWritesBeyondTheirSpaceStop := by
  intro i s
  by_cases hi : ∃ fn sp off w v, i = .registerWrite fn sp off w v
  · obtain ⟨fn, sp, off, w, v, rfl⟩ := hi
    exact (execRegisterWrite_outcome fn sp off w v s).imp_right fun h => ⟨h.1, fn, sp, off, w, v, rfl, h.2⟩
  · exact .inl (exec_completes i s fun fn sp off w v h => hi ⟨fn, sp, off, w, v, h⟩)

/-- Settles O6: every log and queue of the reset state is empty, its level and its writing none. -/
theorem resetIsWithinTheBounds : Obligations.ResetIsWithinTheBounds :=
  ⟨Nat.zero_le _, Nat.zero_le _, Nat.zero_le _, (fun _ h => by cases h), Nat.zero_le _, Nat.zero_le _, Nat.zero_le _, Nat.zero_le _,
    Nat.zero_le _, Nat.zero_le _⟩

/-- Settles O7: each setting is the one that a part of the state starts with. -/
theorem resetHoldsTheFactorySettings : Obligations.ResetHoldsTheFactorySettings :=
  ⟨rfl, rfl, rfl, rfl, rfl, rfl, rfl, rfl, rfl⟩

end Sys2Proof.Claims
end

section
/-! SUPPORT. Instructions at issue: what a change of the issuing slot comes to, and how each form of issue acts where the instruction is ready
(R137, R141 to R144, R160). -/

namespace Sys2Proof.Machine

/-! ### Entries and queueing -/

theorem State.issued_addOut_slot (s : State) (c sl : Nat) (w : Word) (o : Outst) :
    ((s.issued c sl w).addOut c sl o).slot c sl = { s.slot c sl with
      pc := (s.slot c sl).pc + 1, sinceYield := (s.slot c sl).sinceYield + 1, outs := (s.slot c sl).outs ++ [o] } := by
  rw [State.addOut, State.slot_modSlot_same, State.issued_slot]

/-! ### Fields of descriptors -/

/-- The fields that a bd.set writes where they hold the value (R143). -/
theorem setBdField_zero (d : BitVec 128) (v : Word) (h : v.toNat % 64 = 0 ∧ v.toNat < 2 ^ 40) :
    setBdField d 0 v = some (setFld d 39 0 v.toNat) := if_pos h

theorem setBdField_one (d : BitVec 128) (v : Word) (h : 1 ≤ v.toNat ∧ v.toNat ≤ 4096) :
    setBdField d 1 v = some (setFld d 107 96 (v.toNat - 1)) := if_pos h

theorem setBdField_two (d : BitVec 128) (v : Word) (h : 1 ≤ v.toNat ∧ v.toNat ≤ 32768) :
    setBdField d 2 v = some (setFld d 95 81 (v.toNat - 1)) := if_pos h

theorem setBdField_three (d : BitVec 128) (v : Word) (h : v.toNat < 2 ^ 20) :
    setBdField d 3 v = some (setFld d 80 61 v.toNat) := if_pos h

/-! ### Completion -/

theorem Slot.out?_seq {x : Slot} {seq : Nat} {o : Outst} (h : x.out? seq = some o) : o.seq = seq := by
  simpa using List.find?_some h

/-- The completion of an instruction whose effect reaches its own slot alone: the slot after it. -/
theorem State.retire_slot (s : State) (c sl : Nat) (o : Outst) :
    (s.retire c sl o).slot c sl = { s.slot c sl with outs := (s.slot c sl).outs.filter (fun e => e.seq ≠ o.seq) } := by
  rw [State.retire, (State.sampleDone_only _ _ _ _).slot, State.dropOut, State.slot_modSlot_same]

/-- The completion of a started ld.s or st.s, which waits for nothing (R143). -/
theorem exec_instructionComplete {c sl seq : Nat} {s : State} {o : Outst} (h : (s.slot c sl).out? seq = some o)
    (hf : (s.chan c).canFinish sl o = true) (hs : opOf o.word ≠ 0x58) :
    exec (.instructionComplete c sl seq) s = .next (s.finishNow c sl o) := by
  have he : exec (.instructionComplete c sl seq) s = execInstructionComplete c sl seq s := rfl
  rw [he, execInstructionComplete, h]
  dsimp only
  rw [if_neg hs, State.complete1, if_pos hf]
  rfl

end Sys2Proof.Machine
end

section
/-! Family 07_sequencer: arithmetic, branches, descriptors, words of the window, the issue of instructions that units run, and halt. -/

namespace Sys2Proof.Claims

open Sys2Proof.Machine

/-! ### Arithmetic and branches -/

/-- R141, R142: an arithmetic instruction writes its function of its two operands. -/
theorem alu_wrote {c sl op : Nat} {w : Word} {s : State} (f : Word → Word → Word) (h : Issues s c sl op w) :
    Wrote s (s.alu c sl op f) c sl
      (Slot.file (s.slot c sl) (rdOf w) (f ((s.slot c sl).reg (rs1Of w)) (second (s.slot c sl) w))) ((s.slot c sl).pc + 1) := by
  obtain ⟨hi, hr⟩ := h
  have h2 : ((s.issuedNow c sl w).slot c sl).opnd2 w = second (s.slot c sl) w := by rw [State.issuedNow_slot]; rfl
  have ha : s.alu c sl op f = (s.issuedNow c sl w).setReg c sl (rdOf w)
      (f ((s.issuedNow c sl w).reg c sl (rs1Of w)) (((s.issuedNow c sl w).slot c sl).opnd2 w)) := State.issueNow_eq s _ hi hr
  rw [ha, State.issuedNow_reg, h2]
  exact wrote_setReg s c sl _ w _

/-- Settles O8: the eleven rows are one operation with eleven functions. -/
theorem arithmeticWritesItsResult : Obligations.ArithmeticWritesItsResult := by
  intro e he c sl w s h
  simp only [arith, List.mem_cons, List.not_mem_nil, or_false] at he
  rcases he with rfl | rfl | rfl | rfl | rfl | rfl | rfl | rfl | rfl | rfl | rfl
  all_goals exact ⟨_, rfl, alu_wrote _ h⟩

/-- A slot whose program counter alone moved on from an issue that completes at once. -/
theorem wrote_pc (s : State) (c sl : Nat) (w : Word) (n : Nat) :
    Wrote s ((s.issuedNow c sl w).modSlot c sl (fun x => { x with pc := n })) c sl (s.slot c sl).reg n := by
  have hs := State.issuedNow_slot s c sl w
  refine ⟨fun r => ?_, ?_, (s.issuedNow_frame c sl w).modSlot _⟩
  all_goals rw [State.slot_modSlot_same, hs]
  rfl

/-- An issue that completes at once and changes nothing more. -/
theorem wrote_issuedNow (s : State) (c sl : Nat) (w : Word) :
    Wrote s (s.issuedNow c sl w) c sl (s.slot c sl).reg ((s.slot c sl).pc + 1) := by
  refine ⟨fun r => ?_, ?_, s.issuedNow_frame c sl w⟩
  all_goals rw [State.issuedNow_slot]
  rfl

/-- R141, R142: a branch takes its offset from itself where its condition holds, else goes on. -/
theorem branch_wrote {c sl op : Nat} {w : Word} {s : State} (p : Word → Word → Bool) (h : Issues s c sl op w) :
    Wrote s (s.branch c sl op p) c sl (s.slot c sl).reg
      (if p ((s.slot c sl).reg (rs1Of w)) ((s.slot c sl).reg (rs2Of w)) = true
       then (((s.slot c sl).pc : Int) + imm24 w).toNat else (s.slot c sl).pc + 1) := by
  obtain ⟨hi, hr⟩ := h
  have hb : s.branch c sl op p =
      if p ((s.issuedNow c sl w).reg c sl (rs1Of w)) ((s.issuedNow c sl w).reg c sl (rs2Of w)) then
        (s.issuedNow c sl w).modSlot c sl (fun x => { x with pc := (((s.slot c sl).pc : Int) + imm24 w).toNat })
      else s.issuedNow c sl w := State.issueNow_eq s _ hi hr
  rw [hb, State.issuedNow_reg, State.issuedNow_reg]
  split
  · exact wrote_pc s c sl w _
  · exact wrote_issuedNow s c sl w

/-- Settles O11: the five rows are one operation with five conditions. -/
theorem branchesGoWhereTheyHold : Obligations.BranchesGoWhereTheyHold := by
  intro e he c sl w s h
  simp only [branches, List.mem_cons, List.not_mem_nil, or_false] at he
  rcases he with rfl | rfl | rfl | rfl | rfl
  all_goals exact ⟨_, rfl, branch_wrote _ h⟩

/-! ### Descriptors -/

/-- R143: a bd.set whose value its field holds changes that descriptor of its slot. -/
theorem bdSet_writes {c sl : Nat} {w : Word} {s : State} {d : BitVec 128} (h : Issues s c sl 0x0F w)
    (hd : setBdField ((s.slot c sl).bd (fld w 27 24)) (fld w 29 28)
      ((s.slot c sl).reg (fld w 42 38) + BitVec.ofInt 64 (signed 24 (fld w 23 0))) = some d) :
    ∃ t, exec (.bdSet c sl) s = .next t ∧ IssueFrame s t c sl ∧ t.slot c sl = { s.slot c sl with
      pc := (s.slot c sl).pc + 1, sinceYield := (s.slot c sl).sinceYield + 1, bds := (s.slot c sl).bds.set (fld w 27 24) d } := by
  obtain ⟨hi, hr⟩ := h
  have hb : ((s.issuedNow c sl w).slot c sl).bd (fld w 27 24) = (s.slot c sl).bd (fld w 27 24) := by rw [State.issuedNow_slot]; rfl
  have hx : exec (.bdSet c sl) s = .next (s.issueNow c sl 0x0F _) := rfl
  rw [hx, State.issueNow_eq s _ hi hr]
  have hw : (s.entryOf c sl w).word = w := rfl
  simp only [hw, bnum, rs1Of, imm24, State.issuedNow_reg, hb, hd]
  refine ⟨_, rfl, (s.issuedNow_frame c sl w).modSlot _, ?_⟩
  rw [State.slot_modSlot_same, State.issuedNow_slot]

/-- Settles O10: the value is in the range of the field that the selector names, so that the field takes it. -/
theorem setDescriptorWritesTheField : Obligations.SetDescriptorWritesTheField := by
  rintro c sl w s h v rfl hv
  rcases hv with ⟨h0, hv⟩ | ⟨h0, hv⟩ | ⟨h0, hv⟩ | ⟨h0, hv⟩
  · rw [h0]; exact bdSet_writes h (by rw [h0]; exact setBdField_zero _ _ hv)
  · rw [h0]; exact bdSet_writes h (by rw [h0]; exact setBdField_one _ _ hv)
  · rw [h0]; exact bdSet_writes h (by rw [h0]; exact setBdField_two _ _ hv)
  · rw [h0]; exact bdSet_writes h (by rw [h0]; exact setBdField_three _ _ hv)

/-! ### Words of the window -/

/-- R143: a word access inside the window and aligned is outstanding with its address. -/
theorem issueWord_queued {c sl op : Nat} {w : Word} {s : State} (h : Issues s c sl op w) (ha : s.wordAddr c sl w % 8 = 0)
    (hb : s.wordAddr c sl w + 8 ≤ windowBytes) :
    Queued s (s.issueWord c sl op) c sl { entryWith s c sl w with addr := s.wordAddr c sl w, x := (s.slot c sl).reg (rdOf w) } := by
  obtain ⟨hi, hr⟩ := h
  have hslot := s.issued_slot c sl w
  have haddr : (s.issued c sl w).wordAddr c sl w = s.wordAddr c sl w := by simp only [State.wordAddr, State.reg, hslot]; rfl
  have hreg : (s.issued c sl w).reg c sl (rdOf w) = (s.slot c sl).reg (rdOf w) := by rw [State.reg, hslot]; rfl
  have hw : (s.entryOf c sl w).word = w := rfl
  have he : s.issueWord c sl op = (s.issued c sl w).addOut c sl
      { s.entryOf c sl w with addr := s.wordAddr c sl w, x := (s.slot c sl).reg (rdOf w) } := by
    rw [State.issueWord, State.issue_next s _ hi (.inl hr)]
    simp only [hw, haddr, hreg]
    rw [if_neg (by omega), if_neg (by omega)]
  rw [he]
  exact ⟨s.issued_addOut_slot c sl w _, (s.issued_frame c sl w).modSlot _⟩

/-- R143: an ld.s that completes has read eight bytes of the window. -/
theorem ldS_completes {c sl seq : Nat} {s : State} {o : Outst} (h : (s.slot c sl).out? seq = some o) (hs : o.started = true)
    (ho : opOf o.word = 0x0D) : ∃ t, exec (.instructionComplete c sl seq) s = .next t ∧
      (∀ r, (t.slot c sl).reg r = Slot.file (s.slot c sl) (rdOf o.word) (BitVec.ofNat 64 (leNat (sgetList 0 (s.slot c sl).win o.addr 8))) r) ∧
      (t.slot c sl).win = (s.slot c sl).win ∧ (t.slot c sl).outs = (s.slot c sl).outs.filter (fun e => e.seq ≠ seq) := by
  refine ⟨_, exec_instructionComplete h (by simp [Chan.canFinish, hs, ho]) (by simp [ho]), ?_⟩
  simp only [State.finishNow, ho, State.retire_slot, State.slot_modSlot_same, Slot.out?_seq h]
  refine ⟨fun r => Slot.reg_setReg _ _ _ _, ?_, ?_⟩
  all_goals unfold Slot.setReg; split <;> rfl

/-- R143: an st.s that completes has written eight bytes of the window. -/
theorem stS_completes {c sl seq : Nat} {s : State} {o : Outst} (h : (s.slot c sl).out? seq = some o) (hs : o.started = true)
    (ho : opOf o.word = 0x0E) : ∃ t, exec (.instructionComplete c sl seq) s = .next t ∧
      (∀ b, sget 0 (t.slot c sl).win b =
        if o.addr ≤ b ∧ b < o.addr + 8 then (leBytes 8 o.x.toNat).getD (b - o.addr) 0 else sget 0 (s.slot c sl).win b) ∧
      (∀ r, (t.slot c sl).reg r = (s.slot c sl).reg r) ∧ (t.slot c sl).outs = (s.slot c sl).outs.filter (fun e => e.seq ≠ seq) := by
  refine ⟨_, exec_instructionComplete h (by simp [Chan.canFinish, hs, ho]) (by simp [ho]), ?_⟩
  simp only [State.finishNow, ho, State.retire_slot, State.slot_modSlot_same, Slot.out?_seq h]
  exact ⟨fun b => sget_sputList 0 (leBytes 8 o.x.toNat) (s.slot c sl).win o.addr b, fun _ => rfl, rfl⟩

/-- Settles O12: issue is one operation for both rows; each completion is its lemma above. -/
theorem windowWordsIssueAndComplete : Obligations.WindowWordsIssueAndComplete := by
  refine ⟨fun e he c sl w s h a ha hal hin => ?_, fun c sl seq s o h hs => ⟨ldS_completes h hs, stS_completes h hs⟩⟩
  subst ha
  simp only [List.mem_cons, List.not_mem_nil, or_false] at he
  rcases he with rfl | rfl
  all_goals exact ⟨_, rfl, issueWord_queued h hal hin⟩

/-! ### Instructions that units run -/

/-- R136, R137: an instruction of a unit whose check passes is outstanding. -/
theorem issueUnit_queued {c sl op : Nat} {w : Word} {s : State} {check : State → Nat → Nat → Outst → Bad} (h : Issues s c sl op w)
    (hc : check (s.issued c sl w) c sl (entryWith s c sl w) = none) : Queued s (s.issueUnit c sl op check) c sl (entryWith s c sl w) := by
  obtain ⟨hi, hr⟩ := h
  have hx : (s.issued c sl w).reg c sl (operandReg w) = (s.slot c sl).reg (operandReg w) := by
    rw [State.reg, State.issued_slot]; rfl
  have he : s.issueUnit c sl op check = (s.issued c sl w).addOut c sl (entryWith s c sl w) := by
    rw [State.issueUnit, State.issue_next s _ hi (.inl hr)]
    dsimp only [entryWith, State.entryOf, State.nowNs] at hc ⊢
    rw [hx, hc]
  rw [he]
  exact ⟨s.issued_addOut_slot c sl w _, (s.issued_frame c sl w).modSlot _⟩

/-- Giving the last entry of a list of outstanding instructions its memory errors. -/
theorem mapIdx_last_ecc (l : List Outst) (o : Outst) (ecc : List Ecc) :
    (l ++ [o]).mapIdx (fun i e => if i + 1 = (l ++ [o]).length then { e with ecc := ecc } else e) = l ++ [{ o with ecc := ecc }] := by
  refine List.ext_getElem (by simp) fun i h1 h2 => ?_
  rw [List.getElem_mapIdx]
  simp only [List.length_mapIdx, List.length_append, List.length_singleton] at h1
  rcases Nat.lt_or_ge i l.length with h | h
  · rw [if_neg (by simp; omega), List.getElem_append_left h, List.getElem_append_left h]
  · obtain rfl : i = l.length := by omega
    rw [if_pos (by simp), List.getElem_concat_length rfl, List.getElem_concat_length rfl]

/-- Memory errors given with an instruction stand with its entry. -/
theorem queued_withEcc {s t : State} {c sl : Nat} {o : Outst} (ecc : List Ecc) (h : Queued s t c sl o) :
    Queued s (t.withEcc c sl ecc) c sl { o with ecc := ecc } := by
  obtain ⟨hs, hf⟩ := h
  refine ⟨?_, hf.modSlot _⟩
  rw [State.withEcc, State.slot_modSlot_same, hs]
  dsimp only
  rw [mapIdx_last_ecc]

/-- One entry more is outstanding. -/
theorem Queued.length {s t : State} {c sl : Nat} {o : Outst} (h : Queued s t c sl o) :
    (t.slot c sl).outs.length = (s.slot c sl).outs.length + 1 := by
  rw [h.slot]; exact List.length_append

/-- R157: ctx.ld is outstanding, and a ctx.ld.r is noted. -/
theorem ctxLd_queued {c sl : Nat} {w : Word} {s : State} (ecc : List Ecc) (h : Issues s c sl 0x40 w)
    (hc : State.moveBad (s.issued c sl w) c sl (entryWith s c sl w) = none) :
    ∃ t, exec (.ctxLd c sl ecc) s = .next t ∧ IssueFrame s t c sl ∧ t.slot c sl = { s.slot c sl with
      pc := (s.slot c sl).pc + 1, sinceYield := (s.slot c sl).sinceYield + 1, recIssued := (s.slot c sl).recIssued || bit w 55
      outs := (s.slot c sl).outs ++ [{ entryWith s c sl w with ecc := ecc }] } := by
  have hq := issueUnit_queued h hc
  have hqe := queued_withEcc ecc hq
  have he : exec (.ctxLd c sl ecc) s = execCtxLd c sl ecc s := rfl
  rw [he, execCtxLd, h.1]
  dsimp only
  rw [if_pos hq.length]
  refine ⟨_, rfl, hqe.frame.modSlot _, ?_⟩
  rw [State.slot_modSlot_same, hqe.slot]

/-- R157: ctx.st is outstanding. -/
theorem ctxSt_queued {c sl : Nat} {w : Word} {s : State} (ecc : List Ecc) (h : Issues s c sl 0x41 w)
    (hc : State.moveBad (s.issued c sl w) c sl (entryWith s c sl w) = none) :
    ∃ t, exec (.ctxSt c sl ecc) s = .next t ∧ Queued s t c sl { entryWith s c sl w with ecc := ecc } := by
  have hq := issueUnit_queued h hc
  have he : exec (.ctxSt c sl ecc) s = execCtxSt c sl ecc s := rfl
  rw [he, execCtxSt]
  dsimp only
  rw [if_pos hq.length]
  exact ⟨_, rfl, queued_withEcc ecc hq⟩

/-- Settles O14: the rows of units are one operation with their checks; ctx.ld and ctx.st are its lemmas above. -/
theorem unitInstructionsIssue : Obligations.UnitInstructionsIssue := by
  refine ⟨fun e he c sl w s h hc => ?_, fun c sl w ecc s => ⟨ctxLd_queued ecc, ctxSt_queued ecc⟩⟩
  simp only [unitRows, List.mem_cons, List.not_mem_nil, or_false] at he
  rcases he with rfl | rfl | rfl | rfl | rfl | rfl | rfl | rfl | rfl | rfl | rfl | rfl | rfl | rfl
  all_goals
    dsimp only at h hc
    exact ⟨_, rfl, issueUnit_queued h hc⟩

/-! ### halt -/

/-- Settles O15: halt acts within the limit and beyond it, on its slot alone. -/
theorem haltBlocksTheSlot : Obligations.HaltBlocksTheSlot := by
  intro c sl w s h
  have he : exec (.halt c sl) s = .next ((s.issued c sl w).modSlot c sl
      (fun x => { x with block := .halt, haltCode := fld w 15 0, sinceYield := 0 })) :=
    congrArg Host.Outcome.next (State.issue_next s _ h (.inr (.inr rfl)))
  refine ⟨_, he, (s.issued_frame c sl w).modSlot _, ?_⟩
  rw [State.slot_modSlot_same, State.issued_slot]

end Sys2Proof.Claims
end

section
/-! Family 18_setup_registers: the set-up register and the installer's settings (R223, R286, R303, R314, R336, R376). -/

namespace Sys2Proof.Claims

open Sys2Proof.Machine

/-- A register write that reaches the module takes effect. -/
theorem Heard.reaches {s : State} {fn : Nat} {i : Instr} (h : Heard s fn) (wr : State → State) (he : exec i s = s.regCmd fn wr) :
    exec i s = .next (wr s) := he.trans (h.regCmd wr)

/-! ### The set-up register -/

/-- R376: the physical function's writes of the set-up register, whatever the two bits hold. -/
theorem wrSetup_before {s : State} {smb done : Bool} (h : s.hub.setupDone = false) :
    s.wrSetup 0 (2 * bnat smb + bnat done) = { s with hub := { s.hub with
      smbInstaller := smb, setupDone := done, smbClearNext := s.hub.smbClearNext || (s.hub.smbInstaller && !smb) } } := by
  have hr : (2 * bnat smb + bnat done) &&& maskBits 63 2 = 0 := by cases smb <;> cases done <;> rfl
  have h1 : (nfld (2 * bnat smb + bnat done) 1 1 == 1) = smb := by cases smb <;> cases done <;> rfl
  have h0 : (nfld (2 * bnat smb + bnat done) 0 0 == 1) = done := by cases smb <;> cases done <;> rfl
  simp only [State.wrSetup, State.pfOnly_zero, State.rsvBits_clear _ _ _ hr, h, h1, h0]
  rfl

theorem setupDone_before {s : State} (hh : Heard s 0) (h : s.hub.setupDone = false) :
    exec (.setupDone 0) s = .next { s with hub := { s.hub with setupDone := true } } := by
  have he : exec (.setupDone 0) s = .next (s.wrSetup 0 (2 * bnat s.hub.smbInstaller + bnat true)) :=
    hh.reaches (fun s => s.wrSetup 0 (2 * bnat s.hub.smbInstaller + 1)) rfl
  rw [he, wrSetup_before h, Bool.and_not_self, Bool.or_false]

theorem smbInstallerClear_before {s : State} (hh : Heard s 0) (h : s.hub.setupDone = false) :
    exec (.smbInstallerClear 0) s = .next { s with hub := { s.hub with
      smbInstaller := false, smbClearNext := s.hub.smbClearNext || s.hub.smbInstaller } } := by
  have he : exec (.smbInstallerClear 0) s = .next (s.wrSetup 0 (bnat s.hub.setupDone)) :=
    hh.reaches (fun s => s.wrSetup 0 (bnat s.hub.setupDone)) rfl
  have hw := wrSetup_before (smb := false) (done := false) h
  rw [he, h]
  rw [Bool.not_false, Bool.and_true] at hw
  refine congrArg Host.Outcome.next (hw.trans ?_)
  rw [← h]

/-- R376: after set-up, a write of setup_done as it stands changes nothing. -/
theorem setupDone_after {s : State} (hh : Heard s 0) (h : s.hub.setupDone = true) : exec (.setupDone 0) s = .next s := by
  have he : exec (.setupDone 0) s = .next (s.wrSetup 0 (2 * bnat s.hub.smbInstaller + 1)) :=
    hh.reaches (fun s => s.wrSetup 0 (2 * bnat s.hub.smbInstaller + 1)) rfl
  have hr : (2 * bnat s.hub.smbInstaller + 1) &&& maskBits 63 2 = 0 := by cases s.hub.smbInstaller <;> rfl
  have h1 : (nfld (2 * bnat s.hub.smbInstaller + 1) 1 1 == 1) = s.hub.smbInstaller := by cases s.hub.smbInstaller <;> rfl
  have h0 : nfld (2 * bnat s.hub.smbInstaller + 1) 0 0 ≠ 0 := by cases s.hub.smbInstaller <;> decide
  rw [he]
  simp only [State.wrSetup, State.pfOnly_zero, State.rsvBits_clear _ _ _ hr, h, h1, bne_self_eq_false, if_true, Bool.false_eq_true,
    if_false, h0]

/-- R376: after set-up, a clear of the set bit smb_installer is logged. -/
theorem smbInstallerClear_after {s : State} (hh : Heard s 0) (h : s.hub.setupDone = true) (hs : s.hub.smbInstaller = true) :
    ∃ t, exec (.smbInstallerClear 0) s = .next t ∧ Logged s t 0 5 0x18 := by
  refine hh.logged (fun s => s.wrSetup 0 (bnat s.hub.setupDone)) (bnat true) rfl ?_
  have hr : bnat true &&& maskBits 63 2 = 0 := rfl
  have h1 : (nfld (bnat true) 1 1 == 1) = false := rfl
  simp only [State.wrSetup, State.pfOnly_zero, h, State.rsvBits_clear _ _ _ hr, h1, hs]
  rfl

/-- R376: another function than the physical one is logged. -/
theorem wrSetup_other {s : State} {fn v : Nat} (h : fn ≠ 0) : Logged s (s.wrSetup fn v) fn 0x0A 0x18 := by
  rw [State.wrSetup, State.pfOnly, if_pos h]
  exact logged_errlog s fn 0x0A 0x18 0 _

/-! ### Settings that need an installer's right -/

section

variable {s : State} {fn right action off v : Nat} {ok : Bool} {f : State → State} (ha : AuditRoom s)

include ha

/-- R314: a setting written without the right is denied and audited. -/
theorem roleWrite_denied (h : s.rightResult fn .installer right ≠ 0) :
    Audited s (s.roleWrite fn right action off v ok f) 0x40 fn (s.rightResult fn .installer right) := by
  rw [State.roleWrite, if_pos h]
  exact audited_audit ha _ _ _ _

/-- R374: a setting out of range is refused and audited. -/
theorem roleWrite_refused (h : s.rightResult fn .installer right = 0) (hok : ok = false) :
    Audited s (s.roleWrite fn right action off v ok f) action fn 6 := by
  rw [State.roleWrite, if_neg (by simp [h]), if_pos (by simp [hok])]
  exact audited_audit ha _ _ _ _

/-- R314, R317: a setting in range with the right is applied and entered. -/
theorem roleWrite_applied (h : s.rightResult fn .installer right = 0) (hok : ok = true) (hf : s.store.fault = false)
    (hu : AuditRoom (f s)) : Audited (f s) (s.roleWrite fn right action off v ok f) action fn 0 := by
  have hr : s.auditFull = false := decide_eq_false (Nat.not_le.2 ha.1)
  rw [State.roleWrite, if_neg (by simp [h]), if_neg (by simp [hok]), hr, hf, if_neg (by simp), if_neg (by simp)]
  exact audited_audit hu _ _ _ _

end

/-! ### The settings, all together -/

/-- The period that waits, beside the stored one (R303). -/
def periodSet (s : State) (v : Nat) : State :=
  { s with hub := { s.hub with periodNext := some (nfld v 55 44) }, store := { s.store with live := { s.store.live with periodH := nfld v 55 44 } } }

/-- run_now for a channel that the value names. -/
def runNowSet (v c : Nat) (k : Chan) : Chan := if nfld v (56 + c) (56 + c) = 1 then { k with test := { k.test with runNext := true } } else k

/-- What a write of HUB_TEST_CFG sets before its audit entry. -/
def testCfgSet (s : State) (v : Nat) : State := (periodSet s v).allChans (runNowSet v)

theorem testCfgSet_rest (s : State) (v : Nat) : testCfgSet s v = { periodSet s v with chans := (testCfgSet s v).chans } :=
  State.allChans_rest _ _

theorem testCfgSet_fitted (s : State) (v : BitVec 64) {c : Nat} (h : c < s.channels) : (testCfgSet s v.toNat).chan c =
    if bit v (56 + c) then { s.chan c with test := { (s.chan c).test with runNext := true } } else s.chan c := by
  have hb : (bit v (56 + c) = true) ↔ nfld v.toNat (56 + c) (56 + c) = 1 := by simp [bit, fld]
  have hc := State.chan_allChans (periodSet s v.toNat) (runNowSet v.toNat) (d := c) h
  rw [testCfgSet, hc]
  simp only [hb]
  rfl

theorem testCfgSet_absent (s : State) (v : Nat) {c : Nat} (h : s.channels ≤ c) : (testCfgSet s v).chan c = s.chan c :=
  State.chan_allChans_of_le (periodSet s v) _ h

/-- The audit log's room is that of the entries waiting. -/
theorem AuditRoom.of_store {s t : State} (h : AuditRoom s) (hw : t.store.waiting = s.store.waiting) (hd : t.store.dropped = s.store.dropped) :
    AuditRoom t := by
  unfold AuditRoom; rw [hw, hd]; exact h

theorem testCfgSet_room {s : State} {v : Nat} (h : AuditRoom s) : AuditRoom (testCfgSet s v) :=
  h.of_store (by rw [testCfgSet_rest]; rfl) (by rw [testCfgSet_rest]; rfl)

/-- What O16 says of one setting `i` of a right, with its audit action, whether its value is in range, and what it sets. -/
def SettingWritten (s : State) (fn : Nat) (i : Instr) (right action : Nat) (ok : Bool) (u : State) : Prop :=
  (s.rightResult fn .installer right ≠ 0 → ∃ t, exec i s = .next t ∧ Audited s t 0x40 fn (s.rightResult fn .installer right)) ∧
  (s.rightResult fn .installer right = 0 → ok = false → ∃ t, exec i s = .next t ∧ Audited s t action fn 6) ∧
  (s.rightResult fn .installer right = 0 → ok = true → s.store.fault = false → ∃ t, exec i s = .next t ∧ Audited u t action fn 0)

/-- A setting that is written by `State.roleWrite` with its reserved bits clear. -/
theorem settingWritten {s : State} {fn : Nat} {i : Instr} {mask right action off v : Nat} {ok : Bool} {f : State → State} (hh : Heard s fn)
    (ha : AuditRoom s) (hr : v &&& mask = 0)
    (wr : State → State) (he : exec i s = s.regCmd fn wr) (hw : wr s = (s.rsvBits fn off mask v).roleWrite fn right action off v ok f)
    (hu : AuditRoom (f s)) :
    SettingWritten s fn i right action ok (f s) := by
  have hx : exec i s = .next (s.roleWrite fn right action off v ok f) := by
    rw [hh.reaches _ he, hw, State.rsvBits_clear _ _ _ hr]
  exact ⟨fun h => ⟨_, hx, roleWrite_denied ha h⟩, fun h ho => ⟨_, hx, roleWrite_refused ha h ho⟩,
    fun h ho hf => ⟨_, hx, roleWrite_applied ha h ho hf hu⟩⟩

/-- The tick configuration that waits, beside the stored one (R223). -/
def tickCfgTo (s : State) (x : BitVec 32) : State :=
  { s with clk := { s.clk with cfgNext := some x }, store := { s.store with live := { s.store.live with tickCfg := x } } }

theorem tickCfgTo_room {s : State} (x : BitVec 32) (h : AuditRoom s) : AuditRoom (tickCfgTo s x) := h.of_store rfl rfl

/-- What a write of HUB_TICK_CFG sets before its audit entry. -/
def tickCfgSet (s : State) (v : Nat) : State := tickCfgTo s (BitVec.ofNat 32 (pack [(31, 30, nfld v 31 30), (19, 0, nfld v 19 0)]))

/-- What a write of HUB_CHECK_CFG sets before its audit entry (R286). -/
def checkCfgSet (s : State) (v : Nat) : State :=
  { s with hub := { s.hub with fracNext := some (nfld v 31 29) }, store := { s.store with live := { s.store.live with checkFrac := nfld v 31 29 } } }

/-- What a write of HUB_PWR_CFG sets before its audit entry (R336). -/
def pwrCfgSet (s : State) (v : Nat) : State :=
  { s with hub := { s.hub with capNext := some (nfld v 31 24) }, store := { s.store with live := { s.store.live with capW := nfld v 31 24 } } }

theorem wrTickCfg_eq (s : State) (fn v : Nat) : s.wrTickCfg fn v = (s.rsvBits fn 0x30 (maskBits 29 20) v).roleWrite fn 3 0x21 0x30 v
    (decide (250 ≤ nfld v 19 0 ∧ nfld v 19 0 ≤ 1000000)) (fun s => tickCfgSet s v) := by
  rw [State.wrTickCfg]; rfl

theorem wrCheckCfg_eq (s : State) (fn v : Nat) : s.wrCheckCfg fn v = (s.rsvBits fn 0x38 (maskBits 28 0) v).roleWrite fn 5 0x23 0x38 v
    (decide (nfld v 31 29 ≤ 4)) (fun s => checkCfgSet s v) := by
  rw [State.wrCheckCfg]; rfl

theorem wrPwrCfg_eq (s : State) (fn v : Nat) : s.wrPwrCfg fn v = (s.rsvBits fn 0x3C (maskBits 23 0) v).roleWrite fn 2 0x20 0x3C v
    (decide (25 ≤ nfld v 31 24 ∧ nfld v 31 24 ≤ 75)) (fun s => pwrCfgSet s v) := by
  rw [State.wrPwrCfg]; rfl

theorem wrTestCfg_eq (s : State) (fn v : Nat) : s.wrTestCfg fn v = (s.rsvBits fn 0x50 (maskBits 43 0) v).roleWrite fn 6 0x24 0x50 v
    (decide (24 ≤ nfld v 55 44 ∧ nfld v 55 44 ≤ 2160)) (fun s => testCfgSet s v) := by
  rw [State.wrTestCfg]; rfl

section

variable {s : State} {fn : Nat} {w : BitVec 32} {v : BitVec 64} (hh : Heard s fn) (ha : AuditRoom s)

include hh ha

theorem tickCfg_written (hr : w.toNat &&& maskBits 29 20 = 0) : SettingWritten s fn (.tickCfgWrite fn w) 3 0x21
    (decide (250 ≤ fld w 19 0 ∧ fld w 19 0 ≤ 1000000)) (tickCfgSet s w.toNat) :=
  settingWritten hh ha hr (fun s => s.wrTickCfg fn w.toNat) rfl (wrTickCfg_eq s fn _) (tickCfgTo_room _ ha)

theorem checkCfg_written (hr : w.toNat &&& maskBits 28 0 = 0) : SettingWritten s fn (.checkCfgWrite fn w) 5 0x23
    (decide (fld w 31 29 ≤ 4)) (checkCfgSet s w.toNat) :=
  settingWritten hh ha hr (fun s => s.wrCheckCfg fn w.toNat) rfl (wrCheckCfg_eq s fn _) (ha.of_store rfl rfl)

theorem pwrCfg_written (hr : w.toNat &&& maskBits 23 0 = 0) : SettingWritten s fn (.pwrCfgWrite fn w) 2 0x20
    (decide (25 ≤ fld w 31 24 ∧ fld w 31 24 ≤ 75)) (pwrCfgSet s w.toNat) :=
  settingWritten hh ha hr (fun s => s.wrPwrCfg fn w.toNat) rfl (wrPwrCfg_eq s fn _) (ha.of_store rfl rfl)

theorem testPeriod_written (hr : v.toNat &&& maskBits 43 0 = 0) : SettingWritten s fn (.testPeriodWrite fn v) 6 0x24
    (decide (24 ≤ fld v 55 44 ∧ fld v 55 44 ≤ 2160)) (testCfgSet s v.toNat) :=
  settingWritten hh ha hr (fun s => s.wrTestCfg fn v.toNat) rfl (wrTestCfg_eq s fn _) (testCfgSet_room ha)

theorem testRunNow_written (hr : v.toNat &&& maskBits 43 0 = 0) : SettingWritten s fn (.testRunNow fn v) 6 0x24
    (decide (24 ≤ fld v 55 44 ∧ fld v 55 44 ≤ 2160)) (testCfgSet s v.toNat) := testPeriod_written hh ha hr

end

/-- What O16 says of the test configuration that a write leaves. -/
theorem testCfgSet_says (s : State) (v : BitVec 64) :
    testCfgSet s v.toNat = { s with hub := { s.hub with periodNext := some (fld v 55 44) }, chans := (testCfgSet s v.toNat).chans
                                    store := { s.store with live := { s.store.live with periodH := fld v 55 44 } } } ∧
    (∀ c, c < s.channels → (testCfgSet s v.toNat).chan c =
      if bit v (56 + c) then { s.chan c with test := { (s.chan c).test with runNext := true } } else s.chan c) ∧
    (∀ c, s.channels ≤ c → (testCfgSet s v.toNat).chan c = s.chan c) :=
  ⟨testCfgSet_rest s _, fun _ hc => testCfgSet_fitted s v hc, fun _ hc => testCfgSet_absent s _ hc⟩

/-- A setting as O16 says it, with `P` what is said of the state before the entry. -/
theorem SettingWritten.setting {s u : State} {fn right action : Nat} {i : Instr} {ok : Bool} {P : State → State → Prop}
    (h : SettingWritten s fn i right action ok u) (hp : ∀ {t}, Audited u t action fn 0 → ∃ u, Audited u t action fn 0 ∧ P u t) :
    (s.rightResult fn .installer right ≠ 0 → ∃ t, exec i s = .next t ∧ Audited s t 0x40 fn (s.rightResult fn .installer right)) ∧
    (s.rightResult fn .installer right = 0 → ok = false → ∃ t, exec i s = .next t ∧ Audited s t action fn 6) ∧
    (s.rightResult fn .installer right = 0 → ok = true → s.store.fault = false →
      ∃ t u, exec i s = .next t ∧ Audited u t action fn 0 ∧ P u t) := by
  obtain ⟨h1, h2, h3⟩ := h
  refine ⟨h1, h2, fun h ho hf => ?_⟩
  obtain ⟨t, hx, hu⟩ := h3 h ho hf
  obtain ⟨u, hu, hP⟩ := hp hu
  exact ⟨t, u, hx, hu, hP⟩

/-- Settles O16: the set-up register's lemmas, and for the settings the three outcomes of a write that needs a right. -/
theorem setUpAndSettingsAreWritten : Obligations.SetUpAndSettingsAreWritten := by
  intro s fn w v hh
  refine ⟨?_, ?_, ?_, fun ha e he hr => ?_⟩
  · rintro rfl h
    exact ⟨setupDone_before hh h, smbInstallerClear_before hh h⟩
  · rintro rfl h
    exact ⟨setupDone_after hh h, smbInstallerClear_after hh h⟩
  · intro hn i hi
    simp only [List.mem_cons, List.not_mem_nil, or_false] at hi
    rcases hi with rfl | rfl
    · exact ⟨_, hh.reaches (fun s => s.wrSetup fn (2 * bnat s.hub.smbInstaller + 1)) rfl, wrSetup_other hn⟩
    · exact ⟨_, hh.reaches (fun s => s.wrSetup fn (bnat s.hub.setupDone)) rfl, wrSetup_other hn⟩
  · simp only [List.mem_cons, List.not_mem_nil, or_false] at he
    rcases he with rfl | rfl | rfl | rfl | rfl
    all_goals dsimp only at hr ⊢
    · exact (tickCfg_written hh ha hr).setting fun hw => ⟨tickCfgSet s w.toNat, hw, fun _ => rfl, by simp, by simp, by simp⟩
    · exact (checkCfg_written hh ha hr).setting fun hw => ⟨checkCfgSet s w.toNat, hw, by simp, fun _ => rfl, by simp, by simp⟩
    · exact (pwrCfg_written hh ha hr).setting fun hw => ⟨pwrCfgSet s w.toNat, hw, by simp, by simp, fun _ => rfl, by simp⟩
    · exact (testPeriod_written hh ha hr).setting fun hw => ⟨testCfgSet s v.toNat, hw, by simp, by simp, by simp, fun _ => testCfgSet_says s v⟩
    · exact (testRunNow_written hh ha hr).setting fun hw => ⟨testCfgSet s v.toNat, hw, by simp, by simp, by simp, fun _ => testCfgSet_says s v⟩

end Sys2Proof.Claims
end

section
/-! SUPPORT. Register writes by address: which register an address holds, and what a write of it comes to (R369, R370). -/

namespace Sys2Proof.Machine

/-- The value just inserted is the first found. -/
theorem find?_sinsert {α : Type} (k : Nat) (v : α) : ∀ m : Sparse α, (sinsert k v m).find? (fun e => e.1 == k) = some (k, v)
  | [] => by simp [sinsert]
  | (i, w) :: m => by
    simp only [sinsert]
    split
    · simp
    · split
      · simp
      · next h1 h2 =>
        rw [List.find?_cons_of_neg (by simp; omega)]
        exact find?_sinsert k v m

theorem findReg_quantThresh (c : Nat) : findReg (chanRegs c) 0x10 = some (.quantThresh c, 64, 0x10) := by
  simp [findReg, chanRegs]

/-- The threshold register of a fitted channel. -/
theorem State.regAt_quantThresh (s : State) (fn : Nat) {c : Nat} (h : s.fitted c = true) :
    s.regAt fn .bar0 (chanOff c + 0x10) = .ok (.quantThresh c, 64, chanOff c + 0x10) := by
  have hc : c < 8 := by
    have := of_decide_eq_true h
    unfold State.channels at this
    split at this <;> omega
  have ho : chanOff c = 0x100000 + 0x10000 * c := rfl
  have hd : (chanOff c + 0x10 - 0x100000) / 0x10000 = c := by omega
  simp only [State.regAt]
  rw [if_neg (by omega), if_pos (by omega), hd, if_pos h, Nat.add_sub_cancel_left, findReg_quantThresh]
  rfl

theorem State.regAt_role (s : State) (fn : Nat) : s.regAt fn .fnPage 8 = .ok (.ro, 64, 8) := rfl

theorem State.regAt_dbell (s : State) (fn : Nat) : s.regAt fn .fnPage 0x10 = .ok (.dbell, 128, 0x10) := rfl

theorem State.regAt_dbell_mid (s : State) (fn : Nat) : s.regAt fn .fnPage 0x14 = .ok (.dbell, 128, 0x10) := rfl

theorem State.regAt_dbell_upper (s : State) (fn : Nat) : s.regAt fn .fnPage 0x18 = .ok (.dbell, 128, 0x10) := rfl

theorem State.wrQuantThresh_fitted (s : State) {c : Nat} (v : BitVec 64) (h : s.fitted c = true) :
    s.wrQuantThresh 0 c v.toNat = s.modChan c (fun k => { k with seqr := { k.seqr with quantThresh := v } }) := by
  rw [State.wrQuantThresh, State.pfWrite_fitted _ _ _ _ h, BitVec.ofNat_toNat, BitVec.setWidth_eq]

/-- A write into a part of a register of 128 bits. -/
theorem State.wrAt_half (s : State) {fn off v : Nat} {r : Reg} {start : Nat} (hm : mbxDataAt .fnPage off = none)
    (hr : s.regAt fn .fnPage off = .ok (r, 128, start)) (hf : (off - start) % 8 = 0) (ho : r ≠ .ro) :
    s.wrAt fn .fnPage off 64 v = s.wrHalf fn r 64 (off - start) off (halfKey fn .fnPage start) (v % 2 ^ 64) := by
  simp only [State.wrAt, hm, hr, fits, hf, ho]
  rfl

/-- A write of a width that the register does not take is logged (R370). -/
theorem State.wrAt_misfit (s : State) {fn off acc v w start : Nat} {r : Reg} {space : RegSpace} (hm : mbxDataAt space off = none)
    (hr : s.regAt fn space off = .ok (r, w, start)) (hf : fits w acc (off - start) = false) :
    s.wrAt fn space off acc v = s.errlog fn 0x08 off 0 (BitVec.ofNat 64 (v % 2 ^ acc)) := by
  simp only [State.wrAt, hm, hr, hf]
  rfl

/-- A write of a read-only register is logged (R381). -/
theorem State.wrAt_readOnly (s : State) {fn off acc v w start : Nat} {space : RegSpace} (hm : mbxDataAt space off = none)
    (hr : s.regAt fn space off = .ok (.ro, w, start)) (hf : fits w acc (off - start) = true) :
    s.wrAt fn space off acc v = s.errlog fn 0x01 off 0 (BitVec.ofNat 64 (v % 2 ^ acc)) := by
  simp only [State.wrAt, hm, hr, hf]
  rfl

/-- A write where no register is, is logged with its reason (R373, R381). -/
theorem State.wrAt_error (s : State) {fn off acc v e : Nat} {space : RegSpace} (hm : mbxDataAt space off = none)
    (hr : s.regAt fn space off = .error e) : s.wrAt fn space off acc v = s.errlog fn e off 0 (BitVec.ofNat 64 (v % 2 ^ acc)) := by
  simp only [State.wrAt, hm, hr]

/-- A write of a whole register takes effect (R370). -/
theorem State.wrAt_whole (s : State) {fn off acc v w start : Nat} {r : Reg} {space : RegSpace} (hm : mbxDataAt space off = none)
    (hr : s.regAt fn space off = .ok (r, w, start)) (hf : fits w acc (off - start) = true) (ho : r ≠ .ro) (hw : ¬ acc < w) :
    s.wrAt fn space off acc v = ({ s with host := { s.host with halves := serase (halfKey fn space start) s.host.halves } } : State).wrReg fn r off
      (v % 2 ^ acc) := by
  simp only [State.wrAt, hm, hr, hf, ho, hw]
  rfl

/-- The upper half of a register whose lower half is held makes both take effect. -/
theorem State.wrHalf_upper (s : State) {fn acc rel off key v low : Nat} {r : Reg} {e : Nat × BitVec 64} (hr : rel ≠ 0)
    (he : s.host.halves.find? (fun e => e.1 == key) = some e) (hl : e.2.toNat % 2 ^ acc = low) :
    s.wrHalf fn r acc rel off key v =
      ({ s with host := { s.host with halves := serase key s.host.halves } } : State).wrReg fn r off (v * 2 ^ acc + low) := by
  rw [State.wrHalf, if_neg hr, he, ← hl]

end Sys2Proof.Machine
end

section
/-! Family 18_setup_registers: register writes by address. -/

namespace Sys2Proof.Claims

open Sys2Proof.Machine

/-- A register write within its space that reaches the module. -/
theorem Heard.registerWrite {s : State} {fn : Nat} (h : Heard s fn) {space : RegSpace} {off : Nat} (width : Nat) (v : BitVec 64)
    (ho : off < spaceBytes space) : exec (.registerWrite fn space off width v) s = .next (s.wrAt fn space off width v.toNat) := by
  have he : exec (.registerWrite fn space off width v) s = execRegisterWrite fn space off width v s := rfl
  rw [he, execRegisterWrite, if_neg (by omega), h.regCmd]

/-- Holding a lower half leaves the module as it hears the host. -/
theorem Heard.setHalves {s : State} {fn : Nat} (h : Heard s fn) (l : Sparse (BitVec 64)) :
    Heard { s with host := { s.host with halves := l } } fn := h

/-- R103, R370: the threshold register takes its value whole. -/
theorem quantThresh_written {s : State} {c : Nat} (v : BitVec 64) (hh : Heard s 0) (hf : s.fitted c = true) :
    ∃ t, exec (.registerWrite 0 .bar0 (chanOff c + 0x10) 64 v) s = .next t ∧
      t = { s with chans := t.chans, host := { s.host with halves := t.host.halves } } ∧ (∀ d, d ≠ c → t.chan d = s.chan d) ∧
      t.chan c = { s.chan c with seqr := { (s.chan c).seqr with quantThresh := v } } := by
  have hc : chanOff c + 0x10 < 0x1000000 := by
    have := of_decide_eq_true hf
    unfold State.channels at this
    unfold chanOff
    split at this <;> omega
  have hm : mbxDataAt .bar0 (chanOff c + 0x10) = none := by
    have : ¬ (0x1000 ≤ chanOff c + 0x10 - 0x20000 ∧ chanOff c + 0x10 - 0x20000 < 0x2000) := by unfold chanOff; omega
    simp only [mbxDataAt, this]
    simp
  have hw : s.wrAt 0 .bar0 (chanOff c + 0x10) 64 v.toNat =
      ({ s with host := { s.host with halves := serase (halfKey 0 .bar0 (chanOff c + 0x10)) s.host.halves } } : State).modChan c
        (fun k => { k with seqr := { k.seqr with quantThresh := v } }) := by
    rw [State.wrAt_whole s hm (s.regAt_quantThresh 0 hf) (by rw [Nat.sub_self]; rfl) (by simp) (by omega), Nat.mod_eq_of_lt v.isLt]
    exact State.wrQuantThresh_fitted _ v hf
  refine ⟨_, hh.registerWrite 64 v hc, ?_⟩
  rw [hw]
  exact ⟨rfl, fun d hd => State.chan_modChan_ne _ _ hd, State.chan_modChan_same _ _ _⟩

/-- R248, R370: the lower half of the doorbell is held, and the upper makes both take effect. -/
theorem dbell_written {s : State} {fn : Nat} (v : BitVec 64) (hh : Heard s fn) :
    ∃ t, exec (.registerWrite fn .fnPage 0x10 64 v) s = .next t ∧ t = { s with host := { s.host with halves := t.host.halves } } ∧
      ∀ u (w : BitVec 64), v.toNat &&& maskBits 15 0 = 0 → exec (.registerWrite fn .fnPage 0x18 64 w) t = .next u →
        (u.fn fn).dbell = BitVec.ofNat 128 (w.toNat * 2 ^ 64 + v.toNat) ∧ (∀ n, n ≠ fn → u.fn n = s.fn n) := by
  have hlow : s.wrAt fn .fnPage 0x10 64 v.toNat =
      { s with host := { s.host with halves := sinsert (halfKey fn .fnPage 0x10) v s.host.halves } } := by
    rw [State.wrAt_half s rfl (State.regAt_dbell _ fn) rfl (by simp), Nat.mod_eq_of_lt v.isLt, State.wrHalf, if_pos rfl, BitVec.ofNat_toNat,
      BitVec.setWidth_eq]
  refine ⟨_, hh.registerWrite 64 v (by decide), by rw [hlow], fun u w hr hu => ?_⟩
  rw [hlow, (hh.setHalves _).registerWrite 64 w (by decide), State.wrAt_half _ rfl (State.regAt_dbell_upper _ fn) rfl (by simp),
    State.wrHalf_upper _ (by decide) (find?_sinsert _ _ _) (Nat.mod_eq_of_lt v.isLt), Nat.mod_eq_of_lt w.isLt] at hu
  have hv : (w.toNat * 2 ^ 64 + v.toNat) % 2 ^ 64 = v.toNat := by
    rw [Nat.mul_add_mod_self_right, Nat.mod_eq_of_lt v.isLt]
  have h16 : v.toNat % 65536 = 0 := by rwa [show maskBits 15 0 = 2 ^ 16 - 1 from rfl, Nat.and_two_pow_sub_one_eq_mod] at hr
  have hd : (w.toNat * 2 ^ 64 + v.toNat) / 65536 * 65536 = w.toNat * 2 ^ 64 + v.toNat := by omega
  simp only [State.wrReg, State.wrDbell, hv, State.rsvBits_clear _ _ _ hr, hd] at hu
  cases hu
  exact ⟨by rw [State.fn_modFn, if_pos rfl], fun n hn => by rw [State.fn_modFn, if_neg hn]; rfl⟩

/-- Settles O18: the threshold and the doorbell are the lemmas above, and what is refused is logged with the reason of its case. -/
theorem registerWritesGoWhereTheyPoint : Obligations.RegisterWritesGoWhereTheyPoint := by
  intro s fn v hh
  refine ⟨?_, dbell_written v hh, ?_, fun off h1 h2 => ?_, ?_⟩
  · rintro c rfl hf
    exact quantThresh_written v hh hf
  · refine ⟨_, hh.registerWrite 64 v (by decide), ?_⟩
    rw [State.wrAt_readOnly s rfl (State.regAt_role _ fn) rfl]
    exact logged_errlog _ _ _ _ _ _
  · refine ⟨_, hh.registerWrite 64 v (show off < 0x10000000 by omega), ?_⟩
    have hr : s.regAt fn .bar2 off = .error 2 := by
      simp only [State.regAt]
      rw [if_neg (by omega), if_neg (by omega), if_neg (by omega)]
    rw [State.wrAt_error s rfl hr]
    exact logged_errlog _ _ _ _ _ _
  · refine ⟨_, hh.registerWrite 32 v (by decide), ?_⟩
    rw [State.wrAt_misfit s rfl (State.regAt_dbell_mid _ fn) rfl]
    exact logged_errlog _ _ _ _ _ _

end Sys2Proof.Claims
end

section
/-! SUPPORT. The management mailbox: what a command that its port takes comes to (R384 to R386). -/

namespace Sys2Proof.Machine

/-- A port that has taken a command and is busy with it (R385). -/
def Port.started (x : Port) (op : Nat) (r : MbxReq) : Port :=
  { x with busy := true, cmd := cmdWord r op, data := overlay (r.data.take 4096) x.data }

/-- The state in which port `p` has taken a command. -/
def State.started (s : State) (p op : Nat) (r : MbxReq) : State := s.modPort p (fun x => x.started op r)

/-- The tag of a request, as the command register holds it. -/
theorem cmdWord_tag (r : MbxReq) (op : Nat) : fld (cmdWord r op) 15 0 = r.tag % 2 ^ 16 := by
  simp only [cmdWord, fld, nfld, BitVec.toNat_ofNat, pack_eq_packSum, packSum]
  omega

/-- A port that keeps its role in force through a change does so among all ports. -/
theorem State.roleNow_modPort {s : State} {p : Nat} {g : Port → Port} (hg : (g (s.port p)).roleNow = (s.port p).roleNow) (q : Nat) :
    ((s.modPort p g).port q).roleNow = (s.port q).roleNow := by
  rw [State.port_modPort]
  split
  · next h => rw [hg, h]
  · rfl

theorem State.auditPush_modPort {s : State} {p : Nat} {g : Port → Port} (hg : (g (s.port p)).roleNow = (s.port p).roleNow)
    (action q result object : Nat) : (s.modPort p g).auditPush action q result object = (s.auditPush action q result object).modPort p g := by
  simp only [State.auditPush, State.roleNow_modPort hg]
  rfl

theorem State.enterDropped_modPort {s : State} {p : Nat} {g : Port → Port} (hg : (g (s.port p)).roleNow = (s.port p).roleNow) :
    (s.modPort p g).enterDropped = s.enterDropped.modPort p g := by
  by_cases h : (s.auditFull || s.store.dropped == 0) = true
  · rw [show s.enterDropped = s from if_pos h]
    exact if_pos h
  · rw [show s.enterDropped = { s.auditPush 0x41 0x3E 0 (pack [(255, 232, s.store.dropped)]) with store :=
      { (s.auditPush 0x41 0x3E 0 (pack [(255, 232, s.store.dropped)])).store with dropped := 0 } } from if_neg h]
    refine (if_neg h).trans ?_
    dsimp only
    rw [State.auditPush_modPort hg]
    rfl

/-- An audit entry reads of a port its role alone, so it is the same before and after another change of the port. -/
theorem State.audit_modPort {s : State} {p : Nat} {g : Port → Port} (hg : (g (s.port p)).roleNow = (s.port p).roleNow)
    (action q result object : Nat) : (s.modPort p g).audit action q result object = (s.audit action q result object).modPort p g := by
  have hp : s.enterDropped.port p = s.port p := by
    unfold State.enterDropped
    split <;> rfl
  have hg' : (g (s.enterDropped.port p)).roleNow = (s.enterDropped.port p).roleNow := by rw [hp, hg]
  have hf : ∀ t : State, (t.modPort p g).auditFull = t.auditFull := fun _ => rfl
  simp only [State.audit, State.enterDropped_modPort hg, State.auditPush_modPort hg', hf]
  by_cases h : s.auditFull = true
  · rw [if_pos h, if_pos h]
    rfl
  · rw [if_neg h, if_neg h]
    by_cases h' : s.enterDropped.auditFull = true
    · rw [if_pos h', if_pos h']
      rfl
    · rw [if_neg h', if_neg h']

theorem State.audit_started (s : State) (p op : Nat) (r : MbxReq) (action q result object : Nat) :
    (s.started p op r).audit action q result object = (s.audit action q result object).started p op r :=
  State.audit_modPort rfl action q result object

theorem State.rightResult_started (s : State) (p op : Nat) (r : MbxReq) (q : Nat) (role : Role) (n : Nat) :
    (s.started p op r).rightResult q role n = s.rightResult q role n := by
  simp only [State.rightResult, State.started, State.roleNow_modPort (g := fun x => x.started op r) rfl]

/-! ### The outcomes of a command -/

section

variable {s : State} {p op : Nat} {r : MbxReq} (f : State → State) (hh : s.portHears p op = true)

include hh

/-- A command written while the port is busy is logged. -/
theorem State.mailbox_busy (hb : (s.port p).busy = true) : s.mailbox p op r f = .next (s.errlog p 0x04 0x38 0 (cmdWord r op)) := by
  simp only [State.mailbox, onlyIf, hh, State.command, hb, if_true]

/-- A command to a closed mailbox that no ROM answers. -/
theorem State.mailbox_closed (hb : (s.port p).busy = false) (ho : (s.port p).mbxOpen = false) (hr : p = smbPort → s.romHears op = false)
    (h0 : op ≠ 0) : s.mailbox p op r f = .next ((s.started p op r).mbxDone p stUnsupported 0x20) := by
  have hrom : ¬ (p = smbPort ∧ s.romHears op = true) := fun h => by simp [hr h.1] at h
  have hop : ¬ (op = 0 ∧ p = smbPort) := fun h => h0 h.1
  simp only [State.mailbox, onlyIf, hh, State.command, hb, ho, hop, if_true, if_false, Bool.false_eq_true, Bool.not_false]
  exact congrArg _ (if_neg hrom)

end

/-- A command without its right. -/
theorem State.withRight_denied (s : State) (p : Nat) {res : Nat} (f : State → State) (h : res ≠ 0) :
    s.withRight p res f = (s.draw.2.audit 0x40 p res s.draw.1).mbxDone p stProtection res := if_pos h

/-- A role action while the audit log is full. -/
theorem State.withRight_full (s : State) (p : Nat) (f : State → State) (h : 256 ≤ s.store.waiting.length) :
    s.withRight p 0 f = s.mbxDone p stDeferred 0x28 := by
  have hf : s.auditFull = true := decide_eq_true h
  rw [State.withRight, if_neg (by simp), if_pos hf]

/-- A command with its right runs. -/
theorem State.withRight_runs (s : State) (p : Nat) (f : State → State) (h : s.store.waiting.length < 256) : s.withRight p 0 f = f s := by
  have hf : s.auditFull = false := decide_eq_false (Nat.not_le.2 h)
  rw [State.withRight, if_neg (by simp), hf, if_neg (by simp)]

theorem State.unlessFault_runs (s : State) (p action : Nat) (f : State → State) (h : s.store.fault = false) :
    s.unlessFault p action f = f s := by
  rw [State.unlessFault, h]
  exact if_neg (by simp)

end Sys2Proof.Machine
end

section
/-! Family 18_setup_registers: mailbox commands, refused and carried out. -/

namespace Sys2Proof.Claims

open Sys2Proof.Machine

/-- A command that its port takes runs on the port that is busy with it. -/
theorem Takes.runs {s : State} {p op : Nat} {r : MbxReq} (h : Takes s p op r) (f : State → State) :
    s.mailbox p op r f = .next (f (s.started p op r)) := by
  obtain ⟨hh, hb, hl, hv⟩ := h
  have hx : s.command p op r f = f (s.started p op r) := by
    simp only [State.command, hb, Bool.false_eq_true, if_false]
    split
    · rfl
    · split
      · rfl
      · next hn =>
        obtain ⟨ho, hver, v, hm, hmv⟩ := hv.resolve_right fun h => hn ⟨h.1, h.2⟩
        rw [ho, hm]
        simp only [Bool.not_true, Bool.false_eq_true, if_false]
        rw [if_neg (by omega), if_neg (by omega)]
        rfl
  rw [State.mailbox, hx, onlyIf, if_pos hh]

/-- A command that completes leaves its port answered, and nothing else changed. -/
theorem inPort_answered {u : State} {p op : Nat} {r : MbxReq} (hl : r.data.length ≤ 4096) (status detail : Nat) (resp : List Byte) :
    InPort u ((u.started p op r).mbxDone p status detail resp) p (fun x => answered x op r status detail resp) := by
  refine ⟨rfl, fun n hn => ?_, ?_⟩
  · rw [State.mbxDone, State.port_modPort, if_neg hn, State.started, State.port_modPort, if_neg hn]
  · have hst : ∀ (l : List (Nat × Nat × Nat)), pack (l ++ [(15, 0, r.tag % 2 ^ 16)]) = pack (l ++ [(15, 0, r.tag)]) := by
      intro l
      simp [pack, List.foldl_append]
    rw [State.mbxDone, State.port_modPort, if_pos rfl, State.started, State.port_modPort, if_pos rfl]
    simp only [Port.done, Port.started, answered, cmdWord_tag, List.take_of_length_le hl]
    exact congrArg (fun n => ({ u.port p with
      busy := false, cmd := cmdWord r op, data := overlay resp (overlay r.data (u.port p).data), status := BitVec.ofNat 64 n } : Port))
      (hst [(55, 48, status), (47, 40, detail), (31, 16, resp.length)])

/-- A command that enters a role action and completes. -/
theorem audited_answered {u : State} {p op : Nat} {r : MbxReq} (ha : AuditRoom u) (hl : r.data.length ≤ 4096)
    (action result object status detail : Nat) (resp : List Byte) : ∃ w, Audited u w action p result ∧
    InPort w (((u.started p op r).audit action p result object).mbxDone p status detail resp) p
      (fun x => answered x op r status detail resp) := by
  rw [State.audit_started]
  exact ⟨_, audited_audit ha _ _ _ _, inPort_answered hl _ _ _⟩

/-- The same where an urgent record is wanted between the two. -/
theorem audited_wanted_answered {u : State} {p op : Nat} {r : MbxReq} (ha : AuditRoom u) (hl : r.data.length ≤ 4096)
    (action result object status detail : Nat) (resp : List Byte) : ∃ w, Audited u w action p result ∧
    InPort w.wantRecord ((((u.started p op r).audit action p result object).wantRecord).mbxDone p status detail resp) p
      (fun x => answered x op r status detail resp) := by
  rw [State.audit_started]
  exact ⟨_, audited_audit ha _ _ _ _, inPort_answered (u := State.wantRecord _) hl _ _ _⟩

/-! ### Refusals -/

/-- An open command is a mailbox command of its code. -/
theorem openCommand_runs {e : (Nat → MbxReq → Instr) × Nat} (he : e ∈ openCommands) (p : Nat) (r : MbxReq) :
    e.2 ≠ 0 ∧ ∃ f, ∀ s, exec (e.1 p r) s = s.mailbox p e.2 r f := by
  simp only [openCommands, List.mem_cons, List.not_mem_nil, or_false] at he
  rcases he with rfl | rfl | rfl | rfl | rfl | rfl | rfl | rfl
  all_goals exact ⟨by simp, _, fun s => rfl⟩

/-- A command that the ROM does not answer asks for its right. -/
theorem rightHere_unheard {s : State} {p op : Nat} (role : Role) (n : Nat) (h : s.romHears op = false) :
    rightHere s p op role n = s.rightResult p role n := by
  rw [rightHere, if_neg (by simp [h])]

theorem romHears_installer (s : State) {op : Nat} (h : op < 0x10) : s.romHears op = false := by
  have h1 : (op == 0x10 || op == 0x11) = false := by
    rw [Bool.or_eq_false_iff]
    exact ⟨beq_eq_false_iff_ne.2 (by omega), beq_eq_false_iff_ne.2 (by omega)⟩
  have h2 : decide (0x10 ≤ op ∧ op ≤ 0x15) = false := decide_eq_false (by omega)
  simp only [State.romHears, h1, h2, ite_self, Bool.and_false]

theorem rightHere_started (s : State) (p op : Nat) (r : MbxReq) (role : Role) (n : Nat) :
    rightHere (s.started p op r) p op role n = rightHere s p op role n := by
  rw [rightHere, State.rightResult_started]
  rfl

/-- The right of a maker's command, as `State.maker` asks for it. -/
theorem rightHere_maker (s : State) (p op n : Nat) :
    (if p == smbPort && s.romHears op then 0 else s.rightResult p .maker n) = rightHere s p op .maker n := by
  simp only [rightHere, Bool.and_eq_true, beq_iff_eq]
  rfl

/-- A command of a role is a mailbox command of its code that asks for its right. -/
theorem roleCommand_runs {e : (Nat → MbxReq → Instr) × Nat × Role × Nat} (he : e ∈ roleCommands) (p : Nat) (r : MbxReq) :
    e.2.1 ≠ 0 ∧ ∃ f, ∀ s, exec (e.1 p r) s = s.mailbox p e.2.1 r (fun u => u.withRight p (rightHere u p e.2.1 e.2.2.1 e.2.2.2) f) := by
  have hi : ∀ {i : Instr} {op n : Nat} {f : State → State}, op < 0x10 → (∀ s, exec i s =
      s.mailbox p op r (fun u => u.withRight p (u.rightResult p .installer n) f)) →
      ∃ f, ∀ s, exec i s = s.mailbox p op r (fun u => u.withRight p (rightHere u p op .installer n) f) :=
    fun h he => ⟨_, fun s => (he s).trans
      (congrArg (s.mailbox p _ r) (funext fun u => by rw [rightHere_unheard _ _ (romHears_installer u h)]))⟩
  have hm : ∀ {i : Instr} {op n : Nat} {f : State → State}, (∀ s, exec i s = s.maker p op n r f) →
      ∃ f, ∀ s, exec i s = s.mailbox p op r (fun u => u.withRight p (rightHere u p op .maker n) f) :=
    fun he => ⟨_, fun s => (he s).trans (congrArg (s.mailbox p _ r) (funext fun u => by rw [rightHere_maker]))⟩
  simp only [roleCommands, List.mem_cons, List.not_mem_nil, or_false] at he
  rcases he with rfl | rfl | rfl | rfl | rfl | rfl | rfl | rfl
  all_goals dsimp only
  · exact ⟨by simp, hi (by omega) fun s => rfl⟩
  · exact ⟨by simp, hi (by omega) fun s => rfl⟩
  all_goals exact ⟨by simp, hm fun s => rfl⟩

/-- Settles O19: the outcomes of a mailbox command, for the rows that it names. -/
theorem mailboxRefusesByItsRules : Obligations.MailboxRefusesByItsRules := by
  intro s p r
  refine ⟨fun e he hh => ?_, fun e he ht => ?_⟩
  · have hx : e.2 ≠ 0 ∧ ∃ f, exec (e.1 p r) s = s.mailbox p e.2 r f := by
      rcases List.mem_append.1 he with he | he
      · obtain ⟨h0, f, hf⟩ := openCommand_runs he p r
        exact ⟨h0, f, hf s⟩
      · obtain ⟨d, hd, rfl⟩ := List.mem_map.1 he
        obtain ⟨h0, f, hf⟩ := roleCommand_runs hd p r
        exact ⟨h0, _, hf s⟩
    obtain ⟨h0, f, hf⟩ := hx
    refine ⟨fun hb => ?_, fun hb ho hr hl => ?_⟩
    · exact ⟨_, hf.trans (State.mailbox_busy f hh hb), logged_errlog s p 4 0x38 0 _⟩
    · exact ⟨_, hf.trans (State.mailbox_closed f hh hb ho hr h0), inPort_answered hl _ _ _⟩
  · obtain ⟨h0, f, hf⟩ := roleCommand_runs he p r
    have hx := (hf s).trans (ht.runs _)
    obtain ⟨-, -, hl, -⟩ := ht
    rw [rightHere_started] at hx
    refine ⟨fun hr ha => ?_, fun hr hw => ?_⟩
    · rw [State.withRight_denied _ _ _ hr] at hx
      obtain ⟨w, h1, h2⟩ := audited_answered (u := { s with fresh := s.fresh + 1 }) (op := e.2.1) (ha.of_store rfl rfl) hl 0x40
        (rightHere s p e.2.1 e.2.2.1 e.2.2.2) (s.started p e.2.1 r).draw.1 stProtection (rightHere s p e.2.1 e.2.2.1 e.2.2.2) []
      exact ⟨_, w, hx, h1, h2⟩
    · rw [hr, State.withRight_full (s.started p e.2.1 r) p f hw] at hx
      exact ⟨_, hx, inPort_answered hl _ _ _⟩

end Sys2Proof.Claims
end

section
/-! Family 18_setup_registers: role commands with their right. -/

namespace Sys2Proof.Claims

open Sys2Proof.Machine

/-- A command that asks for a right which the port has, while the audit log takes entries, runs. -/
theorem Takes.runsWithRight {s : State} {p op : Nat} {r : MbxReq} (h : Takes s p op r) (ha : AuditRoom s) {i : Instr} {res : State → Nat}
    {f : State → State} (he : exec i s = s.mailbox p op r (fun u => u.withRight p (res u) f)) (hr : res (s.started p op r) = 0) :
    exec i s = .next (f (s.started p op r)) := by
  rw [he, h.runs, hr]
  exact congrArg _ (State.withRight_runs (s.started p op r) p f ha.1)

/-- The same of the maker's commands. -/
theorem Takes.runsMaker {s : State} {p op : Nat} {r : MbxReq} (h : Takes s p op r) (ha : AuditRoom s) {i : Instr} {n : Nat}
    {f : State → State} (he : exec i s = s.maker p op n r f) (hr : rightHere s p op .maker n = 0) :
    exec i s = .next (f (s.started p op r)) := by
  refine h.runsWithRight ha he ?_
  rw [rightHere_maker, rightHere_started, hr]

/-- An action entered that wants an urgent record changes the store and the draws alone. -/
theorem auditDraw_wantRecord (u : State) (action p : Nat) :
    ∃ st, (u.auditDraw action p).wantRecord = { u with store := st, fresh := u.fresh + 1 } ∧ st.urgent = true := by
  refine ⟨(u.auditDraw action p).wantRecord.store, ?_, rfl⟩
  rw [State.auditDraw, State.audit_rest]
  rfl

section

variable {s : State} {p : Nat} {r : MbxReq} (ha : AuditRoom s)

include ha

/-- R330: the module number is stored. -/
theorem setModuleId_acts {b : Byte} (hf : s.store.fault = false) (h : Takes s p 8 r) (hr : s.rightResult p .installer 4 = 0) (hd : r.data = [b])
    (hb : b.toNat < 64) : ∃ t u, exec (.setModuleId p r) s = .next t ∧
    Audited { s with fresh := s.fresh + 1, store := { s.store with live := { s.store.live with moduleId := b.toNat } } } u 0x22 p 0 ∧
    InPort u t p (fun x => answered x 8 r 0 0 []) := by
  have hx := h.runsWithRight ha (i := .setModuleId p r) (res := fun u => u.rightResult p .installer 4) rfl
    ((State.rightResult_started _ _ _ _ _ _ _).trans hr)
  have hn : leNat r.data = b.toNat := by rw [hd]; simp [leNat]
  have hl : ¬ (r.data.length ≠ 1 ∨ 64 ≤ leNat r.data) := by rw [hn, hd]; simp [hb]
  rw [if_neg hl, State.unlessFault_runs (s.started p 8 r) _ _ _ hf, hn] at hx
  obtain ⟨w, h1, h2⟩ := audited_answered (op := 8) (r := r) (p := p)
    (u := { s with fresh := s.fresh + 1, store := { s.store with live := { s.store.live with moduleId := b.toNat } } })
    (ha.of_store rfl rfl) h.2.2.1 0x22 0 (s.started p 8 r).draw.1 stOK 0 []
  exact ⟨_, w, hx, h1, h2⟩

/-- R316: a change of an authority slot waits for its record. -/
theorem authSlot_acts {x : AuthSlot} (hf : s.store.fault = false) (h : Takes s p 9 r)
    (hr : (s.port p).roleNow.role = .maker ∨ s.rightResult p .installer 7 = 0)
    (hc : authChange (s.authNow ((r.data.getD 0 0).toNat)) r.data = some x) : ∃ t u, exec (.authSlot p r) s = .next t ∧
    Audited { s with fresh := s.fresh + 1, host := { s.host with auths := s.host.auths ++ [((r.data.getD 0 0).toNat, x, false)] } } u 0x25 p 0 ∧
    InPort u t p (fun x => answered x 9 r 0 0 []) := by
  have hres : (if ((s.started p 9 r).port p).roleNow.role == .maker then 0 else (s.started p 9 r).rightResult p .installer 7) = 0 := by
    rw [State.rightResult_started, State.started, State.roleNow_modPort (g := fun x => x.started 9 r) rfl]
    rcases hr with hr | hr <;> simp [hr]
  have hx := h.runsWithRight ha (i := .authSlot p r)
    (res := fun u => if (u.port p).roleNow.role == .maker then 0 else u.rightResult p .installer 7) rfl hres
  have hc' : authChange ((s.started p 9 r).authNow ((r.data.getD 0 0).toNat)) r.data = some x := hc
  dsimp only at hx
  rw [hc'] at hx
  dsimp only at hx
  rw [State.unlessFault_runs (s.started p 9 r) _ _ _ hf] at hx
  obtain ⟨w, h1, h2⟩ := audited_answered (op := 9) (r := r) (p := p)
    (u := { s with fresh := s.fresh + 1, host := { s.host with auths := s.host.auths ++ [((r.data.getD 0 0).toNat, x, false)] } })
    (ha.of_store rfl rfl) h.2.2.1 0x25 0 (s.started p 9 r).draw.1 stOK 0 []
  exact ⟨_, w, hx, h1, h2⟩

/-- R186: an unmapping of a valid entry waits for its record. -/
theorem unmapFacet_acts {c l : Nat} (hf : s.store.fault = false) (h : Takes s p 0x0A r) (hr : s.rightResult p .installer 0 = 0)
    (hd : r.data.length = 8) (hz : leNat (r.data.drop 4) = 0) (hc : c = (r.data.getD 0 0).toNat) (hl : l = (r.data.getD 3 0).toNat)
    (hfit : s.fitted c = true) (ht : leNat ((r.data.drop 1).take 2) < 384) (hl16 : l < 16)
    (hn : s.facetNamed c (leNat ((r.data.drop 1).take 2)) l = false)
    (hv : (sget {} (s.chan c).arr.map (16 * leNat ((r.data.drop 1).take 2) + l)).valid = true) :
    ∃ t, exec (.unmapFacet p r) s = .next t ∧
      t.host.unmaps = s.host.unmaps ++ [(p, c, leNat ((r.data.drop 1).take 2), l, false)] ∧ t.store.urgent = true ∧ (t.port p).busy = true ∧
      t = { s with host := t.host, store := t.store, fresh := t.fresh } := by
  have hx := h.runsWithRight ha (i := .unmapFacet p r) (res := fun u => u.rightResult p .installer 0) rfl
    ((State.rightResult_started _ _ _ _ _ _ _).trans hr)
  have hbad : ¬ (r.data.length ≠ 8 ∨ leNat (r.data.drop 4) ≠ 0 ∨ (!(s.started p 0x0A r).fitted c) = true ∨
      384 ≤ leNat ((r.data.drop 1).take 2) ∨ 16 ≤ l ∨ (s.started p 0x0A r).facetNamed c (leNat ((r.data.drop 1).take 2)) l = true) := by
    have h1 : (s.started p 0x0A r).fitted c = true := hfit
    have h2 : (s.started p 0x0A r).facetNamed c (leNat ((r.data.drop 1).take 2)) l = false := hn
    rw [h1, h2]
    simp only [Bool.not_true, Bool.false_eq_true, or_false, false_or, hd, hz]
    omega
  have hv' : ¬ ((!(sget {} ((s.started p 0x0A r).chan c).arr.map (16 * leNat ((r.data.drop 1).take 2) + l)).valid) = true) := by
    have : (sget {} ((s.started p 0x0A r).chan c).arr.map (16 * leNat ((r.data.drop 1).take 2) + l)).valid = true := hv
    rw [this]
    decide
  dsimp only at hx
  rw [← hc, ← hl, if_neg hbad, if_neg hv', State.unlessFault_runs (s.started p 0x0A r).draw.2 _ _ _ hf] at hx
  obtain ⟨st, he, hu⟩ := auditDraw_wantRecord ({ (s.started p 0x0A r).draw.2 with host := { (s.started p 0x0A r).host with
    unmaps := s.host.unmaps ++ [(p, c, leNat ((r.data.drop 1).take 2), l, false)] } }) (s.started p 0x0A r).draw.1 p
  have hb : ((s.started p 0x0A r).port p).busy = true := congrArg Port.busy ((State.port_modPort s p p _).trans (if_pos rfl))
  exact ⟨_, hx.trans (congrArg Host.Outcome.next he), rfl, hu, hb, rfl⟩

/-! ### The maker's commands -/

/-- R324: an activation names the staged slot, by an urgent record. -/
theorem firmwareActivate_acts {n : Nat} (hf : s.store.fault = false) (h : Takes s p 0x11 r) (hr : rightHere s p 0x11 .maker 8 = 0)
    (hs : s.store.fwStaged = true) (hn : n = 1 - s.store.live.fwActive) : ∃ t u, exec (.firmwareActivate p r) s = .next t ∧
    Audited { s with store := { s.store with fwStaged := false, live := { s.store.live with fwActive := n } } } u 0x31 p 0 ∧
    InPort u.wantRecord t p (fun x => answered x 0x11 r 0 0 []) := by
  have hx := h.runsMaker ha (i := .firmwareActivate p r) rfl hr
  have hs' : ¬ ((!(s.started p 0x11 r).store.fwStaged) = true) := by
    have : (s.started p 0x11 r).store.fwStaged = true := hs
    rw [this]
    decide
  dsimp only at hx
  rw [if_neg hs', State.unlessFault_runs (s.started p 0x11 r) _ _ _ hf] at hx
  subst hn
  obtain ⟨w, h1, h2⟩ := audited_wanted_answered (op := 0x11) (r := r) (p := p)
    (u := { s with store := { s.store with fwStaged := false, live := { s.store.live with fwActive := 1 - s.store.live.fwActive } } })
    (ha.of_store rfl rfl) h.2.2.1 0x31 0 (digestObject (if 1 - s.store.live.fwActive = 0 then s.store.fwDig0 else s.store.fwDig1)) stOK 0 []
  exact ⟨_, w, hx, h1, h2⟩

/-- R325: the chain that the maker sends is stored. -/
theorem provision_chain_acts (hf : s.store.fault = false) (h : Takes s p 0x13 r) (hr : rightHere s p 0x13 .maker 10 = 0)
    (hd : r.data ≠ []) : ∃ t u, exec (.provision p r) s = .next t ∧
    Audited { s with fresh := s.fresh + 1, store := { s.store with live := { s.store.live with chain := r.data } } } u 0x33 p 0 ∧
    InPort u t p (fun x => answered x 0x13 r 0 0 []) := by
  have hx := h.runsMaker ha (i := .provision p r) rfl hr
  rw [State.unlessFault_runs (s.started p 0x13 r) _ _ _ hf, if_neg (by simp [hd])] at hx
  obtain ⟨w, h1, h2⟩ := audited_answered (op := 0x13) (r := r) (p := p)
    (u := { s with fresh := s.fresh + 1, store := { s.store with live := { s.store.live with chain := r.data } } })
    (ha.of_store rfl rfl) h.2.2.1 0x33 0 (s.started p 0x13 r).draw.1 stOK 0 []
  exact ⟨_, w, hx, h1, h2⟩

/-- R297: the stored replacement flag is cleared, by an urgent record. -/
theorem clearReplacementFlag_acts (hf : s.store.fault = false) (h : Takes s p 0x14 r) (hr : rightHere s p 0x14 .maker 11 = 0) :
    ∃ t u, exec (.clearReplacementFlag p r) s = .next t ∧
    Audited { s with fresh := s.fresh + 1, store := { s.store with live := { s.store.live with replacement := false } } } u 0x34 p 0 ∧
    InPort u.wantRecord t p (fun x => answered x 0x14 r 0 0 []) := by
  have hx := h.runsMaker ha (i := .clearReplacementFlag p r) rfl hr
  rw [State.unlessFault_runs (s.started p 0x14 r) _ _ _ hf] at hx
  obtain ⟨w, h1, h2⟩ := audited_wanted_answered (op := 0x14) (r := r) (p := p)
    (u := { s with fresh := s.fresh + 1, store := { s.store with live := { s.store.live with replacement := false } } })
    (ha.of_store rfl rfl) h.2.2.1 0x34 0 (s.started p 0x14 r).draw.1 stOK 0 []
  exact ⟨_, w, hx, h1, h2⟩

/-- R386: a calibration is entered. -/
theorem calibrate_acts (h : Takes s p 0x12 r) (hr : rightHere s p 0x12 .maker 9 = 0) : ∃ t u, exec (.calibrate p r) s = .next t ∧
    Audited { s with fresh := s.fresh + 1 } u 0x32 p 0 ∧ InPort u t p (fun x => answered x 0x12 r 0 0 []) := by
  have hx := h.runsMaker ha (i := .calibrate p r) rfl hr
  obtain ⟨w, h1, h2⟩ := audited_answered (op := 0x12) (r := r) (p := p) (u := { s with fresh := s.fresh + 1 })
    (ha.of_store rfl rfl) h.2.2.1 0x32 0 (s.started p 0x12 r).draw.1 stOK 0 []
  exact ⟨_, w, hx, h1, h2⟩

/-- R394: debug mode is asked for. -/
theorem openDebugWindow_begins (h : Takes s p 0x15 r) (hr : rightHere s p 0x15 .maker 12 = 0) (hd : r.data.head? = some 1) :
    ∃ t u, exec (.openDebugWindow p r) s = .next t ∧
    Audited { s with fresh := s.fresh + 1, hub := { s.hub with debugNext := some true, debugPort := p } } u 0x35 p 0 ∧
    InPort u t p (fun x => answered x 0x15 r 0 0 []) := by
  have hx := h.runsMaker ha (i := .openDebugWindow p r) rfl hr
  dsimp only at hx
  rw [hd] at hx
  dsimp only at hx
  rw [if_pos rfl] at hx
  obtain ⟨w, h1, h2⟩ := audited_answered (op := 0x15) (r := r) (p := p)
    (u := { s with fresh := s.fresh + 1, hub := { s.hub with debugNext := some true, debugPort := p } })
    (ha.of_store rfl rfl) h.2.2.1 0x35 0 (s.started p 0x15 r).draw.1 stOK 0 []
  exact ⟨_, w, hx, h1, h2⟩

/-- R394: the end of debug mode is asked for. -/
theorem openDebugWindow_ends (h : Takes s p 0x15 r) (hr : rightHere s p 0x15 .maker 12 = 0) (hd : r.data.head? = some 0)
    (hdb : s.hub.debug = true) : ∃ t, exec (.openDebugWindow p r) s = .next t ∧
    InPort { s with hub := { s.hub with debugNext := some false } } t p (fun x => answered x 0x15 r 0 0 []) := by
  have hx := h.runsMaker ha (i := .openDebugWindow p r) rfl hr
  dsimp only at hx
  rw [hd] at hx
  dsimp only at hx
  have hdb' : (s.started p 0x15 r).hub.debug = true := hdb
  rw [if_neg (by decide), if_pos rfl, State.endDebug, hdb', Bool.true_or, if_pos rfl] at hx
  exact ⟨_, hx, inPort_answered (u := { s with hub := { s.hub with debugNext := some false } }) h.2.2.1 stOK 0 []⟩

/-- R324: an image that verifies stands in the slot that is not active. -/
theorem firmwareStage_acts {hdr : BitVec 256} {w : FwSlot} (h : Takes s p 0x10 r) (hr : rightHere s p 0x10 .maker 8 = 0)
    (hw : w = { hdr := hdr, valid := true }) (hok : s.store.live.fwOk w = true) :
    ∃ t u v, exec (.firmwareStage p r hdr true) s = .next t ∧ v.fwStaged = true ∧
      (s.store.live.fwActive = 0 → v = { s.store with fw1 := w, fwDig1 := v.fwDig1, fwStaged := true }) ∧
      (s.store.live.fwActive ≠ 0 → v = { s.store with fw0 := w, fwDig0 := v.fwDig0, fwStaged := true }) ∧
      Audited { s with store := v } u 0x30 p 0 ∧ InPort u t p (fun x => answered x 0x10 r 0 0 []) := by
  have hx := h.runsMaker ha (i := .firmwareStage p r hdr true) rfl hr
  have hok' : (s.started p 0x10 r).store.live.fwOk { hdr := hdr, valid := true } = true := hw ▸ hok
  dsimp only at hx
  rw [hok', if_pos rfl, if_pos rfl] at hx
  by_cases hact : s.store.live.fwActive = 0
  · have hact' : (s.started p 0x10 r).store.live.fwActive = 0 := hact
    rw [if_pos hact'] at hx
    obtain ⟨u, h1, h2⟩ := audited_answered (op := 0x10) (r := r) (p := p)
      (u := { s with store := { s.store with
        fw1 := w, fwDig1 := Config.shake256 (leBytes 32 hdr.toNat ++ r.data), fwStaged := true } })
      (ha.of_store rfl rfl) h.2.2.1 0x30 0 (digestObject (Config.shake256 (leBytes 32 hdr.toNat ++ r.data))) stOK 0 []
    subst hw
    exact ⟨_, u, _, hx, rfl, fun _ => rfl, fun hn => absurd hact hn, h1, h2⟩
  · have hact' : ¬ (s.started p 0x10 r).store.live.fwActive = 0 := hact
    rw [if_neg hact'] at hx
    obtain ⟨u, h1, h2⟩ := audited_answered (op := 0x10) (r := r) (p := p)
      (u := { s with store := { s.store with
        fw0 := w, fwDig0 := Config.shake256 (leBytes 32 hdr.toNat ++ r.data), fwStaged := true } })
      (ha.of_store rfl rfl) h.2.2.1 0x30 0 (digestObject (Config.shake256 (leBytes 32 hdr.toNat ++ r.data))) stOK 0 []
    subst hw
    exact ⟨_, u, _, hx, rfl, fun hz => absurd hz hact, fun _ => rfl, h1, h2⟩

/-- R325: a provisioning without a chain makes a key and gives its public half. -/
theorem provision_key_acts (hf : s.store.fault = false) (h : Takes s p 0x13 r) (hr : rightHere s p 0x13 .maker 10 = 0) (hd : r.data = []) :
    ∃ t pub, exec (.provision p r) s = .next t ∧
      t.sec = { s.sec with key := true, keyBytes := t.sec.keyBytes } ∧ pub = Config.falconPublic t.sec.keyBytes ∧
      t.store.live.wrappedKey = Config.gcmWrap (wrapKey (Config.pufSecret t.store.live.helper)) t.sec.keyBytes ∧
      t.store.live.publicKey = pub ∧ t.store.live.chain = [] ∧ t.port p = answered (s.port p) 0x13 r 0 0 pub := by
  have hx := h.runsMaker ha (i := .provision p r) rfl hr
  rw [State.unlessFault_runs (s.started p 0x13 r) _ _ _ hf, if_pos (by simp [hd])] at hx
  generalize Config.signature (s.started p 0x13 r).fresh = secret at hx
  generalize Config.pufHelper ((s.started p 0x13 r).fresh + 1) = helper at hx
  obtain ⟨u, h1, h2⟩ := audited_answered (op := 0x13) (r := r) (p := p)
    (u := { s with fresh := s.fresh + 3, sec := { s.sec with key := true, keyBytes := secret }
                   store := { s.store with live := { s.store.live with
                     publicKey := Config.falconPublic secret, wrappedKey := Config.gcmWrap (wrapKey (Config.pufSecret helper)) secret
                     helper := helper, chain := [] } } })
    (ha.of_store rfl rfl) h.2.2.1 0x33 0 (Config.unstated (s.fresh + 2)) stOK 0 (Config.falconPublic secret)
  obtain ⟨t, hx, h2⟩ : ∃ t, exec (.provision p r) s = .next t ∧
      InPort u t p (fun x => answered x 0x13 r 0 0 (Config.falconPublic secret)) := ⟨_, hx, h2⟩
  refine ⟨t, Config.falconPublic secret, hx, ?_⟩
  have hu := h1.rest
  have hp : u.port p = s.port p := by rw [hu]; rfl
  have hh := h2.rest
  have hq := h2.port
  rw [hp] at hq
  rw [hu] at hh
  rw [hh] at hq ⊢
  exact ⟨rfl, rfl, rfl, rfl, rfl, hq⟩

end

/-- Settles O21: the commands one by one. -/
theorem roleCommandsAct : Obligations.RoleCommandsAct := by
  intro s p r ha
  refine ⟨fun hf => ⟨fun b h hr hd hb => setModuleId_acts ha hf h hr hd hb, fun x h hr hc => authSlot_acts ha hf h hr hc,
    fun c l h hr hd hz hc hl hfit ht hl16 hn hv => unmapFacet_acts ha hf h hr hd hz hc hl hfit ht hl16 hn hv,
    fun n h hr hs hn => firmwareActivate_acts ha hf h hr hs hn, fun h hr hd => provision_key_acts ha hf h hr hd,
    fun h hr hd => provision_chain_acts ha hf h hr hd, fun h hr => clearReplacementFlag_acts ha hf h hr⟩,
    fun hdr w h hr hw hok => firmwareStage_acts ha h hr hw hok, fun h hr => calibrate_acts ha h hr, fun h hr =>
    ⟨fun hd => openDebugWindow_begins ha h hr hd, fun hd hdb => openDebugWindow_ends ha h hr hd hdb⟩⟩

end Sys2Proof.Claims
end

section
/-! SUPPORT. What the abandoning of loads leaves of the store and of the packages (R333). -/

namespace Sys2Proof.Machine

/-- What every step of a fold keeps, the fold keeps. -/
theorem foldl_keeps {α β γ : Type} (g : β → γ) (f : β → α → β) (h : ∀ b a, g (f b a) = g b) : ∀ (l : List α) (b : β), g (l.foldl f b) = g b
  | [], _ => rfl
  | a :: l, b => (foldl_keeps g f h l (f b a)).trans (h b a)

/-- From `s` to `t` the packages stand, and of the store all but what an audit entry, a record's request or the facets' states change. -/
structure KeepsLoads (s t : State) : Prop where
  pkgs : t.host.pkgs = s.host.pkgs
  store : t.store = { s.store with live := t.store.live, waiting := t.store.waiting, dropped := t.store.dropped
                                   coalesced := t.store.coalesced, urgent := t.store.urgent }

theorem KeepsLoads.refl (s : State) : KeepsLoads s s := ⟨rfl, rfl⟩

theorem KeepsLoads.trans {s t u : State} (h : KeepsLoads s t) (k : KeepsLoads t u) : KeepsLoads s u := by
  refine ⟨k.pkgs.trans h.pkgs, ?_⟩
  rw [k.store, h.store]

theorem KeepsLoads.of_same {s t : State} (hp : t.host.pkgs = s.host.pkgs) (hs : t.store = s.store) : KeepsLoads s t :=
  ⟨hp, by rw [hs]⟩

theorem KeepsLoads.foldl {α : Type} {f : State → α → State} (h : ∀ s a, KeepsLoads s (f s a)) :
    ∀ (l : List α) (s : State), KeepsLoads s (l.foldl f s)
  | [], s => KeepsLoads.refl s
  | a :: l, s => (h s a).trans (KeepsLoads.foldl h l _)

theorem KeepsLoads.event (s : State) (cls sub chan arg arg2 : Nat) : KeepsLoads s (s.event cls sub chan arg arg2) := by
  rw [State.event_rest]
  exact .of_same rfl rfl

theorem KeepsLoads.enterDropped (s : State) : KeepsLoads s s.enterDropped := by
  unfold State.enterDropped
  split
  · exact .refl s
  · exact ⟨rfl, rfl⟩

theorem KeepsLoads.audit (s : State) (action port result object : Nat) : KeepsLoads s (s.audit action port result object) := by
  unfold State.audit
  split
  · exact ⟨rfl, rfl⟩
  · dsimp only
    split
    · exact (KeepsLoads.enterDropped s).trans ⟨rfl, rfl⟩
    · exact (KeepsLoads.enterDropped s).trans ⟨rfl, rfl⟩

theorem KeepsLoads.complete (s : State) (e : Cpl) : KeepsLoads s (s.complete e) := by
  unfold State.complete
  split
  · unfold State.writeCpl
    dsimp only
    split
    · exact .of_same rfl rfl
    · exact KeepsLoads.trans (.of_same (t := State.countAll _ 0x89) (by rw [State.countAll, State.allChans_rest]; rfl)
        (by rw [State.countAll, State.allChans_rest]; rfl)) (.event _ _ _ _ _ _)
  · exact .of_same rfl rfl

theorem KeepsLoads.finishHost (s : State) (id status cause detail : Nat) : KeepsLoads s (s.finishHost id status cause detail) := by
  unfold State.finishHost
  split
  · exact .refl s
  · refine KeepsLoads.trans (t := State.sqDone _ _ _) ?_ (KeepsLoads.complete _ _)
    exact .of_same rfl rfl

theorem KeepsLoads.freeStaged (s : State) (c : Nat) : KeepsLoads s (s.freeStaged c) := ⟨rfl, rfl⟩

theorem KeepsLoads.auditFailed (s : State) (p : Pkg) (b : Bool) : KeepsLoads s (s.auditFailed p b) :=
  KeepsLoads.trans (t := s.draw.2) (.of_same rfl rfl) (.audit s.draw.2 _ _ _ _)

/-- Abandoned loads leave the packages that are recorded, and those alone. -/
theorem KeepsLoads.abandonLoads (s : State) (status cause : Nat) :
    KeepsLoads { s with host := { s.host with pkgs := s.host.pkgs.filter (fun p => p.recorded), staging := false } }
      (s.abandonLoads status cause) := by
  unfold State.abandonLoads
  dsimp only
  refine KeepsLoads.trans ?_ (KeepsLoads.foldl (fun s p => ?_) _ _)
  · exact (KeepsLoads.foldl KeepsLoads.freeStaged _ _).trans
      (.of_same (by rw [State.allChans_rest]) (by rw [State.allChans_rest]))
  · split
    · exact .refl s
    · exact (KeepsLoads.auditFailed s p _).trans (.finishHost _ _ _ _ _)

end Sys2Proof.Machine
end

section
/-! Family 15_security: configuration records (R331 to R333). -/

namespace Sys2Proof.Claims

open Sys2Proof.Machine

section

variable {s : State} (ha : s.answers = true)

include ha

/-- A record that is due begins. -/
theorem configRecordWriteStart_begins (hd : s.recordDue = true) (hw : s.store.writing = none) :
    exec .configRecordWriteStart s = .next s.recordStart := by
  have he : exec .configRecordWriteStart s = onlyIf (s.answers && s.recordDue && s.store.writing.isNone) s s.recordStart := rfl
  rw [he, ha, hd, hw]
  rfl

/-- A write of a record that finishes. -/
theorem configRecordWriteDone_finishes {p : Persist} {second : Bool} (hw : s.store.writing = some (p, second)) (ok : Bool) :
    exec (.configRecordWriteDone ok) s =
      .next (if ok then s.recordWritten p else if second then s.recordFailed
        else { s with store := { s.store with writing := some (p, true) } }) := by
  have he : exec (.configRecordWriteDone ok) s = onlyIf (s.answers && s.store.writing.isSome) s (s.recordDone ok) := rfl
  rw [he, ha, hw, State.recordDone, hw]
  rfl

end

/-- The store of a record written: as `Store.written` leaves it, but for a note of dropped audit entries. -/
theorem recordWritten_store (s : State) (p : Persist) : (s.recordWritten p).store = { s.store.written p with
    live := (s.recordWritten p).store.live, waiting := (s.recordWritten p).store.waiting, dropped := (s.recordWritten p).store.dropped
    coalesced := (s.recordWritten p).store.coalesced, urgent := (s.recordWritten p).store.urgent } := by
  have hp : ∀ (l : List Nat) (u : State), KeepsLoads u (l.foldl (fun s p => s.mbxDone p stOK 0) u).enterDropped := fun l u =>
    (KeepsLoads.foldl (f := fun s p => State.mbxDone s p stOK 0) (fun s p => .of_same rfl rfl) l u).trans (.enterDropped _)
  unfold State.recordWritten
  dsimp only
  split
  · exact ((hp _ _).trans (.event _ _ _ _ _ _)).store
  · exact (hp _ _).store

theorem foldl_mbxDone_store {α : Type} (g : α → Nat) (status detail : Nat) (l : List α) (s : State) :
    (l.foldl (fun s a => s.mbxDone (g a) status detail) s).store = s.store :=
  foldl_keeps State.store (fun s a => s.mbxDone (g a) status detail) (fun _ _ => rfl) l s

/-- The store fault latches, both banks stand, and no package is left but those recorded. -/
theorem recordFailed_store (s : State) : s.recordFailed.store = { s.store with
      fault := true, writing := none, carried := {}, flush := [], live := s.recordFailed.store.live, waiting := s.recordFailed.store.waiting
      dropped := s.recordFailed.store.dropped, coalesced := s.recordFailed.store.coalesced, urgent := s.recordFailed.store.urgent } ∧
    ∀ g ∈ s.recordFailed.host.pkgs, g.recorded = true := by
  unfold State.recordFailed
  dsimp only
  have h := KeepsLoads.abandonLoads
  refine ⟨(h _ _ _).store.trans ?_, fun g hg => ?_⟩
  · dsimp only
    rw [foldl_mbxDone_store (fun u : Nat × Nat × Nat × Nat × Bool => u.1), foldl_mbxDone_store (fun p : Nat => p), State.event_rest]
  · rw [(h _ _ _).pkgs] at hg
    exact (List.mem_filter.1 hg).2

/-- Settles O23: a record begins, and its end by the read-back. -/
theorem recordsAreWritten : Obligations.RecordsAreWritten := by
  intro s ha
  refine ⟨fun hd hw => ⟨_, configRecordWriteStart_begins ha hd hw, rfl, rfl⟩, fun p second hw => ⟨?_, ?_, ?_⟩⟩
  · refine ⟨_, configRecordWriteDone_finishes ha hw true, ?_⟩
    have hs := recordWritten_store s p
    rw [if_pos rfl, hs]
    refine ⟨rfl, rfl, rfl, fun hb => ?_, fun hb => ?_⟩
    · simp only [Store.written, Store.otherWrites, hb]
      exact ⟨rfl, rfl, rfl⟩
    · simp only [Store.written, Store.otherWrites, hb]
      exact ⟨rfl, rfl, rfl⟩
  · rintro rfl
    exact configRecordWriteDone_finishes ha hw false
  · rintro rfl
    refine ⟨_, configRecordWriteDone_finishes ha hw false, ?_⟩
    obtain ⟨hs, hg⟩ := recordFailed_store s
    rw [if_neg (by simp), if_pos rfl]
    refine ⟨?_, ?_, ?_, ?_, ?_, hg⟩
    all_goals rw [hs]

end Sys2Proof.Claims
end

section
/-! SUPPORT. Facets in the store: what a read returns after a change, and folds that touch one entry once. -/

namespace Sys2Proof.Machine

/-- A fold over distinct elements of which one alone changes what `g` reads. -/
theorem foldl_once {α β γ : Type} (g : β → γ) (f : β → α → β) (upd : γ → γ) {k : α} (hk : ∀ b, g (f b k) = upd (g b))
    (ho : ∀ b a, a ≠ k → g (f b a) = g b) : ∀ (l : List α) (b : β), l.Nodup → k ∈ l → g (l.foldl f b) = upd (g b)
  | [], _, _, h => by cases h
  | a :: l, b, hd, h => by
    obtain ⟨hn, hd⟩ := List.nodup_cons.1 hd
    rw [List.foldl_cons]
    by_cases e : a = k
    · subst e
      have hkeep : ∀ (l : List α) (b : β), a ∉ l → g (l.foldl f b) = g b := by
        intro l
        induction l with
        | nil => intro b _; rfl
        | cons x l ih =>
          intro b hx
          obtain ⟨hx1, hx2⟩ := not_or.1 (fun h => hx (List.mem_cons.2 h))
          rw [List.foldl_cons, ih _ hx2, ho _ _ (Ne.symm hx1)]
      rw [hkeep l _ hn, hk]
    · rw [foldl_once g f upd hk ho l _ hd ((List.mem_cons.1 h).resolve_left fun h => e h.symm), ho _ _ e]

theorem State.facet_modFacet (s : State) (c t f : Nat) (g : Facet → Facet) (d u h : Nat) :
    (s.modFacet c t f g).facet d u h = if d = c ∧ 16 * u + h = 16 * t + f then g (s.facet c t f) else s.facet d u h := by
  simp only [State.facet, State.modFacet, State.modStore, sget_smod]
  by_cases hd : d = c
  · subst hd
    simp only [if_true, sget_smod, true_and]
  · simp only [hd, if_false, false_and]

@[simp] theorem State.facet_modFacet_same (s : State) (c t f : Nat) (g : Facet → Facet) :
    (s.modFacet c t f g).facet c t f = g (s.facet c t f) := by
  rw [State.facet_modFacet, if_pos ⟨rfl, rfl⟩]

theorem State.facet_event (s : State) (cls sub chan arg arg2 c t f : Nat) : (s.event cls sub chan arg arg2).facet c t f = s.facet c t f := by
  rw [State.event_rest]; rfl

/-- A refresh falls due at its facet alone. -/
theorem State.facet_refreshDue (s : State) (c t f why d u h : Nat) : (s.refreshDue c t f why).facet d u h =
    if d = c ∧ 16 * u + h = 16 * t + f then { s.facet d u h with due := true } else s.facet d u h := by
  by_cases e : d = c ∧ 16 * u + h = 16 * t + f
  · have hx : s.facet d u h = s.facet c t f := by rw [State.facet, State.facet, e.1, e.2]
    rw [if_pos e, hx, State.refreshDue]
    split
    · next hd => rw [hx, ← hd]
    · rw [State.facet_event, State.facet_modFacet, if_pos e]
  · rw [if_neg e, State.refreshDue]
    split
    · rfl
    · rw [State.facet_event, State.facet_modFacet, if_neg e]

theorem State.refreshDue_therm (s : State) (c t f why : Nat) : (s.refreshDue c t f why).therm = s.therm := by
  rw [State.refreshDue]
  split
  · rfl
  · rw [State.event_rest]; rfl

/-- A facet one second older, the factor being `a`. -/
def Facet.aged (x : Facet) (a : Nat) : Facet :=
  { x with age := x.age + a, due := x.due || decide (refreshAge ≤ x.age + a) }

/-- The ageing of facet `n % 16` of tile `n / 16` of channel `c` by one second. -/
def State.ageFacet (s : State) (c n : Nat) : State :=
  let t := n / 16
  let f := n % 16
  let s := s.modFacet c t f (fun x => { x with age := x.age + arrhenius (s.reading (clusterSensor c t)) })
  if refreshAge ≤ (s.facet c t f).age then s.refreshDue c t f 1 else s

theorem State.ageFacet_therm (s : State) (c n : Nat) : (s.ageFacet c n).therm = s.therm := by
  unfold State.ageFacet
  dsimp only
  split
  · exact State.refreshDue_therm _ _ _ _ _
  · rfl

theorem State.facet_ageFacet (s : State) (c n d u h : Nat) : (s.ageFacet c n).facet d u h =
    if d = c ∧ 16 * u + h = n then (s.facet d u h).aged (arrhenius (s.reading (clusterSensor c (n / 16)))) else s.facet d u h := by
  have hn : 16 * (n / 16) + n % 16 = n := Nat.div_add_mod n 16
  unfold State.ageFacet
  dsimp only
  rw [State.facet_modFacet_same]
  by_cases e : d = c ∧ 16 * u + h = n
  · have hx : s.facet c (n / 16) (n % 16) = s.facet d u h := by rw [State.facet, State.facet, e.1, e.2, hn]
    have he : d = c ∧ 16 * u + h = 16 * (n / 16) + n % 16 := by rwa [hn]
    rw [if_pos e, hx]
    split
    · next hage => rw [State.facet_refreshDue, if_pos he, State.facet_modFacet, if_pos he, hx, Facet.aged, decide_eq_true hage, Bool.or_true]
    · next hage => rw [State.facet_modFacet, if_pos he, hx, Facet.aged, decide_eq_false hage, Bool.or_false]
  · have he : ¬ (d = c ∧ 16 * u + h = 16 * (n / 16) + n % 16) := by rwa [hn]
    rw [if_neg e]
    split
    · rw [State.facet_refreshDue, if_neg he, State.facet_modFacet, if_neg he]
    · rw [State.facet_modFacet, if_neg he]

/-- The ageing of every facet of a channel. -/
def State.ageChan (s : State) (c : Nat) : State := (List.range 6144).foldl (fun s n => s.ageFacet c n) s

theorem execAgeAccrue_eq (s : State) : execAgeAccrue s = onlyIf s.apexUp s
    (if s.nowNs / 10 ^ 9 % 86400 = 0 then ((List.range s.channels).foldl State.ageChan s).laterRecord
      else (List.range s.channels).foldl State.ageChan s) := rfl

/-- A facet and the sensors, of which its ageing is a function. -/
def State.facetAndTherm (s : State) (c t f : Nat) : Facet × Therm := (s.facet c t f, s.therm)

section

variable {d u h : Nat} (hu : u < 384) (hh : h < 16)

include hu hh

theorem State.facet_ageChan_same (s : State) : (s.ageChan d).facetAndTherm d u h =
    ((s.facet d u h).aged (arrhenius (s.reading (9 * d + u / 48))), s.therm) := by
  have hdiv : (16 * u + h) / 16 = u := by omega
  refine foldl_once (State.facetAndTherm · d u h) (fun s n => State.ageFacet s d n)
    (fun x => (x.1.aged (arrhenius ((sget {} x.2.sensors (9 * d + u / 48)).reading)), x.2)) (k := 16 * u + h) (fun s => ?_) (fun s n hn => ?_)
    (List.range 6144) s List.nodup_range (List.mem_range.2 (by omega))
  · simp only [State.facetAndTherm, State.ageFacet_therm, State.facet_ageFacet, and_self, if_true, hdiv]
    rfl
  · simp only [State.facetAndTherm, State.ageFacet_therm, State.facet_ageFacet, true_and]
    rw [if_neg (Ne.symm hn)]

omit hu hh in
theorem State.facet_ageChan_ne (s : State) {c : Nat} (hc : c ≠ d) : (s.ageChan c).facetAndTherm d u h = s.facetAndTherm d u h := by
  refine foldl_keeps (State.facetAndTherm · d u h) (fun s n => State.ageFacet s c n) (fun s n => ?_) (List.range 6144) s
  simp only [State.facetAndTherm, State.ageFacet_therm, State.facet_ageFacet]
  rw [if_neg fun h => hc h.1.symm]

/-- Every facet of a fitted channel ages by the factor of its cluster's reading. -/
theorem State.facet_ageAll (s : State) (hd : d < s.channels) : ((List.range s.channels).foldl State.ageChan s).facet d u h =
    (s.facet d u h).aged (arrhenius (s.reading (9 * d + u / 48))) := by
  have ha := foldl_once (State.facetAndTherm · d u h) State.ageChan
    (fun x => (x.1.aged (arrhenius ((sget {} x.2.sensors (9 * d + u / 48)).reading)), x.2)) (k := d)
    (fun s => State.facet_ageChan_same hu hh s) (fun s c hc => State.facet_ageChan_ne s hc)
    (List.range s.channels) s List.nodup_range (List.mem_range.2 hd)
  exact congrArg Prod.fst ha

end

end Sys2Proof.Machine
end

section
/-! Family 09_weight_programming: ageing, overdue refreshes and read-backs (R171 to R173, R196). -/

namespace Sys2Proof.Machine

theorem State.count_only (s : State) (c code : Nat) (ctx : Option Nat) : CountsOnly c s (s.count c code ctx) := State.countN_only s c code 1 ctx

theorem CountsOnly.facet {c : Nat} {s t : State} (h : CountsOnly c s t) (d u f : Nat) : t.facet d u f = s.facet d u f := by
  rw [h.rest]; rfl

theorem CountsOnly.host {c : Nat} {s t : State} (h : CountsOnly c s t) : t.host = s.host := by
  rw [h.rest]

theorem CountsOnly.tile {c : Nat} {s t : State} (h : CountsOnly c s t) (d n : Nat) : t.tile d n = s.tile d n := by
  unfold State.tile
  by_cases e : d = c
  · subst e; rw [h.own]; rfl
  · rw [h.others d e]

theorem State.tile_event (s : State) (cls sub chan arg arg2 c n : Nat) : (s.event cls sub chan arg arg2).tile c n = s.tile c n := by
  rw [State.event_rest]; rfl

theorem State.host_event (s : State) (cls sub chan arg arg2 : Nat) : (s.event cls sub chan arg arg2).host = s.host := by
  rw [State.event_rest]

/-- A command out of place apart, an event that is in place does what it does. -/
theorem onlyIf_true {s t : State} {b : Bool} (h : b = true) : onlyIf b s t = .next t := congrArg _ (if_pos h)

end Sys2Proof.Machine

namespace Sys2Proof.Claims

open Sys2Proof.Machine

/-- R171, R172: a second of power ages every facet. -/
theorem ageAccrue_ages {s : State} (h : s.apexUp = true) : ∃ t, exec .ageAccrue s = .next t ∧ ∀ c tl f, c < s.channels → tl < 384 → f < 16 →
    t.facet c tl f = (s.facet c tl f).aged (arrhenius (s.reading (9 * c + tl / 48))) := by
  refine ⟨_, (execAgeAccrue_eq s).trans (onlyIf_true h), fun c tl f hc ht hf => ?_⟩
  rw [← State.facet_ageAll ht hf s hc]
  split <;> rfl

/-- R173: a refresh due too long is overdue. -/
theorem refreshOverdue_marks {s : State} {c tl f : Nat} (hf : s.fitted c = true) (hd : (s.facet c tl f).due = true)
    (hm : (s.facet c tl f).st = .mapped) : exec (.refreshOverdue c tl f) s = .next (s.modFacet c tl f (fun x => { x with overdue := true })) := by
  have hg : (s.fitted c && (s.facet c tl f).due && (s.facet c tl f).st == .mapped) = true := by rw [hf, hd, hm]; rfl
  exact onlyIf_true hg

/-- A read-back's tile is idle, and the columns that it found stuck are noted. -/
def readBackNoted (s : State) (c tl f : Nat) (stuck : List Nat) : State :=
  let idle := (s.modTile c tl (fun x => { x with pv := none, st := .idle })).count c 0x3C
  if stuck.isEmpty then idle else idle.modFacet c tl f (fun x => { x with stuck := stuck })

theorem readBackNoted_tile (s : State) (c tl f : Nat) (stuck : List Nat) : ((readBackNoted s c tl f stuck).tile c tl).pv = none := by
  have h : (((s.modTile c tl (fun x => { x with pv := none, st := .idle })).count c 0x3C).tile c tl).pv = none := by
    rw [(State.count_only _ _ _ _).tile, State.tile_modTile, if_pos ⟨rfl, rfl⟩]
  unfold readBackNoted
  dsimp only
  split <;> exact h

theorem readBackNoted_host (s : State) (c tl f : Nat) (stuck : List Nat) : (readBackNoted s c tl f stuck).host = s.host := by
  have h : ((s.modTile c tl (fun x => { x with pv := none, st := .idle })).count c 0x3C).host = s.host := (State.count_only _ _ _ _).host
  unfold readBackNoted
  dsimp only
  split <;> exact h

theorem readBackNoted_facet (s : State) (c tl f : Nat) (stuck : List Nat) : (readBackNoted s c tl f stuck).facet c tl f =
    if stuck = [] then s.facet c tl f else { s.facet c tl f with stuck := stuck } := by
  have h : ((s.modTile c tl (fun x => { x with pv := none, st := .idle })).count c 0x3C).facet c tl f = s.facet c tl f :=
    (State.count_only _ _ _ _).facet _ _ _
  unfold readBackNoted
  dsimp only
  by_cases e : stuck = []
  · rw [if_pos (by simp [e]), if_pos e, h]
  · rw [if_neg (by simp [e]), if_neg e, State.facet_modFacet_same, h]

/-- What the end of a sound read-back, or of one that is not, comes to. -/
def readBackEnds (s : State) (c tl f l : Nat) (stuck : List Nat) (e : FMap) (sound : Bool) (codes : Sparse Nat) : State :=
  let noted := readBackNoted s c tl f stuck
  if e.phys != f || !e.valid then noted
  else if sound then { noted with host := { noted.host with pkgs := noted.host.pkgs ++ [refreshPkg e c tl l f codes] } }
  else ((noted.modFacet c tl f (fun x => { x with needsPackage := true })).event 0x03 3 c (locArg c tl f 0)).count c 0x3D

theorem refreshReadbackDone_ends {s : State} {c tl f l : Nat} {v : Pv} {rd : List (Nat × Int)} (stuck : List Nat) (hf : s.fitted c = true)
    (ht : (s.tile c tl).st = .programming) (hv : (s.tile c tl).pv = some v) (hw : v.why = .readback l) (hvf : v.facet = f)
    (hc : 160 ≤ v.cycle) : exec (.refreshReadbackDone c tl f rd stuck) s = .next
      (readBackEnds s c tl f l stuck (sget {} (s.chan c).arr.map (16 * tl + l))
        (readingsClose rd && checksumsHold (logicalCodes (sget {} s.store.live.chans c).remap tl f (readBack ((s.chan c).arr.readCodes tl f) rd)))
        (logicalCodes (sget {} s.store.live.chans c).remap tl f (readBack ((s.chan c).arr.readCodes tl f) rd))) := by
  have he : exec (.refreshReadbackDone c tl f rd stuck) s = execRefreshReadbackDone c tl f rd stuck s := rfl
  have hg : (s.fitted c && (s.tile c tl).st == .programming && v.facet == f && decide (160 ≤ v.cycle)) = true := by
    rw [hf, ht, hvf, decide_eq_true hc]
    simp
  rw [he, execRefreshReadbackDone, hv]
  dsimp only
  rw [hw]
  exact onlyIf_true hg

/-- What the ends of a read-back leave of tile, facet and host. -/
theorem readBackEnds_says (s : State) (c tl f l : Nat) (stuck : List Nat) (e : FMap) (sound : Bool) (codes : Sparse Nat) :
    ((readBackEnds s c tl f l stuck e sound codes).tile c tl).pv = none ∧
    ((readBackEnds s c tl f l stuck e sound codes).facet c tl f).stuck = (if stuck = [] then (s.facet c tl f).stuck else stuck) ∧
    ((e.phys ≠ f ∨ e.valid = false) → (readBackEnds s c tl f l stuck e sound codes).host = s.host ∧
      ((readBackEnds s c tl f l stuck e sound codes).facet c tl f).needsPackage = (s.facet c tl f).needsPackage) ∧
    (e.phys = f → e.valid = true → (sound = true → (readBackEnds s c tl f l stuck e sound codes).host =
        { s.host with pkgs := s.host.pkgs ++ [refreshPkg e c tl l f codes] }) ∧
      (sound = false → (readBackEnds s c tl f l stuck e sound codes).host = s.host ∧
        ((readBackEnds s c tl f l stuck e sound codes).facet c tl f).needsPackage = true)) := by
  have ht := readBackNoted_tile s c tl f stuck
  have hh := readBackNoted_host s c tl f stuck
  have hf := readBackNoted_facet s c tl f stuck
  have hst : ((readBackNoted s c tl f stuck).facet c tl f).stuck = (if stuck = [] then (s.facet c tl f).stuck else stuck) := by
    rw [hf]; split <;> rfl
  have hnp : ((readBackNoted s c tl f stuck).facet c tl f).needsPackage = (s.facet c tl f).needsPackage := by
    rw [hf]; split <;> rfl
  unfold readBackEnds
  dsimp only
  by_cases he : e.phys = f ∧ e.valid = true
  · obtain ⟨he1, he2⟩ := he
    rw [if_neg (by simp [he1, he2])]
    cases sound with
    | true =>
      refine ⟨ht, hst, fun h => ?_, fun _ _ => ⟨fun _ => ?_, fun h => by cases h⟩⟩
      · simp [he1, he2] at h
      · rw [if_pos rfl, hh]
    | false =>
      have hc := fun u : State => State.count_only u c 0x3D none
      rw [if_neg (by simp), (hc _).tile, (hc _).facet, (hc _).host, State.facet_event, State.tile_event, State.host_event,
        State.facet_modFacet_same]
      refine ⟨ht, hst, fun h => ?_, fun _ _ => ⟨fun h => ?_, fun _ => ⟨hh, rfl⟩⟩⟩
      · simp [he1, he2] at h
      · cases h
  · have hg : (e.phys != f || !e.valid) = true := by
      rw [Bool.or_eq_true, bne_iff_ne, Bool.not_eq_true']
      by_cases h1 : e.phys = f
      · exact .inr (Bool.eq_false_iff.2 fun h2 => he ⟨h1, h2⟩)
      · exact .inl h1
    rw [if_pos hg]
    exact ⟨ht, hst, fun _ => ⟨hh, hnp⟩, fun h1 h2 => absurd ⟨h1, h2⟩ he⟩

/-- Settles O25: the ageing, the mark, and the ends of a read-back. -/
theorem facetsAgeAndAreRefreshed : Obligations.FacetsAgeAndAreRefreshed := by
  intro s
  refine ⟨fun h => ageAccrue_ages h, fun c tl f hf hd hm => ⟨_, refreshOverdue_marks hf hd hm, rfl, State.facet_modFacet_same _ _ _ _ _⟩, ?_⟩
  rintro c tl f l v rd stuck e codes hf ht hv hw hvf hc rfl rfl
  refine ⟨_, refreshReadbackDone_ends stuck hf ht hv hw hvf hc, ?_⟩
  obtain ⟨h1, h2, h3, h4⟩ := readBackEnds_says s c tl f l stuck (sget {} (s.chan c).arr.map (16 * tl + l))
    (readingsClose rd && checksumsHold (logicalCodes (sget {} s.store.live.chans c).remap tl f (readBack ((s.chan c).arr.readCodes tl f) rd)))
    (logicalCodes (sget {} s.store.live.chans c).remap tl f (readBack ((s.chan c).arr.readCodes tl f) rd))
  refine ⟨h1, fun hn => h2.trans (if_neg hn), fun hn => h2.trans (if_pos hn), h3, fun he1 he2 => ?_⟩
  obtain ⟨h5, h6⟩ := h4 he1 he2
  exact ⟨fun hs => h5 (Bool.and_eq_true_iff.2 hs), fun hs => h6 (Bool.eq_false_iff.2 fun h => hs (Bool.and_eq_true_iff.1 h))⟩

end Sys2Proof.Claims
end

section
/-! SUPPORT. Counts in every channel, reports, and changes of the channels alone, as the statements say them. -/

namespace Sys2Proof.Machine

/-- The channels alone are unmarked. -/
def Mask.butChans : Mask := ⟨true, true, true, true, true, true, true, true, true, false, true⟩

/-- What keeps all parts but the channels changes the channels alone. -/
theorem Fr.chansOnly {s t : State} (h : Fr Mask.butChans s t) : t = { s with chans := t.chans } := by
  obtain ⟨pending, variant, pwr, clk, hub, host, store, sec, integ, therm, out, chans, fresh⟩ := t
  obtain ⟨h1, h2, -, h3, h4, h5, h6, h7, h8, h9, h10, h11, -, h12⟩ := h
  obtain rfl := h1
  obtain rfl := h2
  obtain rfl := h3 rfl
  obtain rfl := h4 rfl
  obtain rfl := h5 rfl
  obtain rfl := h6 rfl
  obtain rfl := h7 rfl
  obtain rfl := h8 rfl
  obtain rfl := h9 rfl
  obtain rfl := h10 rfl
  obtain rfl := h11 rfl
  obtain rfl := h12 rfl
  rfl

theorem State.countAll_rest (s : State) (code : Nat) : s.countAll code = { s with chans := (s.countAll code).chans } := State.allChans_rest s _

end Sys2Proof.Machine

namespace Sys2Proof.Claims

open Sys2Proof.Machine

/-- R392: a count of an occurrence in every channel. -/
theorem counted_countAll (s : State) (code : Nat) : Counted s (s.countAll code) code := by
  have hn : s.counters = if s.variant = .mvn4L then 4 else 8 := by
    simp only [State.counters, State.light, beq_iff_eq]
  refine ⟨State.countAll_rest s code, fun c hc => State.chan_allChans_of_le s _ hc, fun c => ?_, fun c hc j => ?_⟩
  · by_cases hc : c < s.channels
    · rw [State.countAll, State.chan_allChans s _ hc]
      exact Chan.count_cnt _ _ _ _ _
    · rw [State.countAll, State.chan_allChans_of_le s _ (Nat.le_of_not_lt hc)]
  · rw [State.countAll, State.chan_allChans s _ hc, Chan.cnt_count, hn]
    simp only [satAdd, Nat.min_comm]

/-- R389: an event, reported or lost. -/
theorem reported_event (s : State) (cls sub chan arg arg2 : Nat) : Reported s (s.event cls sub chan arg arg2) cls sub chan arg arg2 := by
  refine ⟨State.event_rest s cls sub chan arg arg2, fun h0 h => ?_, fun h => ?_⟩
  · rw [State.event_queued s cls sub chan arg arg2 h0 h]
    exact ⟨rfl, rfl, h0⟩
  · rw [State.event_lost s cls sub chan arg arg2 h]
    exact ⟨rfl, rfl⟩

end Sys2Proof.Claims
end

section
/-! Family 14_integrity: in-field tests (R304, R305, R307). -/

namespace Sys2Proof.Machine

/-- The least of a list and a first value is at most each of them. -/
theorem foldl_min_le {α : Type} (g : α → Int) : ∀ (l : List α) (a : Int),
    l.foldl (fun m x => min m (g x)) a ≤ a ∧ ∀ x ∈ l, l.foldl (fun m x => min m (g x)) a ≤ g x
  | [], a => ⟨Int.le_refl a, fun _ h => by cases h⟩
  | y :: l, a => by
    obtain ⟨h1, h2⟩ := foldl_min_le g l (min a (g y))
    refine ⟨h1.trans (Int.min_le_left _ _), fun x hx => ?_⟩
    rcases List.mem_cons.1 hx with rfl | hx
    · exact h1.trans (Int.min_le_right _ _)
    · exact h2 x hx

/-- The least of a list and a first value is one of them. -/
theorem foldl_min_mem {α : Type} (g : α → Int) : ∀ (l : List α) (a : Int),
    l.foldl (fun m x => min m (g x)) a = a ∨ ∃ x ∈ l, l.foldl (fun m x => min m (g x)) a = g x
  | [], _ => .inl rfl
  | y :: l, a => by
    rcases foldl_min_mem g l (min a (g y)) with h | ⟨x, hx, h⟩
    · rcases Int.le_total a (g y) with hle | hle
      · exact .inl (h.trans (Int.min_eq_left hle))
      · exact .inr ⟨y, List.mem_cons_self, h.trans (Int.min_eq_right hle)⟩
    · exact .inr ⟨x, List.mem_cons_of_mem _ hx, h⟩

/-- The coolest of a channel's nine sensors. -/
theorem State.coolest_le (s : State) (c : Nat) {k : Nat} (hk : k < 9) : s.coolest c ≤ s.reading (9 * c + k) := by
  obtain ⟨h1, h2⟩ := foldl_min_le (fun k => s.reading (9 * c + k)) (List.range 8) (s.reading (9 * c + 8))
  by_cases h : k = 8
  · rw [h]; exact h1
  · exact h2 k (List.mem_range.2 (by omega))

theorem State.coolest_mem (s : State) (c : Nat) : ∃ k, k < 9 ∧ s.coolest c = s.reading (9 * c + k) := by
  rcases foldl_min_mem (fun k => s.reading (9 * c + k)) (List.range 8) (s.reading (9 * c + 8)) with h | ⟨k, hk, h⟩
  · exact ⟨8, by omega, h⟩
  · exact ⟨k, Nat.lt_succ_of_lt (List.mem_range.1 hk), h⟩

theorem State.testChecks_rest (s : State) (c : Nat) (x : TestFound) : (s.testChecks c x).1 = { s with chans := (s.testChecks c x).1.chans } :=
  Fr.chansOnly (Fr.testChecks rfl (Fr.refl _ s))

end Sys2Proof.Machine

namespace Sys2Proof.Claims

open Sys2Proof.Machine

section

variable {s : State} {c : Nat} (hf : s.fitted c = true)

include hf

theorem testDue_due (ha : s.apexUp = true) (hp : (s.chan c).test.phase = .notDue) (hd : s.testDueAt c ≤ s.nowNs) :
    exec (.testDue c) s = .next (s.modChan c (fun k => { k with test := { k.test with phase := .due, waited := 0, shedding := false } })) := by
  have hg : (s.apexUp && s.fitted c && (s.chan c).test.phase == .notDue && decide (s.testDueAt c ≤ s.nowNs)) = true := by
    rw [ha, hf, hp, decide_eq_true hd]; rfl
  exact onlyIf_true hg

theorem testShed_sheds (hp : (s.chan c).test.phase = .due) (hw : 1000 ≤ (s.chan c).test.waited) :
    exec (.testShed c) s = .next (s.modChan c (fun k => { k with test := { k.test with shedding := true } })) := by
  have hg : (s.fitted c && (s.chan c).test.phase == .due && decide (1000 ≤ (s.chan c).test.waited)) = true := by
    rw [hf, hp, decide_eq_true hw]; rfl
  exact onlyIf_true hg

theorem testHeatingEnd_cools (hp : (s.chan c).test.phase = .running) (hd : s.heatDone c = true) :
    exec (.testHeatingEnd c) s = .next (s.modChan c (fun k => { k with test := { k.test with
      phase := .cooling, heated := s.nowNs, hot := decide (1360 ≤ s.coolest c), temp := s.coolest c } })) := by
  have hg : (s.fitted c && (s.chan c).test.phase == .running && s.heatDone c) = true := by
    rw [hf, hp, hd]; rfl
  exact onlyIf_true hg

theorem testVerdict_passes {x : TestFound} (hp : (s.chan c).test.phase = .cooling) (hd : (s.chan c).test.heated + 1990000000 ≤ s.nowNs)
    (hs : x.scan = true) (hm : x.march = true) (hx : ∀ d ∈ x.dacs, d.code = d.read) (hc : (s.testChecks c x).2 = false) :
    exec (.testVerdict c x) s = .next (((s.testChecks c x).1.event 0x06 1 c 0 (code 16 (s.chan c).test.temp)).modChan c
      (fun k => { k with test := { k.test with phase := .passed } })) := by
  have hg : (s.fitted c && (s.chan c).test.phase == .cooling && decide ((s.chan c).test.heated + 1990000000 ≤ s.nowNs)) = true := by
    rw [hf, hp, decide_eq_true hd]; rfl
  have hdac : x.dacs.any (fun d => d.code != d.read) = false :=
    List.any_eq_false.2 fun d h => by simp [hx d h]
  have he : exec (.testVerdict c x) s = execTestVerdict c x s := rfl
  rw [he, execTestVerdict]
  dsimp only
  rw [hs, hm, hdac, hc]
  exact onlyIf_true hg

end

/-- Settles O27: the four phases. -/
theorem testsRunTheirPhases : Obligations.TestsRunTheirPhases := by
  intro s c hf
  refine ⟨fun ha hp hd => ⟨_, testDue_due hf ha hp hd, inChan_modChan _ _ _⟩, fun hp hw => ⟨_, testShed_sheds hf hp hw, inChan_modChan _ _ _⟩,
    fun hp hd => ⟨_, s.coolest c, testHeatingEnd_cools hf hp hd, inChan_modChan _ _ _, fun k hk => s.coolest_le c hk, s.coolest_mem c⟩,
    fun x hp hd hs hm hx hc => ⟨_, _, _, testVerdict_passes hf hp hd hs hm hx hc, s.testChecks_rest c x, rfl, reported_event _ _ _ _ _ _,
      inChan_modChan _ _ _⟩⟩

end Sys2Proof.Claims
end

section
/-! Family 16_power_thermal: sensors, thermal levels, the power meter and the throttle (R336 to R339, R343 to R345). -/

namespace Sys2Proof.Machine

/-- The sensors alone are marked. -/
def Mask.therm' : Mask := { Mask.none with therm := true }

theorem State.sensor_setSensor (s : State) (n : Nat) (x : Sensor) (m : Nat) :
    (s.setSensor n x).sensor m = if m = n then x else s.sensor m := sget_sput _ _ _ _ _

theorem State.therm_drain (s : State) (cause chan : Nat) : (s.drain cause chan).therm = s.therm :=
  (Fr.drain (m := Mask.therm') rfl rfl rfl rfl rfl rfl rfl (Fr.refl _ s)).therm rfl

theorem State.therm_event (s : State) (cls sub chan arg arg2 : Nat) : (s.event cls sub chan arg arg2).therm = s.therm := by
  rw [State.event_rest]

/-- Using a reading changes of the sensors the one that it came from. -/
theorem State.therm_useReading (s : State) (n : Nat) (r : Int) :
    (s.useReading n r).therm = (s.setSensor n { (s.sensor n).paced r with reading := r, sampled := true }).therm := by
  have hd : ∀ (p : Prop) [Decidable p] (v : State), (if p then v.drain 0x09 0 else v).therm = v.therm := fun p _ v => by
    split
    · exact State.therm_drain _ _ _
    · rfl
  unfold State.useReading
  dsimp only
  rw [hd]
  split
  all_goals
    split
    · exact State.therm_event _ _ _ _ _ _
    · rfl

theorem State.sensor_useReading (s : State) (n : Nat) (r : Int) :
    (s.useReading n r).sensor n = { (s.sensor n).paced r with reading := r, sampled := true } := by
  rw [State.sensor, State.therm_useReading]
  exact (State.sensor_setSensor _ _ _ _).trans (if_pos rfl)

theorem Sensor.paced_broken (x : Sensor) (r : Int) : (x.paced r).broken = x.broken := by
  unfold Sensor.paced
  dsimp only
  repeat' split
  all_goals rfl

/-- The channels fitted are a matter of the variant. -/
theorem State.channels_congr {s t : State} (h : t.variant = s.variant) : t.channels = s.channels := by
  unfold State.channels
  rw [h]

/-- A sensor declared broken, and no other sensor changed. -/
theorem State.therm_breakSensor (s : State) (n : Nat) : (s.breakSensor n).therm = (s.setSensor n { s.sensor n with broken := true }).therm := by
  unfold State.breakSensor
  dsimp only
  split
  · rw [(State.count_only _ _ _ _).rest]
    exact State.therm_event _ _ _ _ _ _
  · exact State.therm_event _ _ _ _ _ _

theorem State.variant_breakSensor (s : State) (n : Nat) : (s.breakSensor n).variant = s.variant := by
  unfold State.breakSensor
  dsimp only
  split
  · rw [(State.count_only _ _ _ _).rest, State.event_rest]
    rfl
  · rw [State.event_rest]
    rfl

theorem State.sensor_breakSensor (s : State) (n m : Nat) :
    (s.breakSensor n).sensor m = if m = n then { s.sensor n with broken := true } else s.sensor m := by
  rw [State.sensor, State.therm_breakSensor]
  exact State.sensor_setSensor _ _ _ _

/-- No sensor is its own neighbour (R343). -/
theorem State.not_mem_neighbours (s : State) (n : Nat) : n ∉ s.neighbours n := by
  unfold State.neighbours
  split
  · simp only [List.mem_cons, List.mem_map, List.mem_range, not_or, not_exists, not_and]
    refine ⟨by omega, fun c hc => ?_⟩
    have hch : s.channels ≤ 8 := by unfold State.channels; split <;> omega
    omega
  · split
    · simp only [List.mem_map, List.mem_range, not_exists, not_and]
      intro k hk
      omega
    · simp only [List.mem_append, List.mem_singleton, not_or]
      refine ⟨⟨?_, ?_⟩, by omega⟩
      · split
        · simp
        · simp only [List.mem_singleton]; omega
      · split
        · simp
        · simp only [List.mem_singleton]; omega

/-- The sound readings of a list are those of sensors that stand. -/
theorem State.sound_congr {s t : State} (hv : t.variant = s.variant) (l : List Nat) (h : ∀ n ∈ l, t.sensor n = s.sensor n) : t.sound l = s.sound l := by
  have hfit : ∀ n, t.sensorFitted n = s.sensorFitted n := fun n => by
    simp only [State.sensorFitted, State.channels_congr hv]
  unfold State.sound
  rw [List.filter_congr (q := fun n => s.sensorFitted n && (s.sensor n).sampled && !(s.sensor n).broken) (fun n hn => by rw [hfit, h n hn])]
  exact List.map_congr_left fun n hn => congrArg Sensor.reading (h n (List.mem_filter.1 hn).1)

theorem State.sound_breakSensor (s : State) (n : Nat) :
    (s.breakSensor n).sound ((s.breakSensor n).neighbours n) = s.sound (s.neighbours n) := by
  have hn : (s.breakSensor n).neighbours n = s.neighbours n := by
    simp only [State.neighbours, State.channels_congr (State.variant_breakSensor s n)]
  rw [hn]
  refine State.sound_congr (State.variant_breakSensor s n) _ fun m hm => ?_
  rw [State.sensor_breakSensor, if_neg]
  rintro rfl
  exact State.not_mem_neighbours s m hm

/-- Where a broken sensor has sound neighbours with an even sum, half of it stands for the sample (R344). -/
theorem State.substitute_even (s : State) (n : Nat) (hl : s.sound (s.neighbours n) ≠ []) (he : median2 (s.sound (s.neighbours n)) % 2 = 0) :
    s.substitute n = (median2 (s.sound (s.neighbours n)) / 2, s) := by
  rw [State.substitute, if_pos hl]
  exact if_pos he

end Sys2Proof.Machine

namespace Sys2Proof.Claims

open Sys2Proof.Machine

section

variable {s : State} (ha : s.apexUp = true)

include ha

/-- A sample within 8 °C of its neighbours comes into use. -/
theorem sensorSample_used {n : Nat} {r : Int} (hf : s.sensorFitted n = true) (hb : (s.sensor n).broken = false) (hd : s.departs n r = false) :
    exec (.sensorSample n r) s = .next (s.useReading n r) := by
  have he : exec (.sensorSample n r) s = execSensorSample n r s := rfl
  have hg : (s.apexUp && s.sensorFitted n) = true := by rw [ha, hf]; rfl
  rw [he, execSensorSample, hd, Bool.and_false, if_neg Bool.false_ne_true, hb, if_neg Bool.false_ne_true]
  exact onlyIf_true hg

/-- A sample further off is that of a broken sensor. -/
theorem sensorSample_breaks {n : Nat} {r : Int} (hf : s.sensorFitted n = true) (hb : (s.sensor n).broken = false) (hd : s.departs n r = true)
    (he : median2 (s.sound (s.neighbours n)) % 2 = 0) :
    exec (.sensorSample n r) s = .next ((s.breakSensor n).useReading n (median2 (s.sound (s.neighbours n)) / 2)) := by
  have hx : exec (.sensorSample n r) s = execSensorSample n r s := rfl
  have hg : (s.apexUp && s.sensorFitted n) = true := by rw [ha, hf]; rfl
  have hl : s.sound (s.neighbours n) ≠ [] := by
    simp only [State.departs, Bool.and_eq_true, bne_iff_ne] at hd
    exact hd.1
  have hbr : ((s.breakSensor n).sensor n).broken = true := by rw [State.sensor_breakSensor, if_pos rfl]
  have hs := State.sound_breakSensor s n
  rw [hx, execSensorSample, hd, hb, show (!false && true) = true from rfl, if_pos rfl, hbr, if_pos rfl, State.substitute_even _ _ (by rw [hs]; exact hl) (by rw [hs]; exact he), hs]
  exact onlyIf_true hg

theorem thermalLevelStep_steps {c : Nat} (hf : s.fitted c = true) {t : State} (ht : (if s.hotAt c then
      (if (s.chan c).thermal < 11 then (s.modChan c (fun k => { k with thermal := (s.chan c).thermal + 1 })).countAll 0x82 else s)
    else if s.coolAt c then s.modChan c (fun k => { k with thermal := (s.chan c).thermal - 1 }) else s) = t) :
    exec (.thermalLevelStep c) s = .next t := by
  have hg : (s.apexUp && s.fitted c) = true := by rw [ha, hf]; rfl
  rw [← ht]
  exact onlyIf_true hg

end

/-- A change of a channel by a value that stood in it. -/
theorem inChan_modChan_const (s : State) (c : Nat) {f g : Chan → Chan} (h : f (s.chan c) = g (s.chan c)) : InChan s (s.modChan c f) c g :=
  ⟨rfl, fun _ hd => State.chan_modChan_ne _ _ hd, by rw [State.chan_modChan_same, h]⟩

/-- Settles O28: a sample used or its sensor broken, and the four cases of a thermal step. -/
theorem sensorsAndThermalLevels : Obligations.SensorsAndThermalLevels := by
  intro s ha
  refine ⟨fun n r hf hb => ⟨fun hd => ⟨_, sensorSample_used ha hf hb hd, State.sensor_useReading s n r⟩, fun hd he => ?_⟩,
    fun c hf => ⟨fun hh hl => ?_, fun hh hl => ?_, fun hh hc => ?_, fun hh hc => ?_⟩⟩
  · refine ⟨_, sensorSample_breaks ha hf hb hd he, ?_, ?_⟩
    · rw [State.sensor_useReading, State.sensor_breakSensor, if_pos rfl]
      exact Sensor.paced_broken _ _
    · rw [State.sensor_useReading]
  · refine ⟨_, _, thermalLevelStep_steps ha hf ((if_pos hh).trans (if_pos hl)), inChan_modChan_const s c rfl, counted_countAll _ _⟩
  · exact thermalLevelStep_steps ha hf ((if_pos hh).trans (if_neg (by omega)))
  · exact ⟨_, thermalLevelStep_steps ha hf ((if_neg (by simp [hh])).trans (if_pos hc)), inChan_modChan_const s c rfl⟩
  · exact thermalLevelStep_steps ha hf ((if_neg (by simp [hh])).trans (if_neg (by simp [hc])))

end Sys2Proof.Claims
end

section
/-! Family 16_power_thermal: the power meter and the throttle (R336 to R339). -/

namespace Sys2Proof.Machine

theorem Therm.window_eq (x : Therm) (n : Nat) : x.window n = ((x.samples.take n).sum, (x.samples.take n).length) := by
  rw [Therm.window, List.sum_eq_foldl]

section

variable (x : Therm) {cap a na b nb : Nat} {hundredth fast slow low : Bool} (ha : (a, na) = x.window 100) (hb : (b, nb) = x.window 10000)
  (hfast : fast = decide (11 * (100 * cap * na) < 10 * a)) (hslow : slow = decide (100 * cap * nb < b))
  (hlow : low = decide (b + 200 * nb ≤ 100 * cap * nb))

include ha hb hfast hslow hlow

/-- The level after a control step, in words of the averages' comparisons (R337, R338). -/
theorem Therm.control_level_eq_ite : (x.control cap hundredth).level =
    (if (fast = true ∨ (hundredth = true ∧ slow = true)) ∧ x.level < 11 then x.level + 1
      else if hundredth = true ∧ low = true ∧ x.prevLow = true ∧ x.rose = false ∧ fast = false ∧ slow = false then x.level - 1
      else x.level) := by
  have hrise : (decide ((fast || hundredth && slow) && decide (x.level < 11)) = true) ↔
      (fast = true ∨ (hundredth = true ∧ slow = true)) ∧ x.level < 11 := by simp
  have hfall : (hundredth && low && x.prevLow && !x.rose && !(fast || hundredth && slow)) = true ↔
      hundredth = true ∧ low = true ∧ x.prevLow = true ∧ x.rose = false ∧ fast = false ∧ slow = false := by
    cases hundredth <;> simp [and_assoc]
  simp only [Therm.control, ← ha, ← hb, ← hfast, ← hslow, ← hlow]
  refine ite_congr (by simp) (fun _ => rfl) fun _ => ite_congr (propext hfall) (fun _ => rfl) fun _ => rfl

/-- cap_not_held after a control step (R339). -/
theorem Therm.control_capNotHeld : (x.control cap hundredth).capNotHeld = true ↔
    (slow = true ∧ (x.control cap hundredth).level = 11 ∧ 99 ≤ x.above11) ∨ (x.capNotHeld = true ∧ ¬ (slow = false ∧ 99 ≤ x.under)) := by
  have hx : (x.control cap hundredth).capNotHeld =
      if 100 ≤ (if slow && (x.control cap hundredth).level == 11 then x.above11 + 1 else 0) then true
      else if 100 ≤ (if slow then 0 else x.under + 1) then false else x.capNotHeld := by
    simp only [Therm.control, ← ha, ← hb, ← hfast, ← hslow, ← hlow]
  rw [hx]
  by_cases h11 : (x.control cap hundredth).level = 11
  · cases slow <;> by_cases h : 99 ≤ x.above11 <;> by_cases h' : 99 ≤ x.under <;> simp [h11, h, h']
  · cases slow <;> by_cases h' : 99 ≤ x.under <;> simp [h11, h']

end

/-- A control step keeps samples and sensors. -/
theorem Therm.control_keeps (x : Therm) (cap : Nat) (hundredth : Bool) :
    (x.control cap hundredth).samples = x.samples ∧ (x.control cap hundredth).sensors = x.sensors := ⟨rfl, rfl⟩

end Sys2Proof.Machine

namespace Sys2Proof.Claims

open Sys2Proof.Machine

/-- A control step at its time: the settings and the throttle as `Therm.control` leaves them. -/
theorem controlStep_holds {s : State} (ha : s.apexUp = true) (hm : s.clk.nanos.toNat % 100000 = 0)
    (hs : s.therm.step ≠ s.clk.nanos.toNat / 100000 + 1) : ∃ t, exec .controlStep s = .next t ∧
      t.hub.cap = s.hub.capNext.getD s.hub.cap ∧ t.hub.capNext = none ∧ t.therm =
        { s.therm.control (s.hub.capNext.getD s.hub.cap) (s.clk.nanos.toNat / 100000 % 100 == 0) with step := s.clk.nanos.toNat / 100000 + 1 } := by
  have he : exec .controlStep s = execControlStep s := rfl
  have hg : (s.apexUp && s.nowNs % 100000 == 0 && s.therm.step != s.nowNs / 100000 + 1) = true := by
    simp only [State.nowNs, ha, hm, Bool.true_and, beq_self_eq_true, bne_iff_ne]
    exact hs
  rw [he, execControlStep]
  refine ⟨_, onlyIf_true hg, ?_⟩
  have hev : ∀ (p : Prop) [Decidable p] (u : State), ((if p then u.event 0x04 1 0 else u).hub.cap = u.hub.cap) ∧
      ((if p then u.event 0x04 1 0 else u).hub.capNext = u.hub.capNext) ∧ ((if p then u.event 0x04 1 0 else u).therm = u.therm) := fun p _ u => by
    split
    · rw [State.event_rest]
      exact ⟨rfl, rfl, rfl⟩
    · exact ⟨rfl, rfl, rfl⟩
  have hct : ∀ (p q : Prop) [Decidable p] [Decidable q] (u : State),
      ((if p then u.countAll 0x80 else if q then u.countAll 0x81 else u).hub = u.hub) ∧
      ((if p then u.countAll 0x80 else if q then u.countAll 0x81 else u).therm = u.therm) := fun p q _ _ u => by
    repeat' split
    · rw [State.countAll_rest]
      exact ⟨rfl, rfl⟩
    · rw [State.countAll_rest]
      exact ⟨rfl, rfl⟩
    · exact ⟨rfl, rfl⟩
  dsimp only
  rw [(hev _ _).1, (hev _ _).2.1, (hev _ _).2.2, (hct _ _ _).1, (hct _ _ _).2]
  exact ⟨rfl, rfl, rfl⟩

/-- Settles O29: the samples kept, and the control step's level and cap_not_held. -/
theorem powerIsMeteredAndHeld : Obligations.PowerIsMeteredAndHeld := by
  intro s ha
  refine ⟨fun p => onlyIf_true ha, ?_⟩
  rintro hm hs cap a na b nb hundredth fast slow low rfl rfl rfl rfl rfl rfl hfast hslow hlow
  obtain ⟨t, hx, hc, hn, ht⟩ := controlStep_holds ha hm hs
  have hl := Therm.control_level_eq_ite s.therm (hundredth := s.clk.nanos.toNat / 100000 % 100 == 0)
    (s.therm.window_eq 100).symm (s.therm.window_eq 10000).symm hfast hslow hlow
  have hh := Therm.control_capNotHeld s.therm (hundredth := s.clk.nanos.toNat / 100000 % 100 == 0)
    (s.therm.window_eq 100).symm (s.therm.window_eq 10000).symm hfast hslow hlow
  refine ⟨t, hx, hc, hn, ?_⟩
  rw [ht]
  exact ⟨rfl, rfl, rfl, hl, hh⟩

end Sys2Proof.Claims
end

section
/-! Family 17_module_hardware: supply, pins, boot and link; power lost and service begun (R360 to R364). -/

namespace Sys2Proof.Machine

/-- An event out of its place changes nothing (notes/assumptions/4). -/
theorem onlyIf_false {s t : State} {b : Bool} (h : b = false) : onlyIf b s t = .next s := by
  rw [onlyIf, if_neg (by simp [h])]

/-- The modes of R243. -/
theorem linkModeOk_iff (m : LinkMode) : linkModeOk m = true ↔ m.gen ∈ [4, 5, 6] ∧ m.width ∈ [1, 2, 4] := by
  simp only [linkModeOk, Bool.and_eq_true, Bool.or_eq_true, beq_iff_eq, List.mem_cons, List.not_mem_nil, or_false]
  omega

theorem Boot.resets_iff (b : Boot) : b.resets = true ↔ b = .booted ∨ b = .failed := by
  cases b <;> decide

/-- Entries put one by one by their keys. -/
theorem sget_foldl_sput {α : Type} [DecidableEq α] (d : α) (f : Nat → α) : ∀ (l : List Nat) (m : Sparse α) (k : Nat),
    sget d (l.foldl (fun m c => sput d m c (f c)) m) k = if k ∈ l then f k else sget d m k
  | [], m, k => by rw [if_neg (by simp)]; rfl
  | c :: l, m, k => by
    rw [List.foldl_cons, sget_foldl_sput d f l, sget_sput]
    by_cases hl : k ∈ l
    · rw [if_pos hl, if_pos (List.mem_cons_of_mem _ hl)]
    · rw [if_neg hl]
      by_cases hc : k = c
      · rw [if_pos hc, if_pos (by simp [hc]), hc]
      · rw [if_neg hc, if_neg (by simp [hc, hl])]

/-- A fitted channel of a module that lost power keeps its arrays' codes. -/
theorem State.chan_powerDown (s : State) (sup : Supply) {c : Nat} (h : c < s.channels) :
    (s.powerDown sup).chan c = { arr := { codes := (s.chan c).arr.codes } } := by
  refine (sget_foldl_sput ({} : Chan) (fun c => { arr := { codes := (s.chan c).arr.codes } }) (List.range s.channels) [] c).trans ?_
  rw [if_pos (List.mem_range.2 h)]

theorem State.chan_powerDown_absent (s : State) (sup : Supply) {c : Nat} (h : s.channels ≤ c) : (s.powerDown sup).chan c = {} := by
  refine (sget_foldl_sput ({} : Chan) (fun c => { arr := { codes := (s.chan c).arr.codes } }) (List.range s.channels) [] c).trans ?_
  rw [if_neg (by rw [List.mem_range]; omega)]
  rfl

end Sys2Proof.Machine

namespace Sys2Proof.Claims

open Sys2Proof.Machine

/-! ### The supply, the pin, the boot and the link -/

section

variable {s : State}

/-- R243: a link that trains in place. -/
theorem linkTrained_trains {m : LinkMode} (ha : s.apexUp = true) (hb : s.pwr.boot ≠ .warm) (hp : s.pwr.perstLow = false) (hl : s.pwr.link = none) :
    exec (.linkTrained m) s = .next (if linkModeOk m then { s with pwr := { s.pwr with link := some m } }
      else ({ s with pwr := { s.pwr with link := some m } } : State).event 0x05 3 0 (pack [(15, 8, m.gen), (7, 0, m.width)])) := by
  have hg : (s.apexUp && s.pwr.boot != .warm && !s.pwr.perstLow && s.pwr.link.isNone) = true := by
    rw [ha, hp, hl, bne_iff_ne.2 hb]; rfl
  exact onlyIf_true hg

theorem perstAssert_asserts (hp : s.pwr.perstLow = false) : exec .perstAssert s = .next
    (if s.pwr.supply == .on && s.pwr.boot.resets then { s with pwr := { s.pwr with perstLow := true, window := true } }
     else { s with pwr := { s.pwr with perstLow := true, link := none } }) := by
  have hg : (!s.pwr.perstLow) = true := by rw [hp]; rfl
  exact onlyIf_true hg

theorem supplyAndPins_move (s : State) :
    (s.pwr.supply = .off → exec .powerUp s = .next { s with pwr := { s.pwr with supply := .rising } }) ∧
    (s.pwr.supply = .on → s.pwr.band ≠ .normal → exec .supplyReturnToRange s = .next { s with pwr := { s.pwr with band := .normal } }) ∧
    (s.pwr.supply = .latched → exec .supplyBelow1V s = .next { s with pwr := { s.pwr with supply := .off } }) ∧
    (s.pwr.perstLow = false → s.pwr.supply = .on → (s.pwr.boot = .booted ∨ s.pwr.boot = .failed) →
      exec .perstAssert s = .next { s with pwr := { s.pwr with perstLow := true, window := true } }) ∧
    (s.pwr.perstLow = false → ¬ (s.pwr.supply = .on ∧ (s.pwr.boot = .booted ∨ s.pwr.boot = .failed)) →
      exec .perstAssert s = .next { s with pwr := { s.pwr with perstLow := true, link := none } }) ∧
    (∀ l, s.pwr.perstLow = true → s.pwr.window = false → ¬ (s.pwr.supply = .on ∧ s.pwr.boot = .warm) →
      exec (.perstRelease l) s = .next { s with pwr := { s.pwr with perstLow := false } }) ∧
    (s.pwr.supply = .on → (s.pwr.boot = .started ∨ s.pwr.boot = .warm) →
      exec .bootTimeout s = .next { s with pwr := { s.pwr with boot := .failed, failedBoots := s.pwr.failedBoots + 1 } }) ∧
    (∀ m : LinkMode, s.apexUp = true → s.pwr.boot ≠ .warm → s.pwr.perstLow = false → s.pwr.link = none → m.gen ∈ [4, 5, 6] →
      m.width ∈ [1, 2, 4] → exec (.linkTrained m) s = .next { s with pwr := { s.pwr with link := some m } }) := by
  refine ⟨fun h => onlyIf_true (beq_iff_eq.2 h), fun h hb => onlyIf_true ?_, fun h => onlyIf_true (beq_iff_eq.2 h), fun hp h hb => ?_,
    fun hp h => ?_, fun l hp hw h => ?_, fun h hb => onlyIf_true ?_, fun m ha hb hp hl hg hw => ?_⟩
  · rw [h, bne_iff_ne.2 hb]; rfl
  · rw [perstAssert_asserts hp, h, (Boot.resets_iff _).2 hb]; rfl
  · rw [perstAssert_asserts hp, if_neg]
    rwa [Bool.and_eq_true, beq_iff_eq, Boot.resets_iff]
  · have hg : (s.pwr.perstLow && !s.pwr.window) = true := by rw [hp, hw]; rfl
    have hn : ¬ (s.pwr.supply == .on && s.pwr.boot == .warm) = true := by rwa [Bool.and_eq_true, beq_iff_eq, beq_iff_eq]
    exact (onlyIf_true hg).trans (congrArg _ (if_neg hn))
  · rw [h]; rcases hb with hb | hb <;> rw [hb] <;> rfl
  · rw [linkTrained_trains ha hb hp hl, if_pos ((linkModeOk_iff m).2 ⟨hg, hw⟩)]

end

/-- Settles O30: the moves, and the reports of those that are reported. -/
theorem supplyAndPinsMoveAndReport : Obligations.SupplyAndPinsMoveAndReport := by
  refine ⟨supplyAndPins_move, fun s => ⟨fun h hb => ?_, fun h hb => ?_, fun h hb => ?_, fun h => ?_, fun m ha hb hp hl hm => ?_⟩⟩
  · have hg : (s.pwr.supply == .on && s.pwr.band == .normal) = true := by rw [h, hb]; rfl
    exact ⟨⟨_, onlyIf_true hg, reported_event _ _ _ _ _ _⟩, ⟨_, onlyIf_true hg, reported_event _ _ _ _ _ _⟩⟩
  · have hg : (s.pwr.supply == .on && s.pwr.band != .normal) = true := by rw [h, hb]; rfl
    refine ⟨_, onlyIf_true hg, ?_⟩
    rw [hb]
    exact counted_countAll _ _
  · have hg : (s.pwr.supply == .on && s.pwr.band != .normal) = true := by rw [h, hb]; rfl
    refine ⟨_, onlyIf_true hg, ?_⟩
    rw [hb]
    exact counted_countAll _ _
  · exact ⟨_, onlyIf_true h, counted_countAll _ _⟩
  · have harg : pack [(15, 8, m.gen), (7, 0, m.width)] = m.gen % 256 * 256 + m.width % 256 := by
      rw [pack_eq_packSum]
      simp [packSum]
    refine ⟨_, linkTrained_trains ha hb hp hl, ?_⟩
    rw [if_neg (fun h => hm ((linkModeOk_iff m).1 h)), harg]
    exact reported_event _ _ _ _ _ _

/-- Settles O31: both ways of losing power leave `State.powerDown`. -/
theorem powerLossKeepsArraysAndStore : Obligations.PowerLossKeepsArraysAndStore := by
  intro s h e he
  have hg : (s.pwr.supply == .on || s.pwr.supply == .rising) = true := by rcases h with h | h <;> rw [h] <;> rfl
  simp only [List.mem_cons, List.not_mem_nil, or_false] at he
  rcases he with rfl | rfl
  all_goals exact ⟨_, onlyIf_true hg, rfl, fun c hc => State.chan_powerDown s _ hc, fun c hc => State.chan_powerDown_absent s _ hc⟩

/-! ### Service -/

theorem coolEnough_iff (s : State) : s.coolEnough = true ↔ ∀ n, n < 74 → s.sensorFitted n = true → s.reading n ≤ 95 * 16 := by
  simp only [State.coolEnough, List.all_eq_true, List.mem_range, Bool.or_eq_true, Bool.not_eq_true', decide_eq_true_eq]
  refine forall_congr' fun n => forall_congr' fun _ => ?_
  cases s.sensorFitted n <;> simp

/-- No condition of R363 fails where they hold. -/
theorem failedConditions_nil_iff (s : State) : s.failedConditions.isEmpty = true ↔ s.pwr.recordOk = true ∧ s.pwr.keyOk = true ∧
    s.pwr.trimsOk = true ∧ s.pwr.surveyOk = true ∧ (s.integ.thermal = true → ∀ n, n < 74 → s.sensorFitted n = true → s.reading n ≤ 95 * 16) := by
  have hone : ∀ (b : Bool) (n : Nat), (if b = true then ([] : List Nat) else [n]) = [] ↔ b = true := fun b n => by cases b <;> simp
  have hlast : ∀ (b : Bool) (n : Nat), (if b = true then [n] else ([] : List Nat)) = [] ↔ b = false := fun b n => by cases b <;> simp
  have hth : (s.integ.thermal && !s.coolEnough) = false ↔ (s.integ.thermal = true → s.coolEnough = true) := by
    cases s.integ.thermal <;> cases s.coolEnough <;> simp
  rw [List.isEmpty_iff, State.failedConditions]
  simp only [List.append_eq_nil_iff, hone, hlast, hth, coolEnough_iff, and_assoc]

/-- R363: the module enters service where every condition holds. -/
theorem entryOk_iff (s : State) : s.entryOk = true ↔ s.integ.svc = .starting ∧ EntryConditions s := by
  cases hl : s.pwr.link with
  | none => simp only [State.entryOk, EntryConditions, hl, Bool.and_false, Bool.false_eq_true, reduceCtorEq, false_and, exists_false, and_false]
  | some m =>
    simp only [State.entryOk, EntryConditions, hl, Bool.and_eq_true, beq_iff_eq, Bool.not_eq_true', failedConditions_nil_iff, linkModeOk_iff,
      Option.some.injEq, exists_eq_left']
    tauto

/-- The service entered: the service state, the rotations, and of the store at most the version floor. -/
theorem enter_rest (s : State) : s.enter = { s with integ := { s.integ with svc := .inService }, chans := s.enter.chans, store := s.enter.store } := by
  unfold State.enter
  dsimp only
  split
  · rw [State.allChans_rest]
    rfl
  · rw [State.allChans_rest]

theorem chan_enter (s : State) {c : Nat} (h : c < s.channels) : s.enter.chan c = { s.chan c with
    check := { (s.chan c).check with i := 0, list := [], failed := false, isRotation := false } } := by
  have hc := State.chan_allChans { s with integ := { s.integ with svc := .inService } }
    (fun _ k => { k with check := { k.check with i := 0, list := [], failed := false, isRotation := false } }) h
  unfold State.enter
  dsimp only
  split
  · exact hc
  · exact hc

/-- Settles O33: `State.entryOk` is the conditions of R363, and what an entry leaves. -/
theorem serviceBeginsWhereAllConditionsHold : Obligations.ServiceBeginsWhereAllConditionsHold := by
  intro s
  refine ⟨fun hs he => ⟨_, onlyIf_true ((entryOk_iff s).2 ⟨hs, he⟩), ?_, ?_, fun c hc => chan_enter s hc⟩, fun h => onlyIf_false ?_⟩
  · rw [enter_rest]
  · rw [enter_rest]
  · exact Bool.eq_false_iff.2 fun he => h ((entryOk_iff s).1 he)

end Sys2Proof.Claims
end

section
/-! SUPPORT. What loading trims, surveying, verifying firmware and the boot's end leave of power and of the apex's registers. -/

namespace Sys2Proof.Machine

/-- From `s` to `t` the start-up's checks may have failed and events may have been reported; power and the apex's registers stand otherwise. -/
structure KeepsStart (s t : State) : Prop where
  pwr : t.pwr = { s.pwr with trimsOk := t.pwr.trimsOk, surveyOk := t.pwr.surveyOk }
  hub : t.hub = { s.hub with events := t.hub.events, evSeq := t.hub.evSeq, evLost := t.hub.evLost }

theorem KeepsStart.refl (s : State) : KeepsStart s s := ⟨rfl, rfl⟩

theorem KeepsStart.trans {s t u : State} (h : KeepsStart s t) (k : KeepsStart t u) : KeepsStart s u := by
  refine ⟨?_, ?_⟩
  · rw [k.pwr, h.pwr]
  · rw [k.hub, h.hub]

theorem KeepsStart.of_same {s t : State} (hp : t.pwr = s.pwr) (hh : t.hub = s.hub) : KeepsStart s t := ⟨by rw [hp], by rw [hh]⟩

theorem KeepsStart.foldl {α : Type} {f : State → α → State} (h : ∀ s a, KeepsStart s (f s a)) :
    ∀ (l : List α) (s : State), KeepsStart s (l.foldl f s)
  | [], s => KeepsStart.refl s
  | a :: l, s => (h s a).trans (KeepsStart.foldl h l _)

theorem KeepsStart.event (s : State) (cls sub chan arg arg2 : Nat) : KeepsStart s (s.event cls sub chan arg arg2) := by
  rw [State.event_rest]
  exact ⟨rfl, rfl⟩

theorem KeepsStart.allChans (s : State) (f : Nat → Chan → Chan) : KeepsStart s (s.allChans f) := by
  rw [State.allChans_rest]
  exact .of_same rfl rfl

theorem KeepsStart.countN (s : State) (c code n : Nat) (ctx : Option Nat) : KeepsStart s (s.countN c code n ctx) := by
  rw [(State.countN_only s c code n ctx).rest]
  exact .of_same rfl rfl

theorem KeepsStart.loadTrims (s : State) : KeepsStart s s.loadTrims := by
  have hone : ∀ c (u : State) (e : Nat × Trim), KeepsStart u (if e.2.valid then u
      else ({ u with pwr := { u.pwr with trimsOk := false } }).event 0x05 1 c (locArg c e.1 0 0)) := fun c u e => by
    split
    · exact .refl u
    · exact KeepsStart.trans (t := { u with pwr := { u.pwr with trimsOk := false } }) ⟨rfl, rfl⟩ (.event _ _ _ _ _ _)
  unfold State.loadTrims
  dsimp only
  refine KeepsStart.trans ?_ (KeepsStart.foldl (fun u c => KeepsStart.foldl (hone c) _ _) _ _)
  exact KeepsStart.trans (t := { s with pwr := { s.pwr with trimsOk := true } }) ⟨rfl, rfl⟩ (.allChans _ _)

theorem KeepsStart.surveyOne (s : State) (r : SurveyReading) : KeepsStart s (s.surveyOne r) := by
  unfold State.surveyOne
  dsimp only
  split
  · exact .refl s
  · split
    · refine KeepsStart.trans ?_ (.event _ _ _ _ _ _)
      exact ⟨rfl, rfl⟩
    · exact .of_same rfl rfl

theorem KeepsStart.refreshDue (s : State) (c t f why : Nat) : KeepsStart s (s.refreshDue c t f why) := by
  unfold State.refreshDue
  split
  · exact .refl s
  · exact KeepsStart.trans (t := s.modFacet c t f (fun x => { x with due := true })) (.of_same rfl rfl) (.event _ _ _ _ _ _)

theorem KeepsStart.driftAlarm (s : State) (c t f : Nat) : KeepsStart s (s.driftAlarm c t f) := by
  unfold State.driftAlarm
  dsimp only
  split
  · refine KeepsStart.trans ?_ (.refreshDue _ _ _ _ _)
    exact KeepsStart.trans (t := s.modFacet c t f (fun x => { x with drift := true })) (.of_same rfl rfl) (.countN _ _ _ _ _)
  · exact .refl s

theorem KeepsStart.survey (s : State) (l : List SurveyReading) : KeepsStart s (s.survey l) := by
  unfold State.survey
  dsimp only
  refine KeepsStart.trans ?_ (KeepsStart.foldl (fun u r => .driftAlarm _ _ _ _) _ _)
  refine KeepsStart.trans ?_ (KeepsStart.foldl (fun u c => .countN _ _ _ _ _) _ _)
  refine KeepsStart.trans ?_ (KeepsStart.foldl KeepsStart.surveyOne _ _)
  exact KeepsStart.trans (t := { s with pwr := { s.pwr with surveyOk := true } }) ⟨rfl, rfl⟩ (.allChans _ _)

/-- Power and the apex's registers apart, what trims and survey touch is the store and the channels. -/
def Mask.start : Mask := { Mask.none with clk := true, sec := true, integ := true, therm := true }

theorem Fr.survey_loadTrims (s : State) (l : List SurveyReading) : Fr Mask.start s (s.loadTrims.survey l) :=
  Fr.survey rfl rfl rfl rfl (Fr.loadTrims rfl rfl rfl (Fr.refl _ s))

/-- The end of a boot. -/
theorem State.bootDone_pwr (s : State) : s.bootDone.pwr = { s.pwr with boot := .booted, failedBoots := 0 } := by
  have h : ∀ (l : List Nat) (u : State), (l.foldl (fun s n => s.event 0x05 6 0 n) u).pwr = u.pwr :=
    foldl_keeps State.pwr (fun s n => s.event 0x05 6 0 n) (fun s n => by rw [State.event_rest])
  unfold State.bootDone
  dsimp only
  split <;> exact h _ _

theorem State.bootDone_integ (s : State) :
    s.bootDone.integ = (if s.integ.replacement then { s.integ with svc := .drained } else s.integ) := by
  have h : ∀ (l : List Nat) (u : State), (l.foldl (fun s n => s.event 0x05 6 0 n) u).integ = u.integ :=
    foldl_keeps State.integ (fun s n => s.event 0x05 6 0 n) (fun s n => by rw [State.event_rest])
  have hg : ∀ v : State, (if v.integ.replacement then ({ v with integ := { v.integ with svc := .drained } } : State) else v).integ =
      if v.integ.replacement then { v.integ with svc := .drained } else v.integ := fun v => by split <;> rfl
  unfold State.bootDone
  exact (hg _).trans (by rw [h])

theorem State.bootDone_chans (s : State) : s.bootDone.chans = s.chans := by
  have h : ∀ (l : List Nat) (u : State), (l.foldl (fun s n => s.event 0x05 6 0 n) u).chans = u.chans :=
    foldl_keeps State.chans (fun s n => s.event 0x05 6 0 n) (fun s n => by rw [State.event_rest])
  unfold State.bootDone
  dsimp only
  split <;> exact h _ _

/-- What the ROM's verification leaves: firmware running in the state given, or the ROM alone. -/
theorem State.verifyFw_says (s : State) (b : Boot) : (s.verifyFw b).pwr = { s.pwr with
      boot := (s.verifyFw b).pwr.boot, fwRunning := (s.verifyFw b).pwr.fwRunning, fwOther := (s.verifyFw b).pwr.fwOther } ∧
    ((s.verifyFw b).pwr.boot = b ∨ (s.verifyFw b).pwr.boot = .romOnly) ∧
    s.verifyFw b = { s with pwr := (s.verifyFw b).pwr, hub := { s.hub with
      events := (s.verifyFw b).hub.events, evSeq := (s.verifyFw b).hub.evSeq, evLost := (s.verifyFw b).hub.evLost } } := by
  unfold State.verifyFw
  dsimp only
  split
  · exact ⟨rfl, .inl rfl, rfl⟩
  · split
    · rw [State.event_rest]
      exact ⟨rfl, .inl rfl, rfl⟩
    · exact ⟨rfl, .inr rfl, rfl⟩

/-! ### The generators' seeds -/

theorem seedOf_ne_zero (x : Word) (n : Nat) : seedOf x n ≠ 0 := by
  unfold seedOf
  split
  · assumption
  · split
    · assumption
    · decide

theorem seedOf_of_ne {x : Word} (n : Nat) (h : x ≠ 0) : seedOf x n = x := if_pos h

theorem State.seedAll_rest (s : State) (seeds : List Word) :
    s.seedAll seeds = { s with chans := (s.seedAll seeds).chans, fresh := s.fresh + 8 } := by
  unfold State.seedAll
  dsimp only
  rw [State.allChans_rest]

theorem State.chan_seedAll (s : State) (seeds : List Word) {c : Nat} (h : c < s.channels) : (s.seedAll seeds).chan c =
    { s.chan c with seqr := { (s.chan c).seqr with rng := seedOf (seeds.getD c 0) (s.fresh + c), rngNext := none } } :=
  State.chan_allChans s _ h

end Sys2Proof.Machine
end

section
/-! Family 17_module_hardware: power-up and warm reset (R361 to R366). -/

namespace Sys2Proof.Claims

open Sys2Proof.Machine

/-! ### Power-up -/

/-- The module at power-good, before a record is chosen: powered, its counters at 0, its generators seeded. -/
def poweredGood (s : State) (seeds : List Word) : State :=
  ({ s with pwr := { s.pwr with supply := .on, boot := .verifying, failedBoots := 0 }, clk := {} } : State).seedAll seeds

theorem poweredGood_rest (s : State) (seeds : List Word) : poweredGood s seeds = { s with
    pwr := { s.pwr with supply := .on, boot := .verifying, failedBoots := 0 }, clk := {}, chans := (poweredGood s seeds).chans
    fresh := s.fresh + 8 } := State.seedAll_rest _ _

theorem poweredGood_rng (s : State) (seeds : List Word) {c : Nat} (h : c < s.channels) : ((poweredGood s seeds).chan c).seqr.rng ≠ 0 ∧
    (seeds.getD c 0 ≠ 0 → ((poweredGood s seeds).chan c).seqr.rng = seeds.getD c 0) := by
  have hc : (poweredGood s seeds).chan c = { s.chan c with seqr := { (s.chan c).seqr with
      rng := seedOf (seeds.getD c 0) (s.fresh + c), rngNext := none } } := State.chan_seedAll _ seeds h
  rw [hc]
  exact ⟨seedOf_ne_zero _ _, fun hn => seedOf_of_ne _ hn⟩

/-- A record chosen: its body, loaded, is the live one. -/
def recordChosen (t : State) (b : Bool) (r : Record) : State :=
  { t with
    pwr := { t.pwr with recordOk := true }
    store := { t.store with live := { r.body.loaded with boots := r.body.loaded.boots + 1 }, bankIsB := b, seq := r.seq, coalesced := true }
    integ := { t.integ with replacement := r.body.loaded.replacement } }

section

variable {s : State} (seeds : List Word) (h : s.pwr.supply = .rising)

include h

theorem powerGood_none (hc : s.store.choose = none) : exec (.powerGood seeds) s = .next
    { poweredGood s seeds with pwr := { (poweredGood s seeds).pwr with boot := .romOnly, recordOk := false } } := by
  have he : exec (.powerGood seeds) s = execPowerGood seeds s := rfl
  have hst : (poweredGood s seeds).store.choose = none := by rw [poweredGood_rest]; exact hc
  have hst' : (State.seedAll { s with pwr := { s.pwr with supply := .on, boot := .verifying, failedBoots := 0 }, clk := {} } seeds).store.choose =
    none := hst
  rw [he, execPowerGood]
  dsimp only
  rw [hst']
  exact onlyIf_true (beq_iff_eq.2 h)

theorem powerGood_some {b : Bool} {r : Record} (hc : s.store.choose = some (b, r)) : exec (.powerGood seeds) s = .next
    ((recordChosen (poweredGood s seeds) b r).verifyFw .verifying) := by
  have he : exec (.powerGood seeds) s = execPowerGood seeds s := rfl
  have hst : (poweredGood s seeds).store.choose = some (b, r) := by rw [poweredGood_rest]; exact hc
  have hst' : (State.seedAll { s with pwr := { s.pwr with supply := .on, boot := .verifying, failedBoots := 0 }, clk := {} } seeds).store.choose =
    some (b, r) := hst
  rw [he, execPowerGood]
  dsimp only
  rw [hst']
  exact onlyIf_true (beq_iff_eq.2 h)

/-- R361, R331, R85: power-good. -/
theorem powerGood_says : ∃ t, exec (.powerGood seeds) s = .next t ∧ t.pwr.supply = .on ∧ t.clk = {} ∧
    (∀ c, c < s.channels → (t.chan c).seqr.rng ≠ 0 ∧ (seeds.getD c 0 ≠ 0 → (t.chan c).seqr.rng = seeds.getD c 0)) ∧
    (s.store.choose = none → t.pwr.boot = .romOnly ∧ t.pwr.recordOk = false) ∧
    (∀ b r, s.store.choose = some (b, r) → t.pwr.recordOk = true ∧ t.store.seq = r.seq ∧ t.store.bankIsB = b ∧
      t.store.live = { r.body.loaded with boots := r.body.boots + 1 } ∧ t.integ.replacement = r.body.replacement) := by
  cases hc : s.store.choose with
  | none =>
    refine ⟨_, powerGood_none seeds h hc, ?_, ?_, fun c hc => poweredGood_rng s seeds hc, fun _ => ⟨rfl, rfl⟩, fun b r hn => nomatch hn⟩
    · rw [poweredGood_rest]
    · rw [poweredGood_rest]
  | some x =>
    obtain ⟨b, r⟩ := x
    obtain ⟨hp, -, hr⟩ := State.verifyFw_says (recordChosen (poweredGood s seeds) b r) .verifying
    refine ⟨_, powerGood_some seeds h hc, ?_, ?_, fun c hc => ?_, fun hn => ?_, fun b' r' hn => ?_⟩
    · rw [hp, recordChosen, poweredGood_rest]
    · rw [hr, recordChosen, poweredGood_rest]
    · rw [hr]
      exact poweredGood_rng s seeds hc
    · cases hn
    · cases hn
      refine ⟨?_, ?_, ?_, ?_, ?_⟩
      · rw [hp]; rfl
      all_goals rw [hr]; rfl

end

/-- The apex released, before its dies are set up: settings in force, key unwrapped, tick logic started (R326, R361). -/
def apexReleased (s : State) (gcmOk : Bool) : State :=
  { s with
    pwr := { s.pwr with boot := .started, keyOk := gcmOk }
    sec := { s.sec with key := gcmOk, keyBytes := if gcmOk then Config.gcmUnwrap (wrapKey (Config.pufSecret s.store.live.helper)) s.store.live.wrappedKey else [] }
    clk := { s.clk with running := true, cfg := s.store.live.tickCfg, lastTick := s.nowNs, first := true }
    hub := { s.hub with frac := s.store.live.checkFrac, cap := s.store.live.capW, period := s.store.live.periodH, moduleId := s.store.live.moduleId } }

/-- The rest of the release: a failed key is reported, the dies are set up and surveyed. -/
def diesSetUp (u s : State) (gcmOk : Bool) (l : List SurveyReading) : State :=
  ((if gcmOk then u else u.event 0x08 2 0).allChans (fun c k => { k with
    tables := s.store.tables' c
    arr := { k.arr with map := (sget {} s.store.live.chans c).map } })).loadTrims.survey l

theorem diesSetUp_keeps (u s : State) (gcmOk : Bool) (l : List SurveyReading) :
    KeepsStart u (diesSetUp u s gcmOk l) ∧ (diesSetUp u s gcmOk l).clk = u.clk ∧ (diesSetUp u s gcmOk l).sec = u.sec := by
  have he : KeepsStart u (if gcmOk then u else u.event 0x08 2 0) ∧ Fr Mask.start u (if gcmOk then u else u.event 0x08 2 0) := by
    cases gcmOk with
    | true => exact ⟨.refl u, .refl _ u⟩
    | false => exact ⟨.event u _ _ _ _ _, Fr.event rfl (.refl _ u)⟩
  have hf : Fr Mask.start u (diesSetUp u s gcmOk l) := Fr.survey rfl rfl rfl rfl (Fr.loadTrims rfl rfl rfl (Fr.allChans rfl he.2))
  exact ⟨((he.1.trans (.allChans _ _)).trans (.loadTrims _)).trans (.survey _ _), hf.clk rfl, hf.sec rfl⟩

/-- R361, R326: the release of the apex. -/
theorem apexRelease_says {s : State} (gcmOk : Bool) (l : List SurveyReading) (hs : s.pwr.supply = .on) (hb : s.pwr.boot = .verifying) :
    ∃ t, exec (.apexRelease gcmOk l) s = .next t ∧
      t.pwr.boot = .started ∧ t.pwr.keyOk = gcmOk ∧ t.sec.key = gcmOk ∧
      t.sec.keyBytes = (if gcmOk then Config.gcmUnwrap (wrapKey (Config.pufSecret s.store.live.helper)) s.store.live.wrappedKey else []) ∧
      t.clk = { s.clk with running := true, cfg := s.store.live.tickCfg, lastTick := s.clk.nanos.toNat, first := true } ∧
      t.hub.frac = s.store.live.checkFrac ∧ t.hub.cap = s.store.live.capW ∧ t.hub.period = s.store.live.periodH ∧
      t.hub.moduleId = s.store.live.moduleId := by
  have hg : (s.pwr.supply == .on && s.pwr.boot == .verifying) = true := by rw [hs, hb]; rfl
  have hx : exec (.apexRelease gcmOk l) s = .next (diesSetUp (apexReleased s gcmOk) s gcmOk l) := onlyIf_true hg
  obtain ⟨⟨hpwr, hhub⟩, hclk, hsec⟩ := diesSetUp_keeps (apexReleased s gcmOk) s gcmOk l
  refine ⟨_, hx, ?_⟩
  rw [hpwr, hhub, hclk, hsec]
  exact ⟨rfl, rfl, rfl, rfl, rfl, rfl, rfl, rfl, rfl⟩

/-- R323, R378: the firmware reports boot complete. -/
theorem bootComplete_says {s : State} (hs : s.pwr.supply = .on) (hb : s.pwr.boot = .started) : ∃ t, exec .bootComplete s = .next t ∧
    t.pwr = { s.pwr with boot := .booted, failedBoots := 0 } ∧
    t.integ = (if s.integ.replacement then { s.integ with svc := .drained } else s.integ) ∧
    (∀ c, c < s.channels → (t.chan c).capFacets = (sget {} s.store.live.chans c).facetCounts) := by
  have hg : (s.pwr.supply == .on && s.pwr.boot == .started) = true := by rw [hs, hb]; rfl
  have hx : exec .bootComplete s = .next (s.allChans (fun c k => { k with
      capFacets := (sget {} s.store.live.chans c).facetCounts, facetStatus := (sget {} s.store.live.chans c).facetCounts })).bootDone :=
    onlyIf_true hg
  refine ⟨_, hx, ?_, ?_, fun c hc => ?_⟩
  · rw [State.bootDone_pwr, State.allChans_rest]
  · rw [State.bootDone_integ, State.allChans_rest]
  · rw [State.chan, State.bootDone_chans]
    exact congrArg Chan.capFacets (State.chan_allChans s _ hc)

/-- Settles O32: power-good, apex release and boot complete. -/
theorem powerUpReachesBootComplete : Obligations.PowerUpReachesBootComplete := fun _ =>
  ⟨fun seeds h => powerGood_says seeds h, fun gcmOk l hs hb => apexRelease_says gcmOk l hs hb, fun hs hb => bootComplete_says hs hb⟩

/-! ### Warm reset -/

/-- A warm reset's work in hand ended: a drain's record and a write in progress complete, loads that no record holds are abandoned (R366). -/
def workEnded (s : State) : State :=
  let t := if s.integ.svc == .draining && !s.integ.recordDone && s.store.writing.isNone then s.recordStart else s
  let t := if t.store.writing.isSome then t.recordDone true else t
  t.abandonLoads stUnsupported 0x27

theorem workEnded_keeps (s : State) : (workEnded s).clk = s.clk ∧ (workEnded s).pwr = s.pwr ∧ (workEnded s).variant = s.variant := by
  have h1 : Fr { Mask.none with clk := true, pwr := true } s
      (if s.integ.svc == .draining && !s.integ.recordDone && s.store.writing.isNone then s.recordStart else s) := by
    split
    · exact Fr.recordStart rfl rfl (.refl _ s)
    · exact .refl _ s
  have h2 : ∀ t, Fr { Mask.none with clk := true, pwr := true } s t → Fr { Mask.none with clk := true, pwr := true } s
      (if t.store.writing.isSome then t.recordDone true else t) := fun t h => by
    split
    · exact Fr.recordDone rfl rfl rfl rfl rfl rfl rfl h
    · exact h
  have h3 : Fr { Mask.none with clk := true, pwr := true } s (workEnded s) := Fr.abandonLoads rfl rfl rfl rfl rfl rfl (h2 _ h1)
  exact ⟨h3.clk rfl, h3.pwr rfl, h3.variant⟩

/-- The warm reset table outside the channels, over a state whose work has ended (R364, R375). -/
def warmTable (t : State) : State :=
  let p := t.store.live
  { t with
    pwr := { t.pwr with window := false, link := none }
    store := { t.store with fault := false, coalesced := false, urgent := false, flush := [] }
    hub := { t.hub with smbInstaller := true, smbClearNext := false, setupDone := false, frac := p.checkFrac, fracNext := none
                        cap := p.capW, capNext := none, period := p.periodH, periodNext := none, moduleId := p.moduleId
                        debugNext := if t.hub.debug then some false else none }
    host := { t.host with fns := [], ports := [], staged := t.host.rules, order := [], ownQueue := [], fetchQ := [], jobs := [], cpls := []
                          halves := [] }
    clk := { t.clk with cfg := p.tickCfg, cfgNext := none }
    integ := { t.integ with svc := .starting, replacement := p.replacement, retract := [], told := [], tested := none, scanDone := false, recordDone := false }
    sec := { t.sec with conns := [], sessions := [], secrets := [], insecure := [], keyed := [] }
    therm := { t.therm with sensors := t.therm.sensors.map (fun e => (e.1, { e.2 with broken := false })) } }

/-- The channels after the warm reset table. -/
def warmChans (t : State) : State := (warmTable t).allChans (fun c k => k.warm (fun n => (warmTable t).trim c n) (sget {} t.store.live.chans c).map)

theorem warmChans_rest (t : State) : warmChans t = { warmTable t with chans := (warmChans t).chans } := State.allChans_rest _ _

theorem warmReset_resets {s : State} (seeds : List Word) (hw : s.pwr.window = true) (hs : s.pwr.supply = .on) :
    exec (.warmReset seeds) s = .next (((warmChans (workEnded s)).seedAll seeds).verifyFw .warm) := by
  have hg : (s.pwr.window && s.pwr.supply == .on) = true := by rw [hw, hs]; rfl
  exact onlyIf_true hg

/-- PERST_N high after a warm reset, the trims loaded and the dies surveyed anew (R365). -/
def diesSetAgain (s : State) (l : List SurveyReading) : State :=
  (((({ s with pwr := { s.pwr with perstLow := false } } : State).loadTrims).allChans (fun c k => { k with
    tables := { k.tables with shared := (s.store.tables' c).shared }, sharedPoison := [] })).survey l).redue

theorem redue_rest (s : State) : s.redue = { s with store := s.redue.store } := by
  unfold State.redue
  dsimp only
  split <;> rfl

theorem diesSetAgain_keeps (s : State) (l : List SurveyReading) : (diesSetAgain s l).pwr = { s.pwr with
    perstLow := false, trimsOk := (diesSetAgain s l).pwr.trimsOk, surveyOk := (diesSetAgain s l).pwr.surveyOk } ∧
    (diesSetAgain s l).integ = s.integ := by
  have hk := (((KeepsStart.loadTrims ({ s with pwr := { s.pwr with perstLow := false } } : State)).trans (.allChans _ (fun c k => { k with
    tables := { k.tables with shared := (s.store.tables' c).shared }, sharedPoison := [] }))).trans (.survey _ l)).pwr
  have hf : Fr Mask.start ({ s with pwr := { s.pwr with perstLow := false } } : State) (diesSetAgain s l) :=
    Fr.redue rfl (Fr.survey rfl rfl rfl rfl (Fr.allChans rfl (Fr.loadTrims rfl rfl rfl (.refl _ _))))
  refine ⟨?_, hf.integ rfl⟩
  rw [diesSetAgain, redue_rest]
  exact hk

theorem perstRelease_warm {s : State} (l : List SurveyReading) (hp : s.pwr.perstLow = true) (hw : s.pwr.window = false)
    (hs : s.pwr.supply = .on) (hb : s.pwr.boot = .warm) : exec (.perstRelease l) s = .next (diesSetAgain s l).bootDone := by
  have hg : (s.pwr.perstLow && !s.pwr.window) = true := by rw [hp, hw]; rfl
  have hwarm : (s.pwr.supply == .on && s.pwr.boot == .warm) = true := by rw [hs, hb]; rfl
  exact (onlyIf_true hg).trans (congrArg _ (if_pos hwarm))

/-- Settles O34: the warm reset table, and PERST_N's rise after it. -/
theorem warmResetClearsTheHostSide : Obligations.WarmResetClearsTheHostSide := by
  intro s
  refine ⟨fun seeds hw hs => ⟨_, warmReset_resets seeds hw hs, ?_⟩, fun l hp hw hs hb => ?_⟩
  · obtain ⟨hclk, hpwr, hvar⟩ := workEnded_keeps s
    obtain ⟨hp, hboot, hr⟩ := State.verifyFw_says ((warmChans (workEnded s)).seedAll seeds) .warm
    have hch : ∀ c, c < s.channels → (((warmChans (workEnded s)).seedAll seeds).verifyFw .warm).chan c =
        ((warmChans (workEnded s)).seedAll seeds).chan c := fun c _ => by rw [hr]; rfl
    have hsd : ∀ c, c < s.channels → (((warmChans (workEnded s)).seedAll seeds).chan c).jobs = [] ∧
        ∀ n, (((warmChans (workEnded s)).seedAll seeds).chan c).slot n = {} := fun c hc => by
      have hv : (warmChans (workEnded s)).variant = s.variant := by rw [warmChans_rest]; exact hvar
      have hv' : (warmTable (workEnded s)).variant = s.variant := hvar
      rw [State.chan_seedAll _ _ (by rw [State.channels_congr hv]; exact hc), warmChans,
        State.chan_allChans _ _ (by rw [State.channels_congr hv']; exact hc)]
      exact ⟨rfl, fun n => rfl⟩
    refine ⟨?_, ?_, hboot, ?_⟩
    · rw [hp, State.seedAll_rest, warmChans_rest]; rfl
    · rw [hp, State.seedAll_rest, warmChans_rest]; rfl
    · rw [hr, State.seedAll_rest, warmChans_rest]
      have hn : (workEnded s).clk.nanos = s.clk.nanos := congrArg Clock.nanos hclk
      have hf : (workEnded s).clk.frame = s.clk.frame := congrArg Clock.frame hclk
      have hru : (workEnded s).clk.running = s.clk.running := congrArg Clock.running hclk
      refine ⟨hn, hf, hru, rfl, rfl, rfl, rfl, rfl, rfl, rfl, rfl, rfl, rfl,
        fun c hc => ?_⟩
      have h := hsd c hc
      rw [State.seedAll_rest, warmChans_rest] at h
      exact h
  · obtain ⟨hpwr, hinteg⟩ := diesSetAgain_keeps s l
    refine ⟨_, perstRelease_warm l hp hw hs hb, ?_, ?_, ?_, ?_⟩
    · rw [State.bootDone_pwr, hpwr]
    · rw [State.bootDone_pwr]
    · rw [State.bootDone_pwr]
    · rw [State.bootDone_integ, hinteg]

end Sys2Proof.Claims
end

section
/-! Family 11_frames: where ticks come from, and what a tick opens (R223 to R229). -/

namespace Sys2Proof.Claims

open Sys2Proof.Machine

theorem fld_bit {n : Nat} (w : BitVec n) (i : Nat) : bit w i = true ↔ fld w i i = 1 := by
  rw [bit, beq_iff_eq]

theorem fld_bit_false {n : Nat} (w : BitVec n) (i : Nat) : bit w i = false ↔ fld w i i = 0 := by
  have h : fld w i i < 2 := by
    rw [fld, nfld, Nat.add_sub_cancel_left, Nat.pow_one]
    exact Nat.mod_lt _ (by omega)
  rw [bit, beq_eq_false_iff_ne]
  omega

section

variable {s : State} (hr : s.clk.running = true) (hd : s.clk.due = none) (hh : s.clk.holdover = false)

include hr hd hh

/-- An edge at TICK_IN outside holdover, past the first: a tick where it lies in its window, else a glitch. -/
theorem tickInEdge_seen (hb : bit s.clk.cfg 30 = true) (hf : s.clk.first = false) : exec .tickInEdge s = .next
    (if inWindow s.nowNs (s.clk.lastTick + s.periodNs) then
      { s with clk := { s.clk.edgeTick s.nowNs with lastEdge := some s.nowNs, offset := s.edgeOffset } }
    else ({ s with clk := { s.clk with lastEdge := some s.nowNs, offset := s.edgeOffset } } : State).countAll 0x50) := by
  have hg : (s.clk.running && s.clk.due.isNone) = true := by rw [hr, hd]; rfl
  have he : exec .tickInEdge s = execTickInEdge s := rfl
  have h30 : ¬ fld s.clk.cfg 30 30 = 0 := by rw [(fld_bit _ _).1 hb]; decide
  rw [he, execTickInEdge]
  dsimp only
  rw [hh, hf, if_neg Bool.false_ne_true, if_neg Bool.false_ne_true, if_neg h30]
  exact onlyIf_true hg

/-- An edge within 1.0 µs of its time (R224). -/
theorem tickInEdge_opens {p : Nat} (hp : p = s.periodNs) (hb : bit s.clk.cfg 30 = true) (hf : s.clk.first = false)
    (h1 : s.clk.lastTick + p ≤ s.clk.nanos.toNat + 1000) (h2 : s.clk.nanos.toNat ≤ s.clk.lastTick + p + 1000) :
    ∃ t, exec .tickInEdge s = .next t ∧ t = { s with clk := t.clk } ∧ t.clk.due = some (s.clk.nanos.toNat + 12) ∧ t.clk.locked = true ∧
      t.clk.noEdge = 0 ∧ t.clk.holdover = false ∧ t.clk.offset = (s.clk.nanos.toNat : Int) - ((s.clk.lastTick + p : Nat) : Int) := by
  have hw : inWindow s.nowNs (s.clk.lastTick + s.periodNs) = true := by
    rw [← hp, inWindow, decide_eq_true_eq, apart, State.nowNs]
    omega
  have ho : s.edgeOffset = (s.clk.nanos.toNat : Int) - ((s.clk.lastTick + p : Nat) : Int) := by
    rw [State.edgeOffset, ← hp, State.nowNs, clampInt, if_neg (by omega), if_neg (by omega)]
  refine ⟨_, tickInEdge_seen hr hd hh hb hf, ?_⟩
  rw [if_pos hw]
  exact ⟨rfl, rfl, rfl, rfl, rfl, ho⟩

/-- An edge before its window (R224). -/
theorem tickInEdge_glitches {p : Nat} (hp : p = s.periodNs) (hb : bit s.clk.cfg 30 = true) (hf : s.clk.first = false)
    (h1 : s.clk.lastTick + p > s.clk.nanos.toNat + 1000) :
    ∃ t u, exec .tickInEdge s = .next t ∧ u = { s with clk := u.clk } ∧ u.clk.due = none ∧ u.clk.holdover = false ∧ Counted u t 0x50 := by
  have hw : ¬ inWindow s.nowNs (s.clk.lastTick + s.periodNs) = true := by
    rw [← hp, inWindow, decide_eq_true_eq, apart, State.nowNs]
    omega
  refine ⟨_, { s with clk := { s.clk with lastEdge := some s.nowNs, offset := s.edgeOffset } }, tickInEdge_seen hr hd hh hb hf, rfl, hd, hh, ?_⟩
  rw [if_neg hw]
  exact counted_countAll _ _

/-- No edge by 1.0 µs past the period (R224). -/
theorem holdoverTimeout_holds {p : Nat} (hp : p = s.periodNs) (hb : bit s.clk.cfg 30 = true)
    (h1 : s.clk.lastTick + p + 1000 ≤ s.clk.nanos.toNat) : ∃ t, exec .holdoverTimeout s = .next t ∧ Reported { s with clk := { s.clk with
      due := some (s.clk.lastTick + p + 1000), locked := false, noEdge := min (s.clk.noEdge + 1) 255, holdover := true, rejoin := false
      good := 0 } } t 1 1 0 0 0 := by
  have hg : (s.clk.running && s.clk.due.isNone && fld s.clk.cfg 30 30 == 1 && (!s.clk.holdover || s.clk.rejoin) &&
      decide (s.clk.lastTick + s.periodNs + 1000 ≤ s.nowNs)) = true := by
    have hdec : decide (s.clk.lastTick + s.periodNs + 1000 ≤ s.nowNs) = true := by rw [← hp]; exact decide_eq_true h1
    rw [hr, hd, hh, (fld_bit _ _).1 hb, hdec]
    rfl
  refine ⟨_, onlyIf_true hg, ?_⟩
  rw [hh, if_neg Bool.false_ne_true, ← hp, Nat.min_comm]
  exact reported_event _ _ _ _ _ _

/-- Without TICK_IN the generator ticks at the period (R223). -/
theorem internalTick_ticks {p : Nat} (hp : p = s.periodNs) (hb : bit s.clk.cfg 30 = false) (hj : s.clk.rejoin = false)
    (h1 : s.clk.lastTick + p ≤ s.clk.nanos.toNat) : ∃ t, exec .internalTick s = .next t ∧ t = { s with clk := t.clk } ∧
      t.clk.due = some (s.clk.lastTick + p) ∧ t.clk.locked = false := by
  have hst : s.steer = 0 := by
    unfold State.steer
    dsimp only
    split
    · rw [hh, Bool.false_and, if_neg Bool.false_ne_true]
    · rfl
  have hlo : (((s.clk.lastTick + s.periodNs : Nat) : Int) + min 0 s.steer).toNat = s.clk.lastTick + p := by
    rw [hst, ← hp]; omega
  have hhi : (((s.clk.lastTick + s.periodNs : Nat) : Int) + max 0 s.steer).toNat = s.clk.lastTick + p := by
    rw [hst, ← hp]; omega
  have hg : (s.clk.running && s.clk.due.isNone && (s.clk.holdover || fld s.clk.cfg 30 30 == 0) && !s.clk.rejoin &&
      decide ((((s.clk.lastTick + s.periodNs : Nat) : Int) + min 0 s.steer).toNat ≤ s.nowNs)) = true := by
    rw [hr, hd, hh, (fld_bit_false _ _).1 hb, hj, hlo, decide_eq_true (show s.clk.lastTick + p ≤ s.nowNs from h1)]
    rfl
  refine ⟨_, onlyIf_true hg, rfl, ?_, rfl⟩
  dsimp only
  rw [hhi, Nat.min_eq_right (show s.clk.lastTick + p ≤ s.nowNs from h1)]

end

/-- Settles O35: the two kinds of edge, the timeout and the generator. -/
theorem ticksComeFromEdgeOrGenerator : Obligations.TicksComeFromEdgeOrGenerator := by
  intro s p hp hr hd hh
  exact ⟨fun hb hf h1 h2 => tickInEdge_opens hr hd hh hp hb hf h1 h2, fun hb hf h1 => tickInEdge_glitches hr hd hh hp hb hf h1,
    fun hb h1 => holdoverTimeout_holds hr hd hh hp hb h1, fun hb hj h1 => internalTick_ticks hr hd hh hp hb hj h1⟩

/-! ### The tick -/

/-- The clock alone is marked. -/
def Mask.clk' : Mask := { Mask.none with clk := true }

/-- The clock at a tick (R229, R374). -/
theorem tickClock_clk (s : State) (ts : Nat) : (s.tickClock ts).clk =
    { s.clk with frame := s.clk.frame + 1, lastTick := ts, first := false, due := none, cfg := s.clk.cfgNext.getD s.clk.cfg, cfgNext := none
                 phase := .intake, holdover := s.clk.holdover && !(s.clk.holdover && fld (s.clk.cfgNext.getD s.clk.cfg) 30 30 == 0)
                 rejoin := s.clk.rejoin && !(s.clk.holdover && fld (s.clk.cfgNext.getD s.clk.cfg) 30 30 == 0) } := by
  have hc : ∀ (u : State), (if u.clk.holdover then u.countAll 0x51 else u).clk = u.clk := fun u => by
    split
    · rw [State.countAll_rest]
    · rfl
  unfold State.tickClock
  dsimp only
  rw [hc]
  split
  · rw [State.event_rest]
  · rfl

/-- What a tick does after its clock (R229). -/
def tickRest (s : State) : State :=
  let s := s.tickHub
  let s := s.allChans (fun _ k => k.tickRegs)
  let s := s.switchTick
  let s := s.ageUpdates
  let s := s.tickRoles
  let s := s.tickFns
  let s := s.tickMbx
  let s := (List.range s.channels).foldl State.testRelease s
  let s := (List.range s.channels).foldl State.testTick s
  let s := s.markRotation
  let s := (List.range s.channels).foldl State.setBudget s
  let s := s.startPrograms
  let s := s.startRefreshes
  let s := (List.range s.channels).foldl State.startMap s
  let s := s.allChans (fun c k => { k with facetStatus := (sget {} s.store.live.chans c).facetCounts })
  let s := s.tickSamples
  s.tickPeers

theorem tick_runs {s : State} {ts : Nat} (hd : s.clk.due = some ts) : exec .tick s = .next (tickRest (s.tickClock ts)) := by
  have he : exec .tick s = execTick s := rfl
  rw [he, execTick, hd]
  rfl

/-- The clock stands through the rest of a tick. -/
theorem tickRest_clk (s : State) : (tickRest s).clk = s.clk := by
  refine Fr.clk (m := Mask.clk') (s := s) ?_ rfl
  unfold tickRest
  apply Fr.tickPeers rfl rfl rfl
  apply Fr.tickSamples rfl
  apply Fr.allChans rfl
  apply Fr.foldl (fun _ _ h => Fr.startMap rfl rfl h)
  apply Fr.startRefreshes rfl rfl
  apply Fr.startPrograms rfl rfl rfl rfl rfl rfl
  apply Fr.foldl (fun _ _ h => Fr.setBudget rfl h)
  apply Fr.markRotation rfl
  apply Fr.foldl (fun _ _ h => Fr.testTick rfl rfl h)
  apply Fr.foldl (fun _ _ h => Fr.testRelease rfl rfl rfl h)
  apply Fr.tickMbx rfl
  apply Fr.tickFns rfl rfl rfl rfl
  apply Fr.tickRoles rfl rfl rfl
  apply Fr.ageUpdates rfl rfl rfl rfl rfl rfl rfl
  apply Fr.switchTick rfl rfl rfl rfl rfl rfl
  apply Fr.allChans rfl
  exact Fr.tickHub rfl rfl (.refl _ s)

/-- Settles O36: the tick's clock, which the rest of the tick keeps. -/
theorem tickOpensTheFrame : Obligations.TickOpensTheFrame := by
  intro s ts hd
  have hf : Fr { Mask.none with pwr := true, therm := true } s (tickRest (s.tickClock ts)) :=
    (FrOut.execTick rfl rfl rfl rfl rfl rfl rfl rfl rfl (.refl _ s)).next _ (tick_runs hd)
  refine ⟨_, tick_runs hd, ?_⟩
  rw [tickRest_clk, tickClock_clk]
  exact ⟨rfl, rfl, rfl, rfl, rfl, rfl, rfl, rfl, rfl, hf.pwr rfl, hf.therm rfl⟩

end Sys2Proof.Claims
end

section
/-! Family 14_integrity: the check slot and the watermark (R292). -/

namespace Sys2Proof.Claims

open Sys2Proof.Machine

/-- The least of a list that is not empty is one of its numbers, and at most each of them. -/
theorem minOf_le (d : Nat) : ∀ (l : List Nat), ∀ a ∈ l, minOf d l ≤ a
  | [b], a, h => by rw [List.mem_singleton.1 h]; exact Nat.le_refl b
  | b :: c :: l, a, h => by
    rcases List.mem_cons.1 h with rfl | h
    · exact Nat.min_le_left _ _
    · exact (Nat.min_le_right _ _).trans (minOf_le d (c :: l) a h)

theorem minOf_mem (d : Nat) : ∀ (l : List Nat), l ≠ [] → minOf d l ∈ l
  | [b], _ => List.mem_singleton.2 rfl
  | b :: c :: l, _ => by
    rcases Nat.le_total b (minOf d (c :: l)) with h | h
    · have he : minOf d (b :: c :: l) = b := Nat.min_eq_left h
      rw [he]; exact List.mem_cons_self
    · have he : minOf d (b :: c :: l) = minOf d (c :: l) := Nat.min_eq_right h
      rw [he]; exact List.mem_cons_of_mem _ (minOf_mem d (c :: l) (by simp))

/-- One channel's check slot among all. -/
def checkSlotAt (t : State) (c : Nat) : State :=
  let k := t.chan c
  let r := k.checkSlot t.frameN t.rotation
  let t := t.setChan c r.1
  if k.check.isRotation && !r.2 then t.count c 0x74 else t

/-- What a check slot reads and writes: a channel but for its counters, and the frame and the rotation. -/
def slotView (d : Nat) (t : State) : Chan × Nat × Nat := ({ t.chan d with dbg := {} }, t.frameN, t.rotation)

/-- The view after the channel's own check slot. -/
def slotDone (x : Chan × Nat × Nat) : Chan × Nat × Nat := ((x.1.checkSlot x.2.1 x.2.2).1, x.2)

theorem checkSlotAt_rest (t : State) (c : Nat) : checkSlotAt t c = { t with chans := (checkSlotAt t c).chans } := by
  unfold checkSlotAt
  dsimp only
  split
  · rw [(State.count_only _ _ _ _).rest]
    rfl
  · rfl

theorem checkSlot_dbg (k : Chan) (frame d : Nat) :
    ({ (k.checkSlot frame d).1 with dbg := {} } : Chan) = (({ k with dbg := {} } : Chan).checkSlot frame d).1 := by
  have hr : ({ k with dbg := {} } : Chan).checksRan = k.checksRan := rfl
  unfold Chan.checkSlot
  rw [hr]
  split <;> rfl

theorem slotView_same (t : State) (d : Nat) : slotView d (checkSlotAt t d) = slotDone (slotView d t) := by
  have hc : ({ (checkSlotAt t d).chan d with dbg := {} } : Chan) = { ((t.chan d).checkSlot t.frameN t.rotation).1 with dbg := {} } := by
    unfold checkSlotAt
    dsimp only
    split
    · rw [(State.count_only _ _ _ _).own, State.chan_setChan, if_pos rfl]
    · rw [State.chan_setChan, if_pos rfl]
  have hr : (checkSlotAt t d).frameN = t.frameN ∧ (checkSlotAt t d).rotation = t.rotation := by
    rw [checkSlotAt_rest]; exact ⟨rfl, rfl⟩
  rw [slotView, hc, hr.1, hr.2, checkSlot_dbg]
  rfl

theorem slotView_ne (t : State) {c d : Nat} (h : c ≠ d) : slotView d (checkSlotAt t c) = slotView d t := by
  have hc : (checkSlotAt t c).chan d = t.chan d := by
    unfold checkSlotAt
    dsimp only
    split
    · rw [(State.count_only _ _ _ _).others d h.symm, State.chan_setChan, if_neg h.symm]
    · rw [State.chan_setChan, if_neg h.symm]
  have hr : (checkSlotAt t c).frameN = t.frameN ∧ (checkSlotAt t c).rotation = t.rotation := by
    rw [checkSlotAt_rest]; exact ⟨rfl, rfl⟩
  rw [slotView, hc, hr.1, hr.2]
  rfl

/-- The check slots of the fitted channels. -/
def checkSlots (s : State) : State := (List.range s.channels).foldl checkSlotAt { s with clk := { s.clk with phase := .checkDone } }

theorem checkSlots_rest (s : State) : checkSlots s = { s with clk := { s.clk with phase := .checkDone }, chans := (checkSlots s).chans } := by
  have h : ∀ (l : List Nat) (t : State), l.foldl checkSlotAt t = { t with chans := (l.foldl checkSlotAt t).chans } := by
    intro l
    induction l with
    | nil => intro t; rfl
    | cons c l ih =>
      intro t
      rw [List.foldl_cons, ih, checkSlotAt_rest]
  exact h _ _

theorem checkSlots_check (s : State) {c : Nat} (hc : c < s.channels) :
    ((checkSlots s).chan c).check = ((s.chan c).checkSlot s.frameN s.rotation).1.check := by
  have h := foldl_once (slotView c) checkSlotAt slotDone (fun t => slotView_same t c) (fun t _ hd => slotView_ne t hd)
    (List.range s.channels) { s with clk := { s.clk with phase := .checkDone } } List.nodup_range (List.mem_range.2 hc)
  have h1 := congrArg (fun x => x.1.check) h
  refine h1.trans ?_
  rw [slotDone, slotView]
  dsimp only
  rw [← checkSlot_dbg]
  rfl

/-- A channel's check slot, as its words say it. -/
theorem checkSlot_check (k : Chan) (frame d : Nat) : (k.checkSlot frame d).1.check =
    if k.check.isRotation = true ∧ k.check.failed = false ∧ k.checksRan = true then
      { k.check with list := (k.check.list ++ [frame]).drop (k.check.list.length + 1 - d), i := (k.check.i + 1) % d
                     ownMark := if d ≤ ((k.check.list ++ [frame]).drop (k.check.list.length + 1 - d)).length
                       then ((k.check.list ++ [frame]).drop (k.check.list.length + 1 - d)).headD k.check.ownMark else k.check.ownMark }
    else k.check := by
  have hp : (!k.check.isRotation || k.check.failed || !k.checksRan) = true ↔
      ¬ (k.check.isRotation = true ∧ k.check.failed = false ∧ k.checksRan = true) := by
    cases k.check.isRotation <;> cases k.check.failed <;> cases k.checksRan <;> simp
  unfold Chan.checkSlot
  by_cases h : k.check.isRotation = true ∧ k.check.failed = false ∧ k.checksRan = true
  · rw [if_pos h, if_neg (fun hn => hp.1 hn h)]
  · rw [if_neg h, if_pos (hp.2 h)]

/-- The module's watermark after the check slots, that of `t` where out of service. -/
def slotMark (t : State) : Nat :=
  if t.inService then minOf 0 ((List.range t.channels).map (fun c => (t.chan c).check.ownMark)) else t.integ.wm

theorem checkSlot_runs {s : State} (h : s.clk.phase = .endOfCompute) : exec .checkSlot s = .next
    { checkSlots s with integ := { (checkSlots s).integ with
      wm := slotMark (checkSlots s), held := slotMark (checkSlots s) == (checkSlots s).integ.wm } } := by
  have hg : (s.clk.phase == .endOfCompute) = true := beq_iff_eq.2 h
  exact onlyIf_true hg

theorem checkSlots_integ (s : State) : (checkSlots s).integ = s.integ := by
  rw [checkSlots_rest]

theorem checkSlots_channels (s : State) : (checkSlots s).channels = s.channels :=
  State.channels_congr (by rw [checkSlots_rest])

/-- Settles O38: the lists and own marks of the channels, and the least of these. -/
theorem watermarkIsTheLowestOwnMark : Obligations.WatermarkIsTheLowestOwnMark := by
  intro s h
  refine ⟨_, checkSlot_runs h, ?_, ?_, ?_, ?_, fun c hc => ?_, fun hs => ?_, fun hs => ?_⟩
  · rw [checkSlots_rest]
  · rw [checkSlots_rest]
  · rw [checkSlots_rest]
  · rw [checkSlots_rest]
  · exact (checkSlots_check s hc).trans (checkSlot_check _ _ _)
  · have hm : slotMark (checkSlots s) = minOf 0 ((List.range s.channels).map (fun c => ((checkSlots s).chan c).check.ownMark)) := by
      rw [slotMark, State.inService, checkSlots_integ, checkSlots_channels, if_pos (beq_iff_eq.2 hs)]
    refine ⟨fun c hc => ?_, ?_⟩
    · refine hm.le.trans (minOf_le 0 _ _ (List.mem_map.2 ⟨c, List.mem_range.2 hc, rfl⟩))
    · have hne : (List.range s.channels).map (fun c => ((checkSlots s).chan c).check.ownMark) ≠ [] := by
        have : 0 < s.channels := by unfold State.channels; split <;> omega
        simp only [ne_eq, List.map_eq_nil_iff, List.range_eq_nil]
        omega
      obtain ⟨c, hc, he⟩ := List.mem_map.1 (minOf_mem 0 _ hne)
      exact ⟨c, List.mem_range.1 hc, hm.trans he.symm⟩
  · dsimp only
    rw [slotMark, State.inService, checkSlots_integ, if_neg (by rw [beq_iff_eq]; exact hs)]

end Sys2Proof.Claims
end

section
/-! SUPPORT. Completions and head blocks as bookkeeping: what they leave of channels, queues and host writes. -/

namespace Sys2Proof.Machine

/-- From `s` to `t` every channel stands but for its counters and samples. -/
structure DbgOnly (s t : State) : Prop where
  chan : ∀ c, t.chan c = { s.chan c with dbg := (t.chan c).dbg }

namespace DbgOnly

variable {s t u : State}

theorem refl (s : State) : DbgOnly s s := ⟨fun _ => rfl⟩

theorem trans (h : DbgOnly s t) (k : DbgOnly t u) : DbgOnly s u := ⟨fun c => by rw [k.chan, h.chan]⟩

theorem of_chans (h : t.chans = s.chans) : DbgOnly s t := ⟨fun c => by rw [State.chan, h]; rfl⟩

theorem of_counts {c : Nat} (h : CountsOnly c s t) : DbgOnly s t := by
  refine ⟨fun d => ?_⟩
  by_cases e : d = c
  · subst e; exact h.own
  · rw [h.others d e]

theorem event (s : State) (cls sub chan arg arg2 : Nat) : DbgOnly s (s.event cls sub chan arg arg2) :=
  of_chans (by rw [State.event_rest])

theorem countAll (s : State) (code : Nat) : DbgOnly s (s.countAll code) := by
  refine ⟨fun c => ?_⟩
  rcases Nat.lt_or_ge c s.channels with h | h
  · rw [State.countAll, State.chan_allChans s _ h]
    exact Chan.count_dbg _ _ _ _ _
  · rw [State.countAll, State.chan_allChans_of_le s _ h]

theorem jobs (h : DbgOnly s t) (c : Nat) : (t.chan c).jobs = (s.chan c).jobs := by rw [h.chan]

theorem mem (h : DbgOnly s t) (c : Nat) : (t.chan c).mem = (s.chan c).mem := by rw [h.chan]

theorem ctx (h : DbgOnly s t) (raw : Nat) : t.ctx raw = s.ctx raw := by rw [State.ctx, h.mem]; rfl

end DbgOnly

/-- From `s` to `t` nothing but bookkeeping was done: counters, events, rings and completion entries. -/
structure Booked (s t : State) : Prop extends DbgOnly s t where
  fetchQ : t.host.fetchQ = s.host.fetchQ
  nextJob : t.host.nextJob = s.host.nextJob
  jobs' : t.host.jobs = s.host.jobs
  held : t.host.heldWrites = s.host.heldWrites
  writes : t.out.writes = s.out.writes

namespace Booked

variable {s t u : State}

theorem refl (s : State) : Booked s s := ⟨.refl s, rfl, rfl, rfl, rfl, rfl⟩

theorem trans (h : Booked s t) (k : Booked t u) : Booked s u :=
  ⟨h.toDbgOnly.trans k.toDbgOnly, k.fetchQ.trans h.fetchQ, k.nextJob.trans h.nextJob, k.jobs'.trans h.jobs', k.held.trans h.held,
    k.writes.trans h.writes⟩

theorem event (s : State) (cls sub chan arg arg2 : Nat) : Booked s (s.event cls sub chan arg arg2) := by
  refine ⟨.event s cls sub chan arg arg2, ?_, ?_, ?_, ?_, ?_⟩
  all_goals rw [State.event_rest]

theorem countAll (s : State) (code : Nat) : Booked s (s.countAll code) := by
  refine ⟨.countAll s code, ?_, ?_, ?_, ?_, ?_⟩
  all_goals rw [State.countAll_rest]

theorem of_counts {c : Nat} (h : CountsOnly c s t) : Booked s t := by
  refine ⟨.of_counts h, ?_, ?_, ?_, ?_, ?_⟩
  all_goals rw [h.rest]

theorem count (s : State) (c code : Nat) (ctx : Option Nat) : Booked s (s.count c code ctx) := of_counts (s.count_only c code ctx)

theorem modFn (s : State) (f : Nat) (g : Fn → Fn) : Booked s (s.modFn f g) := ⟨.of_chans rfl, rfl, rfl, rfl, rfl, rfl⟩

theorem sqDone (s : State) (f q : Nat) : Booked s (s.sqDone f q) := ⟨.of_chans rfl, rfl, rfl, rfl, rfl, rfl⟩

theorem writeCpl (s : State) (e : Cpl) : Booked s (s.writeCpl e) := by
  unfold State.writeCpl
  dsimp only
  split
  · exact ⟨.of_chans rfl, rfl, rfl, rfl, rfl, rfl⟩
  · exact ((Booked.modFn s _ _).trans (.countAll _ _)).trans (.event _ _ _ _ _ _)

theorem complete (s : State) (e : Cpl) : Booked s (s.complete e) := by
  unfold State.complete
  split
  · exact .writeCpl s e
  · exact ⟨.of_chans rfl, rfl, rfl, rfl, rfl, rfl⟩

theorem endFetched (s : State) (j : Job) (status cause detail : Nat) : Booked s (s.endFetched j status cause detail) :=
  (Booked.sqDone s _ _).trans (.complete _ _)

/-- A job's completion is bookkeeping once the job is out of its channel. -/
theorem finishWith (s : State) (c : Nat) (j : Job) (e : Cpl) : Booked (s.dropJob c j.id) (s.finishWith c j e) := by
  have hc : Booked (s.dropJob c j.id) (((s.dropJob c j.id).sqDone j.fn j.sq).complete e) := (Booked.sqDone _ _ _).trans (.complete _ _)
  unfold State.finishWith
  dsimp only
  split
  · split
    · exact (hc.trans (.count _ _ _ _)).trans (.count _ _ _ _)
    · exact hc.trans (.count _ _ _ _)
  · exact hc

theorem finish (s : State) (c : Nat) (j : Job) (status cause detail : Nat) :
    Booked (s.dropJob c j.id) (s.finish c j status cause detail) := finishWith s c j _

end Booked

/-! ### Host writes and head blocks -/

/-- A host write joins those sent or those held. -/
theorem State.hostWrite_writes (s : State) (addr : Nat) (bytes : List Byte) :
    (s.hostWrite addr bytes).out.writes ++ (s.hostWrite addr bytes).host.heldWrites = s.out.writes ++ s.host.heldWrites ++ [(addr, bytes)] := by
  unfold State.hostWrite
  dsimp only
  split
  · rw [List.append_assoc]
  · next h =>
    have he : s.host.heldWrites = [] := by
      rw [Bool.or_eq_true, not_or] at h
      simpa using h.2
    rw [he, List.append_nil, List.append_nil]

theorem State.hostWrite_rest (s : State) (addr : Nat) (bytes : List Byte) : s.hostWrite addr bytes = { s with
    host := { s.host with heldWrites := (s.hostWrite addr bytes).host.heldWrites }
    out := { s.out with writes := (s.hostWrite addr bytes).out.writes } } := by
  unfold State.hostWrite
  dsimp only
  split <;> rfl

theorem DbgOnly.headBlock (s : State) (fn : Nat) : DbgOnly s (s.headBlock fn) := by
  unfold State.headBlock
  dsimp only
  split
  · exact .refl s
  · split
    · exact .of_chans (by rw [State.hostWrite_rest])
    · exact .countAll s _

theorem State.headBlock_queue (s : State) (fn : Nat) : (s.headBlock fn).host.fetchQ = s.host.fetchQ ∧
    (s.headBlock fn).host.nextJob = s.host.nextJob ∧ (s.headBlock fn).host.jobs = s.host.jobs := by
  unfold State.headBlock
  dsimp only
  split
  · exact ⟨rfl, rfl, rfl⟩
  · split
    · rw [State.hostWrite_rest]
      exact ⟨rfl, rfl, rfl⟩
    · rw [State.countAll_rest]
      exact ⟨rfl, rfl, rfl⟩

/-- What was written to the host stays written through a head block. -/
theorem State.headBlock_writes (s : State) (fn : Nat) {w : Nat × List Byte} (h : w ∈ s.out.writes ++ s.host.heldWrites) :
    w ∈ (s.headBlock fn).out.writes ++ (s.headBlock fn).host.heldWrites := by
  unfold State.headBlock
  dsimp only
  split
  · exact h
  · split
    · rw [State.hostWrite_writes]
      exact List.mem_append_left _ h
    · rw [State.countAll_rest]
      exact h

/-! ### Records read -/

/-- Reading a record changes no job and no queue. -/
theorem State.readRec_rest (s : State) (raw : Nat) : s.readRec raw = { s with chans := (s.readRec raw).chans } := by
  unfold State.readRec
  dsimp only
  repeat' split
  all_goals rfl

theorem State.setCtx_jobs (s : State) (raw : Nat) (x : Ctx) (c : Nat) : ((s.setCtx raw x).chan c).jobs = (s.chan c).jobs := by
  rw [State.setCtx, State.chan_modChan]
  split
  · next h => rw [h]
  · rfl

theorem State.readRec_jobs (s : State) (raw c : Nat) : ((s.readRec raw).chan c).jobs = (s.chan c).jobs := by
  unfold State.readRec
  dsimp only
  repeat' split
  all_goals simp only [State.setCtx_jobs]

/-- A sound record reads as it stands (R218). -/
theorem State.readRec_sound {s : State} {raw : Nat} (h : (s.ctx raw).cacheBad = false) (hp : ∀ p ∈ (s.ctx raw).pages, p.poisoned = false) :
    s.readRec raw = s := by
  have hany : (s.ctx raw).pages.any (fun p => p.valid && p.poisoned) = false :=
    List.any_eq_false.2 fun p hm => by simp [hp p hm]
  unfold State.readRec
  dsimp only
  rw [h, if_neg Bool.false_ne_true, hany, if_neg (fun h => Bool.false_ne_true h.2)]

end Sys2Proof.Machine

namespace Sys2Proof.Claims

open Sys2Proof.Machine

/-- The check of a fetched descriptor found nothing: it is run, and the head block follows (R254). -/
theorem fetched_runs {s : State} {fn sq pos : Nat} {d : BitVec 512} {kinds : List Nat} (run : State → Job → State) {j : Job}
    (h : Fetches s fn sq pos) (hj : j = s.newJob fn sq pos d) (hk : j.kind ∈ kinds) (hv : (fetchedFor s j).verdictOf j = none) :
    s.fetched fn sq (.data d) kinds run = (run (fetchedFor s j) j).headBlock fn := by
  subst hj
  obtain ⟨hq, hd, hs⟩ := h
  have hp : s.fetchPos fn sq = some pos := by
    obtain ⟨l, hl⟩ := List.head?_eq_some_iff.1 hq
    simp [State.fetchPos, hl]
  have hg : s.got fn sq pos (.data d) = .desc d := by simp [State.got, hd, hs]
  have hc : kinds.contains (s.newJob fn sq pos d).kind = true := List.contains_iff_mem.2 hk
  unfold fetchedFor at hv ⊢
  simp only [State.fetched, hp, hg, hc, Bool.not_true, Bool.false_eq_true, if_false]
  dsimp only at hv
  rw [show s.popFetch.countJob.fitted = s.fitted from rfl, hv]

/-- A fetch that brought no descriptor (R254). -/
theorem fetched_fails {s : State} {fn sq pos : Nat} {f : Fetch} {kinds : List Nat} (run : State → Job → State) {status cause : Nat}
    (h : s.host.fetchQ.head? = some (fn, sq, pos)) (hg : s.got fn sq pos f = .failed status cause) :
    s.fetched fn sq f kinds run = (s.popFetch.failFetch fn sq pos status cause).headBlock fn := by
  have hp : s.fetchPos fn sq = some pos := by
    obtain ⟨l, hl⟩ := List.head?_eq_some_iff.1 h
    simp [State.fetchPos, hl]
  simp only [State.fetched, hp, hg]

/-- What the checks of a descriptor find of jobs, queues and pages is what stood before but for the fetch. -/
theorem fetchedFor_rest (s : State) (j : Job) : fetchedFor s j = { s with
    chans := (fetchedFor s j).chans
    host := { s.host with fetchQ := s.host.fetchQ.drop 1, nextJob := s.host.nextJob + 1 } } := by
  unfold fetchedFor
  dsimp only
  split
  · rw [State.readRec_rest]
    rfl
  · rfl

theorem fetchedFor_jobs (s : State) (j : Job) (c : Nat) : ((fetchedFor s j).chan c).jobs = (s.chan c).jobs := by
  unfold fetchedFor
  dsimp only
  split
  · exact State.readRec_jobs _ _ _
  · rfl

theorem fetchedFor_sound {s : State} {j : Job} (h : (s.ctx j.ctx).cacheBad = false) (hp : ∀ p ∈ (s.ctx j.ctx).pages, p.poisoned = false) :
    fetchedFor s j = s.popFetch.countJob := by
  unfold fetchedFor
  dsimp only
  split
  · exact State.readRec_sound (s := s.popFetch.countJob) h hp
  · rfl

end Sys2Proof.Claims
end

section
/-! Family 12_host_queues: fetches that fail (R254). -/

namespace Sys2Proof.Claims

open Sys2Proof.Machine

/-- A descriptor's row is a fetch. -/
theorem descriptorRow_fetches {e : (Nat → Nat → Fetch → Instr) × Nat} (he : e ∈ descriptorRows) (fn sq : Nat) (f : Fetch) :
    ∃ kinds run, ∀ s, exec (e.1 fn sq f) s = .next (s.fetched fn sq f kinds run) := by
  simp only [descriptorRows, List.mem_cons, List.not_mem_nil, or_false] at he
  rcases he with rfl | rfl | rfl | rfl | rfl | rfl | rfl | rfl | rfl | rfl
  all_goals dsimp only; exact ⟨_, _, fun s => rfl⟩

/-- Settles O39: the outcome of the fetch, then its completion. -/
theorem failedFetchesComplete : Obligations.FailedFetchesComplete := by
  intro e he s fn sq pos f hq status cause hst
  obtain ⟨kinds, run, hx⟩ := descriptorRow_fetches he fn sq f
  have hg : s.got fn sq pos f = .failed status cause := by
    unfold State.got
    by_cases hd : s.dmaOk fn (((s.fn fn).sqRing sq).descAddr pos) 64 false = true
    · rw [if_pos hd]
      by_cases hh : s.hostSecure = true
      · rw [if_pos ⟨hd, hh⟩] at hst
        rw [if_pos hh]
        cases f with
        | data d => cases hst
        | ur => obtain ⟨rfl, rfl⟩ := Prod.mk.inj (List.mem_singleton.1 hst); rfl
        | ca => obtain ⟨rfl, rfl⟩ := Prod.mk.inj (List.mem_singleton.1 hst); rfl
        | poison => obtain ⟨rfl, rfl⟩ := Prod.mk.inj (List.mem_singleton.1 hst); rfl
      · rw [if_neg (fun h => hh h.2)] at hst
        rw [if_neg hh]
        obtain ⟨rfl, rfl⟩ := Prod.mk.inj (List.mem_singleton.1 hst)
        rfl
    · rw [if_neg (fun h => hd h.1)] at hst
      rw [if_neg hd]
      obtain ⟨rfl, rfl⟩ := Prod.mk.inj (List.mem_singleton.1 hst)
      rfl
  refine ⟨_, hx s, ?_, ?_⟩
  · rw [fetched_fails run hq hg, (State.headBlock_queue _ _).1]
    exact (Booked.complete _ _).fetchQ
  · rw [fetched_fails run hq hg]
    have hs : SameRings s s.popFetch := ⟨rfl, rfl, fun _ _ => rfl⟩
    exact (((completed_complete _ _).of_sameRings (SameRings.sqDone s.popFetch fn sq)).of_sameRings hs).headBlock fn

end Sys2Proof.Claims
end

section
/-! SUPPORT. The sequence of a context's work (R18): what a place in it and its run come to. -/

namespace Sys2Proof.Machine

/-- A sequence whose first work is under way waits. -/
theorem State.advance_waits {s : State} {raw : Nat} {j : Job} (h : (s.chan (raw / 32768)).jobs.find? (fun x => x.ctx == raw) = some j)
    (hs : j.stage ≠ .ordered) : s.advance raw = s := by
  rw [State.advance, State.runOrdered]
  dsimp only
  rw [h]
  exact if_pos hs

/-- A context with no work left has nothing to run. -/
theorem State.advance_none {s : State} {raw : Nat} (h : ∀ x ∈ (s.chan (raw / 32768)).jobs, x.ctx ≠ raw) : s.advance raw = s := by
  have hf : (s.chan (raw / 32768)).jobs.find? (fun x => x.ctx == raw) = none :=
    List.find?_eq_none.2 fun x hx => by simpa using h x hx
  rw [State.advance, State.runOrdered]
  dsimp only
  rw [hf]

theorem State.chan_modChan_jobs (s : State) (c d : Nat) (f : Chan → Chan) (h : ∀ k, (f k).jobs = k.jobs) :
    ((s.modChan c f).chan d).jobs = (s.chan d).jobs := by
  rw [State.chan_modChan]
  split
  · next e => rw [h, e]
  · rfl

/-- Work put behind other work of its context waits there (R18). -/
theorem State.enqueue_behind {s : State} {j j0 : Job} (h : (s.chan (j.ctx / 32768)).jobs.find? (fun x => x.ctx == j.ctx) = some j0)
    (hs : j0.stage ≠ .ordered) : s.enqueue j = s.modChan (j.ctx / 32768) (fun k => { k with jobs := k.jobs ++ [j] }) := by
  rw [State.enqueue]
  refine State.advance_waits (j := j0) ?_ hs
  rw [State.chan_modChan_same, List.find?_append, h]
  rfl

theorem State.ctx_modChan_jobs (s : State) (c : Nat) (f : List Job → List Job) (raw : Nat) :
    (s.modChan c (fun k => { k with jobs := f k.jobs })).ctx raw = s.ctx raw := by
  rw [State.ctx, State.chan_modChan]
  split
  · next h => rw [← h]; rfl
  · rfl

theorem State.modCtx_jobs (s : State) (raw : Nat) (f : Ctx → Ctx) (c : Nat) : ((s.modCtx raw f).chan c).jobs = (s.chan c).jobs :=
  State.setCtx_jobs s raw _ c

theorem State.chargeMove_jobs (s : State) (c n d : Nat) : ((s.chargeMove c n).chan d).jobs = (s.chan d).jobs :=
  State.chan_modChan_jobs s c d _ fun _ => rfl

end Sys2Proof.Machine
end

section
/-! Family 10_contexts: work of a context in its turn (R18, R199 to R202, R211). -/

namespace Sys2Proof.Claims

open Sys2Proof.Machine

/-! ### Waiting -/

/-- What a kind of context work does before it takes its place: nothing to jobs and queues. -/
theorem workWaits {s u : State} {j j0 : Job} (hu : (u.chan (j.ctx / 32768)).jobs = (s.chan (j.ctx / 32768)).jobs)
    (hq : u.host.fetchQ = s.host.fetchQ.drop 1) (hn : u.host.nextJob = s.host.nextJob + 1) (fn : Nat)
    (h : (s.chan (j.ctx / 32768)).jobs.find? (fun x => x.ctx == j.ctx) = some j0) (hs : j0.stage ≠ .ordered) :
    (((u.enqueue j).headBlock fn).chan (j.ctx / 32768)).jobs = (s.chan (j.ctx / 32768)).jobs ++ [j] ∧
    ((u.enqueue j).headBlock fn).host.fetchQ = s.host.fetchQ.drop 1 ∧ ((u.enqueue j).headBlock fn).host.nextJob = s.host.nextJob + 1 ∧
    ((u.enqueue j).headBlock fn).ctx j.ctx = u.ctx j.ctx := by
  rw [(DbgOnly.headBlock _ _).jobs, (DbgOnly.headBlock _ _).ctx, (State.headBlock_queue _ _).1, (State.headBlock_queue _ _).2.1,
    State.enqueue_behind (hu ▸ h) hs]
  refine ⟨?_, hq, hn, State.ctx_modChan_jobs _ _ (· ++ [j]) _⟩
  rw [State.chan_modChan_same]
  exact congrArg (· ++ [j]) hu

/-- A descriptor's run that puts its job, its checks passed, behind the work under way. -/
theorem fetched_waits {s u : State} {fn sq pos : Nat} {d : BitVec 512} {j j0 : Job} {kinds : List Nat} {run : State → Job → State}
    (hfe : Fetches s fn sq pos) (hj : j = s.newJob fn sq pos d) (hk : j.kind ∈ kinds) (hv : (fetchedFor s j).verdictOf j = none)
    (hrun : run (fetchedFor s j) j = u.enqueue j) (hu : (u.chan (j.ctx / 32768)).jobs = ((fetchedFor s j).chan (j.ctx / 32768)).jobs)
    (hh : u.host = (fetchedFor s j).host)
    (h : (s.chan (j.ctx / 32768)).jobs.find? (fun x => x.ctx == j.ctx) = some j0) (hs : j0.stage ≠ .ordered) :
    ∃ t, go (s.fetched fn sq (.data d) kinds run) = .next t ∧
      (t.chan (j.ctx / 32768)).jobs = (s.chan (j.ctx / 32768)).jobs ++ [j] ∧
      t.host.fetchQ = s.host.fetchQ.drop 1 ∧ t.host.nextJob = s.host.nextJob + 1 ∧ t.ctx j.ctx = u.ctx j.ctx := by
  have hrest : u.host = { s.host with fetchQ := s.host.fetchQ.drop 1, nextJob := s.host.nextJob + 1 } := hh.trans (by rw [fetchedFor_rest])
  refine ⟨_, rfl, ?_⟩
  rw [fetched_runs run hfe hj hk hv, hrun]
  exact workWaits (hu.trans (fetchedFor_jobs s j _)) (by rw [hrest]) (by rw [hrest]) fn h hs

/-- Settles O40: the five kinds each put their job behind the work under way. -/
theorem contextWorkWaitsItsTurn : Obligations.ContextWorkWaitsItsTurn := by
  intro e he s fn sq pos d j j0 hfe hj hk hv h hs
  simp only [List.mem_cons, List.not_mem_nil, or_false] at he
  rcases he with rfl | rfl | rfl | rfl | rfl
  · obtain ⟨t, h0, h1, h2, h3, -⟩ := fetched_waits (kinds := [3]) (run := State.enqueue) hfe hj (by simp [hk]) hv rfl rfl rfl h hs
    exact ⟨t, h0, h1, h2, h3, fun h => absurd h (by decide)⟩
  · obtain ⟨t, h0, h1, h2, h3, h4⟩ := fetched_waits (kinds := [4]) (run := State.takeRelease) hfe hj (by simp [hk]) hv rfl
      (State.modCtx_jobs _ _ _ _) rfl h hs
    exact ⟨t, h0, h1, h2, h3, fun _ => (congrArg Ctx.life h4).trans (by rw [State.ctx_modCtx])⟩
  · obtain ⟨t, h0, h1, h2, h3, -⟩ := fetched_waits (kinds := [5]) (run := State.takeMove) hfe hj (by simp [hk]) hv rfl
      (State.chargeMove_jobs _ _ _ _) rfl h hs
    exact ⟨t, h0, h1, h2, h3, fun h => absurd h (by decide)⟩
  · obtain ⟨t, h0, h1, h2, h3, -⟩ := fetched_waits (kinds := [6]) (run := State.takeMove) hfe hj (by simp [hk]) hv rfl
      (State.chargeMove_jobs _ _ _ _) rfl h hs
    exact ⟨t, h0, h1, h2, h3, fun h => absurd h (by decide)⟩
  · obtain ⟨t, h0, h1, h2, h3, -⟩ := fetched_waits (kinds := [7]) (run := State.enqueue) hfe hj (by simp [hk]) hv rfl rfl rfl h hs
    exact ⟨t, h0, h1, h2, h3, fun h => absurd h (by decide)⟩

/-! ### Opening -/

/-- A descriptor's completion at its fetch, over a state that differs from the first in its channels and its fetch queue. -/
theorem completed_fetched {s v : State} (hv : v = { s with
      chans := v.chans, host := { s.host with fetchQ := v.host.fetchQ, nextJob := v.host.nextJob } }) (j : Job) (status cause detail fn : Nat) :
    Completed s ((v.endFetched j status cause detail).headBlock fn) { s.jobCpl j 0 status cause with detail := detail } := by
  have hs : SameRings s v := by rw [hv]; exact ⟨rfl, rfl, fun _ _ => rfl⟩
  have hj : v.jobCpl j 0 status cause = s.jobCpl j 0 status cause := by rw [hv]; rfl
  have hc := completed_endFetched v j status cause detail
  rw [hj] at hc
  exact (hc.of_sameRings hs).headBlock fn

theorem readRec_life {s : State} {raw : Nat} (h : (s.ctx raw).cacheBad = false) : ((s.readRec raw).ctx raw).life = (s.ctx raw).life := by
  unfold State.readRec
  dsimp only
  rw [h, if_neg Bool.false_ne_true]
  split
  · rw [State.ctx_setCtx]
  · rfl

theorem setCtx_usedPages (s : State) (raw : Nat) (x : Ctx) (c : Nat) : ((s.setCtx raw x).chan c).mem.usedPages = (s.chan c).mem.usedPages := by
  rw [State.setCtx, State.chan_modChan]
  split
  · next h => rw [h]
  · rfl

theorem readRec_usedPages (s : State) (raw c : Nat) : ((s.readRec raw).chan c).mem.usedPages = (s.chan c).mem.usedPages := by
  unfold State.readRec
  dsimp only
  repeat' split
  all_goals simp only [setCtx_usedPages]

theorem fetchedFor_usedPages (s : State) (j : Job) (c : Nat) : ((fetchedFor s j).chan c).mem.usedPages = (s.chan c).mem.usedPages := by
  unfold fetchedFor
  dsimp only
  split
  · exact readRec_usedPages _ _ _
  · rfl

theorem fetchedFor_life {s : State} {j : Job} (h : (s.ctx j.ctx).cacheBad = false) :
    ((fetchedFor s j).ctx j.ctx).life = (s.ctx j.ctx).life := by
  unfold fetchedFor
  dsimp only
  split
  · exact readRec_life (s := s.popFetch.countJob) h
  · rfl

/-- Which pages are free is a matter of those in use. -/
theorem allocPages_congr {m m' : Mem} (h : m'.usedPages = m.usedPages) (light : Bool) (n : Nat) : m'.allocPages light n = m.allocPages light n := by
  rw [Mem.allocPages, Mem.allocPages, h]

/-- Marking pages in use. -/
theorem sget_foldl_used (ps : List Nat) (m : Sparse Bool) (p : Nat) :
    sget false (ps.foldl (fun m p => sput false m p true) m) p = true ↔ p ∈ ps ∨ sget false m p = true := by
  rw [sget_foldl_sput false (fun _ => true)]
  by_cases h : p ∈ ps <;> simp [h]

/-- The record that an opening writes (R200). -/
def openedCtx (d : BitVec 512) (ps : List Nat) : Ctx :=
  { life := .open, blobPages := fld d 351 345, hotPages := fld d 344 338, prio := fld d 337 336, cadence := fld d 335 320
    program := fld d 319 314, routingBase := fld d 313 302, userTag := BitVec.ofNat 64 (fld d 287 224)
    pages := ps.map (fun p => { valid := true, zero := true, page := p }) }

/-- An opened context before its count and completion. -/
def opened (u : State) (j : Job) (ps : List Nat) : State :=
  (u.modChan (j.ctx / 32768) (fun k => { k with mem := { k.mem with
    usedPages := ps.foldl (fun m p => sput false m p true) k.mem.usedPages } })).modCtx j.ctx (fun _ => openedCtx j.desc ps)

theorem openCtx_opens {u : State} {j : Job} {ps : List Nat} (hl : (u.ctx j.ctx).life = .free)
    (hc : fld (sget 0 u.host.rules.rings j.fn) 33 32 ≤ fld j.desc 337 336)
    (ha : (u.chan (j.ctx / 32768)).mem.allocPages u.light (fld j.desc 351 345) = some ps) :
    u.openCtx j = ((opened u j ps).count (j.ctx / 32768) 0x47 (some j.ctx)).endFetched j stOK 0 := by
  unfold State.openCtx
  dsimp only
  rw [if_neg (by rw [hl]; simp), if_neg (Nat.not_lt.2 hc), ha]
  rfl

theorem opened_ctx (u : State) (j : Job) (ps : List Nat) : (opened u j ps).ctx j.ctx = openedCtx j.desc ps := by
  rw [opened, State.ctx_modCtx]
  rfl

theorem opened_usedPages (u : State) (j : Job) (ps : List Nat) : ((opened u j ps).chan (j.ctx / 32768)).mem.usedPages =
    ps.foldl (fun m p => sput false m p true) (u.chan (j.ctx / 32768)).mem.usedPages := by
  rw [opened, State.modCtx, setCtx_usedPages, State.chan_modChan_same]

/-- R200: a free context opens. -/
theorem ctxOpen_opens {s : State} {fn sq pos : Nat} {d : BitVec 512} {j : Job} (hfe : Fetches s fn sq pos) (hj : j = s.newJob fn sq pos d)
    (hk : j.kind = 2) (hv : (fetchedFor s j).verdictOf j = none) (hl : (s.ctx j.ctx).life = .free) (hb : (s.ctx j.ctx).cacheBad = false)
    (hc : fld (sget 0 s.host.rules.rings fn) 33 32 ≤ fld d 337 336) {ps : List Nat}
    (ha : (s.chan (j.ctx / 32768)).mem.allocPages s.light (fld d 351 345) = some ps) :
    ∃ t, exec (.ctxOpen fn sq (.data d)) s = .next t ∧ Completed s t { s.jobCpl j 0 0 0 with frame := s.frameN } ∧
      t.ctx j.ctx = openedCtx d ps ∧
      (∀ p, sget false (t.chan (j.ctx / 32768)).mem.usedPages p = true ↔ (p ∈ ps ∨ sget false (s.chan (j.ctx / 32768)).mem.usedPages p = true)) := by
  have hrest := fetchedFor_rest s j
  have hjf : j.fn = fn := by rw [hj]; rfl
  have hjd : j.desc = d := by rw [hj]; rfl
  have hrules : (fetchedFor s j).host.rules = s.host.rules := by rw [hrest]
  have hlight : (fetchedFor s j).light = s.light := by rw [hrest]; rfl
  have hopen := openCtx_opens (u := fetchedFor s j) (j := j) (ps := ps) ((fetchedFor_life hb).trans hl) (by rw [hrules, hjf, hjd]; exact hc)
    (by rw [allocPages_congr (fetchedFor_usedPages s j _), hlight, hjd]; exact ha)
  have hd : DbgOnly (opened (fetchedFor s j) j ps) (((fetchedFor s j).openCtx j).headBlock fn) := by
    rw [hopen]
    exact ((Booked.count _ _ _ _).trans (.endFetched _ _ _ _ _)).toDbgOnly.trans (.headBlock _ _)
  refine ⟨_, congrArg Host.Outcome.next (fetched_runs State.openCtx hfe hj (by simp [hk]) hv), ?_, ?_, fun p => ?_⟩
  · rw [hopen]
    refine completed_fetched ?_ j stOK 0 0 fn
    rw [(State.count_only _ _ _ _).rest, opened, State.modCtx, hrest]
    rfl
  · rw [hd.ctx, opened_ctx, hjd]
  · rw [hd.mem, opened_usedPages, fetchedFor_usedPages]
    exact sget_foldl_used _ _ _

/-- R200: one that is not free refuses. -/
theorem ctxOpen_refused {s : State} {fn sq pos : Nat} {d : BitVec 512} {j : Job} (hfe : Fetches s fn sq pos) (hj : j = s.newJob fn sq pos d)
    (hk : j.kind = 2) (hv : (fetchedFor s j).verdictOf j = none) (hl : (s.ctx j.ctx).life ≠ .free) (hb : (s.ctx j.ctx).cacheBad = false) :
    ∃ t, exec (.ctxOpen fn sq (.data d)) s = .next t ∧ Completed s t { s.jobCpl j 0 5 0x21 with frame := s.frameN } := by
  have hrest := fetchedFor_rest s j
  have hopen : (fetchedFor s j).openCtx j = (fetchedFor s j).endFetched j stUnsupported 0x21 := by
    unfold State.openCtx
    dsimp only
    exact if_pos (by rw [fetchedFor_life hb]; exact hl)
  refine ⟨_, congrArg Host.Outcome.next (fetched_runs State.openCtx hfe hj (by simp [hk]) hv), ?_⟩
  rw [hopen]
  refine completed_fetched ?_ j stUnsupported 0x21 0 fn
  rw [hrest]

/-! ### Release -/

/-- One page's way back to the pool, and the report of one that stays out (R202, R218). -/
def freePage (c ctx : Nat) (s : State) (e : Page × Nat) : State :=
  if !e.1.valid then s
  else if e.1.poisoned then s.event 0x02 4 c ctx e.2
  else s.modChan c (fun k => { k with mem := { k.mem.dropPages [e.1] with usedPages := sput false k.mem.usedPages e.1.page false } })

theorem freePage_event (c ctx : Nat) (s : State) (sub arg2 : Nat) (d : Nat) :
    ((s.event 0x02 sub c ctx arg2).chan d) = s.chan d := by
  rw [State.event_rest]; rfl

/-- A page not in use stays so. -/
theorem freePage_used (c ctx : Nat) (s : State) (e : Page × Nat) (p : Nat) (h : sget false (s.chan c).mem.usedPages p = false) :
    sget false ((freePage c ctx s e).chan c).mem.usedPages p = false := by
  unfold freePage
  split
  · exact h
  · split
    · rw [freePage_event]; exact h
    · rw [State.chan_modChan_same]
      rw [show sget false (sput false (s.chan c).mem.usedPages e.1.page false) p = _ from sget_sput _ _ _ _ _]
      split
      · rfl
      · exact h

/-- A valid page that is not poisoned is back. -/
theorem freePage_freed (c ctx : Nat) (s : State) (e : Page × Nat) (hv : e.1.valid = true) (hp : e.1.poisoned = false) :
    sget false ((freePage c ctx s e).chan c).mem.usedPages e.1.page = false := by
  unfold freePage
  rw [hv, hp, if_neg (by simp), if_neg (by simp), State.chan_modChan_same]
  exact sget_sput_same false false (s.chan c).mem.usedPages e.1.page

theorem foldl_freePage (c ctx : Nat) : ∀ (l : List (Page × Nat)) (s : State) (p : Nat),
    (sget false (s.chan c).mem.usedPages p = false ∨ ∃ e ∈ l, e.1.valid = true ∧ e.1.poisoned = false ∧ e.1.page = p) →
    sget false ((l.foldl (freePage c ctx) s).chan c).mem.usedPages p = false
  | [], _, _, h => h.resolve_right fun ⟨_, he, _⟩ => by cases he
  | e :: l, s, p, h => by
    refine foldl_freePage c ctx l _ p ?_
    rcases h with h | ⟨e', he, hv, hp, rfl⟩
    · exact .inl (freePage_used c ctx s e p h)
    · rcases List.mem_cons.1 he with rfl | he
      · exact .inl (freePage_freed c ctx s _ hv hp)
      · exact .inr ⟨e', he, hv, hp, rfl⟩

theorem freePage_jobs (c ctx : Nat) (s : State) (e : Page × Nat) (d : Nat) : ((freePage c ctx s e).chan d).jobs = (s.chan d).jobs := by
  unfold freePage
  split
  · rfl
  · split
    · rw [freePage_event]
    · exact State.chan_modChan_jobs s c d _ fun _ => rfl

theorem freeCtxPages_eq (s : State) (c ctx : Nat) : s.freeCtxPages c ctx = (s.ctx ctx).pages.zipIdx.foldl (freePage c ctx) s := rfl

/-- The residue check is bookkeeping (R282). -/
theorem booked_residueCheck (s : State) (c ctx : Nat) : Booked s (s.residueCheck c ctx) := by
  have hf : ∀ (f : Nat × Nat → Nat) (l : List (Nat × Nat)) (u : State), Booked u (l.foldl (fun s e => s.event 0x09 1 c ctx (f e)) u) := by
    intro f l
    induction l with
    | nil => exact fun u => .refl u
    | cons e l ih => exact fun u => (Booked.event u _ _ _ _ _).trans (ih _)
  unfold State.residueCheck
  dsimp only
  exact (Booked.of_counts (State.countN_only _ _ _ _ _)).trans (hf _ _ _)

/-- A context freed: its record is that of reset. -/
theorem freeCtx_ctx (s : State) (c ctx : Nat) : (s.freeCtx c ctx).ctx ctx = {} := by
  unfold State.freeCtx
  dsimp only
  rw [(Booked.count _ _ _ _).ctx, State.ctx_setCtx]

theorem freeCtx_jobs (s : State) (c ctx d : Nat) : ((s.freeCtx c ctx).chan d).jobs = (s.chan d).jobs := by
  unfold State.freeCtx
  dsimp only
  rw [(Booked.count _ _ _ _).jobs, State.setCtx_jobs, freeCtxPages_eq]
  have h := foldl_keeps (fun s : State => (s.chan d).jobs) (freePage c ctx) (fun s e => freePage_jobs c ctx s e d)
  rw [h, (booked_residueCheck s c ctx).jobs]

theorem freeCtx_pages (s : State) (c ctx : Nat) {p : Page} (hp : p ∈ (s.ctx ctx).pages) (hv : p.valid = true) (hq : p.poisoned = false) :
    sget false ((s.freeCtx c ctx).chan c).mem.usedPages p.page = false := by
  unfold State.freeCtx
  dsimp only
  rw [(Booked.count _ _ _ _).mem, setCtx_usedPages, freeCtxPages_eq, (booked_residueCheck s c ctx).ctx]
  obtain ⟨i, hi, he⟩ := List.mem_iff_getElem.1 hp
  refine foldl_freePage c ctx _ _ _ (.inr ⟨(p, i), ?_, hv, hq, rfl⟩)
  rw [List.mem_zipIdx_iff_getElem?, List.getElem?_eq_some_iff]
  exact ⟨hi, he⟩

/-- R202: a releasing context with no work left is free. -/
theorem releaseComplete_frees {s : State} {raw : Nat} (hl : (s.ctx raw).life = .releasing)
    (hj : (s.chan (raw / 32768)).jobs.find? (fun j => j.ctx == raw) = none) :
    exec (.ctxReleaseComplete raw) s = .next (s.freeCtx (raw / 32768) raw) := by
  have he : exec (.ctxReleaseComplete raw) s = execCtxReleaseComplete raw s := rfl
  rw [he, execCtxReleaseComplete, hj]
  exact onlyIf_true (beq_iff_eq.2 hl)

theorem releaseComplete_completes {s : State} {raw : Nat} {j : Job} (hj : (s.chan (raw / 32768)).jobs.find? (fun j => j.ctx == raw) = some j)
    (hk : j.kind = 4) (hv : j.verdict = none) : exec (.ctxReleaseComplete raw) s =
      .next (((s.freeCtx (raw / 32768) raw).finish (raw / 32768) j stOK 0).advance raw) := by
  have he : exec (.ctxReleaseComplete raw) s = execCtxReleaseComplete raw s := rfl
  rw [he, execCtxReleaseComplete, hj]
  dsimp only
  rw [hv, if_pos ⟨hk, rfl⟩]
  rfl

theorem dropJob_jobs (s : State) (c id : Nat) : ((s.dropJob c id).chan c).jobs = (s.chan c).jobs.filter (fun x => x.id ≠ id) := by
  rw [State.dropJob, State.chan_modChan_same]

theorem dropJob_ctx (s : State) (c id raw : Nat) : (s.dropJob c id).ctx raw = s.ctx raw :=
  State.ctx_modChan_jobs s c (fun l => l.filter (fun x => x.id ≠ id)) raw

/-- The last work of a context finished: its channel's other work stands, and nothing of the context runs on. -/
theorem finish_last {s : State} {raw : Nat} {j : Job} (status cause detail : Nat)
    (h : ∀ x ∈ (s.chan (raw / 32768)).jobs, x.ctx = raw → x.id = j.id) :
    (s.finish (raw / 32768) j status cause detail).advance raw = s.finish (raw / 32768) j status cause detail ∧
    ((s.finish (raw / 32768) j status cause detail).chan (raw / 32768)).jobs = (s.chan (raw / 32768)).jobs.filter (fun x => x.id ≠ j.id) := by
  have hb := Booked.finish s (raw / 32768) j status cause detail
  have hjobs : ((s.finish (raw / 32768) j status cause detail).chan (raw / 32768)).jobs =
      (s.chan (raw / 32768)).jobs.filter (fun x => x.id ≠ j.id) := by rw [hb.jobs, dropJob_jobs]
  refine ⟨State.advance_none fun x hx hc => ?_, hjobs⟩
  rw [hjobs, List.mem_filter] at hx
  exact of_decide_eq_true hx.2 (h x hx.1 hc)

/-- Settles O41: opening, refusal, and both ends of a release. -/
theorem contextsOpenAndAreFreed : Obligations.ContextsOpenAndAreFreed := by
  refine ⟨fun s fn sq pos d j hfe hj hk hv => ⟨fun hl hb hc ps ha => ctxOpen_opens hfe hj hk hv hl hb hc ha,
    fun hl hb => ctxOpen_refused hfe hj hk hv hl hb⟩, fun s raw => ⟨fun hl hj => ?_, fun j hj hk hv h => ?_⟩⟩
  · exact ⟨_, releaseComplete_frees hl hj, freeCtx_ctx _ _ _, fun p hp hv hq => freeCtx_pages s _ raw hp hv hq⟩
  · obtain ⟨ha, hjobs⟩ := finish_last (s := s.freeCtx (raw / 32768) raw) (raw := raw) (j := j) stOK 0 0 (by rw [freeCtx_jobs]; exact h)
    refine ⟨_, releaseComplete_completes hj hk hv, ?_, ?_⟩
    · rw [ha, (Booked.finish _ _ _ _ _ _).ctx, dropJob_ctx, freeCtx_ctx]
    · rw [ha, hjobs, freeCtx_jobs]

end Sys2Proof.Claims
end

section
/-! SUPPORT. What runs by itself in a context's sequence, and how state moves end (R18, R201, R211). -/

namespace Sys2Proof.Machine

theorem State.runOrdered_none : ∀ (fuel : Nat) {s : State} {raw : Nat}, (∀ x ∈ (s.chan (raw / 32768)).jobs, x.ctx ≠ raw) →
    s.runOrdered fuel raw = s
  | 0, _, _, _ => rfl
  | fuel + 1, s, raw, h => by
    have hf : (s.chan (raw / 32768)).jobs.find? (fun x => x.ctx == raw) = none :=
      List.find?_eq_none.2 fun x hx => by simpa using h x hx
    rw [State.runOrdered]
    dsimp only
    rw [hf]

/-- The first work of a sequence whose record is sound. -/
theorem State.runOrdered_first {s : State} {raw : Nat} {j : Job} (fuel : Nat) (h : (s.chan (raw / 32768)).jobs.find? (fun x => x.ctx == raw) = some j)
    (ho : j.stage = .ordered) (hv : j.verdict = none) (hr : s.readRec raw = s)
    (hp : j.kind = 3 ∨ j.kind = 5 ∨ j.kind = 6 → (s.ctx raw).poisonSrc ≠ 3) :
    s.runOrdered (fuel + 1) raw =
      if j.kind = 7 then
        if s.dmaOk j.fn j.addr 128 true then
          ((s.hostWrite j.addr (leBytes 128 (s.ctxBits raw).toNat)).finish (raw / 32768) j stOK 0).runOrdered fuel raw
        else (s.finish (raw / 32768) j stProtection 0x11).runOrdered fuel raw
      else if j.kind = 3 then
        (((s.modChan (raw / 32768) (fun k => { k with mem := k.mem.dropPages (s.ctx raw).pages })).modCtx raw Ctx.reset).finish (raw / 32768) j
          stOK 0).runOrdered fuel raw
      else if j.kind = 5 ∨ j.kind = 6 then s.modJob (raw / 32768) j.id (fun j => { j with stage := .moving })
      else s := by
  rw [State.runOrdered]
  dsimp only
  rw [h]
  dsimp only
  rw [hv, if_neg (by simp [ho]), hr]
  dsimp only
  rw [if_neg (fun hn : (j.kind = 3 ∨ j.kind = 5 ∨ j.kind = 6) ∧ (s.ctx raw).poisonSrc = 3 => hp hn.1 hn.2)]

/-- A sequence that holds one job: it is the first. -/
theorem find_last {jobs : List Job} {j : Job} (h : ∀ x ∈ jobs, x.ctx ≠ j.ctx) : (jobs ++ [j]).find? (fun x => x.ctx == j.ctx) = some j := by
  have hf : jobs.find? (fun x => x.ctx == j.ctx) = none := List.find?_eq_none.2 fun x hx => by simpa using h x hx
  rw [List.find?_append, hf]
  simp

/-- A job whose checks passed has a record that is not lost, where its kind reads it (R218, R254). -/
theorem State.verdictOf_poisonSrc {s : State} {j : Job} (h : s.verdictOf j = none) (hk : j.kind = 3 ∨ j.kind = 5 ∨ j.kind = 6) :
    (s.ctx j.ctx).poisonSrc ≠ 3 := by
  intro hp
  unfold State.verdictOf at h
  dsimp only at h
  rw [hp] at h
  rw [if_neg (show ¬ (8 ≤ j.kind ∨ j.kind = 2 ∨ j.kind = 7) by omega), if_neg (show ¬ j.kind = 4 by omega), if_pos rfl] at h
  split_ifs at h

theorem State.ctx_modChan_mem (s : State) (c : Nat) (f : Chan → Chan) (h : ∀ k, (f k).mem.ctxs = k.mem.ctxs) (raw : Nat) :
    (s.modChan c f).ctx raw = s.ctx raw := by
  rw [State.ctx, State.chan_modChan]
  split
  · next e => rw [h, ← e]; rfl
  · rfl

end Sys2Proof.Machine
end

section
/-! Family 10_contexts: resets, queries and state moves in their turn (R201, R199, R211). -/

namespace Sys2Proof.Claims

open Sys2Proof.Machine

section

variable {s u : State} {j : Job} (hu : (u.chan (j.ctx / 32768)).jobs = (s.chan (j.ctx / 32768)).jobs)
  (hn : ∀ x ∈ (s.chan (j.ctx / 32768)).jobs, x.ctx ≠ j.ctx ∧ x.id ≠ j.id)

include hu hn

/-- The state in which a job has its place, first in its context's sequence. -/
theorem placed_find : ((u.modChan (j.ctx / 32768) (fun k => { k with jobs := k.jobs ++ [j] })).chan (j.ctx / 32768)).jobs.find?
    (fun x => x.ctx == j.ctx) = some j := by
  rw [State.chan_modChan_same]
  exact find_last (by rw [hu]; exact fun x hx => (hn x hx).1)

/-- With the job done its channel's work is as before. -/
theorem placed_dropped : ((u.chan (j.ctx / 32768)).jobs ++ [j]).filter (fun x => x.id ≠ j.id) = (s.chan (j.ctx / 32768)).jobs := by
  rw [hu, List.filter_append, List.filter_eq_self.2 fun x hx => decide_eq_true (hn x hx).2]
  simp

/-- What a job that is done at once leaves of its sequence. -/
theorem placed_done {v : State} (hv : (v.chan (j.ctx / 32768)).jobs = (u.chan (j.ctx / 32768)).jobs ++ [j]) (status cause detail fuel : Nat) :
    (v.finish (j.ctx / 32768) j status cause detail).runOrdered fuel j.ctx = v.finish (j.ctx / 32768) j status cause detail ∧
    ((v.finish (j.ctx / 32768) j status cause detail).chan (j.ctx / 32768)).jobs = (s.chan (j.ctx / 32768)).jobs := by
  have hjobs : ((v.finish (j.ctx / 32768) j status cause detail).chan (j.ctx / 32768)).jobs = (s.chan (j.ctx / 32768)).jobs := by
    rw [(Booked.finish _ _ _ _ _ _).jobs, dropJob_jobs, hv, placed_dropped hu hn]
  exact ⟨State.runOrdered_none fuel (by rw [hjobs]; exact fun x hx => (hn x hx).1), hjobs⟩

end

/-- A job put into its context's sequence over a sound record. -/
def placed (u : State) (j : Job) : State := u.modChan (j.ctx / 32768) (fun k => { k with jobs := k.jobs ++ [j] })

theorem placed_ctx (u : State) (j : Job) : (placed u j).ctx j.ctx = u.ctx j.ctx := State.ctx_modChan_jobs u _ (· ++ [j]) _

theorem placed_jobs (u : State) (j : Job) : ((placed u j).chan (j.ctx / 32768)).jobs = (u.chan (j.ctx / 32768)).jobs ++ [j] := by
  rw [placed, State.chan_modChan_same]

theorem placed_readRec {u : State} {j : Job} (h : SoundRecord u j.ctx) : (placed u j).readRec j.ctx = placed u j :=
  State.readRec_sound (by rw [placed_ctx]; exact h.1) (by rw [placed_ctx]; exact h.2)

/-- The first step of a job first in its sequence, over a sound record. -/
def runFirst (u : State) (j : Job) (fuel : Nat) : State :=
  if j.kind = 7 then
    if (placed u j).dmaOk j.fn j.addr 128 true then
      (((placed u j).hostWrite j.addr (leBytes 128 ((placed u j).ctxBits j.ctx).toNat)).finish (j.ctx / 32768) j stOK 0).runOrdered fuel j.ctx
    else ((placed u j).finish (j.ctx / 32768) j stProtection 0x11).runOrdered fuel j.ctx
  else if j.kind = 3 then
    ((((placed u j).modChan (j.ctx / 32768) (fun k => { k with mem := k.mem.dropPages ((placed u j).ctx j.ctx).pages })).modCtx j.ctx
      Ctx.reset).finish (j.ctx / 32768) j stOK 0).runOrdered fuel j.ctx
  else if j.kind = 5 ∨ j.kind = 6 then (placed u j).modJob (j.ctx / 32768) j.id (fun j => { j with stage := .moving })
  else placed u j

/-- A job put into an empty sequence takes its first step there. -/
theorem enqueue_runs {s u : State} {j : Job} (hu : (u.chan (j.ctx / 32768)).jobs = (s.chan (j.ctx / 32768)).jobs)
    (hn : ∀ x ∈ (s.chan (j.ctx / 32768)).jobs, x.ctx ≠ j.ctx ∧ x.id ≠ j.id) (ho : j.stage = .ordered) (hv : j.verdict = none)
    (hs : SoundRecord u j.ctx) (hp : j.kind = 3 ∨ j.kind = 5 ∨ j.kind = 6 → (u.ctx j.ctx).poisonSrc ≠ 3) :
    ∃ fuel, u.enqueue j = runFirst u j fuel :=
  ⟨_, State.runOrdered_first _ (placed_find hu hn) ho hv (placed_readRec hs) fun hk => (placed_ctx u j).symm ▸ hp hk⟩

section

variable {s : State} {fn sq pos : Nat} {d : BitVec 512} {j : Job} (hfe : Fetches s fn sq pos) (hj : j = s.newJob fn sq pos d)
  (hv : (fetchedFor s j).verdictOf j = none) (hn : ∀ x ∈ (s.chan (j.ctx / 32768)).jobs, x.ctx ≠ j.ctx ∧ x.id < s.host.nextJob)
  (hs : SoundRecord s j.ctx)

include hfe hj hv hn hs

omit hfe hv hs in
theorem newJob_alone : j.stage = .ordered ∧ j.verdict = none ∧ ∀ x ∈ (s.chan (j.ctx / 32768)).jobs, x.ctx ≠ j.ctx ∧ x.id ≠ j.id := by
  refine ⟨by rw [hj]; rfl, by rw [hj]; rfl, fun x hx => ⟨(hn x hx).1, ?_⟩⟩
  have hid : j.id = s.host.nextJob := by rw [hj]; rfl
  have := (hn x hx).2
  omega

omit hfe in
/-- The state in which such a job has its place, and the rest of its descriptor's run. -/
theorem newJob_runs (f : State → State) (hf : ∀ k, ((f (fetchedFor s j)).chan k).jobs = (s.chan k).jobs) (hc : (f (fetchedFor s j)).ctx j.ctx = s.ctx j.ctx) :
    ∃ fuel, (f (fetchedFor s j)).enqueue j = runFirst (f (fetchedFor s j)) j fuel := by
  obtain ⟨ho, hvd, hn'⟩ := newJob_alone hj hn
  have hctx : (fetchedFor s j).ctx j.ctx = s.ctx j.ctx := by rw [fetchedFor_sound hs.1 hs.2]; rfl
  refine enqueue_runs (hf _) hn' ho hvd (by rw [SoundRecord, hc]; exact hs) fun hk => ?_
  rw [hc, ← hctx]
  exact State.verdictOf_poisonSrc hv hk

/-- R201: a reset with no earlier work. -/
theorem ctxReset_resets (hk : j.kind = 3) : ∃ t, exec (.ctxReset fn sq (.data d)) s = .next t ∧
    t.ctx j.ctx = { (s.ctx j.ctx).reset with sysBad := 0 } := by
  obtain ⟨-, -, hn'⟩ := newJob_alone hj hn
  have hctx : (fetchedFor s j).ctx j.ctx = s.ctx j.ctx := by rw [fetchedFor_sound hs.1 hs.2]; rfl
  obtain ⟨fuel, hx⟩ := newJob_runs hj hv hn hs id (fetchedFor_jobs s j) hctx
  have hmem := State.ctx_modChan_mem (placed (fetchedFor s j) j) (j.ctx / 32768)
    (fun k => { k with mem := k.mem.dropPages ((placed (fetchedFor s j) j).ctx j.ctx).pages }) (fun _ => rfl) j.ctx
  have hjobs := State.chan_modChan_jobs (placed (fetchedFor s j) j) (j.ctx / 32768) (j.ctx / 32768)
    (fun k => { k with mem := k.mem.dropPages ((placed (fetchedFor s j) j).ctx j.ctx).pages }) (fun _ => rfl)
  refine ⟨_, congrArg Host.Outcome.next (fetched_runs State.enqueue hfe hj (by simp [hk]) hv), ?_⟩
  rw [(DbgOnly.headBlock _ _).ctx]
  refine (congrArg (fun u : State => u.ctx j.ctx) hx).trans ?_
  unfold runFirst
  rw [if_neg (by omega), if_pos hk, (placed_done (fetchedFor_jobs s j _) hn' ?_ _ _ _ _).1,
    (Booked.finish _ _ _ _ _ _).ctx, dropJob_ctx, State.ctx_modCtx]
  · exact congrArg (fun x : Ctx => { x.reset with sysBad := 0 }) (hmem.trans ((placed_ctx _ _).trans hctx))
  · rw [State.modCtx_jobs]
    exact hjobs.trans (placed_jobs _ _)

/-- R199: a query with no earlier work. -/
theorem ctxQuery_writes (hk : j.kind = 7) (hd : s.dmaOk fn j.addr 128 true = true) :
    ∃ t, exec (.ctxQuery fn sq (.data d)) s = .next t ∧
      (j.addr, leBytes 128 (s.ctxBits j.ctx).toNat) ∈ t.out.writes ++ t.host.heldWrites ∧
      (t.chan (j.ctx / 32768)).jobs = (s.chan (j.ctx / 32768)).jobs := by
  obtain ⟨-, -, hn'⟩ := newJob_alone hj hn
  have hrest := fetchedFor_rest s j
  have hctx : (fetchedFor s j).ctx j.ctx = s.ctx j.ctx := by rw [fetchedFor_sound hs.1 hs.2]; rfl
  obtain ⟨fuel, hx⟩ := newJob_runs hj hv hn hs id (fetchedFor_jobs s j) hctx
  have hbits : (placed (fetchedFor s j) j).ctxBits j.ctx = s.ctxBits j.ctx := by
    have hown : (placed (fetchedFor s j) j).ownOf j.ctx = s.ownOf j.ctx := by rw [hrest]; rfl
    rw [State.ctxBits, State.ctxBits, placed_ctx, hctx, hown]
  have hdma : (placed (fetchedFor s j) j).dmaOk j.fn j.addr 128 true = true := by
    rw [hrest]
    exact (show j.fn = fn by rw [hj]; rfl) ▸ hd
  obtain ⟨hrun, hleft⟩ := placed_done (v := (placed (fetchedFor s j) j).hostWrite j.addr (leBytes 128 (s.ctxBits j.ctx).toNat))
    (fetchedFor_jobs s j _) hn' (by rw [State.hostWrite_rest]; exact placed_jobs _ _) stOK 0 0 fuel
  refine ⟨_, congrArg Host.Outcome.next (fetched_runs State.enqueue hfe hj (by simp [hk]) hv), ?_⟩
  have he : (fetchedFor s j).enqueue j =
      ((placed (fetchedFor s j) j).hostWrite j.addr (leBytes 128 (s.ctxBits j.ctx).toNat)).finish (j.ctx / 32768) j stOK 0 := by
    refine hx.trans ?_
    unfold runFirst
    rw [if_pos hk, show id (fetchedFor s j) = fetchedFor s j from rfl, hdma, if_pos rfl, hbits, hrun]
  have hbk := Booked.finish ((placed (fetchedFor s j) j).hostWrite j.addr (leBytes 128 (s.ctxBits j.ctx).toNat)) (j.ctx / 32768) j stOK 0 0
  rw [he]
  refine ⟨State.headBlock_writes _ _ ?_, (DbgOnly.headBlock _ _).jobs _ |>.trans hleft⟩
  rw [hbk.writes, hbk.held]
  refine (State.hostWrite_writes (placed (fetchedFor s j) j) j.addr _).symm ▸ ?_
  simp

omit hfe in
/-- R211: a move with no earlier work begins to copy. -/
theorem move_begins (hk : j.kind = 5 ∨ j.kind = 6) :
    { j with stage := .moving } ∈ (((State.takeMove (fetchedFor s j) j).headBlock fn).chan (j.ctx / 32768)).jobs := by
  have hctx : (fetchedFor s j).ctx j.ctx = s.ctx j.ctx := by rw [fetchedFor_sound hs.1 hs.2]; rfl
  have hcharge := State.ctx_modChan_mem (fetchedFor s j) (j.ctx / 32768) (fun k => { k with sched := { k.sched with
    left := { k.sched.left with bytes := k.sched.left.bytes - j.length }
    carry := { k.sched.carry with bytes := k.sched.carry.bytes + (j.length - k.sched.left.bytes) } } }) (fun _ => rfl) j.ctx
  obtain ⟨fuel, hx⟩ := newJob_runs hj hv hn hs (fun u => u.chargeMove (j.ctx / 32768) j.length)
    (fun k => (State.chargeMove_jobs _ _ _ _).trans (fetchedFor_jobs s j k)) (hcharge.trans hctx)
  rw [(DbgOnly.headBlock _ _).jobs]
  refine (congrArg (fun u : State => (u.chan (j.ctx / 32768)).jobs) hx) ▸ ?_
  unfold runFirst
  rw [if_neg (by omega), if_neg (by omega), if_pos hk, State.modJob, State.chan_modChan_same, placed_jobs]
  simp

end

/-- Settles O42: a reset, a query and a move alone in their sequence. -/
theorem contextWorkRunsInTurn : Obligations.ContextWorkRunsInTurn := by
  intro s fn sq pos d j hfe hj hv hn hb hp
  refine ⟨fun hk => ctxReset_resets hfe hj hv hn ⟨hb, hp⟩ hk, fun hk hd => ctxQuery_writes hfe hj hv hn ⟨hb, hp⟩ hk hd, fun e he hk => ?_⟩
  simp only [List.mem_cons, List.not_mem_nil, or_false] at he
  rcases he with rfl | rfl
  · exact ⟨_, congrArg Host.Outcome.next (fetched_runs State.takeMove hfe hj (by simp [hk]) hv), move_begins hj hv hn ⟨hb, hp⟩ (.inl hk)⟩
  · exact ⟨_, congrArg Host.Outcome.next (fetched_runs State.takeMove hfe hj (by simp [hk]) hv), move_begins hj hv hn ⟨hb, hp⟩ (.inr hk)⟩

end Sys2Proof.Claims
end

section
/-! SUPPORT. What the end of a state transfer changes (R211, R212). -/

namespace Sys2Proof.Machine

/-- From `s` to `t` nothing but channels and host writes changed. -/
def Copied (s t : State) : Prop := t = { s with
  chans := t.chans, host := { s.host with heldWrites := t.host.heldWrites }, out := { s.out with writes := t.out.writes } }

namespace Copied

variable {s t u : State}

theorem refl (s : State) : Copied s s := rfl

theorem trans (h : Copied s t) (k : Copied t u) : Copied s u := by
  unfold Copied at *
  rw [k, h]

theorem modChan (s : State) (c : Nat) (f : Chan → Chan) : Copied s (s.modChan c f) := rfl

theorem countN (s : State) (c code n : Nat) (ctx : Option Nat) : Copied s (s.countN c code n ctx) := by
  unfold Copied
  rw [(State.countN_only s c code n ctx).rest]

theorem hostWrite (s : State) (addr : Nat) (bytes : List Byte) : Copied s (s.hostWrite addr bytes) := by
  unfold Copied
  rw [State.hostWrite_rest]

theorem modCtx (s : State) (raw : Nat) (f : Ctx → Ctx) : Copied s (s.modCtx raw f) := rfl

theorem jobCpl (h : Copied s t) (j : Job) (c status cause : Nat) : t.jobCpl j c status cause = s.jobCpl j c status cause := by
  unfold Copied at h
  rw [h]
  rfl

end Copied

/-- The host writes of a list of places, none left out. -/
theorem foldl_hostWrite (p : Nat → Bool) (a : Nat → Nat) (b : Nat → List Byte) : ∀ (l : List Nat) (s : State), (∀ i ∈ l, p i = false) →
    (l.foldl (fun s i => if p i then s else s.hostWrite (a i) (b i)) s).out.writes ++
      (l.foldl (fun s i => if p i then s else s.hostWrite (a i) (b i)) s).host.heldWrites =
      s.out.writes ++ s.host.heldWrites ++ l.map (fun i => (a i, b i))
  | [], s, _ => by simp
  | i :: l, s, h => by
    have hi : (if p i then s else s.hostWrite (a i) (b i)) = s.hostWrite (a i) (b i) := by
      rw [h i List.mem_cons_self]
      exact if_neg Bool.false_ne_true
    rw [List.foldl_cons, foldl_hostWrite p a b l _ fun x hx => h x (List.mem_cons_of_mem _ hx), hi, State.hostWrite_writes, List.map_cons]
    simp

/-- The blob range that a get reads. -/
def State.blobRead (s : State) (c : Nat) (j : Job) : BlobRead := (s.chan c).mem.readBlob (s.ctx j.ctx) (16 + j.id) j.blobOff j.length

/-- A get before its completion: what it read is in the host's buffer, but for the poisoned granules. -/
def State.sentBlob (s : State) (c : Nat) (j : Job) : State :=
  (List.range (j.length / 64)).foldl (fun u i =>
    if (s.blobRead c j).poison.contains (j.blobOff / 64 + i) then u
    else u.hostWrite (j.addr + 64 * i) (((s.blobRead c j).bytes.drop (64 * i)).take 64))
    (((s.modChan c (fun k => { k with mem := (s.blobRead c j).mem })).countN c 0x40 (s.blobRead c j).hits none).countN c 0x41
      (s.blobRead c j).misses none)

theorem State.getState_sound {s : State} {c : Nat} {j : Job} (h : (s.blobRead c j).poison = []) :
    s.getState c j = (s.sentBlob c j).finish c j stOK 0 := by
  unfold State.blobRead at h
  unfold State.getState State.sentBlob State.blobRead
  dsimp only
  rw [h]

theorem State.getState_poisoned {s : State} {c : Nat} {j : Job} {p : Nat} {ps : List Nat} (h : (s.blobRead c j).poison = p :: ps) :
    s.getState c j = (s.sentBlob c j).finish c j stPoisoned 0x10 (minOf p (p :: ps) * 64) := by
  unfold State.blobRead at h
  unfold State.getState State.sentBlob State.blobRead
  dsimp only
  rw [h]

theorem Copied.sentBlob (s : State) (c : Nat) (j : Job) : Copied s (s.sentBlob c j) := by
  have hf : ∀ (l : List Nat) (u : State), Copied u (l.foldl (fun u i =>
      if (s.blobRead c j).poison.contains (j.blobOff / 64 + i) then u
      else u.hostWrite (j.addr + 64 * i) (((s.blobRead c j).bytes.drop (64 * i)).take 64)) u) := by
    intro l
    induction l with
    | nil => exact fun u => .refl u
    | cons i l ih =>
      intro u
      refine Copied.trans ?_ (ih _)
      dsimp only
      split
      · exact .refl u
      · exact .hostWrite _ _ _
  exact (((Copied.modChan s _ _).trans (.countN _ _ _ _ _)).trans (.countN _ _ _ _ _)).trans (hf _ _)

theorem State.sentBlob_jobs (s : State) (c : Nat) (j : Job) : ((s.sentBlob c j).chan c).jobs = (s.chan c).jobs := by
  unfold State.sentBlob
  rw [foldl_keeps (fun u : State => (u.chan c).jobs) (fun (u : State) (i : Nat) =>
    if (s.blobRead c j).poison.contains (j.blobOff / 64 + i) then u
    else u.hostWrite (j.addr + 64 * i) (((s.blobRead c j).bytes.drop (64 * i)).take 64))]
  · rw [(DbgOnly.of_counts (State.countN_only _ _ _ _ _)).jobs, (DbgOnly.of_counts (State.countN_only _ _ _ _ _)).jobs]
    exact State.chan_modChan_jobs s c c (fun k => { k with mem := (s.blobRead c j).mem }) fun _ => rfl
  · intro u i
    split
    · rfl
    · rw [State.hostWrite_rest]; rfl

theorem State.sentBlob_writes {s : State} {c : Nat} {j : Job} (h : (s.blobRead c j).poison = []) :
    (s.sentBlob c j).out.writes ++ (s.sentBlob c j).host.heldWrites = s.out.writes ++ s.host.heldWrites ++
      (List.range (j.length / 64)).map (fun i => (j.addr + 64 * i, ((s.blobRead c j).bytes.drop (64 * i)).take 64)) := by
  unfold State.sentBlob
  rw [foldl_hostWrite (fun i => (s.blobRead c j).poison.contains (j.blobOff / 64 + i)) (fun i => j.addr + 64 * i)
    (fun i => ((s.blobRead c j).bytes.drop (64 * i)).take 64) _ _ (fun i _ => by rw [h]; rfl),
    (State.countN_only _ _ _ _ _).rest, (State.countN_only _ _ _ _ _).rest]
  rfl

/-- What a put stages. -/
def State.blobWrite (s : State) (c : Nat) (j : Job) (b : List Byte) : BlobWrite :=
  (s.chan c).mem.stageBlob (s.ctx j.ctx) (16 + j.id) j.blobOff (b.take j.length)

/-- A put before its completion: the bytes are committed and the record is as they leave it. -/
def State.takenBlob (s : State) (c : Nat) (j : Job) (b : List Byte) : State :=
  (((s.modChan c (fun k => { k with mem :=
    ((s.ctx j.ctx).linesOf j.blobOff j.length).foldl Mem.fitLine ((s.blobWrite c j b).mem.commitStaged (16 + j.id)) })).countN c 0x40
      (s.blobWrite c j b).hits none).countN c 0x41 (s.blobWrite c j b).misses none).modCtx j.ctx (fun _ =>
    if j.blobOff == 0 && j.length == (s.blobWrite c j b).ctx.blobPages * 65536 then
      { (s.blobWrite c j b).ctx with poisoned := false, poisonGranule := 0, poisonSrc := 0, tainted := false }
    else (s.blobWrite c j b).ctx)

theorem State.putState_eq (s : State) (c : Nat) (j : Job) (b : List Byte) : s.putState c j b = (s.takenBlob c j b).finish c j stOK 0 := rfl

theorem Copied.takenBlob (s : State) (c : Nat) (j : Job) (b : List Byte) : Copied s (s.takenBlob c j b) :=
  (((Copied.modChan s _ _).trans (.countN _ _ _ _ _)).trans (.countN _ _ _ _ _)).trans (.modCtx _ _ _)

theorem State.takenBlob_jobs (s : State) (c : Nat) (j : Job) (b : List Byte) : ((s.takenBlob c j b).chan c).jobs = (s.chan c).jobs := by
  unfold State.takenBlob
  rw [State.modCtx_jobs, (DbgOnly.of_counts (State.countN_only _ _ _ _ _)).jobs, (DbgOnly.of_counts (State.countN_only _ _ _ _ _)).jobs,
    State.chan_modChan_same]

/-- A record's write leaves the cache and the memory behind it. -/
theorem State.modCtx_mem (s : State) (raw : Nat) (f : Ctx → Ctx) (c : Nat) : ((s.modCtx raw f).chan c).mem.cache = (s.chan c).mem.cache ∧
    ((s.modCtx raw f).chan c).mem.lpddr = (s.chan c).mem.lpddr := by
  rw [State.modCtx, State.setCtx, State.chan_modChan]
  split
  · next h => rw [h]; exact ⟨rfl, rfl⟩
  · exact ⟨rfl, rfl⟩

theorem State.takenBlob_mem (s : State) (c : Nat) (j : Job) (b : List Byte) :
    ((s.takenBlob c j b).chan c).mem.cache =
      (((s.ctx j.ctx).linesOf j.blobOff j.length).foldl Mem.fitLine ((s.blobWrite c j b).mem.commitStaged (16 + j.id))).cache ∧
    ((s.takenBlob c j b).chan c).mem.lpddr =
      (((s.ctx j.ctx).linesOf j.blobOff j.length).foldl Mem.fitLine ((s.blobWrite c j b).mem.commitStaged (16 + j.id))).lpddr := by
  unfold State.takenBlob
  rw [(State.modCtx_mem _ _ _ _).1, (State.modCtx_mem _ _ _ _).2, (DbgOnly.of_counts (State.countN_only _ _ _ _ _)).mem,
    (DbgOnly.of_counts (State.countN_only _ _ _ _ _)).mem, State.chan_modChan_same]
  exact ⟨rfl, rfl⟩

end Sys2Proof.Machine
end

section
/-! Family 10_contexts: how state moves end (R211, R212, R218). -/

namespace Sys2Proof.Claims

open Sys2Proof.Machine

theorem sameRings_of_copied {s t : State} (h : Copied s t) : SameRings s t := by
  unfold Copied at h
  rw [h]
  exact ⟨rfl, rfl, fun _ _ => rfl⟩

/-- A count leaves what is completed. -/
theorem Completed.counts {s t u : State} {c : Nat} {e : Cpl} (h : CountsOnly c t u) (k : Completed s t e) : Completed s u e :=
  k.keep (by rw [h.rest]) (by rw [h.rest])

/-- A job's completion reaches its completion ring, whatever entry it has. -/
theorem completed_finishWith (s : State) (c : Nat) (j : Job) (e : Cpl) : Completed s (s.finishWith c j e) e := by
  have hd : SameRings s (s.dropJob c j.id) := ⟨rfl, rfl, fun _ _ => rfl⟩
  have hc : Completed s (((s.dropJob c j.id).sqDone j.fn j.sq).complete e) e :=
    ((completed_complete _ _).of_sameRings (SameRings.sqDone (s.dropJob c j.id) j.fn j.sq)).of_sameRings hd
  unfold State.finishWith
  dsimp only
  split
  · split
    · exact (hc.counts (State.count_only _ _ _ _)).counts (State.count_only _ _ _ _)
    · exact hc.counts (State.count_only _ _ _ _)
  · exact hc

theorem completed_finish (s : State) (c : Nat) (j : Job) (status cause detail : Nat) :
    Completed s (s.finish c j status cause detail) { s.jobCpl j c status cause with detail := detail } := completed_finishWith s c j _

section

variable {s u : State} {j : Job} (hu : Copied s u) (hjobs : (u.chan (j.ctx / 32768)).jobs = (s.chan (j.ctx / 32768)).jobs)
  (hl : ∀ x ∈ (s.chan (j.ctx / 32768)).jobs, x.ctx = j.ctx → x.id = j.id)

include hu hjobs hl

/-- The end of a move that is the last work of its context: its job is gone, and it completes. -/
theorem moveEnd_completes (status cause detail : Nat) :
    (((u.finish (j.ctx / 32768) j status cause detail).advance j.ctx).chan (j.ctx / 32768)).jobs =
      (s.chan (j.ctx / 32768)).jobs.filter (fun x => x.id ≠ j.id) ∧
    Completed s ((u.finish (j.ctx / 32768) j status cause detail).advance j.ctx)
      { s.jobCpl j (j.ctx / 32768) status cause with detail := detail } := by
  obtain ⟨ha, hleft⟩ := finish_last (s := u) (raw := j.ctx) (j := j) status cause detail (by rw [hjobs]; exact hl)
  rw [ha]
  refine ⟨by rw [hleft, hjobs], ?_⟩
  have hc := completed_finish u (j.ctx / 32768) j status cause detail
  rw [hu.jobCpl] at hc
  exact hc.of_sameRings (sameRings_of_copied hu)

end

section

variable {s : State} {j : Job} (hj : (s.chan (j.ctx / 32768)).job? j.id = some j) (hm : j.stage = .moving)

include hj hm

/-- The judgements at the end of a move, in their order. -/
theorem moveEnd_eq (data : ReadRes) : exec (.stateTransferEnd (j.ctx / 32768) j.id data) s =
    if !s.owns j.fn j.ctx then .next ((s.finish (j.ctx / 32768) j stProtection 0x22).advance j.ctx)
    else if (s.ctx j.ctx).poisonSrc = 3 then .next ((s.finish (j.ctx / 32768) j stPoisoned 0x10).advance j.ctx)
    else if !s.dmaOk j.fn j.addr j.length (j.kind == 5) then .next ((s.finish (j.ctx / 32768) j stProtection 0x11).advance j.ctx)
    else if j.kind = 5 then .next ((s.getState (j.ctx / 32768) j).advance j.ctx)
    else
      match if s.hostSecure then data else .ca with
      | .data b => .next ((s.putState (j.ctx / 32768) j b).advance j.ctx)
      | .ur | .ca => .next ((s.finish (j.ctx / 32768) j stProtection 0x11).advance j.ctx)
      | .poison => .next ((s.finish (j.ctx / 32768) j stPoisoned 0x10).advance j.ctx) := by
  have he : exec (.stateTransferEnd (j.ctx / 32768) j.id data) s = execStateTransferEnd (j.ctx / 32768) j.id data s := rfl
  rw [he, execStateTransferEnd, hj]
  dsimp only
  rw [if_neg (not_not.2 hm)]
  rfl

theorem getEnd_eq (ho : s.owns j.fn j.ctx = true) (hp : (s.ctx j.ctx).poisonSrc ≠ 3) (hk : j.kind = 5)
    (hd : s.dmaOk j.fn j.addr j.length true = true) (data : ReadRes) :
    exec (.stateTransferEnd (j.ctx / 32768) j.id data) s = .next ((s.getState (j.ctx / 32768) j).advance j.ctx) := by
  rw [moveEnd_eq hj hm, ho, if_neg (by simp), if_neg hp, hk, show (5 == 5) = true from rfl, hd, if_neg (by simp), if_pos rfl]

theorem putEnd_eq (ho : s.owns j.fn j.ctx = true) (hp : (s.ctx j.ctx).poisonSrc ≠ 3) (hk : j.kind = 6)
    (hd : s.dmaOk j.fn j.addr j.length false = true) (hh : s.hostSecure = true) (b : List Byte) :
    exec (.stateTransferEnd (j.ctx / 32768) j.id (.data b)) s = .next ((s.putState (j.ctx / 32768) j b).advance j.ctx) := by
  rw [moveEnd_eq hj hm, ho, if_neg (by simp), if_neg hp, hk, show (6 == 5) = false from rfl, hd, if_neg (by simp), if_neg (by simp), hh]
  rfl

end

/-- Settles O43: each judgement ends the move, a get sends its bytes, a put of a whole blob clears poison and taint. -/
theorem contextWorkEnds : Obligations.ContextWorkEnds := by
  rintro s c j hj rfl hm hl
  refine ⟨fun data status cause detail h => ?_, fun ho hp hk hd data r hr hs => ?_, fun ho hp hk hd hh b w hw hoff hlen => ?_⟩
  · rw [moveEnd_eq hj hm]
    by_cases ho : s.owns j.fn j.ctx = false
    · rw [if_pos ho] at h
      cases h
      rw [ho]
      exact ⟨_, rfl, moveEnd_completes (.refl s) rfl hl _ _ _⟩
    rw [if_neg ho] at h
    rw [if_neg (by simpa using ho)]
    by_cases hp : (s.ctx j.ctx).poisonSrc = 3
    · rw [if_pos hp] at h
      cases h
      rw [if_pos hp]
      exact ⟨_, rfl, moveEnd_completes (.refl s) rfl hl _ _ _⟩
    rw [if_neg hp] at h ⊢
    by_cases hd : s.dmaOk j.fn j.addr j.length (j.kind == 5) = false
    · rw [if_pos hd] at h
      cases h
      rw [hd]
      exact ⟨_, rfl, moveEnd_completes (.refl s) rfl hl _ _ _⟩
    rw [if_neg hd] at h
    rw [if_neg (by simpa using hd)]
    by_cases hk : j.kind = 5
    · rw [if_pos hk] at h ⊢
      cases hs : (s.blobRead (j.ctx / 32768) j).poison with
      | nil =>
        rw [State.blobRead] at hs
        rw [hs] at h
        cases h
        rw [State.getState_sound hs]
        exact ⟨_, rfl, moveEnd_completes (.sentBlob s _ j) (State.sentBlob_jobs s _ j) hl _ _ _⟩
      | cons p ps =>
        rw [State.blobRead] at hs
        rw [hs] at h
        cases h
        rw [State.getState_poisoned hs]
        exact ⟨_, rfl, moveEnd_completes (.sentBlob s _ j) (State.sentBlob_jobs s _ j) hl _ _ _⟩
    rw [if_neg hk] at h ⊢
    by_cases hh : s.hostSecure = false
    · rw [if_pos hh] at h
      cases h
      rw [hh]
      exact ⟨_, rfl, moveEnd_completes (.refl s) rfl hl _ _ _⟩
    rw [if_neg hh] at h
    rw [if_pos (by simpa using hh)]
    cases data with
    | data b =>
      cases h
      exact ⟨_, rfl, moveEnd_completes (.takenBlob s _ j b) (State.takenBlob_jobs s _ j b) hl _ _ _⟩
    | ur => cases h; exact ⟨_, rfl, moveEnd_completes (.refl s) rfl hl _ _ _⟩
    | ca => cases h; exact ⟨_, rfl, moveEnd_completes (.refl s) rfl hl _ _ _⟩
    | poison => cases h; exact ⟨_, rfl, moveEnd_completes (.refl s) rfl hl _ _ _⟩
  · subst hr
    refine ⟨_, getEnd_eq hj hm ho hp hk hd data, ?_⟩
    have hb := Booked.finish (s.sentBlob (j.ctx / 32768) j) (j.ctx / 32768) j stOK 0 0
    rw [State.getState_sound hs, (finish_last _ _ _ (by rw [State.sentBlob_jobs]; exact hl)).1, hb.writes, hb.held]
    exact State.sentBlob_writes hs
  · subst hw
    have hb := Booked.finish (s.takenBlob (j.ctx / 32768) j b) (j.ctx / 32768) j stOK 0 0
    have hw : (j.blobOff == 0 && j.length == (s.blobWrite (j.ctx / 32768) j b).ctx.blobPages * 65536) = true := by
      rw [Bool.and_eq_true, beq_iff_eq, beq_iff_eq]
      exact ⟨hoff, hlen⟩
    refine ⟨_, putEnd_eq hj hm ho hp hk hd hh b, ?_⟩
    rw [State.putState_eq, (finish_last _ _ _ (by rw [State.takenBlob_jobs]; exact hl)).1, hb.ctx, hb.mem, dropJob_ctx]
    refine ⟨?_, ?_⟩
    · rw [State.takenBlob, State.ctx_modCtx, hw]
      rfl
    · rintro m rfl
      rw [State.dropJob, State.chan_modChan_same]
      exact State.takenBlob_mem s _ j b

end Sys2Proof.Claims
end

section
/-! Family 15_security: IDE streams and the peer aperture (R266, R280, R329). -/

namespace Sys2Proof.Claims

open Sys2Proof.Machine

section

variable {s : State} (hl : s.linkUp = true)

include hl

/-- R329: keys sent in an established session of the physical function. -/
theorem ideKmKeyProgram_keys {stream session : Nat} (hs : s.session? 0 session = some .established) (hn : stream ≤ 64) :
    ∃ t, exec (.ideKmKeyProgram stream session) s = .next t ∧
      t = { s with sec := { s.sec with insecure := t.sec.insecure, keyed := t.sec.keyed } } ∧ stream ∈ t.sec.keyed ∧ stream ∉ t.sec.insecure ∧
      (∀ n, n ≠ stream → (n ∈ t.sec.insecure ↔ n ∈ s.sec.insecure) ∧ (n ∈ t.sec.keyed ↔ n ∈ s.sec.keyed)) := by
  have hg : (s.linkUp && s.session? 0 session == some .established && decide (stream ≤ 64)) = true := by
    rw [hl, hs, decide_eq_true hn]
    rfl
  refine ⟨_, onlyIf_true hg, rfl, ?_, by simp, fun n hne => ⟨by simp [hne], ?_⟩⟩
  · dsimp only
    split
    · next h => exact List.contains_iff_mem.1 h
    · simp
  · dsimp only
    split
    · rfl
    · simp [hne]

/-- R329: a keyed stream that fails its integrity check. -/
theorem ideIntegrityFail_reports {stream : Nat} (hk : stream ∈ s.sec.keyed) (hi : stream ∉ s.sec.insecure) :
    ∃ t u, exec (.ideIntegrityFail stream) s = .next t ∧
      Reported { s with sec := { s.sec with insecure := s.sec.insecure ++ [stream] } } u 8 3 0 stream 0 ∧
      ((stream = 0 ∨ stream = s.hub.moduleId + 1) → t = u) ∧ (stream ≠ 0 → stream ≠ s.hub.moduleId + 1 → Counted u t 0x8A) := by
  have hg : (s.linkUp && s.sec.keyed.contains stream && !s.sec.insecure.contains stream) = true := by
    rw [hl, List.contains_iff_mem.2 hk, Bool.eq_false_iff.2 fun h => hi (List.contains_iff_mem.1 h)]
    rfl
  refine ⟨_, _, onlyIf_true hg, reported_event _ _ _ _ _ _, fun h => if_pos h, fun h0 hm => ?_⟩
  rw [if_neg (by rintro (h | h) <;> contradiction)]
  exact counted_countAll _ _

end

/-- Settles O57: the read of the aperture, the keying of a stream and its failure. -/
theorem streamsAreKeyedAndFail : Obligations.StreamsAreKeyedAndFail :=
  fun _ hl => ⟨onlyIf_true hl, fun _ _ hs hn => ideKmKeyProgram_keys hl hs hn, fun _ hk hi => ideIntegrityFail_reports hl hk hi⟩

end Sys2Proof.Claims
end

section
/-! Family 12_host_queues: rings (R248, R252). -/

namespace Sys2Proof.Claims

open Sys2Proof.Machine

/-- One of a function's rings. -/
def ringOf (x : Fn) (q : Bool) (n : Nat) : Ring := if q then x.cqRing n else x.sqRing n

/-- A function with one of its rings changed. -/
def withRing (q : Bool) (n : Nat) (g : Ring → Ring) (x : Fn) : Fn :=
  if q then { x with cqs := sput {} x.cqs n (g (x.cqRing n)) } else { x with sqs := sput {} x.sqs n (g (x.sqRing n)) }

theorem modRing_eq (s : State) (fn : Nat) (q : Bool) (n : Nat) (g : Ring → Ring) : s.modRing fn q n g = s.modFn fn (withRing q n g) := by
  cases q <;> rfl

theorem withRing_rest (q : Bool) (n : Nat) (g : Ring → Ring) (x : Fn) :
    withRing q n g x = { x with sqs := (withRing q n g x).sqs, cqs := (withRing q n g x).cqs } := by
  cases q <;> rfl

theorem ringOf_withRing (q : Bool) (n : Nat) (g : Ring → Ring) (x : Fn) (p : Bool) (m : Nat) :
    ringOf (withRing q n g x) p m = if p = q ∧ m = n then g (ringOf x q n) else ringOf x p m := by
  cases q with
  | false =>
    cases p with
    | false => exact (sget_sput ({} : Ring) _ _ _ _).trans (if_congr (by rw [and_iff_right rfl]) rfl rfl)
    | true => exact (if_neg fun h => Bool.false_ne_true h.1.symm).symm
  | true =>
    cases p with
    | false => exact (if_neg fun h => Bool.false_ne_true h.1).symm
    | true => exact (sget_sput ({} : Ring) _ _ _ _).trans (if_congr (by rw [and_iff_right rfl]) rfl rfl)

/-- A change of one ring. -/
theorem inRing_modRing (s : State) (fn : Nat) (q : Bool) (n : Nat) (g : Ring → Ring) : InRing s (s.modRing fn q n g) fn q n g := by
  have hself : (s.modFn fn (withRing q n g)).fn fn = withRing q n g (s.fn fn) := (State.fn_modFn ..).trans (if_pos rfl)
  have hring : ∀ p m, (s.modFn fn (withRing q n g)).ring fn p m = if p = q ∧ m = n then g (s.ring fn q n) else s.ring fn p m := fun p m => by
    rw [State.ring, hself]
    exact ringOf_withRing q n g (s.fn fn) p m
  rw [modRing_eq]
  refine ⟨rfl, fun m hm => (State.fn_modFn ..).trans (if_neg hm), ?_, fun p m hne => ?_, ?_⟩
  · rw [hself]
    exact withRing_rest q n g _
  · rw [hring, if_neg fun h => hne (by rw [h.1, h.2])]
  · rw [hring, if_pos ⟨rfl, rfl⟩]

/-- Two changes of one ring. -/
theorem InRing.trans {s t u : State} {fn : Nat} {q : Bool} {n : Nat} {f g : Ring → Ring} (h : InRing s t fn q n f) (k : InRing t u fn q n g) :
    InRing s u fn q n (fun r => g (f r)) where
  rest := by rw [k.rest, h.rest]
  fns m hm := (k.fns m hm).trans (h.fns m hm)
  self := by rw [k.self, h.self]
  others p m hne := (k.others p m hne).trans (h.others p m hne)
  ring := by rw [k.ring, h.ring]

section

variable {s : State} {fn n : Nat} {q : Bool}

/-- A write of a ring register that touches no reserved bit, its function open. -/
theorem wrRing_eq (ho : (s.fn fn).st = .open) {v : Nat} (h1 : v % 2 ^ 64 &&& ringRsv q % 2 ^ 64 = 0) (h2 : v / 2 ^ 64 &&& ringRsv q / 2 ^ 64 = 0) :
    s.wrRing fn q n v =
      match (s.ring fn q n).st with
      | .free => s.modRing fn q n (fun r => { r with cfg := BitVec.ofNat 128 (v &&& ringMask q), want := bit (BitVec.ofNat 128 (v &&& ringMask q)) 69 })
      | .active | .stopped =>
        if bit (BitVec.ofNat 128 (v &&& ringMask q)) 69 || (q && (s.fn fn).cqNamed n) then s.ringErr fn q n 0x04 v
        else if setFld (s.ring fn q n).cfg 69 69 0 = BitVec.ofNat 128 (v &&& ringMask q) then
          s.modRing fn q n (fun r => { r.stop with cfg := setFld r.cfg 69 69 0 })
        else (s.modRing fn q n (fun r => { r.stop with cfg := setFld r.cfg 69 69 0 })).ringErr fn q n 0x04 v
      | .stopping => s.ringErr fn q n 0x04 v := by
  unfold State.wrRing
  dsimp only
  rw [State.rsvBits_clear _ _ _ h1, State.rsvBits_clear _ _ _ h2, ho, if_neg (by decide)] <;>
    rfl

variable (hh : Heard s fn) (hn : n < 32) (ho : (s.fn fn).st = .open) {v : BitVec 128}

include hh hn in
theorem ringEnable_exec : exec (.ringEnable fn q n v) s = .next (s.wrRing fn q n v.toNat) := by
  rw [show exec (.ringEnable fn q n v) s = execRingEnable fn q n v s from rfl, execRingEnable, hh.regCmd, if_pos hn]

include hh hn in
theorem ringDisable_exec : exec (.ringDisable fn q n) s = .next (s.wrRing fn q n (setFld (s.ring fn q n).cfg 69 69 0).toNat) := by
  rw [show exec (.ringDisable fn q n) s = execRingDisable fn q n s from rfl, execRingDisable, hh.regCmd, if_pos hn]

variable (h1 : v.toNat % 2 ^ 64 &&& ringRsv q % 2 ^ 64 = 0) (h2 : v.toNat / 2 ^ 64 &&& ringRsv q / 2 ^ 64 = 0) {w : BitVec 128}
  (hw : w = BitVec.ofNat 128 (v.toNat &&& ringMask q))

include ho h1 h2 in
theorem wrRing_stopping (hr : (s.ring fn q n).st = .stopping) : s.wrRing fn q n v.toNat = s.ringErr fn q n 0x04 v.toNat := by
  rw [wrRing_eq ho h1 h2, hr]

include ho h1 h2 hw

theorem wrRing_free (hr : (s.ring fn q n).st = .free) :
    s.wrRing fn q n v.toNat = s.modRing fn q n (fun r => { r with cfg := w, want := bit w 69 }) := by
  rw [wrRing_eq ho h1 h2, hr, hw]

/-- R248: enable = 0 stops a running ring that no other ring names. -/
theorem wrRing_stops (hr : (s.ring fn q n).st = .active ∨ (s.ring fn q n).st = .stopped) (hv : w = setFld (s.ring fn q n).cfg 69 69 0)
    (hb : bit w 69 = false) (hc : q = true → (s.fn fn).cqNamed n = false) :
    InRing s (s.wrRing fn q n v.toNat) fn q n (fun r => { r with st := .stopping, want := false, cfg := w }) := by
  have hfree : (bit w 69 || (q && (s.fn fn).cqNamed n)) = false := by
    rw [hb]
    cases q with
    | false => rfl
    | true => exact hc rfl
  have he : s.wrRing fn q n v.toNat = s.modRing fn q n (fun r => { r.stop with cfg := setFld r.cfg 69 69 0 }) := by
    rw [wrRing_eq ho h1 h2]
    rcases hr with hr | hr
    all_goals rw [hr]; dsimp only; rw [← hw, hfree, if_neg Bool.false_ne_true, if_pos hv.symm]
  have hstop : (s.ring fn q n).stop = { s.ring fn q n with st := .stopping, want := false } := by
    unfold Ring.stop
    rcases hr with hr | hr
    all_goals rw [hr]
  have hi := inRing_modRing s fn q n (fun r => { r.stop with cfg := setFld r.cfg 69 69 0 })
  rw [he]
  refine ⟨hi.rest, hi.fns, hi.self, hi.others, hi.ring.trans ?_⟩
  rw [hstop, hv]

end

section

variable {s : State} {fn n : Nat} {q : Bool} (hd : s.ringDone fn q n = true)

include hd

/-- R248: a submission ring that is done is free. -/
theorem ringFreed_sq (hq : q = false) : exec (.ringFreed fn q n) s = .next (s.modRing fn q n (fun r => { cfg := setFld r.cfg 69 69 0 })) := by
  refine (onlyIf_true hd).trans ?_
  rw [hq]
  rfl

/-- R252: a completion ring written since the last emission sends its vector first. -/
theorem ringFreed_cq (hq : q = true) :
    exec (.ringFreed fn q n) s = .next ((s.sendVector fn n).modRing fn q n (fun r => { cfg := setFld r.cfg 69 69 0 })) := by
  refine (onlyIf_true hd).trans ?_
  rw [hq]
  rfl

end

/-- What a freed completion ring sends (R252). -/
def sentVector (s : State) (fn n : Nat) : Output :=
  if (s.ring fn true n).wrote = true ∧ bit (s.ring fn true n).cfg 47 = true ∧ 0x11 ≤ (s.fn fn).ver
  then { s.out with msix := s.out.msix ++ [(fn, fld (s.ring fn true n).cfg 46 36)] } else s.out

theorem sendVector_eq (s : State) (fn n : Nat) : s.sendVector fn n =
    if (s.ring fn true n).wrote = true then ({ s with out := sentVector s fn n } : State).modRing fn true n (fun r => { r with wrote := false })
    else { s with out := sentVector s fn n } := by
  unfold State.sendVector
  have hr : (s.fn fn).cqRing n = s.ring fn true n := rfl
  dsimp only
  rw [hr]
  by_cases hw : (s.ring fn true n).wrote = true
  · rw [if_pos hw, if_pos hw]
    by_cases hb : bit (s.ring fn true n).cfg 47 = true ∧ 0x11 ≤ (s.fn fn).ver
    · rw [if_pos (by rw [hb.1, decide_eq_true hb.2]; rfl), sentVector, if_pos ⟨hw, hb⟩]
      rfl
    · rw [if_neg (by rw [Bool.and_eq_true, decide_eq_true_eq]; exact hb), sentVector, if_neg (fun h => hb h.2)]
      rfl
  · rw [if_neg hw, if_neg hw, sentVector, if_neg (fun h => hw h.1)]

/-- R248, R252: a done completion ring, once its vector is sent, is free. -/
theorem inRing_freed (s : State) (fn n : Nat) : InRing { s with out := sentVector s fn n }
    ((s.sendVector fn n).modRing fn true n (fun r => { cfg := setFld r.cfg 69 69 0 })) fn true n (fun r => { cfg := setFld r.cfg 69 69 0 }) := by
  rw [sendVector_eq]
  split
  · exact (inRing_modRing { s with out := sentVector s fn n } fn true n (fun r => { r with wrote := false })).trans (inRing_modRing _ fn true n _)
  · exact inRing_modRing { s with out := sentVector s fn n } fn true n _

/-- Settles O59: a ring's write by its state, and a done ring's end. -/
theorem ringsRunAndStop : Obligations.RingsRunAndStop := by
  rintro s fn q n r rfl
  refine ⟨fun v w hh hn ho h1 h2 hw => ⟨fun hr => ?_, fun hr => ?_, fun hr hv hwv hb hc => ?_⟩, fun hd => ?_⟩
  · exact ⟨_, ringEnable_exec hh hn, (wrRing_free ho h1 h2 hw hr).symm ▸ inRing_modRing s fn q n _⟩
  · exact ⟨_, ringEnable_exec hh hn, (wrRing_stopping ho h1 h2 hr).symm ▸ logged_errlog _ _ _ _ _ _⟩
  · refine ⟨_, ringDisable_exec hh hn, ?_⟩
    rw [← hv]
    exact wrRing_stops ho h1 h2 hw hr (hwv.trans hv) hb hc
  · cases q with
    | false =>
      refine ⟨_, ringFreed_sq hd rfl, inRing_modRing s fn false n _, ?_⟩
      exact (if_neg (fun h => Bool.false_ne_true h.1)).symm
    | true =>
      refine ⟨_, ringFreed_cq hd rfl, ?_⟩
      have hi := inRing_freed s fn n
      have hout : ((s.sendVector fn n).modRing fn true n (fun r => { cfg := setFld r.cfg 69 69 0 })).out = sentVector s fn n := by rw [hi.rest]
      rw [hout]
      refine ⟨hi, ?_⟩
      rw [sentVector]
      simp only [true_and]

end Sys2Proof.Claims
end

section
/-! Family 12_host_queues: functions and their mailboxes open and close (R245, R264, R265, R384). -/

namespace Sys2Proof.Claims

open Sys2Proof.Machine

theorem inFn_modFn (s : State) (fn : Nat) (f : Fn → Fn) : InFn s (s.modFn fn f) fn f :=
  ⟨rfl, fun _ hn => (State.fn_modFn ..).trans (if_neg hn), (State.fn_modFn ..).trans (if_pos rfl)⟩

theorem inPort_modPort (s : State) (p : Nat) (f : Port → Port) : InPort s (s.modPort p f) p f :=
  ⟨rfl, fun _ hn => (State.port_modPort ..).trans (if_neg hn), (State.port_modPort ..).trans (if_pos rfl)⟩

/-! ### Opening -/

section

variable {s : State} {fn : Nat} {v : BitVec 64} {ver : Nat} (hh : Heard s fn) (hr : v.toNat &&& openRsv = 0) (hb : bit v 0 = true)

include hh hr hb

/-- R245: a closed function settles its version and opens at the next tick. -/
theorem functionOpen_closed (hv : ver = settle (fld v 55 48) (fld v 63 56)) (hz : ver ≠ 0) (hc : (s.fn fn).st = .closed) :
    ∃ t, exec (.functionOpen fn v) s = .next t ∧
      InFn s t fn (fun x => { x with drvMin := fld v 55 48, drvMax := fld v 63 56, ver := ver, openNext := true }) := by
  have hw : s.wrFnOpen fn v.toNat =
      s.modFn fn (fun x => { x with drvMin := fld v 55 48, drvMax := fld v 63 56, ver := ver, openNext := ver != 0 }) := by
    unfold State.wrFnOpen
    dsimp only
    rw [State.rsvBits_clear _ _ _ hr, if_pos (show nfld v.toNat 0 0 = 1 from (fld_bit v 0).1 hb), hc]
    dsimp only
    rw [if_neg (show ¬ settle (nfld v.toNat 55 48) (nfld v.toNat 63 56) = 0 from hv ▸ hz), hv]
    rfl
  rw [bne_iff_ne.2 hz] at hw
  exact ⟨_, hh.reaches (fun s => s.wrFnOpen fn v.toNat) rfl, hw ▸ inFn_modFn s fn _⟩

/-- R265: a closing function is held. -/
theorem functionOpen_closing (hc : (s.fn fn).st = .closing) : ∃ t, exec (.functionOpen fn v) s = .next t ∧
    InFn s t fn (fun x => { x with st := .held, waitFrom := some s.frameN }) := by
  have hw : s.wrFnOpen fn v.toNat = s.modFn fn (fun x => { x with st := .held, waitFrom := some s.frameN }) := by
    unfold State.wrFnOpen
    dsimp only
    rw [State.rsvBits_clear _ _ _ hr, if_pos (show nfld v.toNat 0 0 = 1 from (fld_bit v 0).1 hb), hc]
  exact ⟨_, hh.reaches (fun s => s.wrFnOpen fn v.toNat) rfl, hw ▸ inFn_modFn s fn _⟩

/-- R384: the mailbox of an open function opens likewise. -/
theorem mailboxOpen_opens (hv : ver = settle (fld v 55 48) (fld v 63 56)) (hz : ver ≠ 0) (ho : (s.fn fn).st = .open)
    (hm : (s.port fn).mbxOpen = false) : ∃ t, exec (.mailboxOpen fn v) s = .next t ∧
      InPort s t fn (fun p => { p with drvMin := fld v 55 48, drvMax := fld v 63 56, mbxVer := ver, mbxNext := true }) := by
  have hw : s.wrMbxOpen fn v.toNat =
      s.modPort fn (fun p => { p with drvMin := fld v 55 48, drvMax := fld v 63 56, mbxVer := ver, mbxNext := ver != 0 }) := by
    unfold State.wrMbxOpen
    dsimp only
    rw [State.rsvBits_clear _ _ _ hr, if_pos (show nfld v.toNat 0 0 = 1 from (fld_bit v 0).1 hb), hm, ho, if_neg Bool.false_ne_true, if_neg (by decide),
      if_neg (show ¬ settle (nfld v.toNat 55 48) (nfld v.toNat 63 56) = 0 from hv ▸ hz), hv]
    rfl
  rw [bne_iff_ne.2 hz] at hw
  exact ⟨_, hh.reaches (fun s => s.wrMbxOpen fn v.toNat) rfl, hw ▸ inPort_modPort s fn _⟩

end

/-! ### Closing -/

/-- The end of a port's role: entered in the audit log, and debug mode ended with it (R312). -/
theorem endRole_eq (s : State) (p : Nat) : ∃ st hub,
    s.endRole p = ({ s with store := st, hub := hub } : State).modPort p (fun x => { x with roleNow := {}, roleNext := none }) ∧
    ((s.port p).roleNow.role = .operator → st = s.store ∧ hub = s.hub) := by
  have hd : ∀ u : State, ∃ hub, u.endDebug = { u with hub := hub } := by
    intro u
    unfold State.endDebug
    split
    · exact ⟨_, rfl⟩
    · exact ⟨u.hub, rfl⟩
  unfold State.endRole
  dsimp only
  by_cases ho : (s.port p).roleNow.role = .operator
  · rw [ho]
    exact ⟨s.store, s.hub, rfl, fun _ => ⟨rfl, rfl⟩⟩
  · rw [beq_eq_false_iff_ne.2 ho, if_neg Bool.false_ne_true]
    generalize hu : s.audit 0x02 p 0 (digestObject (s.port p).roleNow.digest) = u
    have hrest := State.audit_rest s 0x02 p 0 (digestObject (s.port p).roleNow.digest)
    rw [hu] at hrest
    split
    · obtain ⟨hub, he⟩ := hd u
      rw [he]
      exact ⟨u.store, hub, by rw [hrest], fun h => absurd h ho⟩
    · exact ⟨u.store, u.hub, by rw [hrest], fun h => absurd h ho⟩

/-- A function without carried work loses none. -/
theorem dropCarried_none {s : State} {fn c : Nat} (h : ∀ j ∈ (s.chan c).jobs, ¬ (j.fn = fn ∧ j.waitingInf = true)) : s.dropCarried fn c = s := by
  have hl : ∀ (l : List Job), (∀ j ∈ l, ¬ (j.fn = fn ∧ j.waitingInf = true)) →
      l.foldl (fun s j => if j.fn = fn ∧ j.waitingInf then s.dropLate c j else s) s = s := by
    intro l
    induction l with
    | nil => exact fun _ => rfl
    | cons j l ih =>
      intro h
      rw [List.foldl_cons, if_neg (h j List.mem_cons_self)]
      exact ih fun x hx => h x (List.mem_cons_of_mem _ hx)
  exact hl _ h

theorem foldl_dropCarried {s : State} {fn : Nat} (h : ∀ c, ∀ j ∈ (s.chan c).jobs, ¬ (j.fn = fn ∧ j.waitingInf = true)) (l : List Nat) :
    l.foldl (fun s c => s.dropCarried fn c) s = s := by
  induction l with
  | nil => rfl
  | cons c l ih => rw [List.foldl_cons, dropCarried_none (h c), ih]

/-- A function that closes: its rings stop. -/
def closingFn (x : Fn) : Fn :=
  { x with st := .closing, openNext := false, sqs := x.sqs.map (fun e => (e.1, e.2.stop)), cqs := x.cqs.map (fun e => (e.1, e.2.stop)) }

/-- A port whose role and mailbox end. -/
def endedPort (x : Port) : Port :=
  { x with roleNow := {}, roleNext := none, challenge := none, mbxOpen := false, mbxNext := false, mbxVer := 0, busy := false }

/-- From `s` to `t` function `fn` closed, as `f` says of it (R264). -/
structure Closes (s t : State) (fn : Nat) (f : Fn → Fn) : Prop where
  rest : t = { s with host := { s.host with fns := t.host.fns, ports := t.host.ports }, store := t.store, hub := t.hub }
  self : t.fn fn = f (s.fn fn)
  port : t.port fn = endedPort (s.port fn)
  others : ∀ n, n ≠ fn → t.fn n = s.fn n ∧ t.port n = s.port n
  operator : (s.port fn).roleNow.role = .operator → t.store = s.store ∧ t.hub = s.hub

theorem closes_closeFn {s : State} {fn : Nat} (ho : (s.fn fn).st = .open)
    (hc : ∀ c, ∀ j ∈ (s.chan c).jobs, ¬ (j.fn = fn ∧ j.waitingInf = true)) : Closes s (s.closeFn fn) fn closingFn := by
  obtain ⟨st, hub, he, hop⟩ := endRole_eq (s.modFn fn closingFn) fn
  have hx : s.closeFn fn = (((s.modFn fn closingFn).endRole fn).modPort fn
      (fun p => { p with challenge := none, mbxOpen := false, mbxNext := false, mbxVer := 0, busy := false })) := by
    unfold State.closeFn
    rw [ho]
    refine foldl_dropCarried (s := (((s.modFn fn closingFn).endRole fn).modPort fn
      (fun p => { p with challenge := none, mbxOpen := false, mbxNext := false, mbxVer := 0, busy := false }))) ?_ _
    rw [he]
    exact hc
  rw [he] at hx
  have hf := inFn_modFn s fn closingFn
  have hp := inPort_modPort ({ s.modFn fn closingFn with store := st, hub := hub } : State) fn (fun x => { x with roleNow := {}, roleNext := none })
  have hq := inPort_modPort (({ s.modFn fn closingFn with store := st, hub := hub } : State).modPort fn
    (fun x => { x with roleNow := {}, roleNext := none })) fn
    (fun p => { p with challenge := none, mbxOpen := false, mbxNext := false, mbxVer := 0, busy := false })
  rw [hx]
  exact ⟨rfl, hf.fn, by rw [hq.port, hp.port]; rfl, fun n hn => ⟨hf.others n hn, (hq.others n hn).trans (hp.others n hn)⟩, hop⟩

theorem Closes.modFn {s t : State} {fn : Nat} {f : Fn → Fn} (h : Closes s t fn f) (g : Fn → Fn) : Closes s (t.modFn fn g) fn (fun x => g (f x)) := by
  have hf := inFn_modFn t fn g
  refine ⟨?_, by rw [hf.fn, h.self], h.port, fun n hn => ⟨(hf.others n hn).trans (h.others n hn).1, (h.others n hn).2⟩, h.operator⟩
  rw [hf.rest, h.rest]

section

variable {s : State} {fn : Nat} (hh : Heard s fn)

include hh

theorem functionLevelReset_exec : exec (.functionLevelReset fn) s = .next
    (if (s.fn fn).st = .closed then ((s.closeFn fn).modFn fn (fun x => { x with flr := true })).reportFlr fn
     else (s.closeFn fn).modFn fn (fun x => { x with flr := true })) :=
  hh.reaches (fun s => if (s.fn fn).st = .closed then ((s.closeFn fn).modFn fn (fun x => { x with flr := true })).reportFlr fn
     else (s.closeFn fn).modFn fn (fun x => { x with flr := true })) rfl

/-- R264: a reset of a closed function is done at once. -/
theorem functionLevelReset_closed (hc : (s.fn fn).st = .closed) : ∃ t, exec (.functionLevelReset fn) s = .next t ∧
    t.out = { s.out with flrDone := s.out.flrDone ++ [fn] } ∧ t = { s with host := t.host, out := t.out } := by
  have hcl : s.closeFn fn = s.modFn fn (fun x => { x with openNext := false, ver := 0 }) := by
    unfold State.closeFn
    rw [hc]
  refine ⟨_, functionLevelReset_exec hh, ?_⟩
  rw [if_pos hc, hcl, State.reportFlr, (inFn_modFn _ _ _).fn, if_pos rfl]
  exact ⟨rfl, rfl⟩

/-- R264: closing and resetting an open function. -/
theorem function_closes (ho : (s.fn fn).st = .open) (hc : ∀ c, ∀ j ∈ (s.chan c).jobs, ¬ (j.fn = fn ∧ j.waitingInf = true)) :
    (∃ t, exec (.functionClose fn) s = .next t ∧ Closes s t fn closingFn) ∧
    (∃ t, exec (.functionLevelReset fn) s = .next t ∧ Closes s t fn (fun x => { closingFn x with flr := true })) := by
  refine ⟨⟨_, hh.reaches (fun s => s.closeFn fn) rfl, closes_closeFn ho hc⟩, ⟨_, functionLevelReset_exec hh, ?_⟩⟩
  rw [if_neg (by rw [ho]; decide)]
  exact (closes_closeFn ho hc).modFn _

end

/-! ### Closed -/

/-- The end of a function's closing, with the report of a reset that waited for it (R264). -/
theorem inFn_reportFlr (s : State) (fn : Nat) (g : Fn → Fn) (hg : (g (s.fn fn)).flr = (s.fn fn).flr) :
    InFn { s with out := if (s.fn fn).flr = true then { s.out with flrDone := s.out.flrDone ++ [fn] } else s.out }
      ((s.modFn fn g).reportFlr fn) fn (fun x => { g x with flr := false }) := by
  have hf := inFn_modFn s fn g
  unfold State.reportFlr
  rw [hf.fn, hg]
  by_cases h : (s.fn fn).flr = true
  · have hk := inFn_modFn (s.modFn fn g) fn (fun x => { x with flr := false })
    rw [if_pos h, if_pos h]
    exact ⟨rfl, fun n hn => (hk.others n hn).trans (hf.others n hn), hk.fn.trans (congrArg (fun x : Fn => { x with flr := false }) hf.fn)⟩
  · rw [if_neg h, if_neg h]
    refine ⟨hf.rest, hf.others, hf.fn.trans ?_⟩
    rw [← show (g (s.fn fn)).flr = false by rw [hg]; simpa using h]

/-- Settles O58: openings, closings, and what follows when every ring is free. -/
theorem functionsOpenAndClose : Obligations.FunctionsOpenAndClose := by
  intro s fn
  refine ⟨fun v ver hh hr hb hv hz => ⟨functionOpen_closed hh hr hb hv hz, functionOpen_closing hh hr hb, mailboxOpen_opens hh hr hb hv hz⟩,
    fun hh ho hc i hi => ?_, functionLevelReset_closed, fun o ho => ⟨fun hc hf => ?_, fun hc hf hs => ?_⟩⟩
  · obtain ⟨⟨t, ht, h⟩, ⟨u, hu, k⟩⟩ := function_closes hh ho hc
    simp only [List.mem_cons, List.not_mem_nil, or_false] at hi
    rcases hi with rfl | rfl
    · exact ⟨t, ht, h.rest, h.self.trans (by rw [Bool.or_false]; rfl), h.port, h.others, h.operator⟩
    · exact ⟨u, hu, k.rest, k.self.trans (by rw [Bool.or_true]; rfl), k.port, k.others, k.operator⟩
  · have he : exec (.functionClosed fn) s = .next ((s.modFn fn (fun x => { x with st := .closed, ver := 0 })).reportFlr fn) := by
      rw [show exec (.functionClosed fn) s = execFunctionClosed fn s from rfl, execFunctionClosed, hc]
      exact onlyIf_true hf
    exact ⟨_, he, ho ▸ inFn_reportFlr s fn _ rfl⟩
  · have he : exec (.functionClosed fn) s = .next ((s.modFn fn Fn.proceed).reportFlr fn) := by
      rw [show exec (.functionClosed fn) s = execFunctionClosed fn s from rfl, execFunctionClosed, hc]
      exact onlyIf_true (by rw [hf, bne_iff_ne.2 hs]; rfl)
    exact ⟨_, he, ho ▸ inFn_reportFlr s fn Fn.proceed rfl⟩

end Sys2Proof.Claims
end

section
/-! SUPPORT. What bookkeeping leaves of sampling runs and waiting packages (R397). -/

namespace Sys2Proof.Machine

theorem Chan.count_sample (k : Chan) (n code i : Nat) (ctx : Option Nat) : (k.count n code i ctx).dbg.sample = k.dbg.sample := by
  rw [Chan.count_cnt]

theorem State.countAll_sample (s : State) (code c : Nat) : ((s.countAll code).chan c).dbg.sample = (s.chan c).dbg.sample := by
  rcases Nat.lt_or_ge c s.channels with h | h
  · rw [State.countAll, State.chan_allChans s _ h, Chan.count_sample]
  · rw [State.countAll, State.chan_allChans_of_le s _ h]

theorem State.complete_sample (s : State) (e : Cpl) (c : Nat) : ((s.complete e).chan c).dbg.sample = (s.chan c).dbg.sample := by
  unfold State.complete
  split
  · unfold State.writeCpl
    dsimp only
    split
    · rfl
    · rw [State.chan, State.event_rest]
      exact State.countAll_sample _ _ c
  · rfl

theorem State.headBlock_sample (s : State) (fn c : Nat) : ((s.headBlock fn).chan c).dbg.sample = (s.chan c).dbg.sample := by
  unfold State.headBlock
  dsimp only
  split
  · rfl
  · split
    · rw [State.hostWrite_rest]
      rfl
    · exact State.countAll_sample s _ c

theorem State.headBlock_pkgs (s : State) (fn : Nat) : (s.headBlock fn).host.pkgs = s.host.pkgs := by
  unfold State.headBlock
  dsimp only
  split
  · rfl
  · split
    · rw [State.hostWrite_rest]
    · rw [State.countAll_rest]

theorem State.auditFull_false {s : State} (h : s.store.waiting.length < 256) : s.auditFull = false := decide_eq_false (Nat.not_le.2 h)

theorem State.enterProgs_rest (s : State) (l : List ProgFill) : s.enterProgs l = { s with chans := (s.enterProgs l).chans } := by
  unfold State.enterProgs
  induction l generalizing s with
  | nil => rfl
  | cons p l ih =>
    rw [List.foldl_cons, ih]
    rfl

end Sys2Proof.Machine
end

section
/-! Family 09_weight_programming, 07_sequencer, 19_debug: packages, programs and sampling runs (R130, R131, R184, R397). -/

namespace Sys2Proof.Claims

open Sys2Proof.Machine

section

variable {s : State} {fn sq pos : Nat} {d : BitVec 512} {j : Job} (hfe : Fetches s fn sq pos) (hj : j = s.newJob fn sq pos d)
  (hv : s.popFetch.countJob.verdictOf j = none)

omit hfe in
/-- What the checks of a load or a sampling run find is the state after the fetch. -/
theorem fetchedFor_load (hk : 8 ≤ j.kind) : fetchedFor s j = s.popFetch.countJob := by
  unfold fetchedFor
  exact if_neg (by omega)

include hfe hj hv

theorem load_runs {kinds : List Nat} (run : State → Job → State) (hk : 8 ≤ j.kind) (hm : j.kind ∈ kinds) :
    s.fetched fn sq (.data d) kinds run = (run s.popFetch.countJob j).headBlock fn := by
  have hf := fetchedFor_load (s := s) hk
  rw [← hf]
  exact fetched_runs run hfe hj hm (by rw [hf]; exact hv)

/-- A package that waits its turn. -/
def takenPkg (fn : Nat) (j : Job) (b : List Byte) : Pkg :=
  { job := j.id, fn := fn, mask := fld (readPkg b).1 112 105, digest := Config.shake256 b, recs := (readPkg b).2.1, secs := (readPkg b).2.2.1 }

/-- R184: a package that passes waits behind the others. -/
theorem loadWeights_waits {b : List Byte} {sigOk : Bool} (hk : j.kind = 8) (hl : (s.host.pkgs.filter (fun p => !p.refresh)).length < 5)
    (hw : s.store.waiting.length < 256) (hf : s.store.fault = false) (hd : s.dmaOk fn j.addr (fld d 351 312) false = true)
    (hp : s.popFetch.countJob.pkgFault (b.take (fld d 351 312)) sigOk = .none) :
    ∃ t p, exec (.loadWeights fn sq (.data d) (.data b) sigOk) s = .next t ∧ t.host.pkgs = s.host.pkgs ++ [p] ∧ p.job = j.id ∧ p.fn = fn ∧
      p.digest = Config.shake256 (b.take (fld d 351 312)) ∧ p.staged = false ∧ p.refresh = false ∧ t.host.jobs = s.host.jobs ++ [j] := by
  have hjf : j.fn = fn := by rw [hj]; rfl
  have hjd : j.desc = d := by rw [hj]; rfl
  have hrun : State.takeWeights (.data b) sigOk s.popFetch.countJob j = { s.popFetch.countJob with host := { s.popFetch.countJob.host with
      jobs := s.host.jobs ++ [j]
      pkgs := s.host.pkgs ++ [takenPkg fn j (b.take (fld d 351 312))] } } := by
    have hdma : s.popFetch.countJob.dmaOk fn j.addr (fld d 351 312) false = true := hd
    unfold State.takeWeights
    dsimp only
    rw [hjf, hjd, if_neg (show ¬ 5 ≤ (s.popFetch.countJob.host.pkgs.filter (fun p => !p.refresh)).length from Nat.not_le.2 hl),
      State.auditFull_false (s := s.popFetch.countJob) hw, if_neg Bool.false_ne_true,
      show s.popFetch.countJob.store.fault = false from hf, if_neg Bool.false_ne_true, hdma, if_neg (by simp), hp]
    rfl
  refine ⟨_, takenPkg fn j (b.take (fld d 351 312)), congrArg Host.Outcome.next (load_runs hfe hj hv (State.takeWeights (.data b) sigOk) (by omega) (by simp [hk])), ?_⟩
  rw [State.headBlock_pkgs, (State.headBlock_queue _ _).2.2, hrun]
  exact ⟨rfl, rfl, rfl, rfl, rfl, rfl, rfl⟩

/-- R130, R131: the programs of a package that passes stand entered. -/
theorem loadProgram_enters {l : List ProgFill} (hk : j.kind = 9) (hw : s.store.waiting.length < 256)
    (hd : s.dmaOk fn j.addr (fld d 351 312) false = true) (hp : s.popFetch.countJob.progsFault l = none)
    (hh : ∀ c, c < s.channels → ((s.popFetch.countJob.enterProgs l).chan c).seqr.wordsHeld ≤ 32768) :
    ∃ t, exec (.loadProgram fn sq (.data d) l true) s = .next t ∧ Completed s t (s.jobCpl j 0 0 0) ∧
      (∀ c, (t.chan c).seqr = ((s.popFetch.countJob.enterProgs l).chan c).seqr) := by
  have hjf : j.fn = fn := by rw [hj]; rfl
  have hjd : j.desc = d := by rw [hj]; rfl
  have hrest := State.enterProgs_rest s.popFetch.countJob l
  have hrun : ∃ sec dg, State.takeProgs l true s.popFetch.countJob j =
      (({ s.popFetch.countJob.enterProgs l with sec := sec } : State).audit 0x12 fn 0 dg).endFetched j stOK 0 := by
    have hdma : s.popFetch.countJob.dmaOk fn j.addr (fld d 351 312) false = true := hd
    have hall : (List.range s.popFetch.countJob.channels).all
        (fun c => decide (((s.popFetch.countJob.enterProgs l).chan c).seqr.wordsHeld ≤ 32768)) = true :=
      List.all_eq_true.2 fun c hc => decide_eq_true (hh c (List.mem_range.1 hc))
    unfold State.takeProgs
    dsimp only
    rw [hjf, hjd, State.auditFull_false (s := s.popFetch.countJob) hw, if_neg Bool.false_ne_true, hdma, if_neg (by simp), if_neg (by simp), hp]
    dsimp only
    rw [hall]
    exact ⟨_, _, rfl⟩
  obtain ⟨sec, dg, hrun⟩ := hrun
  have haudit := State.audit_rest ({ s.popFetch.countJob.enterProgs l with sec := sec } : State) 0x12 fn 0 dg
  refine ⟨_, congrArg Host.Outcome.next (load_runs hfe hj hv (State.takeProgs l true) (by omega) (by simp [hk])), ?_, fun c => ?_⟩
  · have hc := completed_endFetched (({ s.popFetch.countJob.enterProgs l with sec := sec } : State).audit 0x12 fn 0 dg) j stOK 0 0
    have hjc : (({ s.popFetch.countJob.enterProgs l with sec := sec } : State).audit 0x12 fn 0 dg).jobCpl j 0 stOK 0 = s.jobCpl j 0 0 0 := by
      rw [haudit, hrest]
      rfl
    have hs : SameRings s (({ s.popFetch.countJob.enterProgs l with sec := sec } : State).audit 0x12 fn 0 dg) := by
      rw [haudit, hrest]
      exact ⟨rfl, rfl, fun _ _ => rfl⟩
    rw [hrun]
    rw [hjc] at hc
    exact (hc.of_sameRings hs).headBlock fn
  · rw [(DbgOnly.headBlock _ _).chan, hrun, (Booked.endFetched _ _ _ _ _).chan, haudit]
    rfl

/-- R397: a sampling run of an idle channel. -/
theorem sample_starts (hk : j.kind = 10) (hs : (s.chan (fld d 346 344)).dbg.sample = none) :
    ∃ t, exec (.sample fn sq (.data d)) s = .next t ∧ (t.chan (fld d 346 344)).dbg.sample = some { job := j.id } ∧
      t.host.jobs = s.host.jobs ++ [j] := by
  have hjd : j.desc = d := by rw [hj]; rfl
  have hrun : s.popFetch.countJob.takeSample j =
      ({ s.popFetch.countJob with host := { s.popFetch.countJob.host with jobs := s.host.jobs ++ [j] } } : State).modChan (fld d 346 344)
        (fun k => { k with dbg := { k.dbg with sample := some { job := j.id } } }) := by
    unfold State.takeSample
    dsimp only
    rw [hjd, show (s.popFetch.countJob.chan (fld d 346 344)).dbg.sample = none from hs]
    rfl
  refine ⟨_, congrArg Host.Outcome.next (load_runs hfe hj hv State.takeSample (by omega) (by simp [hk])), ?_, ?_⟩
  · rw [State.headBlock_sample, hrun, State.chan_modChan_same]
  · rw [(State.headBlock_queue _ _).2.2, hrun]
    rfl

/-- R397: one asked for while another runs. -/
theorem sample_deferred (hk : j.kind = 10) (hs : (s.chan (fld d 346 344)).dbg.sample ≠ none) :
    ∃ t, exec (.sample fn sq (.data d)) s = .next t ∧ Completed s t (s.jobCpl j 0 1 0x26) := by
  have hjd : j.desc = d := by rw [hj]; rfl
  have hrun : s.popFetch.countJob.takeSample j = s.popFetch.countJob.endFetched j stDeferred 0x26 := by
    unfold State.takeSample
    dsimp only
    rw [hjd]
    exact if_pos (Option.isSome_iff_ne_none.2 hs)
  refine ⟨_, congrArg Host.Outcome.next (load_runs hfe hj hv State.takeSample (by omega) (by simp [hk])), ?_⟩
  rw [hrun]
  exact completed_fetched (v := s.popFetch.countJob) rfl j stDeferred 0x26 0 fn

end

/-- R397: the end of a run whose buffer is empty. -/
theorem sampleRunEnd_completes {s : State} {c : Nat} {r : Sampling} {j : Job} (hr : (s.chan c).dbg.sample = some r) (hst : r.started = true)
    (hd : r.die = []) (hj : s.host.jobs.find? (fun x => x.id == r.job) = some j) (hf : r.startFrame + fld j.desc 311 296 ≤ s.frameN) :
    ∃ t, exec (.sampleRunEnd c) s = .next t ∧ (t.chan c).dbg.sample = none ∧ t.host.jobs = s.host.jobs.filter (fun x => x.id ≠ r.job) ∧
      Completed s t { s.jobCpl j 0 0 0 with detail := min r.dropped (2 ^ 32 - 1) } := by
  have hg : (r.started && decide (r.startFrame + fld ((s.hostJob? r.job).getD {}).desc 311 296 ≤ s.frameN)) = true := by
    rw [hst, State.hostJob?, hj, Option.getD_some, decide_eq_true hf]
    rfl
  have hx : exec (.sampleRunEnd c) s = .next (s.endSample c stOK 0) := by
    rw [show exec (.sampleRunEnd c) s = execSampleRunEnd c s from rfl, execSampleRunEnd, hr]
    exact onlyIf_true hg
  have he : s.endSample c stOK 0 =
      ((s.modChan c (fun k => { k with dbg := { k.dbg with sample := some { r with die := r.die.map (fun e => (none, e.2)) } } })).modChan c
        (fun k => { k with dbg := { k.dbg with sample := none } })).finishHost r.job stOK 0 (min r.dropped (2 ^ 32 - 1)) := by
    unfold State.endSample
    rw [hr]
    unfold State.writeSamples
    dsimp only
    rw [State.chan_modChan_same, hd]
    rfl
  generalize hu : (s.modChan c (fun k => { k with dbg := { k.dbg with sample := some { r with die := r.die.map (fun e => (none, e.2)) } } })).modChan c
    (fun k => { k with dbg := { k.dbg with sample := none } }) = u at he
  have hsample : (u.chan c).dbg.sample = none := by rw [← hu, State.chan_modChan_same]
  have hrest : u = { s with chans := u.chans } := by rw [← hu]; rfl
  generalize hw : ({ u with host := { u.host with jobs := s.host.jobs.filter (fun x => x.id ≠ r.job) } } : State) = w
  have hfin : u.finishHost r.job stOK 0 (min r.dropped (2 ^ 32 - 1)) =
      (w.sqDone j.fn j.sq).complete { s.jobCpl j 0 0 0 with detail := min r.dropped (2 ^ 32 - 1) } := by
    unfold State.finishHost State.hostJob?
    rw [show u.host.jobs = s.host.jobs by rw [hrest], hj, ← hw]
    dsimp only
    rw [show u.jobCpl j 0 stOK 0 = s.jobCpl j 0 0 0 by rw [hrest]; rfl]
  refine ⟨_, hx, ?_, ?_, ?_⟩
  · rw [he, hfin, State.complete_sample, ← hsample, ← hw]
    rfl
  · rw [he, hfin, ((Booked.sqDone w _ _).trans (.complete _ _)).jobs', ← hw]
  · rw [he, hfin]
    have hs : SameRings s w := by
      rw [← hw, hrest]
      exact ⟨rfl, rfl, fun _ _ => rfl⟩
    exact ((completed_complete _ _).of_sameRings (SameRings.sqDone w j.fn j.sq)).of_sameRings hs

/-- Settles O45: the three kinds as they are taken, and a run's end. -/
theorem packagesProgramsAndRunsAreTaken : Obligations.PackagesProgramsAndRunsAreTaken := by
  refine ⟨?_, fun s c r j hr hst hd hj hf => sampleRunEnd_completes hr hst hd hj hf⟩
  rintro s u fn sq pos d j hfe hj rfl hv
  exact ⟨fun b sigOk hk hl hw hf hd hp => loadWeights_waits hfe hj hv hk hl hw hf hd hp,
    fun l hk hw hd hp hh => loadProgram_enters hfe hj hv hk hw hd hp hh, sample_starts hfe hj hv, sample_deferred hfe hj hv⟩

end Sys2Proof.Claims
end

section
/-! SUPPORT. Slots without groups, and what a change of a slot leaves of its channel (R79, R83). -/

namespace Sys2Proof.Machine

/-- A change of a slot leaves every channel but for its slots. -/
theorem State.chan_modSlot_rest (s : State) (c n : Nat) (f : Slot → Slot) (d : Nat) : (s.modSlot c n f).chan d = { s.chan d with
    seqr := { (s.chan d).seqr with slots := ((s.modSlot c n f).chan d).seqr.slots } } := by
  unfold State.modSlot State.setSlot
  rw [State.chan_modChan]
  split
  · next h =>
    rw [h]
    rfl
  · rfl

/-- A slot that holds no group spills none. -/
theorem State.spillAll_none {s : State} {c sl : Nat} (h : ∀ n, n < 4 → ((s.slot c sl).handle n).phys = none) : s.spillAll c sl = s := by
  have hl : ∀ (l : List Nat), (∀ n ∈ l, n < 4) → l.foldl (fun s n =>
      if ((s.slot c sl).handle n).phys.isSome then (s.spillHandle c sl n true true).count c 0x14 none else s) s = s := by
    intro l
    induction l with
    | nil => exact fun _ => rfl
    | cons n l ih =>
      intro hm
      rw [List.foldl_cons, h n (hm n List.mem_cons_self), if_neg (by simp)]
      exact ih fun x hx => hm x (List.mem_cons_of_mem _ hx)
  exact hl _ fun n hn => List.mem_range.1 hn

/-- A slot that awaits no group goes on, and nothing else of its channel changes but the slot. -/
theorem State.resumeAll_none {s : State} {c sl : Nat} (h : ∀ n, n < 4 → ((s.slot c sl).handle n).implicit = false) :
    (s.resumeAll c sl).slot c sl = { s.slot c sl with block := .none, blockedFrames := 0 } ∧
    ((s.resumeAll c sl).chan c).sync = (s.chan c).sync := by
  have hl : (s.slot c sl).toResume = [] := List.filter_eq_nil_iff.2 fun n hn => by
    rw [h n (List.mem_range.1 hn)]
    simp
  have hany : (List.range 4).any (fun n => ((s.slot c sl).handle n).implicit) = false := List.any_eq_false.2 fun n hn => by
    rw [h n (List.mem_range.1 hn)]
    simp
  have hq : ∀ u : State, u = s ∨ u = s.modChan c (fun k => k) → u.slot c sl = s.slot c sl ∧ (u.chan c).sync = (s.chan c).sync := by
    rintro u (rfl | rfl)
    · exact ⟨rfl, rfl⟩
    · exact ⟨State.slot_modChan _ _ _ _ (fun k => k) fun _ => rfl, by rw [State.chan_modChan_same]⟩
  generalize hu : (if (s.chan c).seqr.groupQ.isEmpty && decide (([] : List Nat).length ≤ (s.chan c).freeGroups) then s.resumeHandles c sl []
    else s.modChan c (fun k => [].foldl (fun k h => k.joinGroupQ sl h s.nowNs) k)) = u
  have he : s.resumeAll c sl = u.modSlot c sl (fun x => { x with
      block := if (List.range 4).any (fun h => (x.handle h).implicit) then .resuming else .none, blockedFrames := 0 }) := by
    rw [State.resumeAll, hl, ← hu]
  have hu' : u = s ∨ u = s.modChan c (fun k => k) := by
    rw [← hu]
    split
    · exact .inl rfl
    · exact .inr rfl
  obtain ⟨hslot, hsync⟩ := hq u hu'
  rw [he]
  refine ⟨?_, ?_⟩
  · rw [State.slot_modSlot_same, hslot, hany]
    rfl
  · rw [State.chan_modSlot_rest]
    exact hsync

theorem State.atIssue_op {s : State} {c sl op : Nat} {w : Word} (h : s.atIssue c sl op = some w) : opOf w = op ∧ (s.chan c).ready sl w = true := by
  unfold State.atIssue at h
  split at h
  · split at h
    · next hc => exact Option.some.inj h ▸ ⟨hc.1, hc.2.1⟩
    · cases h
  · cases h

/-- A slot that issues is not blocked. -/
theorem State.atIssue_block {s : State} {c sl op : Nat} {w : Word} (h : s.atIssue c sl op = some w) : (s.slot c sl).block = .none := by
  have hr := (State.atIssue_op h).2
  unfold Chan.ready at hr
  simp only [Bool.and_eq_true, beq_iff_eq] at hr
  exact hr.1.1.1.2

/-- A change of the one outstanding instruction with a sequence number, the last. -/
theorem map_last_seq {l : List Outst} {o : Outst} (f : Outst → Outst) (h : ∀ e ∈ l, e.seq < o.seq) :
    (l ++ [o]).map (fun e => if e.seq = o.seq then f e else e) = l ++ [f o] := by
  have hl : l.map (fun e => if e.seq = o.seq then f e else e) = l :=
    (List.map_congr_left (g := id) fun e he => if_neg (Nat.ne_of_lt (h e he))).trans (List.map_id l)
  rw [List.map_append, hl, List.map_singleton, if_pos rfl]

theorem State.vtx_modVtx (s : State) (c v : Nat) (f : Vtx → Vtx) : ((s.modVtx c v f).chan c).vtx v = f ((s.chan c).vtx v) := by
  rw [State.modVtx, State.chan_modChan_same]
  exact (sget_smod ({} : Vtx) _ _ _ _).trans (if_pos rfl)

theorem State.slot_modVtx (s : State) (c v : Nat) (f : Vtx → Vtx) (d n : Nat) : (s.modVtx c v f).slot d n = s.slot d n :=
  State.slot_modChan s c d n _ fun _ => rfl

theorem State.vtx_modSlot (s : State) (c n : Nat) (f : Slot → Slot) (d v : Nat) : ((s.modSlot c n f).chan d).vtx v = (s.chan d).vtx v := by
  rw [State.chan_modSlot_rest]
  rfl

theorem State.ports_modSlot (s : State) (c n : Nat) (f : Slot → Slot) (d : Nat) :
    ((s.modSlot c n f).chan d).seqr.ports = (s.chan d).seqr.ports := by
  rw [State.chan_modSlot_rest]

theorem State.xport_modPortX (s : State) (c p : Nat) (f : XPort → XPort) :
    sget {} ((s.modPortX c p f).chan c).seqr.ports p = f (sget {} (s.chan c).seqr.ports p) := by
  rw [State.modPortX, State.chan_modChan_same]
  exact (sget_smod ({} : XPort) _ _ _ _).trans (if_pos rfl)

theorem State.slot_modPortX (s : State) (c p : Nat) (f : XPort → XPort) (d n : Nat) : (s.modPortX c p f).slot d n = s.slot d n :=
  State.slot_modChan s c d n _ fun _ => rfl

/-- The way of a peer's waiting message into its port, where it has room. -/
def admitPort (c : Nat) (s : State) (e : Nat × XPort) : State :=
  match e.2.inbound with
  | m :: _ =>
    if (s.chan c).portRoom e.1 m.bytes.length then s.modPortX c e.1 (fun p => { p with msgs := p.msgs ++ [m], inbound := p.inbound.drop 1 }) else s
  | [] => s

theorem State.admitInbound_eq (s : State) (c : Nat) : s.admitInbound c = (s.chan c).seqr.ports.foldl (admitPort c) s := rfl

theorem admitPort_slot (c : Nat) (s : State) (e : Nat × XPort) (n : Nat) : (admitPort c s e).slot c n = s.slot c n := by
  unfold admitPort
  split
  · split
    · exact State.slot_modChan s c c n _ fun _ => rfl
    · rfl
  · rfl

/-- Messages let into ports change no slot. -/
theorem State.admitInbound_slot (s : State) (c n : Nat) : (s.admitInbound c).slot c n = s.slot c n :=
  foldl_keeps (fun u : State => u.slot c n) (admitPort c) (fun u e => admitPort_slot c u e n) _ _

end Sys2Proof.Machine
end

section
/-! Family 13_synchronisation: waits, barriers, exchanges and yields at issue (R158, R237, R272, R276). -/

namespace Sys2Proof.Claims

open Sys2Proof.Machine

section

variable {s : State} {c sl : Nat} {w : Word}

/-- The groups of a slot do not change as it issues. -/
theorem noGroups_of_handles {t : State} (hn : NoGroups s c sl) (h : (t.slot c sl).handles = (s.slot c sl).handles) : NoGroups t c sl := by
  intro n hlt
  have he : (t.slot c sl).handle n = (s.slot c sl).handle n := by rw [Slot.handle, h]; rfl
  rw [he]
  exact hn n hlt

theorem issued_vtx (v : Nat) : ((s.issued c sl w).chan c).vtx v = (s.chan c).vtx v := by
  rw [Chan.vtx, (s.issued_frame c sl w).sync]
  rfl

theorem issued_linkOf (v : Nat) : ((s.issued c sl w).chan c).linkOf v = (s.chan c).linkOf v := by
  rw [Chan.linkOf, (s.issued_frame c sl w).sync]
  rfl

theorem issued_ports : ((s.issued c sl w).chan c).seqr.ports = (s.chan c).seqr.ports := by rw [(s.issued_frame c sl w).seqr]

variable (hn : NoGroups s c sl)

include hn

theorem noGroups_issued : NoGroups (s.issued c sl w) c sl := noGroups_of_handles hn (by rw [State.issued_slot])

/-! ### wait -/

section

variable (h : Issues s c sl 0x59 w) (hl : (s.chan c).linkOf (fld w 47 36) = none)

include h

omit hn in
theorem wait_exec : exec (.wait c sl) s = .next ((s.issued c sl w).waitAt c sl (entryWith s c sl w)) := by
  have hx : exec (.wait c sl) s = .next (s.issue c sl 0x59 (fun t o => t.waitAt c sl { o with x := t.reg c sl (operandReg o.word) })) := rfl
  have hr : (s.issued c sl w).reg c sl (operandReg w) = (s.slot c sl).reg (operandReg w) := by rw [State.reg, State.issued_slot]; rfl
  rw [hx, State.issue_next s _ h.1 (.inl h.2)]
  exact congrArg (fun x => Host.Outcome.next ((s.issued c sl w).waitAt c sl { s.entryOf c sl w with x := x })) hr

omit hn in
theorem wait_amount : amountOf (entryWith s c sl w) = (((s.slot c sl).reg (fld w 35 31)).toNat + fld w 15 0) % 2 ^ 32 := by
  have ho : operandReg w = fld w 35 31 := by rw [operandReg, (State.atIssue_op h.1).1]; rfl
  rw [← ho]
  rfl

variable {thr : Nat} (ht : thr = (((s.slot c sl).reg (fld w 35 31)).toNat + fld w 15 0) % 2 ^ 32)

include hl ht

/-- A wait at an unlinked vertex: on, or behind the others. -/
theorem waitAt_eq : (s.issued c sl w).waitAt c sl (entryWith s c sl w) =
    if ((s.chan c).vtx (fld w 47 36)).passes thr (bit w 55) then
      ((if bit w 55 then (s.issued c sl w).modVtx c (fld w 47 36) (fun x => { x with value := x.value - thr })
        else s.issued c sl w).sampleDone c (s.chan c).seqr.nextSeq 1).resumeAll c sl
    else
      (((s.issued c sl w).addOut c sl { entryWith s c sl w with started := true }).modSlot c sl (fun x => { x with
        block := .wait (fld w 47 36) thr (bit w 55), blockedSince := (s.issued c sl w).nowNs, blockedFrames := 0 })).modVtx c (fld w 47 36)
          (fun x => { x with waiters := x.waiters ++ [{ slot := sl, thr := thr, consume := bit w 55 }] }) := by
  have hlu : ((s.issued c sl w).chan c).linkOf (fld w 47 36) = none := issued_linkOf _ |>.trans hl
  unfold State.waitAt
  dsimp only [entryWith]
  rw [hlu, if_neg (by simp), State.spillAll_none fun n hlt => (noGroups_issued hn n hlt).1, issued_vtx, ht, ← wait_amount h]
  rfl

/-- R272: a wait that the vertex satisfies goes on. -/
theorem wait_passes (hp : ((s.chan c).vtx (fld w 47 36)).passes thr (bit w 55) = true) :
    ∃ t, exec (.wait c sl) s = .next t ∧ (t.slot c sl).block = .none ∧ (t.slot c sl).pc = (s.slot c sl).pc + 1 ∧
      (t.slot c sl).outs = (s.slot c sl).outs ∧
      ((t.chan c).vtx (fld w 47 36)).value = ((s.chan c).vtx (fld w 47 36)).value - (if bit w 55 then thr else 0) := by
  generalize hu : (if bit w 55 then (s.issued c sl w).modVtx c (fld w 47 36) (fun x => { x with value := x.value - thr })
    else s.issued c sl w) = u
  have hslot : u.slot c sl = (s.issued c sl w).slot c sl := by
    rw [← hu]
    split
    · exact State.slot_modVtx _ _ _ _ _ _
    · rfl
  have hval : ((u.chan c).vtx (fld w 47 36)).value = ((s.chan c).vtx (fld w 47 36)).value - (if bit w 55 then thr else 0) := by
    rw [← hu]
    split
    · rw [State.vtx_modVtx, issued_vtx]
    · rw [issued_vtx]
      rfl
  have hd := State.sampleDone_only u c (s.chan c).seqr.nextSeq 1
  have hus : (u.sampleDone c (s.chan c).seqr.nextSeq 1).slot c sl = (s.issued c sl w).slot c sl := (hd.slot c sl).trans hslot
  obtain ⟨hrs, hrv⟩ := State.resumeAll_none (s := u.sampleDone c (s.chan c).seqr.nextSeq 1) (c := c) (sl := sl)
    fun n hlt => (noGroups_of_handles (noGroups_issued (w := w) hn) (by rw [hus]) n hlt).2
  refine ⟨_, wait_exec h, ?_⟩
  rw [waitAt_eq hn h hl ht, if_pos hp, hu, hrs, hus, State.issued_slot]
  refine ⟨rfl, rfl, rfl, ?_⟩
  rw [Chan.vtx, hrv, hd.own]
  exact hval

/-- R272: one that it does not satisfy waits behind the others. -/
theorem wait_blocks (hp : ((s.chan c).vtx (fld w 47 36)).passes thr (bit w 55) = false) :
    ∃ t, exec (.wait c sl) s = .next t ∧ (t.slot c sl).block = .wait (fld w 47 36) thr (bit w 55) ∧
      (t.slot c sl).pc = (s.slot c sl).pc + 1 ∧ (t.chan c).vtx (fld w 47 36) = { (s.chan c).vtx (fld w 47 36) with
        waiters := ((s.chan c).vtx (fld w 47 36)).waiters ++ [{ slot := sl, thr := thr, consume := bit w 55 }] } := by
  refine ⟨_, wait_exec h, ?_⟩
  rw [waitAt_eq hn h hl ht, if_neg (by rw [hp]; exact Bool.false_ne_true), State.slot_modVtx, State.slot_modSlot_same,
    State.issued_addOut_slot, State.vtx_modVtx, State.vtx_modSlot, State.addOut, State.vtx_modSlot, issued_vtx]
  exact ⟨rfl, rfl, rfl⟩

end

/-! ### bar -/

/-- R276: a bar blocks its slot at the copy's generation. -/
theorem bar_blocks (h : Issues s c sl 0x5A w) (hv : ((s.chan c).barrier (fld w 47 40)).valid = true) : ∃ t, exec (.bar c sl) s = .next t ∧
    (t.slot c sl).block = .bar (fld w 47 40) ((s.chan c).barrier (fld w 47 40)).gen.toNat ∧
    (t.slot c sl).outs = (s.slot c sl).outs ++ [s.entryOf c sl w] := by
  have hx : exec (.bar c sl) s = .next (s.issue c sl 0x5A (fun t o => t.barAt c sl o)) := rfl
  have hbar := (s.issued_frame c sl w).bars (fld w 47 40)
  have hvalid : (((s.issued c sl w).chan c).barrier (fld w 47 40)).valid = true := by
    rw [hbar]
    exact hv
  have hgen : (((s.issued c sl w).chan c).barrier (fld w 47 40)).gen = ((s.chan c).barrier (fld w 47 40)).gen := by rw [hbar]
  have hb : (s.issued c sl w).barAt c sl (s.entryOf c sl w) =
      ((s.issued c sl w).addOut c sl (s.entryOf c sl w)).modSlot c sl (fun y => { y with
        block := .bar (fld w 47 40) ((s.chan c).barrier (fld w 47 40)).gen.toNat, blockedSince := (s.issued c sl w).nowNs, blockedFrames := 0 }) := by
    unfold State.barAt
    dsimp only [State.entryOf]
    rw [hvalid, hgen, if_neg (by simp), State.spillAll_none fun n hlt => (noGroups_issued hn n hlt).1]
    rfl
  refine ⟨_, hx, ?_⟩
  rw [State.issue_next s _ h.1 (.inl h.2), hb, State.slot_modSlot_same, State.issued_addOut_slot]
  exact ⟨rfl, rfl⟩

/-! ### xch.rcv -/

section

variable (h : Issues s c sl 0x49 w) (hb : State.operandsBad (s.issued c sl w) c sl (s.entryOf c sl w) = none)

include h hb

omit hn in
theorem xchRcv_exec : exec (.xchRcv c sl) s = .next
    (if (s.chan c).portNow w then ((s.issued c sl w).addOut c sl (s.entryOf c sl w)).takeMessage c sl (s.entryOf c sl w) (fld w 34 27)
     else (s.issued c sl w).blockPort c sl (fld w 34 27) (s.entryOf c sl w)) := by
  have hx : exec (.xchRcv c sl) s = execXchRcv c sl s := rfl
  rw [hx, execXchRcv, State.issue_next s _ h.1 (.inl h.2), hb]
  rfl

/-- R158: an xch.rcv at an empty port blocks behind the others. -/
theorem xchRcv_blocks (hm : (sget {} (s.chan c).seqr.ports (fld w 34 27)).msgs = []) : ∃ t, exec (.xchRcv c sl) s = .next t ∧
    (t.slot c sl).block = .xrcv (fld w 34 27) ∧ (t.slot c sl).outs = (s.slot c sl).outs ++ [s.entryOf c sl w] ∧
    sget {} (t.chan c).seqr.ports (fld w 34 27) = { sget ({} : XPort) (s.chan c).seqr.ports (fld w 34 27) with
      waiters := (sget ({} : XPort) (s.chan c).seqr.ports (fld w 34 27)).waiters ++ [sl] } := by
  have hp : (s.chan c).portNow w = false := by
    unfold Chan.portNow
    dsimp only
    rw [hm]
    rfl
  have hg : NoGroups ((s.issued c sl w).addOut c sl (s.entryOf c sl w)) c sl := noGroups_of_handles hn (by rw [State.issued_addOut_slot])
  have hbl : (s.issued c sl w).blockPort c sl (fld w 34 27) (s.entryOf c sl w) =
      (((s.issued c sl w).addOut c sl (s.entryOf c sl w)).modSlot c sl (fun x => { x with
        block := .xrcv (fld w 34 27), blockedSince := (s.issued c sl w).nowNs, blockedFrames := 0 })).modPortX c (fld w 34 27)
          (fun x => { x with waiters := x.waiters ++ [sl] }) := by
    unfold State.blockPort
    rw [State.spillAll_none fun n hlt => (hg n hlt).1]
    rfl
  refine ⟨_, xchRcv_exec h hb, ?_⟩
  rw [hp, if_neg Bool.false_ne_true, hbl, State.slot_modPortX, State.slot_modSlot_same, State.issued_addOut_slot, State.xport_modPortX,
    State.ports_modSlot, State.addOut, State.ports_modSlot, issued_ports]
  exact ⟨rfl, rfl, rfl⟩

omit hn in
/-- R158: an xch.rcv at a port with a message takes it. -/
theorem xchRcv_takes {m : Msg} {l : List Msg} (hm : (sget {} (s.chan c).seqr.ports (fld w 34 27)).msgs = m :: l)
    (hw : (sget {} (s.chan c).seqr.ports (fld w 34 27)).waiters = []) (hd : m.bytes.length ≤ dataBytes ((s.slot c sl).bd (fld w 47 44)))
    (hq : ∀ o ∈ (s.slot c sl).outs, o.seq < (s.chan c).seqr.nextSeq) : ∃ t, exec (.xchRcv c sl) s = .next t ∧ (t.slot c sl).block = .none ∧
      (t.slot c sl).outs = (s.slot c sl).outs ++ [{ s.entryOf c sl w with ready := true, msg := some m }] := by
  have hp : (s.chan c).portNow w = true := by
    unfold Chan.portNow
    dsimp only
    rw [hm, hw]
    rfl
  have hports : (((s.issued c sl w).addOut c sl (s.entryOf c sl w)).chan c).seqr.ports = (s.chan c).seqr.ports := by
    rw [State.addOut, State.ports_modSlot, issued_ports]
  have hmsgs : (sget {} (((s.issued c sl w).addOut c sl (s.entryOf c sl w)).chan c).seqr.ports (fld w 34 27)).msgs = m :: l := by rw [hports, hm]
  have hmap := map_last_seq (l := (s.slot c sl).outs) (o := s.entryOf c sl w) (fun e => { e with ready := true, msg := some m }) hq
  have hslot : (((((s.issued c sl w).addOut c sl (s.entryOf c sl w)).modPortX c (fld w 34 27) (fun x => { x with msgs := x.msgs.drop 1 })).admitInbound
      c).slot c sl) = ((s.issued c sl w).addOut c sl (s.entryOf c sl w)).slot c sl :=
    (State.admitInbound_slot _ _ _).trans (State.slot_modPortX _ _ _ _ _ _)
  refine ⟨_, xchRcv_exec h hb, ?_⟩
  rw [hp, if_pos rfl]
  unfold State.takeMessage
  rw [hmsgs]
  dsimp only
  rw [if_neg (show ¬ dataBytes ((s.entryOf c sl w).bds.getD (bnum (s.entryOf c sl w).word 44) 0) < m.bytes.length from Nat.not_lt.2 hd), State.slot_modSlot_same, hslot,
    State.issued_addOut_slot]
  exact ⟨State.atIssue_block h.1, hmap⟩

end

/-! ### yield -/

/-- R237: an unconditional yield leaves the slot to be resumed. -/
theorem yield_yields (h : Issues s c sl 0x60 w) (hb : bit w 55 = false) : ∃ t, exec (.yield c sl) s = .next t ∧ (t.slot c sl).block = .yield ∧
    (t.slot c sl).sinceYield = 0 ∧ (t.slot c sl).pc = (s.slot c sl).pc + 1 ∧
    (∀ j ∈ (s.chan c).jobs, j.id = (s.slot c sl).job.getD 0 → { j with stage := .yielded sl, askYield := false } ∈ (t.chan c).jobs) := by
  generalize hu : (s.issuedNow c sl w).modSlot c sl (fun x => { x with sinceYield := 0 }) = u
  have hus : u.slot c sl = { s.slot c sl with pc := (s.slot c sl).pc + 1, sinceYield := 0 } := by
    rw [← hu, State.slot_modSlot_same, State.issuedNow_slot]
  have hg : NoGroups u c sl := noGroups_of_handles hn (by rw [hus])
  have hjobs : (u.chan c).jobs = (s.chan c).jobs := by
    rw [← hu, State.chan_modSlot_rest, (s.issuedNow_frame c sl w).chan]
  have hx : exec (.yield c sl) s = .next ((u.modSlot c sl (fun x => { x with block := .yield })).modJob c ((s.slot c sl).job.getD 0)
      (fun j => { j with stage := .yielded sl, askYield := false })) := by
    have hj : (u.slot c sl).job = (s.slot c sl).job := by rw [hus]
    have hw : (s.entryOf c sl w).word = w := rfl
    rw [show exec (.yield c sl) s = execYield c sl s from rfl, execYield, State.issueNow_eq s _ h.1 h.2]
    dsimp only
    rw [hu, hw, hb, if_neg (by simp), if_neg Bool.false_ne_true, State.spillAll_none fun n hlt => (hg n hlt).1, hj]
    rfl
  have hs := State.slot_modChan (u.modSlot c sl (fun x => { x with block := .yield })) c c sl (fun k => { k with jobs := k.jobs.map (fun j =>
    if j.id = (s.slot c sl).job.getD 0 then { j with stage := .yielded sl, askYield := false } else j) }) fun _ => rfl
  refine ⟨_, hx, ?_⟩
  rw [State.modJob, hs, State.slot_modSlot_same, hus]
  refine ⟨rfl, rfl, rfl, fun j hj hid => ?_⟩
  rw [State.chan_modChan_same, State.chan_modSlot_rest]
  dsimp only
  rw [hjobs]
  exact List.mem_map.2 ⟨j, hj, if_pos hid⟩

end

/-- Settles O46: the four instructions at their issue. -/
theorem waitsBlockTheirSlots : Obligations.WaitsBlockTheirSlots := by
  intro s c sl w hn
  refine ⟨fun h hl thr ht => ⟨wait_passes hn h hl ht, wait_blocks hn h hl ht⟩, bar_blocks hn, fun h hb x hx => ?_, yield_yields hn⟩
  subst hx
  exact ⟨xchRcv_blocks hn h hb, fun m l hm hw hd hq => xchRcv_takes h hb hm hw hd hq⟩

end Sys2Proof.Claims
end

section
/-! Family 07_sequencer: the start of an instruction at its unit (R138, R157, R217). -/

namespace Sys2Proof.Claims

open Sys2Proof.Machine

section

variable {s : State} {c sl : Nat} {o : Outst} (ho : (s.slot c sl).out? o.seq = some o) (hs : s.canStart c sl o = true) (he : o.ecc = [])

include ho hs he in
theorem unitStart_exec : exec (.unitStart c sl o.seq []) s = .next (s.startNow c sl o) := by
  have hecc : s.eccAll c sl (o.ecc ++ []) = s := by rw [he]; rfl
  rw [show exec (.unitStart c sl o.seq []) s = execUnitStart c sl o.seq [] s from rfl, execUnitStart, ho]
  dsimp only
  rw [hecc]
  exact onlyIf_true hs

/-- The instructions that read only the window and the shared tables, and whose start marks them and does nothing else. -/
def MarkedOnly (s : State) (c : Nat) (o : Outst) : Prop :=
  opOf o.word = 0x39 ∨ (opOf o.word = 0x28 ∧ bit o.word 55 = false) ∨ (opOf o.word = 0x58 ∧ (s.chan c).linkOf (fld o.word 47 36) = none)

variable (hk : MarkedOnly s c o) (hr : (s.slot c sl).readsPoisoned o.word = false)

include hk in
theorem MarkedOnly.source : (if opOf o.word = 0x28 ∧ bit o.word 55 = true then s.sourceSlot c sl o else s.slot c sl) = s.slot c sl := by
  refine if_neg ?_
  rintro ⟨h1, h2⟩
  rcases hk with h | ⟨-, h⟩ | ⟨h, -⟩
  · rw [h] at h1; exact absurd h1 (by decide)
  · rw [h] at h2; exact Bool.false_ne_true h2
  · rw [h] at h1; exact absurd h1 (by decide)

include hk hr

theorem startNow_begun (hp : poisonIn (s.chan c) (s.slot c sl) ((s.chan c).readsOf c sl o) = .none) : s.startNow c sl o = s.begun c sl o.seq := by
  have hr' : ((s.chan c).slot sl).readsPoisoned o.word = false := hr
  unfold State.startNow
  dsimp only
  rw [MarkedOnly.source hk, hr', if_neg Bool.false_ne_true, hp]
  dsimp only
  rcases hk with h | ⟨h, hb⟩ | ⟨h, hl⟩
  · rw [h]
    rfl
  · rw [h, hb]
    exact if_neg Bool.false_ne_true
  · have hsig : s.startSig c sl o = s.begun c sl o.seq := by
      unfold State.startSig
      rw [hl]
    rw [h]
    exact hsig

theorem startNow_poisoned {p : PSrc} (hp : p = poisonIn (s.chan c) (s.slot c sl) ((s.chan c).readsOf c sl o)) (hn : p ≠ .none) :
    s.startNow c sl o = s.endInf c sl 3 0x10 o.idx p := by
  have hr' : ((s.chan c).slot sl).readsPoisoned o.word = false := hr
  unfold State.startNow
  dsimp only
  rw [MarkedOnly.source hk, hr', if_neg Bool.false_ne_true, ← hp]
  cases p
  case none => exact absurd rfl hn
  all_goals rfl

end

/-- Settles O47: what starts is marked, or ends on poison. -/
theorem unitsStartInstructions : Obligations.UnitsStartInstructions := by
  intro s c sl o ho hs he hk
  refine ⟨fun hr hp => ⟨_, unitStart_exec ho hs he, ?_⟩, fun hr p hp hn => ?_⟩
  · rw [startNow_begun hk hr hp]
    exact ⟨rfl, fun d hd => State.chan_modChan_ne _ _ hd, fun n hn => (State.slot_modSlot ..).trans (if_neg fun h => hn h.2),
      State.slot_modSlot_same _ _ _ _⟩
  · rw [unitStart_exec ho hs he, startNow_poisoned hk hr hp hn]

end Sys2Proof.Claims
end

section
/-! SUPPORT. What writes of a slot's window leave of its lookback rows, and what a replay leaves of them (R104 to R107). -/

namespace Sys2Proof.Machine

/-- From `x` to `y` no row was added or changed, and no row without its final codes was lost; what is outstanding stands. -/
structure RowsKept (x y : Slot) : Prop where
  old : ∀ p ∈ y.prows, p ∈ x.prows
  open_ : ∀ p ∈ x.prows, p.done = false → p ∈ y.prows
  outs : y.outs = x.outs

namespace RowsKept

variable {x y z : Slot}

theorem refl (x : Slot) : RowsKept x x := ⟨fun _ h => h, fun _ h _ => h, rfl⟩

theorem trans (h : RowsKept x y) (k : RowsKept y z) : RowsKept x z :=
  ⟨fun p hp => h.old p (k.old p hp), fun p hp hd => k.open_ p (h.open_ p hp hd) hd, k.outs.trans h.outs⟩

theorem writeBytes (x : Slot) (a : Nat) (b : List Byte) : RowsKept x (x.writeBytes a b) :=
  ⟨fun _ hp => (List.mem_filter.1 hp).1, fun _ hp hd => List.mem_filter.2 ⟨hp, by simp [hd]⟩, rfl⟩

theorem putElems (x : Slot) (d : BitVec 128) (r off : Nat) (l : List Nat) : RowsKept x (x.putElems d r off l) := by
  unfold Slot.putElems
  dsimp only
  split
  · exact refl x
  · exact writeBytes x _ _

theorem putRows (x : Slot) (d : BitVec 128) (off : Nat) (rows : List (List Nat)) : RowsKept x (x.putRows d off rows) := by
  have hf : ∀ (l : List (List Nat × Nat)) (x : Slot), RowsKept x (l.foldl (fun x e => x.putElems d e.2 off e.1) x) := by
    intro l
    induction l with
    | nil => exact refl
    | cons e l ih => exact fun x => (putElems x _ _ _ _).trans (ih _)
  exact hf _ x

theorem quantised (x : Slot) (o : Outst) (rows : List QRow) (n : Nat) : RowsKept x (x.quantised o rows n) :=
  have h : RowsKept x (((x.putRows (o.bd (bnum o.word 40)) 0 (rows.map (fun r => codesRaw (qset o) r.codes))).putScales
      (o.bd (bnum o.word 36)) (qset o) (rows.map QRow.clipped).sum n (rows.map QRow.scale))) := (putRows x _ _ _).trans (writeBytes _ _ _)
  ⟨h.old, h.open_, h.outs⟩

theorem putLook (x : Slot) (o : Outst) (scale : BitVec 16) : RowsKept x (x.putLook o scale) := writeBytes x _ _

end RowsKept

/-- A row's final codes: its entry is done, the others stand or have been overwritten, and its instruction is ready. -/
theorem State.rowFinal_slot (s : State) (c sl : Nat) (o : Outst) (r : PRow) (replay : Bool) (hr : r ∈ (s.slot c sl).prows) (hd : r.done = false) :
    { r with done := true, replaying := false, granted := [] } ∈ ((s.rowFinal c sl o r replay).slot c sl).prows ∧
    (∀ p ∈ ((s.rowFinal c sl o r replay).slot c sl).prows, p.key ≠ r.key → p ∈ (s.slot c sl).prows) ∧
    ((s.rowFinal c sl o r replay).slot c sl).outs =
      (s.slot c sl).outs.map (fun e => if e.seq = o.seq then { e with ready := true } else e) := by
  have hk : RowsKept (s.slot c sl) (((s.slot c sl).quantised o [r.result replay] (bnat replay)).putLook o r.meas) :=
    (RowsKept.quantised _ _ _ _).trans (RowsKept.putLook _ _ _)
  unfold State.rowFinal
  dsimp only
  rw [State.modOut, State.slot_modSlot_same, (State.countBy_only _ _ _ _ _ _).slot, (State.countBy_only _ _ _ _ _ _).slot,
    State.slot_modSlot_same]
  dsimp only [Slot.modRow]
  refine ⟨List.mem_map.2 ⟨r, hk.open_ r hr hd, if_pos rfl⟩, fun p hp hne => ?_, by rw [hk.outs]⟩
  obtain ⟨q, hq, he⟩ := List.mem_map.1 hp
  split at he
  · next h => exact absurd (by rw [← he]; exact h) hne
  · exact he ▸ hk.old q hq

/-- The lookback rows of a slot do not change when a channel's parts other than its slots do. -/
theorem State.prows_modChan (s : State) (c sl : Nat) (f : Chan → Chan) (h : ∀ k, (f k).seqr.slots = k.seqr.slots) :
    ((s.modChan c f).slot c sl).prows = (s.slot c sl).prows := by rw [State.slot_modChan s c c sl f h]

theorem State.prows_modSlot (s : State) (c sl : Nat) (f : Slot → Slot) (h : ∀ x, (f x).prows = x.prows) :
    ((s.modSlot c sl f).slot c sl).prows = (s.slot c sl).prows := by rw [State.slot_modSlot_same, h]

theorem State.prows_resetGroup (s : State) (c sl h : Nat) : ((s.resetGroup c sl h).slot c sl).prows = (s.slot c sl).prows := by
  have h1 : ∀ u : State, ((u.modSlot c sl (fun x => x.setHandle h { x.handle h with poisoned := false })).slot c sl).prows =
      (u.slot c sl).prows := fun u => State.prows_modSlot u c sl _ fun _ => rfl
  unfold State.resetGroup
  dsimp only
  cases ((s.slot c sl).handle h).phys with
  | none =>
    cases ((s.slot c sl).handle h).record with
    | none => exact h1 s
    | some n =>
      refine (State.prows_modChan _ c sl _ ?_).trans (h1 s)
      exact fun _ => rfl
  | some i =>
    have h2 := State.prows_modChan s c sl (fun k => k.setGroup i { k.group i with sums := zeroLanes, comps := zeroLanes }) fun _ => rfl
    cases ((s.slot c sl).handle h).record with
    | none => exact (h1 _).trans h2
    | some n =>
      refine (State.prows_modChan _ c sl _ ?_).trans ((h1 _).trans h2)
      exact fun _ => rfl

/-- What is asked for again of a discarded MVM. -/
def State.deliverAgain (s : State) (c sl : Nat) (r : Req) : State :=
  match r.why with
  | .work _ seq h =>
    (s.modOut c sl seq (fun o => { o with pending := o.pending + 1 })).modSlot c sl (fun x =>
      x.setHandle h { x.handle h with waiting := (x.handle h).waiting + 1 })
  | _ => s

theorem State.prows_deliverAgain (s : State) (c sl : Nat) (r : Req) : ((s.deliverAgain c sl r).slot c sl).prows = (s.slot c sl).prows := by
  unfold State.deliverAgain
  split
  · rw [State.slot_modSlot_same, State.modOut, State.slot_modSlot_same]
    rfl
  · rfl

theorem State.discardMvm_eq (s : State) (c sl t : Nat) (r : Req) : s.discardMvm c sl t r =
    if (s.tile c t).run.any (fun u => u.req.id == r.id && u.req.why.isWork) then
      s.modTile c t (fun x => { x with run := x.run.map (fun u => { u with req := { u.req with discard := true } }) })
    else if holdsReq r.id (s.tile c t).bank0 || holdsReq r.id (s.tile c t).bank1 then
      if bit r.word 54 then s.modTile c t (fun x => x.freeBank (if holdsReq r.id x.bank0 then 0 else 1))
      else (s.modTile c t (fun x => x.freeBank (if holdsReq r.id x.bank0 then 0 else 1))).deliverAgain c sl r
    else s.deliverAgain c sl r := rfl

theorem State.prows_modTile (s : State) (c sl t : Nat) (f : Tile → Tile) : ((s.modTile c t f).slot c sl).prows = (s.slot c sl).prows :=
  State.prows_modChan s c sl _ fun _ => rfl

theorem State.prows_discardMvm (s : State) (c sl t : Nat) (r : Req) : ((s.discardMvm c sl t r).slot c sl).prows = (s.slot c sl).prows := by
  rw [State.discardMvm_eq]
  split
  · exact State.prows_modTile _ _ _ _ _
  · split
    · split
      · exact State.prows_modTile _ _ _ _ _
      · exact (State.prows_deliverAgain _ _ _ _).trans (State.prows_modTile _ _ _ _ _)
    · exact State.prows_deliverAgain _ _ _ _

/-- A replay marks its row, and changes no other. -/
theorem State.prows_replayRow (s : State) (c sl : Nat) (r : PRow) : ((s.replayRow c sl r).slot c sl).prows =
    (s.slot c sl).prows.map (fun p => if p.key = r.key then { p with replaying := true } else p) := by
  have h1 : ∀ (l : List Nat) (u : State), ((l.foldl (fun s h =>
      if ((s.slot c sl).handle h).pendingRow = some r.key then s.resetGroup c sl h else s) u).slot c sl).prows = (u.slot c sl).prows :=
    foldl_keeps (fun u : State => (u.slot c sl).prows) _ fun u h => by
      split
      · exact State.prows_resetGroup u c sl h
      · rfl
  have h2 : ∀ (l : List (Nat × Req)) (u : State), ((l.foldl (fun s e => s.discardMvm c sl e.1 e.2) u).slot c sl).prows = (u.slot c sl).prows :=
    foldl_keeps (fun u : State => (u.slot c sl).prows) _ fun u e => State.prows_discardMvm u c sl e.1 e.2
  have h3 : ∀ (l : List Nat) (x : Slot), (l.foldl (fun x h => if (x.handle h).pendingRow = some r.key then
      x.setHandle h { x.handle h with named := (x.handle h).waiting, drained := 0 } else x) x).prows = x.prows :=
    foldl_keeps Slot.prows _ fun x h => by split <;> rfl
  unfold State.replayRow
  dsimp only
  rw [State.slot_modSlot_same, Slot.modRow, State.slot_modSlot_same, h3, h2, h1]

theorem State.slot_request (s : State) (c t : Nat) (r : Req) (d n : Nat) : (s.request c t r).slot d n = s.slot d n := by
  refine (State.slot_modChan _ c d n _ ?_).trans (State.slot_modChan s c d n _ ?_)
  all_goals exact fun _ => rfl

theorem State.slot_reissue (s : State) (c sl : Nat) (r : PRow) (d n : Nat) : (s.reissue c sl r).slot d n = s.slot d n := by
  unfold State.reissue
  dsimp only
  rw [foldl_keeps (fun u : State => u.slot d n) (fun (u : State) (e : Nat × Req) => u.request c e.1 { u.codesNow c sl e.2 with row := none })
    (fun u e => State.slot_request u c _ _ d n)]
  exact State.slot_modChan s c d n _ fun _ => rfl

end Sys2Proof.Machine
end

section
/-! Family 05_quantisation: lookback rows (R104 to R107). -/

namespace Sys2Proof.Claims

open Sys2Proof.Machine

section

variable {s : State} {c sl seq : Nat} {o : Outst} {r : PRow} (ho : (s.slot c sl).out? seq = some o) (hr : (s.slot c sl).prowOf seq = some r)
  (hd : r.done = false)

include ho hr hd

theorem requantDone_exec (hp : r.replaying = true) :
    exec (.requantDone c sl seq) s = .next ((s.rowFinal c sl o r true).reissue c sl r) := by
  rw [show exec (.requantDone c sl seq) s = execRequantDone c sl seq s from rfl, execRequantDone, ho, hr]
  exact onlyIf_true (by rw [hp, hd]; rfl)

/-- The verdict's two outcomes (R104, R105). -/
theorem lookbackVerdict_exec {v : Nat} (hv : v = lookbackVerdict r.thr r.clipped r.largest (qset o).qmax r.codes.length) (hs : o.started = true)
    (hp : r.replaying = false) (hn : (s.slot c sl).outs.any (fun e => streams e o) = false) :
    (v = 0 → exec (.lookbackVerdict c sl seq) s = .next ((s.countBy c 0x21 1 sl o).rowFinal c sl o r false)) ∧
    (v ≠ 0 → ∃ code, exec (.lookbackVerdict c sl seq) s = .next ((s.countBy c code 1 sl o).replayRow c sl r)) := by
  have hg : (o.started && !r.done && !r.replaying && !(s.slot c sl).outs.any (fun e => streams e o)) = true := by
    rw [hs, hd, hp, hn]
    rfl
  have hx : exec (.lookbackVerdict c sl seq) s = execLookbackVerdict c sl seq s := rfl
  rw [hx, execLookbackVerdict, ho, hr]
  dsimp only
  rw [← hv]
  match v with
  | 0 => exact ⟨fun _ => onlyIf_true hg, fun h => absurd rfl h⟩
  | 1 => exact ⟨fun h => absurd h (by decide), fun _ => ⟨_, onlyIf_true hg⟩⟩
  | n + 2 => exact ⟨fun h => absurd h (by omega), fun _ => ⟨_, onlyIf_true hg⟩⟩

end

/-- Settles O52: a row stands, is marked for its replay, or gets its new codes. -/
theorem lookbackRowsGetTheirVerdict : Obligations.LookbackRowsGetTheirVerdict := by
  intro s c sl seq o r ho hr hd
  have hmem : r ∈ (s.slot c sl).prows := List.mem_of_find?_eq_some hr
  refine ⟨fun v hv hs hp hn => ?_, fun hp => ⟨_, requantDone_exec ho hr hd hp, ?_, ?_⟩⟩
  · obtain ⟨h0, h1⟩ := lookbackVerdict_exec ho hr hd hv hs hp hn
    by_cases hz : v = 0
    · have hslot := (State.countBy_only s c 0x21 1 sl o).slot c sl
      have hf := State.rowFinal_slot (s.countBy c 0x21 1 sl o) c sl o r false (by rw [hslot]; exact hmem) hd
      rw [hslot] at hf
      exact ⟨_, h0 hz, fun _ => hf, fun h => absurd hz h⟩
    · obtain ⟨code, hx⟩ := h1 hz
      refine ⟨_, hx, fun h => absurd h hz, fun _ => ?_⟩
      rw [State.prows_replayRow, (State.countBy_only s c code 1 sl o).slot]
  · rw [State.slot_reissue]
    exact (State.rowFinal_slot s c sl o r true hmem hd).1
  · rw [State.slot_reissue]
    exact (State.rowFinal_slot s c sl o r true hmem hd).2.1

end Sys2Proof.Claims
end

section
/-! SUPPORT. Waking a slot, and what vertices and barrier copies keep through it (R83, R273, R276). -/

namespace Sys2Proof.Machine

/-- From `s` to `t` of channel `c` neither the sync stores nor a slot other than `sl` changed, and no other channel. -/
structure OwnSlot (c sl : Nat) (s t : State) : Prop where
  rest : t = { s with chans := t.chans }
  others : ∀ d, d ≠ c → t.chan d = s.chan d
  sync : (t.chan c).sync = (s.chan c).sync
  slots : ∀ n, n ≠ sl → t.slot c n = s.slot c n

namespace OwnSlot

variable {c sl : Nat} {s t u : State}

theorem refl (c sl : Nat) (s : State) : OwnSlot c sl s s := ⟨rfl, fun _ _ => rfl, rfl, fun _ _ => rfl⟩

theorem trans (h : OwnSlot c sl s t) (k : OwnSlot c sl t u) : OwnSlot c sl s u :=
  ⟨State.chans_only_trans h.rest k.rest, fun d hd => (k.others d hd).trans (h.others d hd), k.sync.trans h.sync,
    fun n hn => (k.slots n hn).trans (h.slots n hn)⟩

theorem modSlot (s : State) (c sl : Nat) (f : Slot → Slot) : OwnSlot c sl s (s.modSlot c sl f) :=
  ⟨rfl, fun _ hd => State.chan_modChan_ne _ _ hd, by rw [State.chan_modSlot_rest],
    fun _ hn => (State.slot_modSlot ..).trans (if_neg fun h => hn h.2)⟩

theorem modChan (s : State) (c sl : Nat) {f : Chan → Chan} (h : ∀ k, (f k).sync = k.sync ∧ (f k).seqr.slots = k.seqr.slots) :
    OwnSlot c sl s (s.modChan c f) :=
  ⟨rfl, fun _ hd => State.chan_modChan_ne _ _ hd, by rw [State.chan_modChan_same, (h _).1],
    fun n _ => State.slot_modChan s c c n f fun k => (h k).2⟩

theorem counts (h : CountsOnly c s t) : OwnSlot c sl s t := ⟨h.rest, h.others, by rw [h.own], fun n _ => h.slot c n⟩

theorem foldl {α : Type} {f : State → α → State} (h : ∀ s a, OwnSlot c sl s (f s a)) : ∀ (l : List α) (s : State), OwnSlot c sl s (l.foldl f s)
  | [], s => refl c sl s
  | a :: l, s => (h s a).trans (foldl h l _)

theorem resumeRecord (s : State) (c sl h n i : Nat) : OwnSlot c sl s (s.resumeRecord c sl h n i) := by
  unfold State.resumeRecord
  dsimp only
  refine .trans ?_ (.counts (State.count_only _ _ _ _))
  split
  · refine .trans (.trans (modChan s c sl ?_) (modSlot _ c sl _)) (.counts (State.count_only _ _ _ _))
    exact fun _ => ⟨rfl, rfl⟩
  · refine .trans (modChan s c sl ?_) (modSlot _ c sl _)
    exact fun _ => ⟨rfl, rfl⟩

theorem resumeHandles (s : State) (c sl : Nat) (l : List Nat) : OwnSlot c sl s (s.resumeHandles c sl l) := by
  unfold State.resumeHandles
  refine foldl (fun u h => ?_) l s
  split
  · exact resumeRecord u c sl h _ _
  · exact refl c sl u

theorem joinGroupQ (sl : Nat) (l : List Nat) (now : Nat) (k : Chan) : (l.foldl (fun k h => k.joinGroupQ sl h now) k).sync = k.sync ∧
    (l.foldl (fun k h => k.joinGroupQ sl h now) k).seqr.slots = k.seqr.slots := by
  have hj : ∀ (k : Chan) (h : Nat), (k.joinGroupQ sl h now).sync = k.sync ∧ (k.joinGroupQ sl h now).seqr.slots = k.seqr.slots := by
    intro k h
    unfold Chan.joinGroupQ
    dsimp only
    split
    · exact ⟨rfl, rfl⟩
    · exact ⟨rfl, rfl⟩
  exact ⟨foldl_keeps Chan.sync _ (fun k h => (hj k h).1) l k, foldl_keeps (fun k : Chan => k.seqr.slots) _ (fun k h => (hj k h).2) l k⟩

theorem resumeAll (s : State) (c sl : Nat) : OwnSlot c sl s (s.resumeAll c sl) := by
  unfold State.resumeAll
  dsimp only
  refine .trans ?_ (modSlot _ c sl _)
  split
  · exact resumeHandles s c sl _
  · exact modChan s c sl fun k => joinGroupQ sl _ _ k

theorem wake (s : State) (c sl : Nat) : OwnSlot c sl s (s.wake c sl) := by
  unfold State.wake
  dsimp only
  refine .trans (.trans ?_ (modSlot _ c sl _)) (resumeAll _ c sl)
  exact foldl (fun u o => .counts (State.sampleDone_only u c _ _)) _ s

end OwnSlot

/-- A woken slot without groups goes on, its handles as they were. -/
theorem State.wake_none {s : State} {c sl : Nat} (h : ∀ n, n < 4 → ((s.slot c sl).handle n).implicit = false) :
    ((s.wake c sl).slot c sl).block = .none ∧ ((s.wake c sl).slot c sl).handles = (s.slot c sl).handles := by
  unfold State.wake
  dsimp only
  generalize hu : ((s.slot c sl).outs.filter (fun o => opOf o.word == 0x59 || opOf o.word == 0x5A)).foldl
    (fun s o => s.sampleDone c o.seq (s.nowNs - o.startedAt)) s = u
  have hus : u.slot c sl = s.slot c sl := by
    rw [← hu]
    exact (CountsOnly.foldl (fun u o => State.sampleDone_only u c _ _) _ s).slot c sl
  have hh : ((u.modSlot c sl (fun x => { x with outs := x.outs.filter (fun o => opOf o.word != 0x59 && opOf o.word != 0x5A) })).slot c sl).handles =
      (s.slot c sl).handles := by
    rw [State.slot_modSlot_same, hus]
  have hr := (State.resumeAll_none (s := u.modSlot c sl (fun x => { x with
    outs := x.outs.filter (fun o => opOf o.word != 0x59 && opOf o.word != 0x5A) })) (c := c) (sl := sl) (fun n hn => by
      rw [Slot.handle, hh]
      exact h n hn)).1
  rw [hr]
  exact ⟨rfl, hh⟩

/-- The waking of a list of slots. -/
theorem OwnSlot.foldl_wake (c : Nat) : ∀ (l : List BWait) (s : State),
    ((l.foldl (fun s w => s.wake c w.slot) s).chan c).sync = (s.chan c).sync
  | [], _ => rfl
  | w :: l, s => (OwnSlot.foldl_wake c l _).trans (OwnSlot.wake s c w.slot).sync

/-- Each of them that has no group goes on. -/
theorem State.foldl_wake_block (c n : Nat) : ∀ (l : List BWait) (s : State), (∀ h, h < 4 → ((s.slot c n).handle h).implicit = false) →
    ((∃ w ∈ l, w.slot = n) ∨ (s.slot c n).block = .none) → ((l.foldl (fun s w => s.wake c w.slot) s).slot c n).block = .none
  | [], _, _, hb => hb.resolve_left fun ⟨_, hw, _⟩ => by cases hw
  | w :: l, s, hn, hb => by
    rw [List.foldl_cons]
    by_cases he : w.slot = n
    · obtain ⟨hblock, hhandles⟩ := State.wake_none (s := s) (c := c) (sl := n) hn
      rw [he]
      refine State.foldl_wake_block c n l _ (fun h hlt => ?_) (.inr hblock)
      rw [Slot.handle, hhandles]
      exact hn h hlt
    · have hslot := (OwnSlot.wake s c w.slot).slots n (Ne.symm he)
      refine State.foldl_wake_block c n l _ (by rw [hslot]; exact hn) ?_
      rw [hslot]
      rcases hb with ⟨x, hx, hxn⟩ | hb
      · rcases List.mem_cons.1 hx with rfl | hx
        · exact absurd hxn he
        · exact .inl ⟨x, hx, hxn⟩
      · exact .inr hb

/-! ### Barrier copies -/

theorem State.barrier_modBar (s : State) (c b : Nat) (f : Bar → Bar) : ((s.modBar c b f).chan c).barrier b = f ((s.chan c).barrier b) := by
  rw [State.modBar, State.chan_modChan_same]
  exact (sget_smod ({} : Bar) _ _ _ _).trans (if_pos rfl)

theorem State.barIn_modBar (s : State) (c b : Nat) (f : Bar → Bar) (d : Nat) : ((s.modBar c b f).chan d).sync.barIn = (s.chan d).sync.barIn := by
  rw [State.modBar, State.chan_modChan]
  split
  · next h => rw [h]
  · rfl

theorem State.slot_modBar (s : State) (c b : Nat) (f : Bar → Bar) (d n : Nat) : (s.modBar c b f).slot d n = s.slot d n :=
  State.slot_modChan s c d n _ fun _ => rfl

theorem State.barrier_barSend (s : State) (d : Nat) (m : BMsg) (c b : Nat) : ((s.barSend d m).chan c).barrier b = (s.chan c).barrier b := by
  rw [State.barSend, State.chan_modChan]
  split
  · next h => rw [h]; rfl
  · rfl

/-- A barrier message put on its way stands behind the others of its channel. -/
theorem State.barIn_barSend (s : State) (d : Nat) (m : BMsg) (c : Nat) : ((s.barSend d m).chan c).sync.barIn = (s.chan c).sync.barIn ++
    (if c = d then [{ m with flits := if m.src.peer.isNone && m.src.chan != d then 1 else 0 }] else []) := by
  rw [State.barSend, State.chan_modChan]
  by_cases h : c = d
  · rw [if_pos h, if_pos h, h]
  · rw [if_neg h, if_neg h, List.append_nil]

theorem State.sendWhen_chans (s : State) (n : Nat) (h : Hdr) (body : List Byte) : (s.sendWhen n h body).chans = s.chans := by
  unfold State.sendWhen
  split
  · rfl
  · rfl

end Sys2Proof.Machine
end

section
/-! Family 13_synchronisation: signals and barrier messages that arrive (R271, R274 to R279). -/

namespace Sys2Proof.Claims

open Sys2Proof.Machine

theorem ownSlot_sync {c sl : Nat} {s t : State} (h : OwnSlot c sl s t) (d : Nat) : (t.chan d).sync = (s.chan d).sync := by
  by_cases e : d = c
  · rw [e, h.sync]
  · rw [h.others d e]

theorem ownSlot_retire (s : State) (c sl : Nat) (o : Outst) : OwnSlot c sl s (s.retire c sl o) :=
  (OwnSlot.modSlot s c sl _).trans (.counts (State.sampleDone_only _ _ _ _))

/-! ### Signals -/

section

variable {s : State} {c : Nat} {m : Signal} {l : List Signal}

/-- A vertex without waiters that a signal raised (R271). -/
def raised (s : State) (c : Nat) (m : Signal) (x : Vtx) : Vtx :=
  { x with value := ((s.chan c).vtx m.vertex).value + m.amount, waiters := [], lastCtx := m.ctx, lastSlot := m.slot, lastChan := m.src
           lastFrame := s.frameN % 2 ^ 32, signalled := true }

/-- A signal off its queue, its vertex raised. -/
def signalled (s : State) (c : Nat) (m : Signal) (l : List Signal) : State :=
  (((s.modChan c (fun k => { k with sync := { k.sync with sigIn := l } })).modVtx c m.vertex (raised s c m)).count c 0x60 (some m.ctx))

theorem signalled_sync (s : State) (c : Nat) (m : Signal) (l : List Signal) : ((signalled s c m l).chan c).sync = { (s.chan c).sync with
    sigIn := l, vtx := smod {} (s.chan c).sync.vtx m.vertex (raised s c m) } := by
  rw [signalled, (State.count_only _ _ _ _).own, State.modVtx, State.chan_modChan_same, State.chan_modChan_same]

theorem signalled_slot (s : State) (c : Nat) (m : Signal) (l : List Signal) (d n : Nat) : (signalled s c m l).slot d n = s.slot d n := by
  rw [signalled, (State.count_only _ _ _ _).slot, State.slot_modVtx]
  exact State.slot_modChan s c d n _ fun _ => rfl

theorem signalled_rest (s : State) (c : Nat) (m : Signal) (l : List Signal) : signalled s c m l = { s with chans := (signalled s c m l).chans } := by
  rw [signalled, (State.count_only _ _ _ _).rest]
  rfl

/-- R271, R274: a signal that fits raises its vertex; its sig, if it is still there, completes. -/
theorem forwarded_eq (hv : ((s.chan c).vtx m.vertex).value + m.amount < 2 ^ 32) (hw : ((s.chan c).vtx m.vertex).waiters = []) :
    (s.modChan c (fun k => { k with sync := { k.sync with sigIn := l } })).forwarded c m =
      match (s.slot m.src m.slot).out? m.seq with
      | some o => (signalled s c m l).retire m.src m.slot o
      | none => signalled s c m l := by
  have hvtx : ((s.modChan c (fun k => { k with sync := { k.sync with sigIn := l } })).chan c).vtx m.vertex = (s.chan c).vtx m.vertex := by
    rw [State.chan_modChan_same]
    rfl
  have ha : (s.modChan c (fun k => { k with sync := { k.sync with sigIn := l } })).applySig c m.vertex m.amount m.ctx m.slot m.src =
      some ((s.modChan c (fun k => { k with sync := { k.sync with sigIn := l } })).modVtx c m.vertex (raised s c m)) := by
    unfold State.applySig
    dsimp only
    rw [hvtx, if_neg (Nat.not_le.2 hv), hw]
    rfl
  have hs : (((s.modChan c (fun k => { k with sync := { k.sync with sigIn := l } })).modVtx c m.vertex (raised s c m)).count c 0x60 (some m.ctx)) = signalled s c m l := rfl
  unfold State.forwarded
  rw [ha]
  dsimp only
  rw [hs, signalled_slot] <;>
    rfl

theorem signal_arrives (hq : (s.chan c).sync.sigIn = m :: l) (hh : (s.chan c).held = false) (hf : m.flits = 0)
    (hg : (s.chan c).sigFirst (s.nowNs - 1) none = false) (hv : ((s.chan c).vtx m.vertex).value + m.amount < 2 ^ 32)
    (hw : ((s.chan c).vtx m.vertex).waiters = []) :
    ∃ t, exec (.linkedVertexSignal c) s = .next t ∧ t = { s with chans := t.chans } ∧ (t.chan c).sync.sigIn = l ∧
      (t.chan c).vtx m.vertex = { (s.chan c).vtx m.vertex with
        value := ((s.chan c).vtx m.vertex).value + m.amount, lastCtx := m.ctx, lastSlot := m.slot, lastChan := m.src
        lastFrame := s.frameN % 2 ^ 32, signalled := true } ∧
      (∀ v, v ≠ m.vertex → (t.chan c).vtx v = (s.chan c).vtx v) ∧
      (t.slot m.src m.slot).outs = (s.slot m.src m.slot).outs.filter (fun o => o.seq ≠ m.seq) := by
  have hx : exec (.linkedVertexSignal c) s = .next ((s.modChan c (fun k => { k with sync := { k.sync with sigIn := l } })).forwarded c m) := by
    rw [show exec (.linkedVertexSignal c) s = execLinkedVertexSignal c s from rfl, execLinkedVertexSignal, hq]
    exact onlyIf_true (by rw [hh, hf, hg]; rfl)
  generalize ht : (s.modChan c (fun k => { k with sync := { k.sync with sigIn := l } })).forwarded c m = t at hx
  have hframe : OwnSlot m.src m.slot (signalled s c m l) t ∧
      (t.slot m.src m.slot).outs = (s.slot m.src m.slot).outs.filter (fun o => o.seq ≠ m.seq) := by
    rw [← ht, forwarded_eq hv hw]
    cases ho : (s.slot m.src m.slot).out? m.seq with
    | some o =>
      refine ⟨ownSlot_retire _ _ _ o, ?_⟩
      dsimp only
      rw [State.retire_slot, signalled_slot, Slot.out?_seq ho]
    | none =>
      refine ⟨OwnSlot.refl _ _ _, ?_⟩
      dsimp only
      rw [signalled_slot]
      exact (List.filter_eq_self.2 fun o hm => decide_eq_true (by simpa using List.find?_eq_none.1 ho o hm)).symm
  obtain ⟨hown, houts⟩ := hframe
  have hsync := (ownSlot_sync hown c).trans (signalled_sync s c m l)
  have hvtx : ∀ v, (t.chan c).vtx v = if v = m.vertex then raised s c m ((s.chan c).vtx m.vertex) else (s.chan c).vtx v := by
    intro v
    rw [Chan.vtx, hsync]
    exact sget_smod ({} : Vtx) (s.chan c).sync.vtx m.vertex (raised s c m) v
  refine ⟨t, hx, State.chans_only_trans (signalled_rest s c m l) hown.rest, by rw [hsync], ?_, fun v hne => (hvtx v).trans (if_neg hne), houts⟩
  rw [hvtx, if_pos rfl, raised, ← hw]

end

/-! ### Arrivals and releases -/

section

variable {s : State} {c : Nat} {m : BMsg}

/-- The state in which the first message of its kind has left the queue. -/
def tookBar (s : State) (c : Nat) (m : BMsg) : State :=
  s.modChan c (fun k => { k with sync := { k.sync with barIn := k.sync.barIn.erase m } })

theorem tookBar_barrier (b : Nat) : ((tookBar s c m).chan c).barrier b = (s.chan c).barrier b := by
  rw [tookBar, State.chan_modChan_same]
  rfl

theorem tookBar_barIn : ((tookBar s c m).chan c).sync.barIn = (s.chan c).sync.barIn.erase m := by
  rw [tookBar, State.chan_modChan_same]

theorem tookBar_slot (d n : Nat) : (tookBar s c m).slot d n = s.slot d n := State.slot_modChan s c d n _ fun _ => rfl

theorem nextBar_eq {release : Bool} (f : State → BMsg → State)
    (hf : (s.chan c).sync.barIn.find? (fun y => y.release == release && y.flits == 0) = some m) : s.nextBar c release f = f (tookBar s c m) m := by
  rw [State.nextBar, hf]
  rfl

/-- A generation's release goes to every copy of this module that an arrival came from, and the copy itself stands. -/
def sendRelease (c b : Nat) (g : BitVec 32) (s : State) (e : BSrc) : State :=
  match e.peer with
  | none => s.barSend e.chan { release := true, b := b, gen := g, src := { chan := c } }
  | some n => if (s.peer n).st == .open then s.sendWhen n (s.barHdr c e.chan) (barBody true b g 0 c) else s

theorem sendRelease_barrier (c b : Nat) (g : BitVec 32) (s : State) (e : BSrc) (d n : Nat) :
    ((sendRelease c b g s e).chan d).barrier n = (s.chan d).barrier n := by
  unfold sendRelease
  split
  · exact State.barrier_barSend _ _ _ _ _
  · split
    · rw [State.chan, State.sendWhen_chans]; rfl
    · rfl

theorem sendRelease_barIn (c b : Nat) (g : BitVec 32) (s : State) (e : BSrc) (d : Nat) {y : BMsg} (hy : y ∈ (s.chan d).sync.barIn) :
    y ∈ ((sendRelease c b g s e).chan d).sync.barIn := by
  unfold sendRelease
  split
  · rw [State.barIn_barSend]
    exact List.mem_append_left _ hy
  · split
    · rw [State.chan, State.sendWhen_chans]; exact hy
    · exact hy

theorem sendRelease_sends (c b : Nat) (g : BitVec 32) (s : State) {e : BSrc} (he : e.peer = none) :
    ({ release := true, b := b, gen := g, src := { chan := c }, flits := if e.chan = c then 0 else 1 } : BMsg) ∈
      ((sendRelease c b g s e).chan e.chan).sync.barIn := by
  unfold sendRelease
  rw [he]
  dsimp only
  rw [State.barIn_barSend, if_pos rfl]
  refine List.mem_append_right _ (List.mem_singleton.2 ?_)
  by_cases h : e.chan = c
  · simp [h]
  · simp [h, Ne.symm h]

theorem foldl_sendRelease (c b : Nat) (g : BitVec 32) : ∀ (l : List BSrc) (s : State),
    (∀ d n, ((l.foldl (sendRelease c b g) s).chan d).barrier n = (s.chan d).barrier n) ∧
    (∀ d, ∀ y ∈ (s.chan d).sync.barIn, y ∈ ((l.foldl (sendRelease c b g) s).chan d).sync.barIn) ∧
    (∀ e ∈ l, e.peer = none → ({ release := true, b := b, gen := g, src := { chan := c }, flits := if e.chan = c then 0 else 1 } : BMsg) ∈
      ((l.foldl (sendRelease c b g) s).chan e.chan).sync.barIn)
  | [], _ => ⟨fun _ _ => rfl, fun _ _ h => h, fun _ h => by cases h⟩
  | e :: l, s => by
    obtain ⟨h1, h2, h3⟩ := foldl_sendRelease c b g l (sendRelease c b g s e)
    refine ⟨fun d n => (h1 d n).trans (sendRelease_barrier c b g s e d n), fun d y hy => h2 d y (sendRelease_barIn c b g s e d hy),
      fun x hx hp => ?_⟩
    rcases List.mem_cons.1 hx with rfl | hx
    · exact h2 _ _ (sendRelease_sends c b g s hp)
    · exact h3 x hx hp

/-- R276, R278: an arrival at its home copy is counted, and with the last the generation completes. -/
theorem takeArrival_counts {u : State} {x : Bar} {src : List BSrc} (hx : (u.chan c).barrier m.b = x)
    (hs : src = if m.src ∈ x.sources then x.sources else x.sources ++ [m.src]) :
    (x.arrived + 1 < fld x.cfg 43 32 + 1 →
      ((u.takeArrival c m.b m.gen m.src).chan c).barrier m.b = { x with arrived := x.arrived + 1, sources := src }) ∧
    (¬ x.arrived + 1 < fld x.cfg 43 32 + 1 →
      ((u.takeArrival c m.b m.gen m.src).chan c).barrier m.b = { x with arrived := 0, sources := [], gen := x.gen + 1 } ∧
      (∀ e ∈ src, e.peer = none → { release := true, b := m.b, gen := x.gen, src := { chan := c }, flits := if e.chan = c then 0 else 1 } ∈
        ((u.takeArrival c m.b m.gen m.src).chan e.chan).sync.barIn)) := by
  generalize hv : (if before32 m.gen x.gen then u.count c 0x65 else u).count c 0x62 = v
  have hcounts : CountsOnly c u v := by
    rw [← hv]
    refine .trans ?_ (State.count_only _ _ _ _)
    split
    · exact State.count_only _ _ _ _
    · exact .refl c u
  have hbar : (v.chan c).barrier m.b = x := by rw [Chan.barrier, hcounts.own]; exact hx
  have hl : (if x.sources.contains m.src then x.sources else x.sources ++ [m.src]) = src := by
    rw [hs]
    exact if_congr List.contains_iff_mem rfl rfl
  have he : u.takeArrival c m.b m.gen m.src =
      if x.arrived + 1 < fld x.cfg 43 32 + 1 then v.modBar c m.b (fun x => { x with arrived := x.arrived + 1, sources := src })
      else src.foldl (sendRelease c m.b x.gen) ((v.modBar c m.b (fun x => { x with arrived := 0, sources := [], gen := x.gen + 1 })).count c 0x63) := by
    unfold State.takeArrival
    dsimp only
    rw [hx, hl, hv]
    rfl
  rw [he]
  refine ⟨fun hlt => ?_, fun hge => ?_⟩
  · rw [if_pos hlt, State.barrier_modBar, hbar]
  · rw [if_neg hge]
    obtain ⟨h1, -, h3⟩ := foldl_sendRelease c m.b x.gen src
      ((v.modBar c m.b (fun x => { x with arrived := 0, sources := [], gen := x.gen + 1 })).count c 0x63)
    refine ⟨?_, h3⟩
    rw [h1, Chan.barrier, (State.count_only _ _ _ _).own]
    exact (State.barrier_modBar v c m.b _).trans (by rw [hbar])

/-- R276: a release takes its copy past its generation and wakes its waiters. -/
theorem release_wakes {u : State} {x : Bar} (hx : (u.chan c).barrier m.b = x) :
    ((u.release c m.b m.gen).chan c).barrier m.b = { x with
      gen := if before32 x.gen (m.gen + 1) then m.gen + 1 else x.gen, heldRel := none
      waiters := x.waiters.filter (fun w => before32 m.gen w.tag)
      leaving := x.leaving ++ x.waiters.filter (fun w => !before32 m.gen w.tag) } ∧
    ((u.release c m.b m.gen).chan c).sync.barIn = (u.chan c).sync.barIn ∧
    (∀ w ∈ x.waiters, before32 m.gen w.tag = false → NoGroups u c w.slot → ((u.release c m.b m.gen).slot c w.slot).block = .none) := by
  unfold State.release
  dsimp only
  rw [hx]
  refine ⟨?_, ?_, fun w hw hb hn => ?_⟩
  · rw [Chan.barrier, OwnSlot.foldl_wake]
    exact (State.barrier_modBar u c m.b _).trans (by rw [hx])
  · rw [OwnSlot.foldl_wake, State.barIn_modBar]
  · refine State.foldl_wake_block c w.slot _ _ (fun h hlt => ?_) (.inl ⟨w, List.mem_filter.2 ⟨hw, by rw [hb]; rfl⟩, rfl⟩)
    rw [State.slot_modBar]
    exact (hn h hlt).2

end

/-- Settles O55: signals, arrivals, and releases that come or were held. -/
theorem signalsAndBarriersArrive : Obligations.SignalsAndBarriersArrive := by
  refine ⟨fun s c m l hq hh hf hg hv hw => signal_arrives hq hh hf hg hv hw, fun s c m x hx hv hm => ⟨fun src hs hh hc hr hf => ?_, fun go hgo i u hi => ?_⟩⟩
  · have hxb : ((tookBar s c m).chan c).barrier m.b = x := tookBar_barrier m.b |>.trans hx.symm
    have ht : exec (.barrierArrival c .own) s = .next ((tookBar s c m).takeArrival c m.b m.gen m.src) := by
      have hg : ((((tookBar s c m).chan c).barrier m.b).valid && (((tookBar s c m).chan c).barrier m.b).homeModule == s.hub.moduleId &&
          (((tookBar s c m).chan c).barrier m.b).homeChan == c) = true := by
        rw [hxb, hv, hm, hc]
        simp
      have hs : s.nextBar c false (fun t m => t.arriveAt c m) = (tookBar s c m).takeArrival c m.b m.gen m.src := by
        rw [nextBar_eq _ hf, State.arriveAt]
        exact if_pos hg
      rw [show exec (.barrierArrival c .own) s = execBarrierArrival c .own s from rfl, execBarrierArrival, ← hs]
      exact onlyIf_true (by rw [hh]; rfl)
    exact ⟨_, ht, takeArrival_counts hxb hs⟩
  · rcases hi with ⟨rfl, hh, hc, hp, hr, hf, rfl⟩ | ⟨rfl, hheld, rfl, rfl⟩
    · have hxb : ((tookBar s c m).chan c).barrier m.b = x := tookBar_barrier m.b |>.trans hx.symm
      have ht : exec (.barrierRelease c .own) s = .next ((tookBar s c m).barRelease c m.b m.gen) := by
        have hs : s.nextBar c true (fun t m => t.releaseAt c m) = (tookBar s c m).barRelease c m.b m.gen := by
          rw [nextBar_eq _ hf, State.releaseAt, hp, hxb]
          refine if_pos ?_
          rw [hv, hm, hc, show (tookBar s c m).hub = s.hub from rfl]
          simp
        rw [show exec (.barrierRelease c .own) s = execBarrierRelease c .own s from rfl, execBarrierRelease, ← hs]
        exact onlyIf_true (by rw [hh]; rfl)
      refine ⟨_, ht, ?_⟩
      unfold State.barRelease
      dsimp only
      rw [hxb]
      cases hany : x.leaving.any (fun w => before32 w.tag m.gen) with
      | false =>
        obtain ⟨h1, h2, h3⟩ := release_wakes (m := m) hxb
        rw [hany] at hgo
        rw [if_neg Bool.false_ne_true]
        refine ⟨h2.trans tookBar_barIn, fun _ => ⟨h1, fun w hw hb hn => h3 w hw hb ?_⟩, fun h => ?_⟩
        · intro n hlt
          rw [tookBar_slot]
          exact hn n hlt
        · rw [hgo] at h
          exact absurd h (by decide)
      | true =>
        rw [hany] at hgo
        rw [if_pos rfl]
        refine ⟨(State.barIn_modBar _ _ _ _ _).trans tookBar_barIn, fun h => ?_, fun _ => ?_⟩
        · rw [hgo] at h
          exact absurd h (by decide)
        · rw [State.barrier_modBar, hxb]
    · obtain ⟨h1, h2, h3⟩ := release_wakes (m := m) (u := s) (c := c) hx.symm
      have ht : exec (.heldReleaseWake c m.b) s = .next (s.release c m.b m.gen) := by
        rw [show exec (.heldReleaseWake c m.b) s = execHeldReleaseWake c m.b s from rfl, execHeldReleaseWake]
        rw [← hx, hheld]
        exact onlyIf_true hgo.symm
      exact ⟨_, ht, h2, fun _ => ⟨h1, h3⟩, fun h => absurd h (by decide)⟩

end Sys2Proof.Claims
end

section
/-! Families 06_digital_engine and 10_contexts: weight streams, set waits and the scrubber (R118 to R120, R209, R214, R216). -/

namespace Sys2Proof.Claims

open Sys2Proof.Machine

section

variable {s : State} {c : Nat} (hf : s.fitted c = true)

include hf

/-! ### Streams -/

/-- R118: a waiting stream whose tensor fits takes its space. -/
theorem weightStreamStart_starts {r : Resident} (hr : (s.chan c).seqr.streams.find? (fun r => r.waiting) = some r)
    (hs : usedSpace (s.chan c).seqr.streams + r.space ≤ reserveBytes) : ∃ t, exec (.weightStreamStart c) s = .next t ∧
      InChan s t c (fun k => { k with seqr := { k.seqr with
        streams := k.seqr.streams.map (fun q => if q = r then { q with waiting := false } else q) } }) := by
  have he : evictFor (s.chan c) s.frameN r.space ((s.chan c).seqr.streams.length + 1) (s.chan c).seqr.streams =
      some ((s.chan c).seqr.streams, false) := if_pos hs
  have hx : exec (.weightStreamStart c) s = .next (s.modChan c (fun k => { k with seqr := { k.seqr with
      streams := (s.chan c).seqr.streams.map (fun q => if q = r then { q with waiting := false } else q) } })) := by
    rw [show exec (.weightStreamStart c) s = execWeightStreamStart c s from rfl, execWeightStreamStart]
    dsimp only
    rw [hr]
    dsimp only
    rw [he]
    exact onlyIf_true hf
  refine ⟨_, hx, rfl, fun _ hd => State.chan_modChan_ne _ _ hd, ?_⟩
  rw [State.chan_modChan_same]

omit hf in
/-- A block whose granules are sound in the first copy is streamed as it stands (R120). -/
theorem foldl_streamGranule {base : Nat} : ∀ {l : List Nat}, (∀ g ∈ l, sget false (s.chan c).copy1Poison g = false) →
    l.foldl (fun t g => t.streamGranule c base g) s = s
  | [], _ => rfl
  | g :: l, h => by
    have hg : s.streamGranule c base g = s := by
      unfold State.streamGranule
      dsimp only
      rw [h g List.mem_cons_self]
      rfl
    rw [List.foldl_cons, hg]
    exact foldl_streamGranule fun x hx => h x (List.mem_cons_of_mem _ hx)

/-- R118, R119: a sound block of the stream in turn arrives. -/
theorem weightBlockArrival_arrives {r : Resident}
    (hr : (s.chan c).seqr.streams.find? (fun r => !r.waiting && decide (r.arrived < r.blocks)) = some r)
    (hg : ∀ g ∈ r.blockGranules r.arrived, sget false (s.chan c).copy1Poison g = false) :
    ∃ t, exec (.weightBlockArrival c r.base []) s = .next t ∧ t = { s with chans := t.chans } ∧
      { r with arrived := r.arrived + 1 } ∈ (t.chan c).seqr.streams ∧ (t.chan c).seqr.streams.length = (s.chan c).seqr.streams.length := by
  have hx : exec (.weightBlockArrival c r.base []) s = .next ((s.modChan c (fun k => { k with seqr := { k.seqr with
      streams := k.seqr.streams.map (fun q =>
        if q.base = r.base ∧ q.bytes = r.bytes ∧ q.lastUse = r.lastUse ∧ q.arrived = r.arrived ∧ !q.waiting then { q with arrived := q.arrived + 1 }
        else q) } })).countN c 0x2A (r.delivered (r.arrived + 1) / 1024 - r.delivered r.arrived / 1024) none) := by
    have hfold : (r.blockGranules r.arrived).foldl (fun t g => t.streamGranule c r.base g) (s.eccAll c 0 []) = s := foldl_streamGranule hg
    rw [show exec (.weightBlockArrival c r.base []) s = execWeightBlockArrival c r.base [] s from rfl, execWeightBlockArrival, hr]
    dsimp only
    rw [hfold]
    exact onlyIf_true (by rw [hf, beq_self_eq_true]; rfl)
  have hcount := State.countN_only (s.modChan c (fun k => { k with seqr := { k.seqr with streams := k.seqr.streams.map (fun q =>
    if q.base = r.base ∧ q.bytes = r.bytes ∧ q.lastUse = r.lastUse ∧ q.arrived = r.arrived ∧ !q.waiting then { q with arrived := q.arrived + 1 }
    else q) } })) c 0x2A (r.delivered (r.arrived + 1) / 1024 - r.delivered r.arrived / 1024) none
  have hw : r.waiting = false := by
    have := List.find?_some hr
    simp only [Bool.and_eq_true, Bool.not_eq_true'] at this
    exact this.1
  refine ⟨_, hx, by rw [hcount.rest]; rfl, ?_, ?_⟩
  · rw [hcount.own, State.chan_modChan_same]
    refine List.mem_map.2 ⟨r, List.mem_of_find?_eq_some hr, if_pos ⟨rfl, rfl, rfl, rfl, ?_⟩⟩
    rw [hw]
    rfl
  · rw [hcount.own, State.chan_modChan_same]
    exact List.length_map _

/-! ### Set waits -/

omit hf in
/-- Two changes of the one outstanding instruction with a sequence number. -/
theorem map_map_seq (l : List Outst) {o o' : Outst} (ho : o'.seq = o.seq) (g : Outst → Outst) :
    (l.map (fun e => if e.seq = o.seq then o' else e)).map (fun e => if e.seq = o.seq then g e else e) =
      l.map (fun e => if e.seq = o.seq then g o' else e) := by
  rw [List.map_map]
  refine List.map_congr_left fun e _ => ?_
  by_cases h : e.seq = o.seq
  · simp [h, ho]
  · simp [h]

omit hf in
/-- R157, R209: the start of a load whose lines are all found or may be fetched. -/
theorem startMove_fills {u : State} {sl : Nat} {o : Outst} (h40 : opOf o.word = 0x40) (hb : bit o.word 55 = false) {f : Fill}
    (hfill : f = Fill.all (u.chan c).mem (u.ctx (u.slotCtx c sl)) true (o.bd (bnum o.word 44))) (hfull : f.full = false) (hwait : f.wait = false) :
    u.startMove c sl o = ((((u.modChan c (fun k => { k with mem := f.mem })).countBy c 0x40 f.hits sl o).countBy c 0x41 f.misses sl o).used c sl
      { bytes := f.moved }).begun c sl o.seq := by
  have hl : (opOf o.word == 0x40) = true := beq_iff_eq.2 h40
  unfold State.startMove
  dsimp only
  rw [hl, hb, if_neg (by simp), if_pos rfl, ← hfill, hfull, hwait, if_neg (by simp), if_neg Bool.false_ne_true]

omit hf in
/-- R209: a load's miss that waited for its set goes on. -/
theorem cacheSetWaitEnd_starts {sl : Nat} {o : Outst} (ho : (s.slot c sl).out? o.seq = some o) (hw : o.setWait = true) (hn : o.started = false)
    (h40 : opOf o.word = 0x40) (hb : bit o.word 55 = false) {f : Fill}
    (hfill : f = Fill.all (s.chan c).mem (s.ctx (s.slotCtx c sl)) true (o.bd (fld o.word 47 44))) (hfull : f.full = false) (hwait : f.wait = false) :
    ∃ t, exec (.cacheSetWaitEnd c sl o.seq) s = .next t ∧ (t.chan c).mem = f.mem ∧
      (t.slot c sl).outs = (s.slot c sl).outs.map (fun e => if e.seq = o.seq then
        { o with started := true, startedAt := s.clk.nanos.toNat, gen := s.liveGen c, setWait := false } else e) := by
  generalize hu : s.modOut c sl o.seq (fun _ => { o with setWait := false }) = u
  have hus : u.slot c sl = { s.slot c sl with outs := (s.slot c sl).outs.map (fun e => if e.seq = o.seq then { o with setWait := false } else e) } := by
    rw [← hu, State.modOut, State.slot_modSlot_same]
  have hmem : (u.chan c).mem = (s.chan c).mem := by rw [← hu, State.modOut, State.chan_modSlot_rest]
  have hctx : ∀ raw, u.ctx raw = s.ctx raw := fun raw => by
    rw [← hu, State.modOut, State.ctx, State.chan_modSlot_rest]
    rfl
  have hslotCtx : u.slotCtx c sl = s.slotCtx c sl := by
    rw [State.slotCtx, hus, ← hu, State.modOut, State.chan_modSlot_rest]
    rfl
  generalize hv : ((u.modChan c (fun k => { k with mem := f.mem })).countBy c 0x40 f.hits sl { o with setWait := false }).countBy c 0x41 f.misses sl
    { o with setWait := false } = v
  have hx : exec (.cacheSetWaitEnd c sl o.seq) s = .next ((v.used c sl { bytes := f.moved }).begun c sl o.seq) := by
    have hmove := startMove_fills (u := u) (c := c) (sl := sl) (o := { o with setWait := false }) h40 hb (f := f)
      (by rw [hmem, hctx, hslotCtx]; exact hfill) hfull hwait
    rw [hv] at hmove
    rw [show exec (.cacheSetWaitEnd c sl o.seq) s = execCacheSetWaitEnd c sl o.seq s from rfl, execCacheSetWaitEnd, ho]
    dsimp only
    rw [hu, hmove]
    exact onlyIf_true (by rw [hw, hn]; rfl)
  have hcounts : CountsOnly c (u.modChan c (fun k => { k with mem := f.mem })) v := by
    rw [← hv]
    exact (State.countBy_only _ _ _ _ _ _).trans (State.countBy_only _ _ _ _ _ _)
  have hvs : v.slot c sl = u.slot c sl := (hcounts.slot c sl).trans (State.slot_modChan u c c sl _ fun _ => rfl)
  have hclk : v.nowNs = s.clk.nanos.toNat := by
    rw [State.nowNs, hcounts.rest, ← hu]
    rfl
  have hgen : v.liveGen c = s.liveGen c := by
    rw [State.liveGen, hcounts.rest, ← hu]
    rfl
  refine ⟨_, hx, ?_, ?_⟩
  · rw [State.begun, State.modOut, State.chan_modSlot_rest, State.used, State.chan_modSlot_rest, hcounts.own, State.chan_modChan_same]
  · have hclk' : (v.used c sl { bytes := f.moved }).nowNs = s.clk.nanos.toNat := hclk
    have hgen' : (v.used c sl { bytes := f.moved }).liveGen c = s.liveGen c := hgen
    have houts : ((v.used c sl { bytes := f.moved }).slot c sl).outs =
        (s.slot c sl).outs.map (fun e => if e.seq = o.seq then { o with setWait := false } else e) := by
      rw [State.used, State.slot_modSlot_same, hvs, hus]
    rw [State.begun, State.modOut, State.slot_modSlot_same, hclk', hgen']
    dsimp only
    rw [houts]
    exact map_map_seq (s.slot c sl).outs (o := o) (o' := { o with setWait := false }) rfl
      (fun e => { e with started := true, startedAt := s.clk.nanos.toNat, gen := s.liveGen c, setWait := false })

/-! ### The scrubber -/

omit hf in
/-- R216: a granule outside the first two copies and the system area, poisoned by its own address. -/
theorem poisonGranule_marks {g : Nat} (hp : sget false (s.chan c).mem.poison g = false) (h1 : secondCopy s.light + 536870912 ≤ 64 * g)
    (h2 : 64 * g < systemArea s.light) : ∃ u, Reported u (s.poisonGranule c g) 2 2 c (64 * g) 0 ∧
      (∀ n, sget false (u.chan c).mem.poison n = (decide (n = g) || sget false (s.chan c).mem.poison n)) ∧
      (∀ d, d ≠ c → u.chan d = s.chan d) := by
  have hsys : systemArea s.light = 0x3DF000000 ∨ systemArea s.light = 0x7BF000000 := by
    unfold systemArea
    split
    · exact .inl rfl
    · exact .inr rfl
  have htwo : 0x100000000 ≤ secondCopy s.light := by
    unfold secondCopy
    split <;> omega
  have hmark : s.markPoison c g = s.modChan c (fun k => { k with mem := { k.mem with poison := sput false k.mem.poison g true } }) := by
    unfold State.markPoison
    dsimp only
    rw [if_neg (by omega), if_neg (by omega), if_neg (by omega), if_neg (by omega)]
  have hpoison : ∀ n, sget false ((s.markPoison c g).chan c).mem.poison n = (decide (n = g) || sget false (s.chan c).mem.poison n) := by
    intro n
    rw [hmark, State.chan_modChan_same]
    refine (sget_sput false true (s.chan c).mem.poison g n).trans ?_
    by_cases h : n = g <;> simp [h]
  have hne : s.markPoison c g ≠ s := by
    intro h
    have := hpoison g
    rw [h, hp] at this
    simp at this
  have hcount := State.count_only (s.markPoison c g) c 0x45 none
  refine ⟨(s.markPoison c g).count c 0x45, ?_, fun n => ?_, fun d hd => ?_⟩
  · unfold State.poisonGranule
    dsimp only
    rw [if_neg hne, Nat.mul_comm 64 g]
    exact reported_event _ _ _ _ _ _
  · rw [hcount.own]
    exact hpoison n
  · rw [hcount.others d hd, hmark]
    exact State.chan_modChan_ne _ _ hd

theorem patrolScrub_uncached {g : Nat} (hg : s.granuleCached c g = false) (ecc : List Ecc) :
    exec (.patrolScrub c g ecc) s = .next (s.eccAll c 0 (ecc.filter (Ecc.at g))) := onlyIf_true (by rw [hf, hg]; rfl)

theorem patrolScrub_cached {g : Nat} (hg : s.granuleCached c g = true) (ecc : List Ecc) : exec (.patrolScrub c g ecc) s = .next s :=
  onlyIf_false (by rw [hf, hg]; rfl)

end

/-- Settles O53: streams, set waits and the scrubber. -/
theorem streamsAndScrubsGoOn : Obligations.StreamsAndScrubsGoOn := by
  intro s c hf
  refine ⟨fun r hr hs => weightStreamStart_starts hf hr hs, fun r hr hg => weightBlockArrival_arrives hf hr hg,
    fun sl o ho hw hn h40 hb f hfill hfull hwait => cacheSetWaitEnd_starts ho hw hn h40 hb hfill hfull hwait,
    fun g hg ecc => patrolScrub_cached hf hg ecc, fun g hg => ⟨patrolScrub_uncached hf hg [], fun hp h1 h2 => ?_⟩⟩
  obtain ⟨u, hu⟩ := poisonGranule_marks hp h1 h2
  have hx : exec (.patrolScrub c g [.double g]) s = .next (s.poisonGranule c g) := by
    rw [patrolScrub_uncached hf hg, List.filter_cons_of_pos (by simp [Ecc.at])]
    rfl
  exact ⟨_, u, hx, hu⟩

end Sys2Proof.Claims
end

section
/-! SUPPORT. A slot unbound: what its channel keeps of its work and records (R161). -/

namespace Sys2Proof.Machine

/-- From `s` to `t` nothing but channels changed, and of these neither jobs nor records. -/
structure WorkKept (s t : State) : Prop where
  rest : t = { s with chans := t.chans }
  jobs : ∀ d, (t.chan d).jobs = (s.chan d).jobs
  ctxs : ∀ d, (t.chan d).mem.ctxs = (s.chan d).mem.ctxs

namespace WorkKept

variable {s t u : State}

theorem refl (s : State) : WorkKept s s := ⟨rfl, fun _ => rfl, fun _ => rfl⟩

theorem trans (h : WorkKept s t) (k : WorkKept t u) : WorkKept s u :=
  ⟨State.chans_only_trans h.rest k.rest, fun d => (k.jobs d).trans (h.jobs d), fun d => (k.ctxs d).trans (h.ctxs d)⟩

theorem modChan (s : State) (c : Nat) {f : Chan → Chan} (h : ∀ k, (f k).jobs = k.jobs ∧ (f k).mem.ctxs = k.mem.ctxs) :
    WorkKept s (s.modChan c f) := by
  refine ⟨rfl, fun d => ?_, fun d => ?_⟩
  all_goals
    rw [State.chan_modChan]
    split
    · next e => rw [e]; simp only [h]
    · rfl

theorem modSlot (s : State) (c n : Nat) (f : Slot → Slot) : WorkKept s (s.modSlot c n f) := by
  refine ⟨rfl, fun d => ?_, fun d => ?_⟩
  all_goals rw [State.chan_modSlot_rest]

theorem setSlot (s : State) (c n : Nat) (x : Slot) : WorkKept s (s.setSlot c n x) := modSlot s c n fun _ => x

theorem foldl {α : Type} {f : State → α → State} (h : ∀ s a, WorkKept s (f s a)) : ∀ (l : List α) (s : State), WorkKept s (l.foldl f s)
  | [], s => refl s
  | a :: l, s => (h s a).trans (foldl h l _)

theorem ctx (h : WorkKept s t) (raw : Nat) : t.ctx raw = s.ctx raw := by rw [State.ctx, h.ctxs]; rfl

theorem dropPart (k : Chan) (e : ExpReq) : (k.dropPart e).jobs = k.jobs ∧ (k.dropPart e).mem.ctxs = k.mem.ctxs := by
  unfold Chan.dropPart
  dsimp only
  split <;> exact ⟨rfl, rfl⟩

theorem closeHandle (s : State) (c sl h : Nat) : WorkKept s (s.closeHandle c sl h) := by
  unfold State.closeHandle
  dsimp only
  refine .trans ?_ (modSlot _ c sl _)
  split <;> split
  · refine .trans (modChan s c ?_) (modChan _ c ?_)
    · exact fun _ => ⟨rfl, rfl⟩
    · exact fun _ => ⟨rfl, rfl⟩
  · exact modChan s c fun _ => ⟨rfl, rfl⟩
  · exact modChan s c fun _ => ⟨rfl, rfl⟩
  · exact refl s

theorem leaveObjects (s : State) (c sl raw : Nat) : WorkKept s (s.leaveObjects c sl raw) := by
  unfold State.leaveObjects
  dsimp only
  split
  · refine .trans (modChan s c ?_) (modChan _ c ?_)
    · exact fun _ => ⟨rfl, rfl⟩
    · exact fun _ => ⟨rfl, rfl⟩
  · exact modChan s c fun _ => ⟨rfl, rfl⟩

theorem dropParts (s : State) (c sl : Nat) : WorkKept s (s.dropParts c sl) := by
  unfold State.dropParts
  exact foldl (fun u e => modChan u e.dst fun k => dropPart k e) _ s

theorem unbind (s : State) (c sl : Nat) (j : Job) : WorkKept s (s.unbind c sl j) := by
  unfold State.unbind
  dsimp only
  refine .trans (.trans (.trans (.trans (.trans (leaveObjects s c sl j.ctx) (dropParts _ c sl)) (foldl ?_ _ _)) (modChan _ c ?_))
    (setSlot _ c sl _)) (modChan _ c ?_)
  · exact fun u h => closeHandle u c sl h
  · exact fun _ => ⟨rfl, rfl⟩
  · exact fun _ => ⟨rfl, rfl⟩

end WorkKept

/-- An unbound slot keeps its window and nothing else. -/
theorem State.slot_unbind (s : State) (c sl : Nat) (j : Job) :
    (s.unbind c sl j).slot c sl = { win := (s.slot c sl).win, winPoison := (s.slot c sl).winPoison } := by
  unfold State.unbind
  dsimp only
  refine (State.slot_modChan _ c c sl _ ?_).trans ?_
  · exact fun _ => rfl
  · rw [State.slot_setSlot, if_pos ⟨rfl, rfl⟩]

theorem DbgOnly.slot {s t : State} (h : DbgOnly s t) (c n : Nat) : t.slot c n = s.slot c n := by rw [State.slot, h.chan]; rfl

theorem State.dropJob_sent (s : State) (c id : Nat) : (s.dropJob c id).out = s.out ∧ (s.dropJob c id).host = s.host := ⟨rfl, rfl⟩

theorem State.slot_dropJob (s : State) (c id d n : Nat) : (s.dropJob c id).slot d n = s.slot d n :=
  State.slot_modChan s c d n (fun k => { k with jobs := k.jobs.filter (fun x => x.id ≠ id) }) fun _ => rfl

/-! ### Results written -/

/-- The emit stage whose rows all lie in windows of the function: all are written, in order. -/
theorem State.writeEmit_all (fn : Nat) : ∀ (l : List (Nat × List Byte)) (s : State) (n : Nat), (∀ e ∈ l, s.dmaOk fn e.1 e.2.length true = true) →
    (s.writeEmit fn l n).2.2 = true ∧ Copied s (s.writeEmit fn l n).1 ∧ (s.writeEmit fn l n).1.chans = s.chans ∧
    (s.writeEmit fn l n).1.out.writes ++ (s.writeEmit fn l n).1.host.heldWrites = s.out.writes ++ s.host.heldWrites ++ l
  | [], s, n, _ => ⟨rfl, .refl s, rfl, by simp [State.writeEmit]⟩
  | (a, b) :: l, s, n, h => by
    have hr := State.hostWrite_rest s a b
    have hd : ∀ e ∈ l, (s.hostWrite a b).dmaOk fn e.1 e.2.length true = true := fun e he => by
      rw [hr]
      exact h e (List.mem_cons_of_mem _ he)
    obtain ⟨hok, hcop, hch, hw⟩ := State.writeEmit_all fn l (s.hostWrite a b) (n + b.length) hd
    have he : s.writeEmit fn ((a, b) :: l) n = (s.hostWrite a b).writeEmit fn l (n + b.length) := by
      rw [State.writeEmit]
      exact if_pos (h (a, b) List.mem_cons_self)
    rw [he]
    refine ⟨hok, (Copied.hostWrite s a b).trans hcop, hch.trans (by rw [hr]), ?_⟩
    rw [hw, State.hostWrite_writes]
    simp

/-- A channel with the lines of a slot committed and its unconfirmed outputs noted (R208, R293). -/
def Chan.commitSlot (k : Chan) (sl now : Nat) (l : List (Nat × Nat)) : Chan :=
  { k with
    mem := k.mem.commitStaged sl
    check := { k.check with pairs := l.foldl (fun m e => smod [] m e.1 (fun l => addPair l now e.2)) k.check.pairs } }

/-- A commit whose results are written, before its completion: the lines committed, the slot unbound, the record noted. -/
def State.settled (s : State) (c sl : Nat) (j : Job) : State :=
  let w := (s.writeEmit j.fn ((s.slot c sl).emitList j) 0).1
  ((w.modChan c (fun k => k.commitSlot sl w.frameN (s.slot c sl).absorbed)).unbind c sl j).modCtx j.ctx
    (fun y => (w.modChan c (fun k => k.commitSlot sl w.frameN (s.slot c sl).absorbed)).committed y (s.slot c sl))

end Sys2Proof.Machine
end

section
/-! Family 07_sequencer: the commit of an inference (R160, R161, R212). -/

namespace Sys2Proof.Claims

open Sys2Proof.Machine

section

variable {s : State} {c sl : Nat} {j : Job} (hh : ∀ h, h < 4 → ((s.slot c sl).handle h).kind = .closed)
  (hsp : ∀ e ∈ (s.chan c).seqr.spill, e.1 / 16 ≠ sl) (hr : SoundRecord s j.ctx) (hp : (s.ctx j.ctx).poisonSrc ≠ 3)
  (ho : s.owns j.fn j.ctx = true) (hep : (s.slot c sl).emitPoison = false)
  (hd : ∀ e ∈ (s.slot c sl).emitList j, s.dmaOk j.fn e.1 e.2.length true = true)

include hh hsp hr hp ho hep hd

/-- A commit with nothing open, over a sound record: its job ends with its results written. -/
theorem commit_eq : s.commit c sl j = ((s.settled c sl j).finishWith c j (s.infCpl c sl j 0 0 (s.slot c sl).haltCode)).advance j.ctx := by
  have hopen : ((List.range 4).any (fun h => ((s.slot c sl).handle h).kind != .closed) ||
      (s.chan c).seqr.spill.any (fun e => e.1 / 16 == sl)) = false := by
    rw [Bool.or_eq_false_iff, List.any_eq_false, List.any_eq_false]
    exact ⟨fun h hm => by simp [hh h (List.mem_range.1 hm)], fun e he => by simpa using hsp e he⟩
  obtain ⟨hok, hcop, hch, -⟩ := State.writeEmit_all j.fn _ s 0 hd
  have hslot : (s.writeEmit j.fn ((s.slot c sl).emitList j) 0).1.slot c sl = s.slot c sl := by rw [State.slot, State.chan, hch]; rfl
  have hinf : (s.writeEmit j.fn ((s.slot c sl).emitList j) 0).1.infCpl c sl j stOK 0 (s.slot c sl).haltCode =
      s.infCpl c sl j 0 0 (s.slot c sl).haltCode := by
    unfold State.infCpl
    rw [hslot, hcop.jobCpl]
    rfl
  unfold State.commit
  dsimp only
  rw [hopen, if_neg Bool.false_ne_true, State.readRec_sound hr.1 hr.2, if_neg hp, ho, hep, hok, hinf]
  rfl

omit hh hsp hr hp ho hep in
/-- What a commit's results, unbinding and record leave. -/
theorem settled_work : Copied s (s.settled c sl j) ∧ (∀ d, ((s.settled c sl j).chan d).jobs = (s.chan d).jobs) ∧
    (s.settled c sl j).slot c sl = { win := (s.slot c sl).win, winPoison := (s.slot c sl).winPoison } ∧
    (s.settled c sl j).out.writes ++ (s.settled c sl j).host.heldWrites = s.out.writes ++ s.host.heldWrites ++ (s.slot c sl).emitList j ∧
    ∃ u : State, u.frameN = s.frameN ∧ (s.settled c sl j).ctx j.ctx = { u.committed (s.ctx j.ctx) (s.slot c sl) with sysBad := 0 } := by
  obtain ⟨-, hcop, hch, hw⟩ := State.writeEmit_all j.fn _ s 0 hd
  unfold State.settled
  dsimp only
  generalize (s.writeEmit j.fn ((s.slot c sl).emitList j) 0).1 = w at hcop hch hw ⊢
  have hkept := (WorkKept.modChan w c (f := fun k => k.commitSlot sl w.frameN (s.slot c sl).absorbed) fun _ => ⟨rfl, rfl⟩).trans
    (.unbind _ c sl j)
  have hslot : (w.modChan c (fun k => k.commitSlot sl w.frameN (s.slot c sl).absorbed)).slot c sl = s.slot c sl :=
    (State.slot_modChan w c c sl (fun k => k.commitSlot sl w.frameN (s.slot c sl).absorbed) fun _ => rfl).trans (by rw [State.slot, State.chan, hch]; rfl)
  have hu := State.slot_unbind (w.modChan c (fun k => k.commitSlot sl w.frameN (s.slot c sl).absorbed)) c sl j
  rw [hslot] at hu
  have hfr : (w.modChan c (fun k => k.commitSlot sl w.frameN (s.slot c sl).absorbed)).frameN = s.frameN := by rw [hcop]; rfl
  generalize hv : w.modChan c (fun k => k.commitSlot sl w.frameN (s.slot c sl).absorbed) = v at hkept hu hfr ⊢
  generalize v.unbind c sl j = u at hkept hu ⊢
  have hcu : Copied w u := by rw [Copied, hkept.rest]
  refine ⟨(hcop.trans hcu).trans (.modCtx _ _ _), fun d => ?_, ?_, ?_, v, hfr, ?_⟩
  · rw [State.modCtx_jobs, hkept.jobs, State.chan, hch]; rfl
  · rw [← hu]
    exact State.slot_modChan u _ c sl _ fun _ => rfl
  · rw [← hw]
    refine (show _ = u.out.writes ++ u.host.heldWrites from rfl).trans ?_
    rw [hkept.rest]
  · rw [State.ctx_modCtx, hkept.ctx, State.ctx, State.chan, hch]; rfl

end

/-- The record after a commit (R212). -/
theorem committed_fields (u : State) (y : Ctx) (x : Slot) : ({ u.committed y x with sysBad := 0 } : Ctx).inferences = (y.inferences + 1) % 2 ^ 48 ∧
    ({ u.committed y x with sysBad := 0 } : Ctx).lastFrame = u.frameN % 2 ^ 48 ∧
    ({ u.committed y x with sysBad := 0 } : Ctx).checkEpoch = u.frameN % 2 ^ 32 ∧
    ({ u.committed y x with sysBad := 0 } : Ctx).lastStatus = 0 ∧ ({ u.committed y x with sysBad := 0 } : Ctx).lastCause = 0 ∧
    ({ u.committed y x with sysBad := 0 } : Ctx).clipped = min (y.clipped + x.clipped) (2 ^ 32 - 1) := by
  unfold State.committed
  refine ⟨?_, ?_, ?_, ?_, ?_, Nat.min_comm _ _⟩ <;>
    dsimp only

/-- Settles O48: rows first, then the record, then the completion. -/
theorem commitsWriteResultsThenState : Obligations.CommitsWriteResultsThenState := by
  intro s c sl j hjob hj hc hb hout hh hsp hr hp ho hep hd hl
  obtain ⟨hcop, hjobs, hslot, hw, u, hu, hctx⟩ := settled_work (s := s) (c := c) (sl := sl) (j := j) hd
  have hbk := Booked.finishWith (s.settled c sl j) c j (s.infCpl c sl j 0 0 (s.slot c sl).haltCode)
  have hleft : (((s.settled c sl j).finishWith c j (s.infCpl c sl j 0 0 (s.slot c sl).haltCode)).chan c).jobs =
      (s.chan c).jobs.filter (fun x => x.id ≠ j.id) := by rw [hbk.jobs, dropJob_jobs, hjobs]
  have hadv : ((s.settled c sl j).finishWith c j (s.infCpl c sl j 0 0 (s.slot c sl).haltCode)).advance j.ctx =
      (s.settled c sl j).finishWith c j (s.infCpl c sl j 0 0 (s.slot c sl).haltCode) := by
    refine State.advance_none fun x hx he => ?_
    rw [← hc, hleft] at hx
    obtain ⟨hm, hne⟩ := List.mem_filter.1 hx
    exact of_decide_eq_true hne (hl x hm he)
  have hrec : ((s.settled c sl j).finishWith c j (s.infCpl c sl j 0 0 (s.slot c sl).haltCode)).ctx j.ctx =
      { u.committed (s.ctx j.ctx) (s.slot c sl) with sysBad := 0 } := by rw [hbk.ctx, dropJob_ctx, hctx]
  refine ⟨(s.settled c sl j).finishWith c j (s.infCpl c sl j 0 0 (s.slot c sl).haltCode), ?_, ?_, ?_, hleft, ?_⟩
  · rw [show exec (.inferenceCommit c sl) s = execInferenceCommit c sl s from rfl, execInferenceCommit, hjob]
    dsimp only [Option.getD_some]
    rw [hj]
    dsimp only
    rw [commit_eq hh hsp hr hp ho hep hd, hadv]
    exact onlyIf_true (by rw [hb, hout]; rfl)
  · rw [hbk.writes, hbk.held, (State.dropJob_sent _ _ _).1, (State.dropJob_sent _ _ _).2, hw]
  · rw [hbk.slot, State.slot_dropJob, hslot]
  · obtain ⟨h1, h2, h3, h4, h5, h6⟩ := committed_fields u (s.ctx j.ctx) (s.slot c sl)
    rw [hrec]
    exact ⟨h1, h2.trans (by rw [hu]), h3.trans (by rw [hu]), h4, h5, h6, (completed_finishWith _ c j _).of_sameRings (sameRings_of_copied hcop)⟩

end Sys2Proof.Claims
end

section
/-! SUPPORT. Groups and spill records: what a spill and a resume leave of a channel (R79, R82). -/

namespace Sys2Proof.Machine

/-- From `s` to `t` channel `c` keeps its groups, its spill records and the queue for groups. -/
structure SameGroups (c : Nat) (s t : State) : Prop where
  groups : (t.chan c).seqr.groups = (s.chan c).seqr.groups
  spill : (t.chan c).seqr.spill = (s.chan c).seqr.spill
  groupQ : (t.chan c).seqr.groupQ = (s.chan c).seqr.groupQ

namespace SameGroups

variable {c : Nat} {s t : State}

theorem modSlot (s : State) (c sl : Nat) (f : Slot → Slot) : SameGroups c s (s.modSlot c sl f) := by
  refine ⟨?_, ?_, ?_⟩ <;> rw [State.chan_modSlot_rest]

theorem of_counts (h : CountsOnly c s t) : SameGroups c s t := by
  refine ⟨?_, ?_, ?_⟩ <;> rw [h.own]

theorem group (h : SameGroups c s t) (i : Nat) : (t.chan c).group i = (s.chan c).group i := by rw [Chan.group, h.groups]; rfl

theorem record (h : SameGroups c s t) (n : Nat) : (t.chan c).record n = (s.chan c).record n := by rw [Chan.record, h.spill]; rfl

end SameGroups

theorem Slot.handle_setHandle (x : Slot) (h : Nat) (hd : Handle) (a : Nat) : (x.setHandle h hd).handle a = if a = h then hd else x.handle a :=
  sget_sput ({} : Handle) hd x.handles h a

/-- A group's new state and a record's freeing. -/
def Chan.regroup (k : Chan) (i n : Nat) (g : Group) : Chan :=
  { k.setGroup i g with seqr := { (k.setGroup i g).seqr with spill := serase n k.seqr.spill } }

theorem Chan.group_regroup (k : Chan) (i n : Nat) (g : Group) (m : Nat) : (k.regroup i n g).group m = if m = i then g else k.group m :=
  sget_sput ({} : Group) g k.seqr.groups i m

theorem Chan.record_regroup (k : Chan) (i n : Nat) (g : Group) (m : Nat) : (k.regroup i n g).record m = if m = n then {} else k.record m :=
  sget_serase ({} : SpillRec) n m k.seqr.spill

/-- A group's freeing and a record's writing. -/
def Chan.ungroup (k : Chan) (i n : Nat) (r : SpillRec) : Chan :=
  { k.setGroup i {} with seqr := { (k.setGroup i {}).seqr with spill := sput {} k.seqr.spill n r } }

theorem Chan.group_ungroup (k : Chan) (i n : Nat) (r : SpillRec) (m : Nat) : (k.ungroup i n r).group m = if m = i then {} else k.group m :=
  sget_sput ({} : Group) {} k.seqr.groups i m

theorem Chan.record_ungroup (k : Chan) (i n : Nat) (r : SpillRec) (m : Nat) : (k.ungroup i n r).record m = if m = n then r else k.record m :=
  sget_sput ({} : SpillRec) r k.seqr.spill n m

/-- The group that a record which is not compensated moves back into. -/
def SpillRec.group (r : SpillRec) (sl h : Nat) : Group := { holder := some (sl, h), sums := r.sums, comps := r.comps }

/-- The handle that record `n` moves back to, in group `i`. -/
def SpillRec.handleIn (r : SpillRec) (hd : Handle) (n i : Nat) : Handle :=
  let b := if hd.record = some n then hd else r.keep
  { b with phys := some i, record := none, implicit := false, named := b.named - b.drained, drained := 0, fallback := b.fallback,
           poisoned := b.poisoned || r.poisoned, inUse := true }

/-- What the move of record `n` into group `i` leaves. -/
structure Resumed (c sl h n i : Nat) (s t : State) : Prop where
  group : ∀ m, (t.chan c).group m = if m = i then ((s.chan c).record n).group sl h else (s.chan c).group m
  record : ∀ m, (t.chan c).record m = if m = n then {} else (s.chan c).record m
  groupQ : (t.chan c).seqr.groupQ = (s.chan c).seqr.groupQ
  handle : ∀ a, (t.slot c sl).handle a = if a = h then ((s.chan c).record n).handleIn ((s.slot c sl).handle h) n i else (s.slot c sl).handle a

/-- A record without compensation moves back with its sums (R82). -/
theorem State.resumeRecord_moves {s : State} {c n : Nat} (hp : ((s.chan c).record n).precise = false) (sl h i : Nat) :
    Resumed c sl h n i s (s.resumeRecord c sl h n i) := by
  have he : s.resumeRecord c sl h n i = ((s.modChan c (fun k => k.regroup i n (((s.chan c).record n).group sl h))).modSlot c sl (fun x =>
      { x.setHandle h (((s.chan c).record n).handleIn (x.handle h) n i) with fallbacks := x.fallbacks })).count c 0x15 none := by
    unfold State.resumeRecord SpillRec.handleIn
    simp only [hp, Bool.false_and, Bool.or_false, Bool.false_eq_true, if_false, bnat, Nat.add_zero]
    rfl
  have hslot : (s.modChan c (fun k => k.regroup i n (((s.chan c).record n).group sl h))).slot c sl = s.slot c sl :=
    State.slot_modChan s c c sl (fun k => k.regroup i n (((s.chan c).record n).group sl h)) fun _ => rfl
  have hc := State.countN_only ((s.modChan c (fun k => k.regroup i n (((s.chan c).record n).group sl h))).modSlot c sl (fun x =>
      { x.setHandle h (((s.chan c).record n).handleIn (x.handle h) n i) with fallbacks := x.fallbacks })) c 0x15 1 none
  have hm := SameGroups.modSlot (s.modChan c (fun k => k.regroup i n (((s.chan c).record n).group sl h))) c sl (fun x =>
      { x.setHandle h (((s.chan c).record n).handleIn (x.handle h) n i) with fallbacks := x.fallbacks })
  rw [he]
  refine ⟨fun m => ?_, fun m => ?_, ?_, fun a => ?_⟩
  · rw [State.count, (SameGroups.of_counts hc).group, hm.group, State.chan_modChan_same, Chan.group_regroup]
  · rw [State.count, (SameGroups.of_counts hc).record, hm.record, State.chan_modChan_same, Chan.record_regroup]
  · rw [State.count, (SameGroups.of_counts hc).groupQ, hm.groupQ, State.chan_modChan_same]
    rfl
  · rw [State.count, hc.slot, State.slot_modSlot_same, hslot]
    exact Slot.handle_setHandle _ _ _ _

/-- What the move of group `i` of an open handle into record `n` leaves. -/
structure Spilled (c sl h n i : Nat) (s t : State) : Prop where
  group : ∀ m, (t.chan c).group m = if m = i then {} else (s.chan c).group m
  sums : ((t.chan c).record n).sums = ((s.chan c).group i).sums
  plain : ((t.chan c).record n).precise = ((s.slot c sl).handle h).precise
  groupQ : (t.chan c).seqr.groupQ = (s.chan c).seqr.groupQ
  handle : (t.slot c sl).handle h = { (s.slot c sl).handle h with phys := none, record := some n, implicit := false }

/-- The record that group `i` of an open handle moves to. -/
def State.spillRec (s : State) (c sl h i seq : Nat) : SpillRec :=
  { valid := true, ctx := (((s.chan c).job? ((s.slot c sl).job.getD 0)).getD {}).ctx, slot := sl, handle := h, lanes := 1024
    contributions := ((s.slot c sl).handle h).drained, precise := ((s.slot c sl).handle h).precise
    fallback := ((s.slot c sl).handle h).fallback, saturated := (s.slot c sl).saturated, implicit := false
    frameLo := s.frameN % 2 ^ 17, seq := seq, sums := ((s.chan c).group i).sums, comps := ((s.chan c).group i).comps
    keep := { (s.slot c sl).handle h with phys := none } }

/-- A group spilled with its handle open (R81, R82). -/
theorem State.spillHandle_moves {s : State} {c sl h i n : Nat} (hi : ((s.slot c sl).handle h).phys = some i)
    (hn : ((s.chan c).freeRecords sl).head? = some n) (seq : Nat) : Spilled c sl h n i s (s.spillHandle c sl h true false seq) := by
  have he : s.spillHandle c sl h true false seq = (s.modChan c (fun k => k.ungroup i n (s.spillRec c sl h i seq))).modSlot c sl (fun x => x.setHandle h
      { (s.slot c sl).handle h with phys := none, record := some n, implicit := false }) := by
    have hi' : (((s.chan c).slot sl).handle h).phys = some i := hi
    unfold State.spillHandle
    dsimp only
    rw [hi', hn] <;>
      rfl
  have hm := SameGroups.modSlot (s.modChan c (fun k => k.ungroup i n (s.spillRec c sl h i seq))) c sl (fun x => x.setHandle h
      { (s.slot c sl).handle h with phys := none, record := some n, implicit := false })
  rw [he]
  have hrec : ((s.modChan c (fun k => k.ungroup i n (s.spillRec c sl h i seq))).chan c).record n = s.spillRec c sl h i seq := by
    rw [State.chan_modChan_same, Chan.record_ungroup, if_pos rfl]
  refine ⟨fun m => ?_, ?_, ?_, ?_, ?_⟩
  · rw [hm.group, State.chan_modChan_same, Chan.group_ungroup]
  · rw [hm.record, hrec]
    rfl
  · rw [hm.record, hrec]
    rfl
  · rw [hm.groupQ, State.chan_modChan_same]
    rfl
  · rw [State.slot_modSlot_same, Slot.handle_setHandle, if_pos rfl]

/-! ### Free groups -/

theorem Chan.freeGroup_free {k : Chan} {i : Nat} (h : k.freeGroup = some i) : i < 16 ∧ (k.group i).holder = none :=
  ⟨List.mem_range.1 (List.mem_of_find?_eq_some h), Option.isNone_iff_eq_none.1 (List.find?_some (p := fun i => (k.group i).holder.isNone) h)⟩

/-- The lowest free group lies no higher than any free one. -/
theorem Chan.freeGroup_le {k : Chan} {i : Nat} (hi : i < 16) (h : (k.group i).holder = none) : ∃ i', k.freeGroup = some i' ∧ i' ≤ i := by
  cases hf : k.freeGroup with
  | none =>
    have := List.find?_eq_none.1 hf i (List.mem_range.2 hi)
    rw [h] at this
    exact absurd rfl this
  | some i' =>
    refine ⟨i', rfl, Nat.le_of_not_lt fun hlt => ?_⟩
    obtain ⟨-, j, hj, he, hbefore⟩ := List.find?_eq_some_iff_getElem.1 hf
    rw [List.getElem_range] at he
    have := hbefore i (by omega)
    rw [List.getElem_range, h] at this
    exact absurd this (by decide)

theorem Chan.freeGroup_some {k : Chan} (h : 0 < k.freeGroups) : ∃ i, k.freeGroup = some i := by
  obtain ⟨i, hi⟩ := List.exists_mem_of_length_pos h
  obtain ⟨hr, hn⟩ := List.mem_filter.1 hi
  exact (Chan.freeGroup_le (List.mem_range.1 hr) (Option.isNone_iff_eq_none.1 hn)).imp fun _ h => h.1

/-- A free group taken: one fewer is free. -/
theorem Chan.freeGroups_taken {k k' : Chan} {i : Nat} (hf : k.freeGroup = some i) (ht : (k'.group i).holder ≠ none)
    (ho : ∀ m, m ≠ i → k'.group m = k.group m) : k'.freeGroups + 1 = k.freeGroups := by
  obtain ⟨hi, hn⟩ := Chan.freeGroup_free hf
  have hmem : i ∈ (List.range 16).filter (fun m => (k.group m).holder.isNone) :=
    List.mem_filter.2 ⟨List.mem_range.2 hi, Option.isNone_iff_eq_none.2 hn⟩
  have he : (List.range 16).filter (fun m => (k'.group m).holder.isNone) =
      ((List.range 16).filter (fun m => (k.group m).holder.isNone)).erase i := by
    rw [(List.nodup_range.filter _).erase_eq_filter, List.filter_filter]
    refine List.filter_congr fun m _ => ?_
    by_cases hm : m = i
    · subst hm
      simp [Option.isSome_iff_ne_none.2 ht]
    · simp [ho m hm, hm]
  have hpos : 0 < ((List.range 16).filter (fun m => (k.group m).holder.isNone)).length := List.length_pos_of_mem hmem
  unfold Chan.freeGroups
  rw [he, List.length_erase_of_mem hmem]
  omega

end Sys2Proof.Machine
end

section
/-! Family 04_accumulation: groups spill to records and return (R79, R81 to R83). -/

namespace Sys2Proof.Claims

open Sys2Proof.Machine

/-- R81: a group at its depth moves to a record and back. -/
theorem autoSpill_moves {s : State} {c sl h i : Nat} (hj : (s.slot c sl).job.isSome = true) (hk : ((s.slot c sl).handle h).kind ≠ .closed)
    (hi : ((s.slot c sl).handle h).phys = some i) (hp : ((s.slot c sl).handle h).precise = false) (hlt : i < 16)
    (hd : s.depthOf c sl ≤ ((s.slot c sl).handle h).drained) (hm : ((s.slot c sl).handle h).drained < ((s.slot c sl).handle h).named)
    (hq : (s.chan c).quotaShort sl = false) (hg : (s.chan c).seqr.groupQ = []) :
    ∃ t i', exec (.autoSpill c sl h) s = .next t ∧ ((t.slot c sl).handle h).phys = some i' ∧ i' ≤ i ∧
      ((t.chan c).group i').sums = ((s.chan c).group i).sums ∧ ((t.chan c).group i').holder = some (sl, h) ∧
      ((t.slot c sl).handle h).drained = 0 ∧
      ((t.slot c sl).handle h).named = ((s.slot c sl).handle h).named - ((s.slot c sl).handle h).drained := by
  obtain ⟨n, hn⟩ : ∃ n, ((s.chan c).freeRecords sl).head? = some n := by
    cases hf : (s.chan c).freeRecords sl with
    | nil =>
      unfold Chan.quotaShort at hq
      rw [hf] at hq
      cases hq
    | cons n l => exact ⟨n, rfl⟩
  let seq : Nat := match (s.slot c sl).outs.find? (fun o => handleOf o.word == some h) with | some o => o.seq | none => 0
  have hsp := State.spillHandle_moves hi hn seq
  have hco := State.countN_only (s.spillHandle c sl h true false seq) c 0x13 1 (((s.chan c).job? ((s.slot c sl).job.getD 0)).map Job.ctx)
  have hsg := SameGroups.of_counts hco
  generalize hu : (s.spillHandle c sl h true false seq).countN c 0x13 1 (((s.chan c).job? ((s.slot c sl).job.getD 0)).map Job.ctx) = u at hco hsg
  have hhandle : (u.slot c sl).handle h = { (s.slot c sl).handle h with phys := none, record := some n, implicit := false } := by
    rw [hco.slot, hsp.handle]
  obtain ⟨i', hf, hle⟩ := Chan.freeGroup_le (k := u.chan c) hlt (by rw [hsg.group, hsp.group, if_pos rfl])
  have hre := State.resumeRecord_moves (s := u) (c := c) (n := n) (by rw [hsg.record, hsp.plain, hp]) sl h i'
  have hnow : (u.chan c).groupNow = some i' := by
    rw [Chan.groupNow, hsg.groupQ, hsp.groupQ, hg]
    exact hf
  refine ⟨u.resumeRecord c sl h n i', i', ?_, ?_, hle, ?_, ?_, ?_, ?_⟩
  · rw [show exec (.autoSpill c sl h) s = execAutoSpill c sl h s from rfl, execAutoSpill]
    dsimp only
    rw [hq, if_neg Bool.false_ne_true]
    have hrun : (match (u.chan c).groupNow, ((u.slot c sl).handle h).record with
        | some i, some n => u.resumeRecord c sl h n i
        | _, _ => u.waitGroup c sl h) = u.resumeRecord c sl h n i' := by rw [hnow, hhandle]
    rw [← hrun, ← hu]
    refine onlyIf_true ?_
    simp only [Bool.and_eq_true, decide_eq_true_eq]
    exact ⟨⟨⟨⟨hj, bne_iff_ne.2 hk⟩, Option.isSome_of_eq_some hi⟩, hd⟩, hm⟩
  · rw [hre.handle, if_pos rfl]
    rfl
  · rw [hre.group, if_pos rfl, ← hsp.sums, ← hsg.record]
    rfl
  · rw [hre.group, if_pos rfl]
    rfl
  · rw [hre.handle, if_pos rfl]
    rfl
  · rw [hre.handle, if_pos rfl, hhandle, SpillRec.handleIn]
    dsimp only
    rw [if_pos rfl]

/-- A slot's handle takes the lowest free group. -/
def giveLowest (c sl : Nat) (s : State) (h : Nat) : State :=
  match (s.chan c).freeGroup with | some i => s.giveGroup c sl h i | none => s

theorem giveLowest_resumes {s : State} {c sl h n i : Nat} (hr : ((s.slot c sl).handle h).record = some n) (hf : (s.chan c).freeGroup = some i) :
    giveLowest c sl s h = s.resumeRecord c sl h n i := by
  unfold giveLowest
  rw [hf]
  unfold State.giveGroup
  dsimp only
  rw [hr]

/-- What the grant of groups to the handles of `l` leaves: each has its record's sums, and the rest stands. -/
structure Granted (c sl : Nat) (l : List Nat) (s t : State) : Prop where
  groupQ : (t.chan c).seqr.groupQ = (s.chan c).seqr.groupQ
  given : ∀ a ∈ l, ∃ i, ((t.slot c sl).handle a).phys = some i ∧ ((t.slot c sl).handle a).record = none ∧
    ∀ n, ((s.slot c sl).handle a).record = some n → ((t.chan c).group i).sums = ((s.chan c).record n).sums
  handle : ∀ a, a ∉ l → (t.slot c sl).handle a = (s.slot c sl).handle a
  group : ∀ i, ((s.chan c).group i).holder ≠ none → (t.chan c).group i = (s.chan c).group i

/-- Each of a slot's handles takes the lowest free group in turn. -/
theorem giveLowest_all (c sl : Nat) : ∀ (l : List Nat) (s : State), l.Nodup → l.length ≤ (s.chan c).freeGroups →
    (∀ a ∈ l, ∃ n, ((s.slot c sl).handle a).record = some n ∧ ((s.chan c).record n).precise = false) →
    (∀ a ∈ l, ∀ b ∈ l, ((s.slot c sl).handle a).record = ((s.slot c sl).handle b).record → a = b) → Granted c sl l s (l.foldl (giveLowest c sl) s)
  | [], s, _, _, _, _ => ⟨rfl, fun _ ha => (nomatch ha), fun _ _ => rfl, fun _ _ => rfl⟩
  | h :: l, s, hnd, hlen, hrec, hinj => by
    obtain ⟨n, hn, hp⟩ := hrec h List.mem_cons_self
    obtain ⟨i, hf⟩ := Chan.freeGroup_some (k := s.chan c) (Nat.lt_of_lt_of_le (Nat.succ_pos _) hlen)
    obtain ⟨hhl, hnd'⟩ := List.nodup_cons.1 hnd
    have hre := State.resumeRecord_moves hp sl h i
    have hown : ((s.resumeRecord c sl h n i).chan c).group i = ((s.chan c).record n).group sl h := (hre.group i).trans (if_pos rfl)
    have hfree := Chan.freeGroups_taken (k := s.chan c) (k' := (s.resumeRecord c sl h n i).chan c) hf (by rw [hown]; exact Option.some_ne_none _)
      fun m hm => (hre.group m).trans (if_neg hm)
    have hkeep : ∀ a ∈ l, ((s.resumeRecord c sl h n i).slot c sl).handle a = (s.slot c sl).handle a := fun a ha =>
      (hre.handle a).trans (if_neg fun e : a = h => hhl (e ▸ ha))
    have hother : ∀ a ∈ l, ∀ m, ((s.slot c sl).handle a).record = some m → ((s.resumeRecord c sl h n i).chan c).record m = (s.chan c).record m := by
      intro a ha m hm
      refine (hre.record m).trans (if_neg fun e => hhl ?_)
      have hah : a = h := hinj a (List.mem_cons_of_mem _ ha) h List.mem_cons_self (by rw [hm, hn, e])
      exact hah ▸ ha
    have ih := giveLowest_all c sl l (s.resumeRecord c sl h n i) hnd' (by rw [List.length_cons] at hlen; omega)
      (fun a ha => by
        obtain ⟨m, hm, hpm⟩ := hrec a (List.mem_cons_of_mem _ ha)
        exact ⟨m, by rw [hkeep a ha, hm], by rw [hother a ha m hm, hpm]⟩)
      (fun a ha b hb hab => hinj a (List.mem_cons_of_mem _ ha) b (List.mem_cons_of_mem _ hb) (by rwa [hkeep a ha, hkeep b hb] at hab))
    have hfirst : (h :: l).foldl (giveLowest c sl) s = l.foldl (giveLowest c sl) (s.resumeRecord c sl h n i) := by
      rw [List.foldl_cons, giveLowest_resumes hn hf]
    rw [hfirst]
    refine ⟨ih.groupQ.trans hre.groupQ, fun a ha => ?_, fun a ha => ?_, fun m hm => ?_⟩
    · rcases List.mem_cons.1 ha with rfl | ha
      · have hself := (ih.handle a hhl).trans ((hre.handle a).trans (if_pos rfl))
        refine ⟨i, by rw [hself]; rfl, by rw [hself]; rfl, fun m hm => ?_⟩
        rw [ih.group i (by rw [hown]; exact Option.some_ne_none _), hown, Option.some.inj (hm.symm.trans hn)]
        rfl
      · obtain ⟨m, h1, h2, h3⟩ := ih.given a ha
        exact ⟨m, h1, h2, fun x hx => (h3 x (by rw [hkeep a ha, hx])).trans (by rw [hother a ha x hx])⟩
    · refine (ih.handle a fun hl => ha (List.mem_cons_of_mem _ hl)).trans ((hre.handle a).trans (if_neg fun e => ha ?_))
      exact e ▸ List.mem_cons_self
    · have hmi : m ≠ i := fun e => hm (e ▸ (Chan.freeGroup_free hf).2)
      have hm' : ((s.resumeRecord c sl h n i).chan c).group m = (s.chan c).group m := (hre.group m).trans (if_neg hmi)
      exact (ih.group m (by rwa [hm'])).trans hm'

/-- A slot leaves the queue for groups. -/
def leaveGroupQ (sl : Nat) (k : Chan) : Chan := { k with seqr := { k.seqr with groupQ := k.seqr.groupQ.filter (fun e => e.slot ≠ sl) } }

/-- R79, R83: the slot that has waited longest takes all its groups. -/
theorem groupGrant_gives {s : State} {c sl : Nat} {w : GWait} {rest : List GWait} (hf : s.fitted c = true) (hq : (s.chan c).seqr.groupQ = w :: rest)
    (hw : w.slot = sl) (hlen : ((s.chan c).groupNeeds sl).length ≤ (s.chan c).freeGroups)
    (hrec : ∀ a ∈ (s.chan c).groupNeeds sl, ∃ n, ((s.slot c sl).handle a).record = some n ∧ ((s.chan c).record n).precise = false)
    (hinj : ∀ a ∈ (s.chan c).groupNeeds sl, ∀ b ∈ (s.chan c).groupNeeds sl,
      ((s.slot c sl).handle a).record = ((s.slot c sl).handle b).record → a = b) :
    ∃ t, exec (.groupGrant c) s = .next t ∧ (t.chan c).seqr.groupQ = (s.chan c).seqr.groupQ.filter (fun e => e.slot ≠ sl) ∧
      ∀ a ∈ (s.chan c).groupNeeds sl, ∃ i, ((t.slot c sl).handle a).phys = some i ∧ ((t.slot c sl).handle a).record = none ∧
        ∀ n, ((s.slot c sl).handle a).record = some n → ((t.chan c).group i).sums = ((s.chan c).record n).sums := by
  have hslot : (s.modChan c (leaveGroupQ sl)).slot c sl = s.slot c sl := State.slot_modChan s c c sl (leaveGroupQ sl) fun _ => rfl
  have hchan : (s.modChan c (leaveGroupQ sl)).chan c = leaveGroupQ sl (s.chan c) := State.chan_modChan_same _ _ _
  have hg := giveLowest_all c sl ((s.chan c).groupNeeds sl) (s.modChan c (leaveGroupQ sl)) (List.nodup_range.filter _) (by rw [hchan]; exact hlen)
    (by rw [hslot, hchan]; exact hrec) (by rw [hslot]; exact hinj)
  rw [show exec (.groupGrant c) s = execGroupGrant c s from rfl, execGroupGrant, hq]
  dsimp only
  rw [hw, hf, decide_eq_true hlen]
  refine ⟨_, rfl, ?_⟩
  rw [Bool.and_true, if_pos rfl, ← hq]
  have he : s.grantGroups c sl =
      if ((((s.chan c).groupNeeds sl).foldl (giveLowest c sl) (s.modChan c (leaveGroupQ sl))).slot c sl).job.isNone then
        ((s.chan c).groupNeeds sl).foldl (giveLowest c sl) (s.modChan c (leaveGroupQ sl))
      else (((s.chan c).groupNeeds sl).foldl (giveLowest c sl) (s.modChan c (leaveGroupQ sl))).modSlot c sl (fun x =>
        { x with block := match x.block with | .group _ => .none | .resuming => .none | b => b, blockedFrames := 0 }) := rfl
  rw [he]
  generalize ((s.chan c).groupNeeds sl).foldl (giveLowest c sl) (s.modChan c (leaveGroupQ sl)) = u at hg
  have hqu : (u.chan c).seqr.groupQ = (s.chan c).seqr.groupQ.filter (fun e => e.slot ≠ sl) := hg.groupQ.trans (by rw [hchan]; rfl)
  have hgu := hg.given
  rw [hslot, hchan] at hgu
  split
  · exact ⟨hqu, hgu⟩
  · refine ⟨(SameGroups.modSlot u c sl _).groupQ.trans hqu, fun a ha => ?_⟩
    obtain ⟨i, h1, h2, h3⟩ := hgu a ha
    refine ⟨i, ?_, ?_, fun n hn => ?_⟩
    · rw [State.slot_modSlot_same]; exact h1
    · rw [State.slot_modSlot_same]; exact h2
    · rw [(SameGroups.modSlot u c sl _).group]; exact h3 n hn

/-- Settles O51: a full group returns through a record, and the queue for groups is served all at once. -/
theorem groupsSpillAndReturn : Obligations.GroupsSpillAndReturn := by
  rintro s c sl h x rfl
  refine ⟨fun i hj hk hi hp hlt hd hm hq hg => autoSpill_moves hj hk hi hp hlt hd hm hq hg, ?_⟩
  rintro w rest needs hf hq hw rfl
  refine ⟨fun hlt => ?_, fun hlen hrec hinj => groupGrant_gives hf hq hw hlen hrec hinj⟩
  rw [show exec (.groupGrant c) s = execGroupGrant c s from rfl, execGroupGrant, hq]
  dsimp only
  rw [hw]
  exact onlyIf_false (by rw [decide_eq_false (Nat.not_le.2 hlt), Bool.and_false])

end Sys2Proof.Claims
end

section
/-! SUPPORT. SPDM requests in and out of order, and the sessions of a port (R327). -/

namespace Sys2Proof.Machine

section

variable {s : State} {p : Nat} (h : s.spdmHears p = true)

include h

/-- A request in its order does what it says. -/
theorem State.spdm_ok {ok : Bool} (hok : ok = true) (f : State → State) : s.spdm p ok f = .next (f s) := by
  unfold State.spdm
  rw [hok, if_pos rfl]
  exact onlyIf_true h

/-- A request out of its order takes the error answer. -/
theorem State.spdm_error {ok : Bool} (hok : ok = false) (f : State → State) : s.spdm p ok f = .next (s.answer p 0x7F []) := by
  unfold State.spdm
  rw [hok, if_neg Bool.false_ne_true]
  exact onlyIf_true h

end

/-- A changed session changes as told, and no other does. -/
theorem State.session_modSession (s : State) (p n : Nat) (f : Spdm × Nat → Spdm × Nat) (q m : Nat) :
    (s.modSession p n f).session? q m =
      (s.sec.sessions.find? (fun e => e.1 == q && e.2.1 == m)).map (fun e => if (q, m) = (p, n) then (f e.2.2).1 else e.2.2.1) := by
  unfold State.session? State.modSession
  dsimp only
  have hkey : ((fun e : Nat × Nat × Spdm × Nat => e.1 == q && e.2.1 == m) ∘
      (fun e : Nat × Nat × Spdm × Nat => if e.1 = p ∧ e.2.1 = n then (e.1, e.2.1, f e.2.2) else e)) = fun e => e.1 == q && e.2.1 == m := by
    funext e
    simp only [Function.comp]
    split <;> rfl
  rw [List.find?_map, hkey, Option.map_map]
  refine Option.map_congr fun e he => ?_
  have hk := List.find?_some he
  rw [Bool.and_eq_true, beq_iff_eq, beq_iff_eq] at hk
  obtain ⟨hq, hm⟩ := hk
  simp only [Function.comp, hq, hm, Prod.mk.injEq]
  split <;> rfl

theorem State.session_modSession_ne (s : State) {p n q m : Nat} (f : Spdm × Nat → Spdm × Nat) (h : (q, m) ≠ (p, n)) :
    (s.modSession p n f).session? q m = s.session? q m := by
  rw [State.session_modSession]
  simp only [if_neg h]
  rfl

/-- A change that keeps a session's state keeps all of them. -/
theorem State.session_modSession_keep (s : State) (p n : Nat) {f : Spdm × Nat → Spdm × Nat} (h : ∀ e, (f e).1 = e.1) (q m : Nat) :
    (s.modSession p n f).session? q m = s.session? q m := by
  rw [State.session_modSession]
  simp only [h, ite_self]
  rfl

theorem State.session_dropSession (s : State) (p n : Nat) : (s.dropSession p n).session? p n = none := by
  unfold State.session? State.dropSession
  rw [Option.map_eq_none_iff, List.find?_eq_none]
  intro e he
  simpa [imp_iff_not_or] using (List.mem_filter.1 he).2

theorem State.session_dropSession_ne (s : State) {p n q m : Nat} (h : (q, m) ≠ (p, n)) :
    (s.dropSession p n).session? q m = s.session? q m := by
  unfold State.session? State.dropSession
  rw [List.find?_filter]
  congr 2
  funext e
  by_cases hb : (e.1 == q && e.2.1 == m) = true
  · have hk := hb
    rw [Bool.and_eq_true, beq_iff_eq, beq_iff_eq] at hk
    have hne : (e.1 == p && e.2.1 == n) = false := by
      refine Bool.eq_false_iff.2 fun hpn => h ?_
      rw [Bool.and_eq_true, beq_iff_eq, beq_iff_eq] at hpn
      rw [← hk.1, ← hk.2, hpn.1, hpn.2]
    rw [hb, hne]
    rfl
  · rw [Bool.eq_false_iff.2 hb]
    exact decide_eq_false fun hf => Bool.false_ne_true hf.2

end Sys2Proof.Machine
end

section
/-! Family 15_security: attestation over SPDM (R327, R328). -/

namespace Sys2Proof.Claims

open Sys2Proof.Machine

section

variable {s : State} {p : Nat} (h : s.spdmHears p = true)

include h

theorem getVersion_answers : exec (.getVersion p) s = .next ((s.setConn p { version := 0x10 }).answer p 0x04 [0x12, 0x13]) :=
  State.spdm_ok h rfl fun s => (s.setConn p { version := 0x10 }).answer p 0x04 [0x12, 0x13]

theorem getCapabilities_answers {v : Nat} (hv : v = 0x12 ∨ v = 0x13) (hc : (s.conn p).version ≠ 0) :
    exec (.getCapabilities p v) s = .next ((s.setConn p { version := v, caps := true }).answer p 0x61 [BitVec.ofNat 8 v, 16]) := by
  rw [show exec (.getCapabilities p v) s = execGetCapabilities p v s from rfl, execGetCapabilities]
  refine State.spdm_ok h ?_ _
  rw [decide_eq_true hc]
  rcases hv with rfl | rfl <;> rfl

theorem negotiateAlgorithms_answers {offer : AlgOffer} (hp : offer.port = p) (hc : (s.conn p).caps = true) :
    (Sys2Proof.Machine.AlgOffer.ok offer = true →
      exec (.negotiateAlgorithms offer) s = .next ((s.setConn p { s.conn p with algs := true }).answer p 0x63 algsBody)) ∧
    (Sys2Proof.Machine.AlgOffer.ok offer = false → exec (.negotiateAlgorithms offer) s = .next (s.answerError p)) := by
  subst hp
  rw [show exec (.negotiateAlgorithms offer) s = execNegotiateAlgorithms offer s from rfl, execNegotiateAlgorithms, hc, Bool.true_and]
  exact ⟨fun ho => State.spdm_ok h ho _, fun ho => State.spdm_error h ho _⟩

section

variable (ha : (s.conn p).algs = true)

include ha

theorem getDigests_answers : exec (.getDigests p) s = .next (s.answer p 0x01 (leBytes 64 (Config.sha3 s.store.live.chain).toNat)) := by
  rw [show exec (.getDigests p) s = execGetDigests p s from rfl, execGetDigests]
  exact State.spdm_ok h ha _

theorem getCertificate_answers (off len : Nat) :
    exec (.getCertificate p 0 off len) s = .next (s.answer p 0x02 ((s.store.live.chain.drop off).take len)) := by
  rw [show exec (.getCertificate p 0 off len) s = execGetCertificate p 0 off len s from rfl, execGetCertificate]
  exact State.spdm_ok h (by rw [ha]; rfl) _

omit ha in
theorem getCertificate_noSlot {slot : Nat} (hs : slot ≠ 0) (off len : Nat) :
    exec (.getCertificate p slot off len) s = .next (s.answer p 0x7F []) := by
  rw [show exec (.getCertificate p slot off len) s = execGetCertificate p slot off len s from rfl, execGetCertificate]
  exact State.spdm_error h (by rw [beq_eq_false_iff_ne.2 hs, Bool.and_false]) _

theorem getMeasurements_answers {i : Nat} (hlo : 1 ≤ i) (hhi : i ≤ 20) :
    exec (.getMeasurements p i false) s = .next (s.answer p 0x60 (s.measure i)) := by
  rw [show exec (.getMeasurements p i false) s = execGetMeasurements p i false s from rfl, execGetMeasurements]
  exact State.spdm_ok h (by rw [ha, decide_eq_true ⟨hlo, hhi⟩]; rfl) _

variable (hk : s.sec.key = true)

include hk

theorem challenge_answers : exec (.challenge p 0) s = .next (State.answer { s with fresh := s.fresh + 1 } p 0x03
    (leBytes 64 (Config.sha3 s.store.live.chain).toNat ++ Config.signature s.fresh)) := by
  rw [show exec (.challenge p 0) s = execChallenge p 0 s from rfl, execChallenge]
  exact State.spdm_ok h (by rw [ha, hk]; rfl) _

theorem getMeasurements_signs {i : Nat} (hlo : 1 ≤ i) (hhi : i ≤ 20) : exec (.getMeasurements p i true) s =
    .next (State.answer { s with fresh := s.fresh + 1 } p 0x60 (s.measure i ++ Config.signature s.fresh)) := by
  rw [show exec (.getMeasurements p i true) s = execGetMeasurements p i true s from rfl, execGetMeasurements]
  exact State.spdm_ok h (by rw [ha, decide_eq_true ⟨hlo, hhi⟩, hk]; rfl) _

theorem keyExchange_opens {n : Nat} {share : List Byte} (hl : s.sec.sessions.length < 4) (hn : s.session? p n = none) (hb : share.length = 96) :
    exec (.keyExchange p { session := n, share := share }) s = .next (State.answer { s with fresh := s.fresh + 2, sec := { s.sec with
      sessions := s.sec.sessions ++ [(p, n, .handshake, 0)]
      secrets := s.sec.secrets ++ [(p, n, Config.dheSecret s.fresh share)] } } p 0x64
        (Config.dheShare s.fresh ++ Config.signature (s.fresh + 1))) := by
  rw [show exec (.keyExchange p { session := n, share := share }) s = execKeyExchange p { session := n, share := share } s from rfl, execKeyExchange]
  exact State.spdm_ok h (by rw [ha, hk, decide_eq_true hl, hn, hb]; rfl) _

end

theorem finish_establishes {n : Nat} (hs : s.session? p n = some .handshake) : ∃ t, exec (.finish p n true) s = .next t ∧
    t.session? p n = some .established ∧ (∀ q m, (q, m) ≠ (p, n) → t.session? q m = s.session? q m) ∧
    t.out.spdm = s.out.spdm ++ [(p, 0x65, [])] := by
  refine ⟨(s.modSession p n (fun e => (.established, e.2))).answer p 0x65 [], ?_, ?_, ?_, rfl⟩
  · rw [show exec (.finish p n true) s = execFinish p n true s from rfl, execFinish, if_neg (not_not.2 hs), if_pos rfl]
    exact onlyIf_true h
  · refine (State.session_modSession s p n (fun e => (.established, e.2)) p n).trans ?_
    obtain ⟨e, he, -⟩ := Option.map_eq_some_iff.1 hs
    rw [he]
    exact congrArg some (if_pos rfl)
  · exact fun q m hne => State.session_modSession_ne s (fun e => (.established, e.2)) hne

section

variable {n : Nat} (hs : s.session? p n = some .established)

include hs

theorem heartbeat_answers : exec (.heartbeat p n) s = .next (s.answer p 0x68 []) := by
  rw [show exec (.heartbeat p n) s = execHeartbeat p n s from rfl, execHeartbeat]
  exact State.spdm_ok h (by rw [hs]; rfl) _

theorem keyUpdate_goesOn : ∃ t, exec (.keyUpdate p n) s = .next t ∧ (∀ q m, t.session? q m = s.session? q m) ∧
    t.out.spdm = s.out.spdm ++ [(p, 0x69, [])] := by
  refine ⟨(s.modSession p n (fun e => (e.1, e.2 + 1))).answer p 0x69 [], ?_, ?_, rfl⟩
  · rw [show exec (.keyUpdate p n) s = execKeyUpdate p n s from rfl, execKeyUpdate]
    exact State.spdm_ok h (by rw [hs]; rfl) _
  · exact State.session_modSession_keep s p n (f := fun e => (e.1, e.2 + 1)) fun _ => rfl

theorem endSession_ends : ∃ t, exec (.endSession p n) s = .next t ∧ t.session? p n = none ∧
    (∀ q m, (q, m) ≠ (p, n) → t.session? q m = s.session? q m) ∧ t.out.spdm = s.out.spdm ++ [(p, 0x6C, [])] := by
  refine ⟨(s.dropSession p n).answer p 0x6C [], ?_, State.session_dropSession s p n, fun q m hne => State.session_dropSession_ne s hne, rfl⟩
  rw [show exec (.endSession p n) s = execEndSession p n s from rfl, execEndSession]
  exact State.spdm_ok h (by rw [hs]; rfl) _

end

/-- R327: what needs an established session takes the error answer without one. -/
theorem noSession_errs {n : Nat} (hs : s.session? p n ≠ some .established) :
    ∀ i ∈ [Instr.heartbeat p n, Instr.keyUpdate p n, Instr.endSession p n], exec i s = .next (s.answer p 0x7F []) := by
  intro i hi
  have hb : (s.session? p n == some .established) = false := beq_eq_false_iff_ne.2 hs
  simp only [List.mem_cons, List.not_mem_nil, or_false] at hi
  rcases hi with rfl | rfl | rfl
  · exact State.spdm_error h hb fun s => s.answer p 0x68 []
  · exact State.spdm_error h hb fun s => (s.modSession p n (fun e => (e.1, e.2 + 1))).answer p 0x69 []
  · exact State.spdm_error h hb fun s => (s.dropSession p n).answer p 0x6C []

end

/-- Settles O22: the requests in their order, the four sessions, and the error answer. -/
theorem attestationAnswers : Obligations.AttestationAnswers := by
  intro s p h
  refine ⟨getVersion_answers h, fun v hv hc => getCapabilities_answers h hv hc, fun offer hp hc => negotiateAlgorithms_answers h hp hc,
    fun ha => ⟨getDigests_answers h ha, getCertificate_answers h ha, fun slot off len hs => getCertificate_noSlot h hs off len,
      fun i => getMeasurements_answers h ha, fun hk => ⟨Config.signature s.fresh, challenge_answers h ha hk,
        fun i => getMeasurements_signs h ha hk, fun n share hl hn hb => ⟨_, keyExchange_opens h ha hk hl hn hb⟩⟩⟩,
    fun n hs => finish_establishes h hs, fun n hs => ⟨heartbeat_answers h hs, keyUpdate_goesOn h hs, endSession_ends h hs⟩,
    fun n hs => noSession_errs h hs⟩

end Sys2Proof.Claims
end

section
/-! Family 12_host_queues: an input read in, where two jobs of a channel bear one id (R254). -/

namespace Sys2Proof.Claims

open Sys2Proof.Machine

/-- An inference whose input is one element of four bytes. -/
def shortInput : Job :=
  { desc := 0x100000000000000000000000000000000000000000000000000000000000000000000000000000000000000000000000000000000000000000000000000000#512
    stage := .admitted }

/-- An inference with the same id whose input is eight elements. -/
def longInput : Job :=
  { desc := 0x100000000000000000000000000000000000000000000e00000000000000000000000000000000000000000000000000000000000000000000000000000000#512
    stage := .admitted }

/-- A channel with both, and the first 4,096 bytes of the host's memory open to function 0 for reading. -/
def twinJobs : State :=
  ({ host := { rules := { wins := [(0, 0x10000000000005#128)] } } } : State).modChan 0 (fun k => { k with jobs := [shortInput, longInput] })

/-- R254: an input read in full stays with every job of that id, each with as many bytes as its own descriptor says. -/
theorem inputRead_stays {s : State} {c : Nat} {j : Job} {b : List Byte} (hj : (s.chan c).job? j.id = some j) (hk : j.kind = 1)
    (hst : j.stage = .admitted) (hi : j.input = none) (hok : s.inputOk j = true) (hs : s.hostSecure = true) :
    exec (.inputReadDone c j.id (.data b)) s =
      .next (s.modJob c j.id (fun x => { x with input := some (b.take (bdExtent (inputBd x.desc))) })) := by
  rw [show exec (.inputReadDone c j.id (.data b)) s = execInputReadDone c j.id (.data b) s from rfl, execInputReadDone, hj]
  dsimp only
  rw [if_neg (not_or.2 ⟨not_not.2 hk, not_or.2 ⟨not_not.2 hst, by rw [hi]; exact Bool.false_ne_true⟩⟩), hok, if_pos rfl, hs, if_pos rfl] <;>
    rfl

theorem twinJobs_jobs : (twinJobs.chan 0).jobs = [shortInput, longInput] := rfl

/-- Eight zero bytes of the host. -/
def eightBytes : List Byte := List.replicate 8 0

/-- The second job keeps all eight bytes, as its descriptor says. -/
theorem twinJobs_reads : ∃ t, exec (.inputReadDone 0 0 (.data eightBytes)) twinJobs = .next t ∧
    (t.chan 0).jobs.map Job.input = [some (eightBytes.take 4), some eightBytes] := by
  have hs : bdExtent (inputBd shortInput.desc) = 4 := by decide +kernel
  have hl : bdExtent (inputBd longInput.desc) = 32 := by decide +kernel
  refine ⟨_, inputRead_stays (j := shortInput) rfl (by decide +kernel) rfl rfl (by decide +kernel) (by decide +kernel), ?_⟩
  rw [State.modJob, State.chan_modChan_same, twinJobs_jobs]
  change [some (eightBytes.take (bdExtent (inputBd shortInput.desc))), some (eightBytes.take (bdExtent (inputBd longInput.desc)))] = _
  rw [hs, hl]
  rfl

/-- Refutes O44: of two jobs with one id the statement cuts both inputs to the length of the first one's descriptor, the model each to its own. -/
theorem not_inferencesAreAdmittedAndBound : ¬ Obligations.InferencesAreAdmittedAndBound := by
  rintro ⟨-, h, -⟩
  obtain ⟨t, ht, hin⟩ := h twinJobs 0 shortInput eightBytes rfl (by decide +kernel) rfl rfl (by decide +kernel) (by decide +kernel)
  obtain ⟨u, hu, hread⟩ := twinJobs_reads
  have htu : t = u := Host.Outcome.next.inj (ht.symm.trans hu)
  have hs : bdExtent (inputBd shortInput.desc) = 4 := by decide +kernel
  have hjobs : (t.chan 0).jobs.map Job.input = [some (eightBytes.take 4), some (eightBytes.take 4)] := by
    rw [hin.chan, ← hs]
    rfl
  rw [htu, hread] at hjobs
  exact absurd hjobs (by decide)

end Sys2Proof.Claims
end

section
/-! SUPPORT. What an ended MVM leaves of its tile and of its slot's instructions (R77, R78, R177). -/

namespace Sys2Proof.Machine

/-- From `s` to `t` only channels changed, and of channel `c` neither tile `tl` nor a slot's outstanding instructions. -/
structure TileKept (c tl : Nat) (s t : State) : Prop where
  rest : t = { s with chans := t.chans }
  tile : t.tile c tl = s.tile c tl
  outs : ∀ sl, (t.slot c sl).outs = (s.slot c sl).outs

namespace TileKept

variable {c tl : Nat} {s t u : State}

theorem refl (c tl : Nat) (s : State) : TileKept c tl s s := ⟨rfl, rfl, fun _ => rfl⟩

theorem trans (h : TileKept c tl s t) (k : TileKept c tl t u) : TileKept c tl s u :=
  ⟨State.chans_only_trans h.rest k.rest, k.tile.trans h.tile, fun sl => (k.outs sl).trans (h.outs sl)⟩

theorem counts (h : CountsOnly c s t) : TileKept c tl s t := ⟨h.rest, h.tile c tl, fun sl => by rw [h.slot]⟩

theorem foldl {α : Type} {f : State → α → State} (h : ∀ s a, TileKept c tl s (f s a)) : ∀ (l : List α) (s : State), TileKept c tl s (l.foldl f s)
  | [], s => refl c tl s
  | a :: l, s => (h s a).trans (foldl h l _)

theorem modBlock (s : State) (c tl d f b : Nat) (g : Block8 → Block8) : TileKept c tl s (s.modBlock c d f b g) := by
  refine ⟨rfl, ?_, fun sl => ?_⟩
  · rw [State.tile, State.modBlock, State.chan_modChan_same]
    rfl
  · exact congrArg Slot.outs (State.slot_modChan s c c sl (fun k =>
      { k with arr := { k.arr with blocks := smod {} k.arr.blocks ((16 * d + f) * 8 + b) g } }) fun _ => rfl)

theorem addMI (s : State) (c tl d f : Nat) (l : List (Int × Nat)) : TileKept c tl s (s.addMI c d f l) := by
  unfold State.addMI
  exact foldl (fun u (e : (Int × Nat) × Nat) => modBlock u c tl d f e.2 _) _ s

theorem used (s : State) (c tl sl : Nat) (x : Use) : TileKept c tl s (s.used c sl x) := by
  refine ⟨rfl, ?_, fun m => ?_⟩
  · rw [State.tile, State.used, State.chan_modSlot_rest]
    rfl
  · rw [State.used, State.slot_modSlot]
    split
    · next h => rw [h.2]
    · rfl

theorem countReq (s : State) (c tl : Nat) (q : Req) (code n : Nat) : TileKept c tl s (s.countReq c q code n) := by
  unfold State.countReq
  split
  · split
    · exact counts (State.countBy_only s c code n _ _)
    · exact counts (State.countN_only s c code n none)
  · exact counts (State.countN_only s c code n none)

/-- An MVM's instruction is still outstanding. -/
theorem reqAlive (h : TileKept c tl s t) {q : Req} {sl seq hd : Nat} (hq : q.why = .work sl seq hd) : t.reqAlive c q = s.reqAlive c q := by
  unfold State.reqAlive
  rw [hq]
  dsimp only
  rw [Slot.out?, h.outs]
  rfl

end TileKept

/-- A block without an excursion passes its monitor (R177). -/
theorem State.monitorBlock_sound {s : State} {c t f b : Nat} {q : Req} {sums : List (BitVec 32)}
    (h : ∀ v ∈ (sums.drop (128 * b)).take 128, aboveEnvelope v ((s.facet c t f).env.getD b 15) 4 (fullScale q.codes) = false) :
    s.monitorBlock c t f q sums b = (s, false) := by
  unfold State.monitorBlock
  dsimp only
  rw [List.filter_eq_nil_iff.2 fun v hv => by rw [h v hv]; exact Bool.false_ne_true, List.length_nil, if_pos rfl]

theorem State.monitor_sound {s : State} {c t f : Nat} {q : Req} {sums : List (BitVec 32)}
    (h : ∀ b, b < 8 → ∀ v ∈ (sums.drop (128 * b)).take 128, aboveEnvelope v ((s.facet c t f).env.getD b 15) 4 (fullScale q.codes) = false) :
    s.monitor c t f q sums = (s, false) := by
  have hl : ∀ l : List Nat, (∀ b ∈ l, b < 8) → l.foldl (fun (a : State × Bool) b =>
      ((a.1.monitorBlock c t f q sums b).1, a.2 || (a.1.monitorBlock c t f q sums b).2)) (s, false) = (s, false) := by
    intro l
    induction l with
    | nil => exact fun _ => rfl
    | cons b l ih =>
      intro hb
      rw [List.foldl_cons, State.monitorBlock_sound (h b (hb b List.mem_cons_self))]
      exact ih fun x hx => hb x (List.mem_cons_of_mem _ hx)
  exact hl (List.range 8) fun b hb => List.mem_range.1 hb

theorem State.tile_modTile_same (s : State) (c n : Nat) (f : Tile → Tile) : (s.modTile c n f).tile c n = f (s.tile c n) :=
  (State.tile_modTile s c n c n f).trans (if_pos ⟨rfl, rfl⟩)

theorem State.slot_modTile (s : State) (c n d m : Nat) (f : Tile → Tile) : (s.modTile c n f).slot d m = s.slot d m :=
  State.slot_modChan s c d m (fun k => k.setTile n (f (k.tile n))) fun _ => rfl

theorem State.resumePv_none {s : State} {c tl : Nat} (h : (s.tile c tl).pv = none) : s.resumePv c tl = s := by
  unfold State.resumePv
  dsimp only
  rw [h]

end Sys2Proof.Machine
end

section
/-! Family 04_accumulation: an MVM's sums in their bank, and the bank's drain (R77, R78, R80, R84, R85). -/

namespace Sys2Proof.Claims

open Sys2Proof.Machine

/-- The tile of an ended MVM: idle, the sums in the bank they were computed into. -/
def holdSums (r : Run) (sums : List (BitVec 32)) (now : Nat) (x : Tile) : Tile :=
  if r.bank = 0 then { x.setBank r.bank (.full r.req false) with sums0 := sums, since0 := now }
  else { x.setBank r.bank (.full r.req false) with sums1 := sums, since1 := now }

/-- The tile of an ended MVM that computes no more. -/
def endRun (x : Tile) : Tile := { x with st := .idle, run := none }

theorem homeOf_work {s : State} {c sl seq h : Nat} {q : Req} (hw : q.why = .work sl seq h) : s.homeOf c q = some (c, sl) := by
  unfold State.homeOf
  rw [hw]

/-- The tile with its sums keeps its DACs and its programming. -/
theorem holdSums_keeps (r : Run) (sums : List (BitVec 32)) (now : Nat) (x : Tile) : (holdSums r sums now (endRun x)).pv = x.pv ∧
    (holdSums r sums now (endRun x)).dacsSound = x.dacsSound ∧ (holdSums r sums now (endRun x)).st = .idle ∧
    (holdSums r sums now (endRun x)).run = none := by
  unfold holdSums Tile.setBank
  split <;> exact ⟨rfl, rfl, rfl, rfl⟩

/-- The bank that a run computed into holds its sums. -/
theorem holdSums_bank (r : Run) (sums : List (BitVec 32)) (now : Nat) (x : Tile) :
    if r.bank = 0 then (holdSums r sums now x).bank0 = .full r.req false ∧ (holdSums r sums now x).sums0 = sums
    else (holdSums r sums now x).bank1 = .full r.req false ∧ (holdSums r sums now x).sums1 = sums := by
  unfold holdSums Tile.setBank
  split <;> exact ⟨rfl, rfl⟩

section

variable {s u : State} {c tl sl seq h : Nat} {err : List ConvErr} {r : Run} {o : MvmOut} (hk : TileKept c tl s u)
  (hpv : (s.tile c tl).pv = none) (hw : r.req.why = .work sl seq h) (h54 : bit r.req.word 54 = true) (hr : r.req.r < 2)
  (hd : r.req.discard = false) (ha : s.reqAlive c r.req = true) (hsound : (s.tile c tl).dacsSound = true)
  (ho : o = runMvm ((s.chan c).arr.readCodes tl r.facet) (sget {} s.store.live.chans c).remap tl r.facet r.req.codes r.req.w r.req.p r.req.r r.gains err)
  (hsat : o.satLanes = 0)
  (henv : ∀ b, b < 8 → ∀ v ∈ (o.sums.drop (128 * b)).take 128, aboveEnvelope v ((s.facet c tl r.facet).env.getD b 15) 4 (fullScale r.req.codes) = false)

include hk hr henv in
/-- R177: nothing is judged a failure. -/
theorem judge_sound : (u.modTile c tl endRun).judge c tl r.facet r.req o.sums = (u.modTile c tl endRun, false, false) := by
  have hf : (u.modTile c tl endRun).facet c tl r.facet = s.facet c tl r.facet := by
    refine (show _ = u.facet c tl r.facet from rfl).trans ?_
    rw [hk.rest]
    rfl
  unfold State.judge
  rw [decide_eq_true hr, Bool.true_or, if_pos rfl, State.monitor_sound (by rw [hf]; exact henv)]

include hk hw h54 hd ha in
/-- R78: the bank holds the sums for the group's drain. -/
theorem bankResult_holds : (u.modTile c tl endRun).bankResult c tl r (o.sums ++ o.checks) false =
    (u.modTile c tl endRun).modTile c tl (holdSums r (o.sums ++ o.checks) s.nowNs) := by
  have hal : (u.modTile c tl endRun).reqAlive c r.req = true := by
    rw [← ha, ← hk.reqAlive hw]
    unfold State.reqAlive
    rw [hw]
    dsimp only
    rw [State.slot_modTile]
  have hnow : (u.modTile c tl endRun).nowNs = s.nowNs := by
    refine (show _ = u.nowNs from rfl).trans ?_
    rw [hk.rest]
    rfl
  unfold State.bankResult
  dsimp only
  rw [hal, hd, hw, h54, hnow]
  rfl

include hpv hw h54 hr hd ha hsound ho hsat henv in
omit hk in
/-- R77, R78: an MVM without saturation or excursion leaves its sums in its bank, and its tile idle. -/
theorem mvmEnd_holds : ∃ u, TileKept c tl s u ∧
    s.mvmEnd c tl r err false = (u.modTile c tl endRun).modTile c tl (holdSums r (o.sums ++ o.checks) s.nowNs) := by
  unfold State.mvmEnd
  extract_lets q facet out sat s1 s2 s3 s4 isRef s5 s6 s7 s8 m s9 s10 s11 s12 s13 s14
  have hout : out = o := ho.symm
  have hns : sat = false := decide_eq_false (by rw [hout, hsat]; exact Nat.lt_irrefl 0)
  have hnr : isRef = false := by simp only [isRef, q, hw]
  have hk5 : TileKept c tl s s5 := ((((TileKept.countReq s c tl _ _ _).trans (.countReq _ c tl _ _ _)).trans (.countReq _ c tl _ _ _)).trans
    (.countReq _ c tl _ _ _)).trans (.addMI _ c tl tl _ _)
  have h6 : s6 = s5.used c sl { tile := mvmNs q.codes q.w } := by
    simp only [s6]
    rw [homeOf_work (q := q) hw]
    exact if_pos ((hk5.reqAlive hw).trans ha)
  have h7 : s7 = s6 := by
    simp only [s7, State.noteSat, hns]
    rfl
  have hk7 : TileKept c tl s s7 := by
    rw [h7, h6]
    exact hk5.trans (.used _ c tl sl _)
  have hm : m = (s7.modTile c tl endRun, false, false) := by
    simp only [m, hout]
    exact judge_sound hk7 hr henv
  have h9 : s9 = (s7.modTile c tl endRun).modTile c tl (holdSums r (o.sums ++ o.checks) s.nowNs) := by
    simp only [s9, hm, hout, hns]
    exact bankResult_holds hk7 hw h54 hd ha
  have htile : s9.tile c tl = holdSums r (o.sums ++ o.checks) s.nowNs (endRun (s.tile c tl)) := by
    rw [h9, State.tile_modTile_same, State.tile_modTile_same, hk7.tile]
  obtain ⟨hp, hdac, -, -⟩ := holdSums_keeps r (o.sums ++ o.checks) s.nowNs (s.tile c tl)
  have h10 : s10 = s9 := State.resumePv_none (by rw [htile, hp, hpv])
  have h14 : s14 = s9 := by
    simp only [s14, s13, s12, s11, hm, hns, hnr, h10, Bool.false_eq_true, if_false]
  refine ⟨s7, hk7, ?_⟩
  rw [h14, htile, hdac, hsound, h9]
  rfl

end

/-- R77, R78: the end of an MVM of a group. -/
theorem mvmComplete_holds {s : State} {c tl : Nat} {err : List ConvErr} {r : Run} {sl seq h : Nat} {o : MvmOut} (hf : s.fitted c = true)
    (hst : (s.tile c tl).st = .computing) (hrun : (s.tile c tl).run = some r) (hpv : (s.tile c tl).pv = none) (hw : r.req.why = .work sl seq h)
    (h54 : bit r.req.word 54 = true) (hr : r.req.r < 2) (hd : r.req.discard = false) (ha : s.reqAlive c r.req = true)
    (hsound : (s.tile c tl).dacsSound = true)
    (ho : o = runMvm ((s.chan c).arr.readCodes tl r.facet) (sget {} s.store.live.chans c).remap tl r.facet r.req.codes r.req.w r.req.p r.req.r r.gains err)
    (hsat : o.satLanes = 0) (henv : ∀ b, b < 8 → ∀ v ∈ (o.sums.drop (128 * b)).take 128,
      aboveEnvelope v ((s.facet c tl r.facet).env.getD b 15) 4 (fullScale r.req.codes) = false) :
    ∃ t, exec (.mvmComplete c tl err false) s = .next t ∧ t = { s with chans := t.chans } ∧ (t.tile c tl).st = .idle ∧ (t.tile c tl).run = none ∧
      (if r.bank = 0 then (t.tile c tl).bank0 = .full r.req false ∧ (t.tile c tl).sums0 = o.sums ++ o.checks
       else (t.tile c tl).bank1 = .full r.req false ∧ (t.tile c tl).sums1 = o.sums ++ o.checks) := by
  obtain ⟨u, hk, he⟩ := mvmEnd_holds hpv hw h54 hr hd ha hsound ho hsat henv
  refine ⟨(u.modTile c tl endRun).modTile c tl (holdSums r (o.sums ++ o.checks) s.nowNs), ?_, State.chans_only_trans hk.rest rfl, ?_⟩
  · rw [show exec (.mvmComplete c tl err false) s = execMvmComplete c tl err false s from rfl, execMvmComplete]
    rw [hrun]
    dsimp only
    rw [he]
    exact onlyIf_true (by rw [hf, hst]; rfl)
  · obtain ⟨-, -, hidle, hnone⟩ := holdSums_keeps r (o.sums ++ o.checks) s.nowNs (u.tile c tl)
    rw [State.tile_modTile_same, State.tile_modTile_same]
    exact ⟨hidle, hnone, holdSums_bank _ _ _ _⟩

/-- A channel whose generator has advanced for a contribution. -/
def advanced (k : Chan) : Chan := { k with seqr := { k.seqr with rng := advance64 (k.seqr.rngNext.getD k.seqr.rng), rngNext := none } }

theorem contribute_chan (s : State) (c i : Nat) (l : List (BitVec 32)) : (s.contribute c i l).chan c =
    (advanced (s.chan c)).setGroup i (((s.chan c).group i).addTo (advanced (s.chan c)).seqr.rng l) := by
  unfold State.contribute
  rw [State.chan_modChan_same, State.advanceRng, State.chan_modChan_same]
  rfl

/-- A drain of bank 0 into group `i` (R80). -/
def drained (s : State) (c tl sl seq h i : Nat) : State :=
  (((s.contribute c i ((s.tile c tl).sums0.take bankLanes)).modTile c tl (fun x => x.freeBank 0)).delivered c sl seq h).modSlot c sl
    (fun x => x.setHandle h { x.handle h with drained := (x.handle h).drained + 1 })

theorem drained_chan (s : State) (c tl sl seq h i : Nat) : ((drained s c tl sl seq h i).chan c).arr =
      ((((s.contribute c i ((s.tile c tl).sums0.take bankLanes)).chan c).setTile tl
        (((s.contribute c i ((s.tile c tl).sums0.take bankLanes)).tile c tl).freeBank 0))).arr ∧
    ((drained s c tl sl seq h i).chan c).seqr.groups = ((s.contribute c i ((s.tile c tl).sums0.take bankLanes)).chan c).seqr.groups ∧
    ((drained s c tl sl seq h i).chan c).seqr.rng = ((s.contribute c i ((s.tile c tl).sums0.take bankLanes)).chan c).seqr.rng := by
  unfold drained State.delivered State.modOut
  rw [State.chan_modSlot_rest, State.chan_modSlot_rest, State.chan_modSlot_rest, State.chan_modTile_same]
  exact ⟨rfl, rfl, rfl⟩

theorem drained_rest (s : State) (c tl sl seq h i : Nat) : drained s c tl sl seq h i = { s with chans := (drained s c tl sl seq h i).chans } := by
  have h1 : s.contribute c i ((s.tile c tl).sums0.take bankLanes) = { s with
      chans := (s.contribute c i ((s.tile c tl).sums0.take bankLanes)).chans } := rfl
  unfold drained
  generalize s.contribute c i ((s.tile c tl).sums0.take bankLanes) = u at h1 ⊢
  exact State.chans_only_trans h1 rfl

theorem drained_handle (s : State) (c tl sl seq h i : Nat) :
    (((drained s c tl sl seq h i).slot c sl).handle h).drained = ((s.slot c sl).handle h).drained + 1 := by
  have hs : ((s.contribute c i ((s.tile c tl).sums0.take bankLanes)).modTile c tl (fun x => x.freeBank 0)).slot c sl = s.slot c sl := by
    rw [State.slot_modTile, State.slot, contribute_chan]
    rfl
  have hin : ((((s.contribute c i ((s.tile c tl).sums0.take bankLanes)).modTile c tl (fun x => x.freeBank 0)).delivered c sl seq h).slot c sl).handle h =
      { (s.slot c sl).handle h with waiting := ((s.slot c sl).handle h).waiting - 1 } := by
    rw [State.delivered, State.slot_modSlot_same, Slot.handle_setHandle, if_pos rfl, State.modOut, State.slot_modSlot_same, hs]
    rfl
  rw [drained, State.slot_modSlot_same, Slot.handle_setHandle, if_pos rfl, hin]

/-- R80, R84, R85: a full bank drains into its handle's group with the next draw. -/
theorem bankDrain_drains {s : State} {c tl sl seq h i : Nat} {q : Req} {sat : Bool} (hb : (s.tile c tl).bank0 = .full q sat)
    (hw : q.why = .work sl seq h) (h54 : bit q.word 54 = true) (ha : s.reqAlive c q = true) (ht : s.drainTurn c tl 0 q = true)
    (hi : ((s.slot c sl).handle h).phys = some i) (hd : ((s.slot c sl).handle h).drained < s.depthOf c sl) :
    exec (.bankDrain c tl 0) s = .next (drained s c tl sl seq h i) := by
  have hdrain : s.drainWork c tl 0 sl seq h = drained s c tl sl seq h i := by
    unfold State.drainWork
    dsimp only
    rw [hi]
    dsimp only
    rw [if_neg (Nat.not_le.2 hd), if_pos rfl]
    rfl
  rw [show exec (.bankDrain c tl 0) s = execBankDrain c tl 0 s from rfl, execBankDrain]
  rw [if_pos rfl, hb]
  dsimp only
  rw [hw]
  dsimp only
  rw [hdrain]
  exact onlyIf_true (by rw [h54, ha, ht]; rfl)

/-- Settles O50: the sums in their bank, and the bank's drain. -/
theorem banksHoldAndDrainTheirSums : Obligations.BanksHoldAndDrainTheirSums := by
  refine ⟨?_, ?_⟩
  · intro s c tl err r sl seq h o hf hst hrun hpv hw h54 hr hd ha hsound ho hsat henv
    exact mvmComplete_holds hf hst hrun hpv hw h54 hr hd ha hsound ho hsat henv
  · intro s c tl sl seq h i q sat hb hw h54 ha ht hi hd
    obtain ⟨harr, hgroups, hrng⟩ := drained_chan s c tl sl seq h i
    rw [contribute_chan] at hrng hgroups
    refine ⟨_, bankDrain_drains hb hw h54 ha ht hi hd, drained_rest s c tl sl seq h i, ?_, hrng, ?_, drained_handle s c tl sl seq h i⟩
    · have htile : (drained s c tl sl seq h i).tile c tl = ((s.contribute c i ((s.tile c tl).sums0.take bankLanes)).tile c tl).freeBank 0 := by
        rw [State.tile, Chan.tile, harr]
        exact (Chan.tile_setTile _ tl tl _).trans (if_pos rfl)
      rw [htile]
      rfl
    · rw [hrng, Chan.group, hgroups]
      exact (sget_sput ({} : Group) _ _ i i).trans (if_pos rfl)

end Sys2Proof.Claims
end

section
/-! SUPPORT. A tile's arbiter: which request it takes, and what a grant leaves of its tile (R60, R78). -/

namespace Sys2Proof.Machine

theorem mem_insertFirst {α : Type} (le : α → α → Bool) (a x : α) : ∀ l : List α, x ∈ sortBy.insertFirst le a l ↔ x = a ∨ x ∈ l
  | [] => by simp [sortBy.insertFirst]
  | b :: l => by
    unfold sortBy.insertFirst
    split
    · exact List.mem_cons
    · rw [List.mem_cons, mem_insertFirst le a x l, List.mem_cons]
      exact or_left_comm

theorem mem_sortBy {α : Type} (le : α → α → Bool) (x : α) : ∀ l : List α, x ∈ sortBy le l ↔ x ∈ l
  | [] => Iff.rfl
  | a :: l => by rw [sortBy, mem_insertFirst, mem_sortBy le x l, List.mem_cons]

/-- Of some requests there is an oldest, one of them. -/
theorem oldestReq_mem {l : List Req} (h : l ≠ []) : ∃ r ∈ l, oldestReq l = some r := by
  obtain ⟨a, ha⟩ := List.exists_mem_of_ne_nil l h
  cases hs : sortBy Req.before l with
  | nil =>
    rw [← mem_sortBy Req.before, hs] at ha
    cases ha
  | cons r rest =>
    refine ⟨r, (mem_sortBy Req.before r l).1 (by rw [hs]; exact List.mem_cons_self), ?_⟩
    rw [oldestReq, hs]
    rfl

section

variable {k : Chan} {ok : Req → Bool} {tl : Nat} (href : (k.tile tl).wantRef = false) (hchk : (k.tile tl).wantCheck = [])
  (hok : ∀ r ∈ (k.tile tl).queue, ok r = true)

/-- Of a tile's requests those for the facet it holds, and the others. -/
def Chan.requestsFor (k : Chan) (tl : Nat) (held : Bool) : List Req :=
  (k.tile tl).queue.filter (fun r => (k.physOf tl r.lfacet == (k.tile tl).held) == held)

/-- The grant of a waiting request. -/
def Chan.grantTo (k : Chan) (tl : Nat) (r : Req) : Grant :=
  { req := r, phys := k.physOf tl r.lfacet
    tile := { k.tile tl with queue := (k.tile tl).queue.filter (fun q => q.id ≠ r.id)
                             served := if (k.requestsFor tl false).isEmpty then 0 else (k.tile tl).served + 1 } }

include href hchk hok

/-- With no reference MVM and no check owed the arbiter picks by R60. -/
theorem Chan.grantOf_requests : k.grantOf ok tl =
    (if (k.requestsFor tl true).isEmpty || (!(k.requestsFor tl false).isEmpty && decide (servedLimit ≤ (k.tile tl).served)) then
      oldestReq (k.requestsFor tl false) else oldestReq (k.requestsFor tl true)).map (k.grantTo tl) := by
  have hall : (k.tile tl).queue.filter ok = (k.tile tl).queue := List.filter_eq_self.2 hok
  have hmine : (k.tile tl).queue.filter (fun r => k.physOf tl r.lfacet == (k.tile tl).held) = k.requestsFor tl true :=
    List.filter_congr fun r _ => (beq_true _).symm
  have hothers : (k.tile tl).queue.filter (fun r => k.physOf tl r.lfacet != (k.tile tl).held) = k.requestsFor tl false :=
    List.filter_congr fun r _ => (beq_false _).symm
  unfold Chan.grantOf
  dsimp only
  rw [href, if_neg Bool.false_ne_true, hchk]
  dsimp only
  rw [hall, hmine, hothers]
  unfold Chan.grantTo
  dsimp only
  rw [href, hchk]

/-- A request of the facet held is served while fewer than 16 were served in a row or none waits for another. -/
theorem Chan.grantOf_held (hm : ∃ r ∈ (k.tile tl).queue, k.physOf tl r.lfacet = (k.tile tl).held)
    (hs : (k.tile tl).served < 16 ∨ ∀ r ∈ (k.tile tl).queue, k.physOf tl r.lfacet = (k.tile tl).held) :
    ∃ r ∈ (k.tile tl).queue, k.physOf tl r.lfacet = (k.tile tl).held ∧ k.grantOf ok tl = some (k.grantTo tl r) := by
  obtain ⟨a, ha, hp⟩ := hm
  have hne : k.requestsFor tl true ≠ [] := List.ne_nil_of_mem (List.mem_filter.2 ⟨ha, by rw [beq_iff_eq.2 hp]; rfl⟩)
  have hpick : ((k.requestsFor tl true).isEmpty || (!(k.requestsFor tl false).isEmpty && decide (servedLimit ≤ (k.tile tl).served))) = false := by
    rw [List.isEmpty_eq_false_iff.2 hne, Bool.false_or]
    rcases hs with hlt | hall
    · rw [decide_eq_false (show ¬ servedLimit ≤ (k.tile tl).served from Nat.not_le.2 hlt), Bool.and_false]
    · have hnil : k.requestsFor tl false = [] := List.filter_eq_nil_iff.2 fun r hr => by rw [beq_iff_eq.2 (hall r hr)]; decide
      rw [hnil]
      rfl
  obtain ⟨r, hr, ho⟩ := oldestReq_mem hne
  obtain ⟨hq, hf⟩ := List.mem_filter.1 hr
  refine ⟨r, hq, beq_iff_eq.1 ((beq_true _).symm.trans hf), ?_⟩
  rw [Chan.grantOf_requests href hchk hok, hpick, if_neg Bool.false_ne_true, ho]
  rfl

/-- With requests for other facets only, one of those is granted. -/
theorem Chan.grantOf_other (hne : (k.tile tl).queue ≠ []) (hall : ∀ r ∈ (k.tile tl).queue, k.physOf tl r.lfacet ≠ (k.tile tl).held) :
    ∃ r ∈ (k.tile tl).queue, k.grantOf ok tl = some (k.grantTo tl r) := by
  have hnil : k.requestsFor tl true = [] := List.filter_eq_nil_iff.2 fun r hr => by rw [beq_eq_false_iff_ne.2 (hall r hr)]; decide
  have hothers : k.requestsFor tl false = (k.tile tl).queue :=
    List.filter_eq_self.2 fun r hr => by rw [beq_eq_false_iff_ne.2 (hall r hr)]; rfl
  obtain ⟨r, hr, ho⟩ := oldestReq_mem hne
  refine ⟨r, hr, ?_⟩
  rw [Chan.grantOf_requests href hchk hok, hnil, hothers, ho]
  rfl

end

theorem State.tile_modSlot (s : State) (c n : Nat) (f : Slot → Slot) (d m : Nat) : (s.modSlot c n f).tile d m = s.tile d m := by
  rw [State.tile, State.chan_modSlot_rest]
  rfl

/-- What a grant notes in its inference leaves every tile (R105, R173, R189). -/
theorem State.noteGrant_tile (s : State) (c t phys : Nat) (r : Req) (d m : Nat) : (s.noteGrant c t phys r).tile d m = s.tile d m := by
  have hf : (s.noteFacet c t phys r).tile d m = s.tile d m := by
    unfold State.noteFacet
    split
    · exact State.tile_modSlot _ _ _ _ _ _
    · rfl
  unfold State.noteGrant
  dsimp only
  split
  · rfl
  · split
    · exact (State.tile_modSlot _ _ _ _ _ _).trans hf
    · exact hf

/-- The tile of an MVM that has begun. -/
def Grant.start (g : Grant) (lastBank : Nat) (run : Run) (dac : Dac) (now : Int) : Tile :=
  { g.tile.setBank (if lastBank = 0 then 1 else 0) .filling with
    st := .computing, run := some run, lastBank := if lastBank = 0 then 1 else 0, dacRef := dac, refT := some now }

/-- A grant's MVM: it runs on the facet held, into the bank not filled last (R78). -/
theorem State.beginMvm_tile (s : State) (c t : Nat) (g : Grant) : ∃ run dac now, (s.beginMvm c t g).tile c t = g.start (s.tile c t).lastBank run dac now ∧
    run.req.id = g.req.id ∧ run.facet = g.phys := by
  unfold State.beginMvm
  extract_lets x b now ref moved code step codes req run filling s1 s2 s3 s4
  have h1 : s1.tile c t = g.start x.lastBank run (if moved then .of code else x.dacRef) now := State.tile_modTile_same _ _ _ _
  have h2 : s2.tile c t = s1.tile c t := (State.countN_only s1 c 0x08 _ none).tile c t
  have h3 : s3.tile c t = s2.tile c t := by
    simp only [s3]
    split
    · exact (TileKept.countReq s2 c t _ _ _).tile
    · rfl
  have h4 : s4.tile c t = s3.tile c t := (TileKept.countReq s3 c t _ _ _).tile
  exact ⟨run, _, now, (State.noteGrant_tile _ _ _ _ _ _ _).trans (h4.trans (h3.trans (h2.trans h1))), rfl, rfl⟩

theorem Grant.start_fields (g : Grant) (lastBank : Nat) (run : Run) (dac : Dac) (now : Int) : (g.start lastBank run dac now).st = .computing ∧
    (g.start lastBank run dac now).run = some run ∧ (g.start lastBank run dac now).queue = g.tile.queue ∧
    (g.start lastBank run dac now).lastBank = if lastBank = 0 then 1 else 0 := by
  have hq : ∀ b v, (g.tile.setBank b v).queue = g.tile.queue := fun b v => by
    unfold Tile.setBank
    split <;> rfl
  exact ⟨rfl, rfl, hq _ _, rfl⟩

/-- A switch that begins changes its tile's state alone (R59). -/
theorem State.beginSwitch_tile (s : State) (c t f : Nat) (charged : Bool) :
    (s.beginSwitch c t f charged).tile c t = { s.tile c t with st := .switching f } := by
  have hc := State.countN_only (s.modTile c t (fun x => { x with st := .switching f })) c 0x05 1 none
  have hs : ((s.modTile c t (fun x => { x with st := .switching f })).count c 0x05).tile c t = { s.tile c t with st := .switching f } :=
    (hc.tile c t).trans (State.tile_modTile_same _ _ _ _)
  unfold State.beginSwitch
  dsimp only
  split
  · rw [State.tile, State.chan_modChan_same]
    exact hs
  · exact hs

end Sys2Proof.Machine
end

section
/-! Family 03_analogue_arrays: a tile's service of its requests, and its switches (R58 to R61, R69, R78). -/

namespace Sys2Proof.Claims

open Sys2Proof.Machine

section

variable {s : State} {c tl : Nat} (hf : s.fitted c = true) (hn : s.failed = false)

include hf hn

section

variable (hst : (s.tile c tl).st = .idle) (href : (s.tile c tl).wantRef = false) (hchk : (s.tile c tl).wantCheck = [])
  (hok : ∀ r ∈ (s.tile c tl).queue, s.codesReady c r = true)

include hst href hchk hok

/-- R60, R78: a request of the facet held begins its MVM. -/
theorem tileGrant_serves (hb : (s.tile c tl).nextBank = .free) (hl : (s.chan c).computing < s.tileLimit c)
    (hm : ∃ r ∈ (s.tile c tl).queue, (s.chan c).physOf tl r.lfacet = (s.tile c tl).held)
    (hs : (s.tile c tl).served < 16 ∨ ∀ r ∈ (s.tile c tl).queue, (s.chan c).physOf tl r.lfacet = (s.tile c tl).held) :
    ∃ t r run, exec (.tileGrant c tl) s = .next t ∧ r ∈ (s.tile c tl).queue ∧ (s.chan c).physOf tl r.lfacet = (s.tile c tl).held ∧
      (t.tile c tl).st = .computing ∧ (t.tile c tl).run = some run ∧ run.req.id = r.id ∧ run.facet = (s.tile c tl).held ∧
      (t.tile c tl).queue = (s.tile c tl).queue.filter (fun q => q.id ≠ r.id) ∧
      (t.tile c tl).lastBank = (if (s.tile c tl).lastBank = 0 then 1 else 0) := by
  obtain ⟨r, hr, hp, hg⟩ := Chan.grantOf_held (k := s.chan c) (tl := tl) (ok := s.codesReady c) href hchk hok hm hs
  obtain ⟨run, dac, now, ht, hid, hfac⟩ := State.beginMvm_tile s c tl ((s.chan c).grantTo tl r)
  obtain ⟨h1, h2, h3, h4⟩ := Grant.start_fields ((s.chan c).grantTo tl r) (s.tile c tl).lastBank run dac now
  refine ⟨s.beginMvm c tl ((s.chan c).grantTo tl r), r, run, ?_, hr, hp, ?_⟩
  · rw [show exec (.tileGrant c tl) s = execTileGrant c tl s from rfl, execTileGrant]
    rw [hg]
    dsimp only
    rw [if_pos (show ((s.chan c).grantTo tl r).phys = ((s.chan c).tile tl).held from hp)]
    refine onlyIf_true ?_
    rw [hf, hn, decide_eq_true hl, show ((s.chan c).tile tl).st = .idle from hst, show ((s.chan c).tile tl).nextBank = .free from hb]
    rfl
  · rw [ht]
    exact ⟨h1, h2, hid, hfac.trans hp, h3, h4⟩

/-- R59, R60: with requests for other facets only the tile begins to switch. -/
theorem tileGrant_switches (hne : (s.tile c tl).queue ≠ [])
    (hall : ∀ r ∈ (s.tile c tl).queue, (s.chan c).physOf tl r.lfacet ≠ (s.tile c tl).held) :
    ∃ t r, exec (.tileGrant c tl) s = .next t ∧ r ∈ (s.tile c tl).queue ∧
      t.tile c tl = { s.tile c tl with st := .switching ((s.chan c).physOf tl r.lfacet) } := by
  obtain ⟨r, hr, hg⟩ := Chan.grantOf_other (k := s.chan c) (tl := tl) (ok := s.codesReady c) href hchk hok hne hall
  refine ⟨s.beginSwitch c tl ((s.chan c).physOf tl r.lfacet) r.why.isWork, r, ?_, hr, State.beginSwitch_tile s c tl _ _⟩
  rw [show exec (.tileGrant c tl) s = execTileGrant c tl s from rfl, execTileGrant]
  rw [hg]
  dsimp only
  rw [if_neg (show ¬ ((s.chan c).grantTo tl r).phys = ((s.chan c).tile tl).held from hall r hr)]
  refine onlyIf_true ?_
  rw [hf, hn, show ((s.chan c).tile tl).st = .idle from hst]
  rfl

end

/-- R59, R69, R169: a switched tile holds its facet at that facet's read bias. -/
theorem facetSwitchDone_holds {f : Nat} (hst : (s.tile c tl).st = .switching f) (hpv : (s.tile c tl).pv = none) :
    ∃ t, exec (.facetSwitchDone c tl) s = .next t ∧ t = { s with chans := t.chans } ∧
      t.tile c tl = { s.tile c tl with st := .idle, held := f, served := 0, dacRead := .of ((s.trim c tl).read.getD f 0)
                                       wantRef := (s.tile c tl).wantRef || (s.chan c).arr.cold.contains (tl / 48) } := by
  rw [show exec (.facetSwitchDone c tl) s = execFacetSwitchDone c tl s from rfl, execFacetSwitchDone]
  dsimp only
  rw [hst]
  dsimp only
  rw [hn, Bool.not_false, Bool.and_true, State.resumePv_none (by rw [State.tile_modTile_same]; exact hpv)]
  exact ⟨_, onlyIf_true hf, rfl, State.tile_modTile_same _ _ _ _⟩

end

/-- Settles O49: the arbiter's three choices. -/
theorem tilesServeTheirRequests : Obligations.TilesServeTheirRequests := by
  intro s c tl hf hn
  refine ⟨fun hst href hchk hok => ⟨fun hb hl hm hs => tileGrant_serves hf hn hst href hchk hok hb hl hm hs,
    fun hne hall => tileGrant_switches hf hn hst href hchk hok hne hall⟩, fun f hst hpv => facetSwitchDone_holds hf hn hst hpv⟩

end Sys2Proof.Claims
end

section
/-! SUPPORT. Messages and expert requests on their way: what a request to a tile and a retired instruction leave (R60, R126, R158). -/

namespace Sys2Proof.Machine

/-- A retired instruction is gone from its slot; of the channel's messages and ports nothing changes. -/
theorem State.retire_sending (s : State) (c sl : Nat) (o : Outst) (d : Nat) : ((s.retire c sl o).chan d).seqr.sending = (s.chan d).seqr.sending ∧
    ((s.retire c sl o).chan d).seqr.ports = (s.chan d).seqr.ports := by
  have hs := State.sampleDone_only (s.dropOut c sl o.seq) c o.seq (s.nowNs - o.startedAt)
  have hd : ((s.retire c sl o).chan d).seqr = ((s.dropOut c sl o.seq).chan d).seqr := by
    rw [State.retire]
    by_cases h : d = c
    · rw [h, hs.own]
    · rw [hs.others d h]
  rw [hd, State.dropOut, State.chan_modSlot_rest]
  exact ⟨rfl, rfl⟩

/-- A request as its tile's queue holds it. -/
def Req.queued (r : Req) (id now : Nat) : Req := { r with id := id, asked := now }

/-- A request joins its tile's queue, and every list of its channel's sequencer stands. -/
theorem State.request_joins (s : State) (c t : Nat) (r : Req) :
    (s.request c t r).tile c t = { s.tile c t with queue := (s.tile c t).queue ++ [r.queued (s.chan c).arr.nextReq s.nowNs] } ∧
    ∀ d, ((s.request c t r).chan d).seqr = (s.chan d).seqr := by
  have hu : ∀ d, ((s.modChan c (fun k => { k with arr := { k.arr with nextReq := (s.chan c).arr.nextReq + 1 } })).chan d).seqr = (s.chan d).seqr := by
    intro d
    rw [State.chan_modChan]
    split
    · next h => rw [h]
    · rfl
  have ht : (s.modChan c (fun k => { k with arr := { k.arr with nextReq := (s.chan c).arr.nextReq + 1 } })).tile c t = s.tile c t := by
    rw [State.tile, State.chan_modChan_same]
    rfl
  unfold State.request
  dsimp only
  refine ⟨?_, fun d => ?_⟩
  · rw [State.tile_modTile_same, ht]
    rfl
  · rw [State.modTile, State.chan_modChan]
    split
    · next h =>
      rw [h]
      exact hu c
    · exact hu d

end Sys2Proof.Machine
end

section
/-! Family 01_architecture: messages and experts cross the chord (R14, R126, R147, R158). -/

namespace Sys2Proof.Claims

open Sys2Proof.Machine

/-- R158: a message that has crossed lands behind the others. -/
theorem xchMessage_lands {s : State} {c : Nat} {m : Sending} (hm : (s.chan c).seqr.sending.find? (fun x => x.slot == m.slot && x.seq == m.seq) = some m)
    (hr : m.remote = none) (hh : (s.chan m.dst).held = false) (hlen : (sget {} (s.chan m.dst).seqr.ports m.port).msgs.length < 4)
    (hroom : (s.chan m.dst).regionUsed + m.bytes.length ≤ 524288) (hw : (sget {} (s.chan m.dst).seqr.ports m.port).waiters = []) (hf : m.flits = 0) :
    ∃ t, exec (.xchMessageDelivered c m.slot m.seq) s = .next t ∧
      (t.chan c).seqr.sending = (s.chan c).seqr.sending.filter (fun x => !(x.slot == m.slot && x.seq == m.seq)) ∧
      sget {} (t.chan m.dst).seqr.ports m.port =
        { sget ({} : XPort) (s.chan m.dst).seqr.ports m.port with
          msgs := (sget ({} : XPort) (s.chan m.dst).seqr.ports m.port).msgs ++ [{ bytes := m.bytes }] } := by
  refine ⟨s.deliver c m, ?_, ?_⟩
  · rw [show exec (.xchMessageDelivered c m.slot m.seq) s = execXchMessageDelivered c m.slot m.seq s from rfl, execXchMessageDelivered, hm]
    dsimp only
    rw [hr, Option.isSome_none, if_neg Bool.false_ne_true, hh, if_neg Bool.false_ne_true]
    exact onlyIf_true (by rw [hf, Chan.portRoom, decide_eq_true ⟨hlen, hroom⟩]; rfl)
  · unfold State.deliver
    extract_lets s1 s2
    have h1 : (s1.chan c).seqr.sending = (s.chan c).seqr.sending.filter (fun x => !(x.slot == m.slot && x.seq == m.seq)) := by
      simp only [s1, State.chan_modChan_same]
    have h1p : ∀ d, (s1.chan d).seqr.ports = (s.chan d).seqr.ports := by
      intro d
      simp only [s1, State.chan_modChan]
      split
      · next h => rw [h]
      · rfl
    have h2 : (s2.chan c).seqr.sending = (s1.chan c).seqr.sending ∧ ∀ d, (s2.chan d).seqr.ports = (s1.chan d).seqr.ports := by
      simp only [s2]
      split
      · exact ⟨(State.retire_sending _ _ _ _ _).1, fun d => (State.retire_sending _ _ _ _ _).2⟩
      · exact ⟨rfl, fun _ => rfl⟩
    rw [hr]
    dsimp only
    have hport : sget {} ((s2.modPortX m.dst m.port (fun p => { p with msgs := p.msgs ++ [{ bytes := m.bytes }] })).chan m.dst).seqr.ports m.port =
        { sget ({} : XPort) (s.chan m.dst).seqr.ports m.port with
          msgs := (sget ({} : XPort) (s.chan m.dst).seqr.ports m.port).msgs ++ [{ bytes := m.bytes }] } := by
      rw [← h1p, ← h2.2]
      exact State.xport_modPortX s2 m.dst m.port _
    have hserve : (s2.modPortX m.dst m.port (fun p => { p with msgs := p.msgs ++ [{ bytes := m.bytes }] })).servePort m.dst m.port =
        s2.modPortX m.dst m.port (fun p => { p with msgs := p.msgs ++ [{ bytes := m.bytes }] }) := by
      unfold State.servePort
      rw [hport]
      dsimp only
      rw [hw]
    rw [hserve]
    refine ⟨?_, hport⟩
    rw [State.modPortX, State.chan_modChan]
    split
    · next h =>
      rw [← h]
      exact h2.1.trans h1
    · exact h2.1.trans h1

/-- The request of expert `e` as it is put to a tile that holds its part alone. -/
def expertReq (e : ExpReq) (l : Nat) : Req :=
  { why := .expert e.id, lfacet := l, word := e.word, codes := e.codes, r := 1, origin := 8 * e.slot + e.home }

/-- Expert `e` at its tile: its request keeps the part's column scale, and has one contribution to drain. -/
def partHeld (s : State) (c : Nat) (e : ExpReq) (col : List (BitVec 16)) : State :=
  s.modExp c e.id (fun e => { e with arrived := true, colScale := col, left := 1 })

/-- The same, its request in the tile's queue; a part that is not its set's last has its result with that. -/
def partQueued (s : State) (c : Nat) (e : ExpReq) (x l : Nat) (col : List (BitVec 16)) : State :=
  let u := (partHeld s c e col).request c x (expertReq e l)
  if e.grp && !e.last then u.modOut e.home e.slot e.seq (fun o => { o with ready := true }) else u

/-- R126, R147: the first part of its set on its way joins the queue of the tile that holds it. -/
theorem expertRequest_arrives {s : State} {c : Nat} {e : ExpReq} {x l l' : Nat} {col : List (BitVec 16)} (he : s.exp? c e.id = some e)
    (hp : e.peer = none) (hid : e.id < 2 ^ 48) (hd : e.dst = c) (ha : e.arrived = false) (hfl : e.flits = 0)
    (hfirst : (s.chan e.home).seqr.experts.find? (fun y => !y.arrived && y.sameSet e) = some e) (hf : s.fitted c = true)
    (hh : (s.chan c).held = false) (hr : Config.resident (s.chan c).tables.residents e.expert e.part = some (x, l, col))
    (hc : (s.chan c).copiesOf x l = [(x, l')]) :
    ∃ t r, exec (.expertRequestArrival c e.id) s = .next t ∧ (t.tile c x).queue = (s.tile c x).queue ++ [r] ∧ r.why = .expert e.id ∧
      r.lfacet = l' ∧ r.codes = e.codes ∧ r.word = e.word ∧ r.r = 1 ∧
      { e with arrived := true, colScale := col, left := 1 } ∈ (t.chan (e.id % 8)).seqr.experts := by
  have hkeep : keeper c e.id = e.id % 8 := if_pos hid
  have hmem : e ∈ (s.chan (e.id % 8)).seqr.experts := by
    rw [← hkeep]
    exact List.mem_of_find?_eq_some he
  have hlen : s.copyCount c x l = 1 := by rw [State.copyCount, hc]; rfl
  have harr : ((partHeld s c e col).chan c).arr = (s.chan c).arr := by
    simp only [partHeld, State.modExp, State.chan_modChan]
    split
    · next h => rw [← h]
    · rfl
  have hexp : { e with arrived := true, colScale := col, left := 1 } ∈ ((partHeld s c e col).chan (e.id % 8)).seqr.experts := by
    simp only [partHeld, State.modExp, hkeep, State.chan_modChan_same]
    exact List.mem_map.2 ⟨e, hmem, if_pos rfl⟩
  have hq : (partHeld s c e col).queueExpert c e x l = (partHeld s c e col).request c x (expertReq e l') := by
    have hcu : ((partHeld s c e col).chan c).copiesOf x l = [(x, l')] := by
      rw [Chan.copiesOf, harr]
      exact hc
    unfold State.queueExpert
    rw [hcu]
    rfl
  obtain ⟨hjoin, hseqr⟩ := State.request_joins (partHeld s c e col) c x (expertReq e l')
  have htile : (partHeld s c e col).tile c x = s.tile c x := by rw [State.tile, Chan.tile, harr]; rfl
  have hv : (partQueued s c e x l' col).tile c x = ((partHeld s c e col).request c x (expertReq e l')).tile c x ∧
      ((partQueued s c e x l' col).chan (e.id % 8)).seqr.experts =
        (((partHeld s c e col).request c x (expertReq e l')).chan (e.id % 8)).seqr.experts := by
    unfold partQueued
    dsimp only
    split
    · refine ⟨State.tile_modSlot _ _ _ _ _ _, ?_⟩
      rw [State.modOut, State.chan_modSlot_rest]
    · exact ⟨rfl, rfl⟩
  refine ⟨partQueued s c e x l' col, (expertReq e l').queued ((partHeld s c e col).chan c).arr.nextReq (partHeld s c e col).nowNs, ?_, ?_,
    rfl, rfl, rfl, rfl, rfl, ?_⟩
  · rw [show exec (.expertRequestArrival c e.id) s = execExpertRequestArrival c e.id s from rfl, execExpertRequestArrival, he]
    dsimp only
    rw [hh, if_neg Bool.false_ne_true, hr]
    dsimp only
    rw [hlen, show s.modExp c e.id (fun e => { e with arrived := true, colScale := col, left := 1 }) = partHeld s c e col from rfl, hq]
    refine onlyIf_true ?_
    rw [hp, decide_eq_true (show e.id < peerIds from hid), hd, ha, hfirst, hf, hfl]
    simp
  · rw [hv.1, hjoin, htile]
  · rw [hv.2, hseqr]
    exact hexp

/-- A reply in its handle, and its instruction with its result (R147). -/
theorem fillHandle_fills (s : State) (c : Nat) (e : ExpReq) (row : List (BitVec 16)) :
    (((s.fillHandle c e row).slot c e.slot).handle e.handle).rows = some [row.map (fun v => widen .bf16 v.toNat)] ∧
    ((s.fillHandle c e row).slot c e.slot).outs = (s.slot c e.slot).outs.map (fun o => if o.seq = e.seq then { o with ready := true } else o) ∧
    ((s.fillHandle c e row).chan c).seqr.experts = (s.chan c).seqr.experts.filter (fun x => !x.sameSet e) ∧
    s.fillHandle c e row = { s with chans := (s.fillHandle c e row).chans } := by
  unfold State.fillHandle
  extract_lets wide s1 s2
  have hslot : (s2.modChan c (fun k => { k with seqr := { k.seqr with experts := k.seqr.experts.filter (fun x => !x.sameSet e) } })).slot c e.slot =
      s2.slot c e.slot := State.slot_modChan s2 c c e.slot (fun k => { k with seqr := { k.seqr with
        experts := k.seqr.experts.filter (fun x => !x.sameSet e) } }) fun _ => rfl
  rw [hslot, State.chan_modChan_same]
  have h2 : s2.slot c e.slot = { s1.slot c e.slot with
      outs := (s1.slot c e.slot).outs.map (fun o => if o.seq = e.seq then { o with ready := true } else o) } := State.slot_modSlot_same _ _ _ _
  have h1 : s1.slot c e.slot = { ((s.slot c e.slot).setHandle e.handle { (s.slot c e.slot).handle e.handle with
      rows := some [wide], retained := some [wide], raw := wide }).flag e.flags with saturated := (s.slot c e.slot).saturated || e.saturated } :=
    State.slot_modSlot_same _ _ _ _
  have hx : (s2.chan c).seqr.experts = (s.chan c).seqr.experts := by
    simp only [s2, s1, State.modOut]
    rw [State.chan_modSlot_rest, State.chan_modSlot_rest]
  refine ⟨?_, ?_, by rw [hx], rfl⟩
  · rw [h2, h1]
    exact congrArg Handle.rows ((Slot.handle_setHandle _ _ _ _).trans (if_pos rfl))
  · rw [h2, h1]
    rfl

/-- R147: a reply fills the handle that waits for it. -/
theorem expertReply_fills {s : State} {c : Nat} {e : ExpReq} {row : List (BitVec 16)} (he : s.exp? c e.id = some e) (hr : e.reply = some row)
    (hc : e.home = c) (hp : e.peer = none) (hf : e.flits = 0) : exec (.expertReplyArrival c e.id) s = .next (s.fillHandle c e row) := by
  rw [show exec (.expertReplyArrival c e.id) s = execExpertReplyArrival c e.id s from rfl, execExpertReplyArrival, he]
  dsimp only
  rw [hr]
  exact onlyIf_true (by rw [hc, hp, hf]; simp)

/-- R14: a waiting control message has the chord's port. -/
theorem chordPort_serves {s : State} {c i : Nat} (h : nextInput (s.chan c).chord.ctl (fun n => (s.chan c).sync.ctlWaits n) = some i) :
    (∀ d, ((s.chordPort c).chan d).seqr = (s.chan d).seqr) ∧ ((s.chordPort c).chan c).sync = (s.chan c).sync.serve i ∧
    ((s.chordPort c).chan c).chord.ctl = i := by
  have he : s.chordPort c = s.modChan c (fun k => { k with sync := k.sync.serve i, chord := { k.chord with ctl := i } }) := by
    unfold State.chordPort
    dsimp only
    rw [h]
  rw [he]
  refine ⟨fun d => ?_, ?_⟩
  · rw [State.chan_modChan]
    split
    · next hd => rw [hd]
    · rfl
  · rw [State.chan_modChan_same]
    exact ⟨rfl, rfl⟩

/-- Settles O54: a message landed, a part at its tile, a reply in its handle, and control before exchange. -/
theorem messagesAndExpertsArrive : Obligations.MessagesAndExpertsArrive := by
  intro s c
  refine ⟨?_, ?_, ?_, fun i h => chordPort_serves h⟩
  · rintro m p hm hr rfl hh hlen hroom hw hf
    exact xchMessage_lands hm hr hh hlen hroom hw hf
  · intro e x l l' col he hp hid hd ha hfl hfirst hf hh hr hc
    exact expertRequest_arrives he hp hid hd ha hfl hfirst hf hh hr hc
  · intro e row he hr hc hp hf
    subst hc
    obtain ⟨h1, h2, h3, h4⟩ := fillHandle_fills s e.home e row
    exact ⟨_, expertReply_fills he hr rfl hp hf, h4, h1, h2, h3⟩

end Sys2Proof.Claims
end

section
/-! Family 12_host_queues: a peer's message to a port whose channel lists its ports out of order (R158, R266). -/

namespace Sys2Proof.Claims

open Sys2Proof.Machine

/-- A message that is accepted is heard (R266). -/
theorem arantIn_accepts {s : State} {n : Nat} {h : Hdr} {body : List Byte} (ha : Accepts s n h body) :
    s.arantIn n h body = ((s.modPeer n (fun p => { p with seqIn := (h.seq + 1) % 65536 })).hear n h.watermark, true) := by
  obtain ⟨-, -, hopen, hfail, hlay, hfaulty⟩ := ha
  have hf : (s.modPeer n (fun p => { p with seqIn := (h.seq + 1) % 65536 })).failed = false := hfail
  unfold State.arantIn
  dsimp only
  rw [hopen, hlay, hfaulty, hf]
  rfl

/-- An accepted exchange message goes to its port (R158). -/
theorem arantExchange_accepted {s : State} {n : Nat} {hdr : BitVec 256} {body : List Byte} (ha : Accepts s n (readHdr hdr) body)
    (ht : (readHdr hdr).typ = 1) (hf : s.fitted (readHdr hdr).dstChan = true) (hh : (s.chan (readHdr hdr).dstChan).held = false) :
    exec (.arantExchange n hdr body) s = .next ((((s.modPeer n (fun p => { p with seqIn := ((readHdr hdr).seq + 1) % 65536 })).hear n
      (readHdr hdr).watermark).owe n (readHdr hdr) false).portArrive (readHdr hdr).dstChan (readHdr hdr).port
        { bytes := body, peer := (readHdr hdr).unconfirmed n }) := by
  rw [show exec (.arantExchange n hdr body) s = execArantExchange n hdr body s from rfl, execArantExchange,
    arantIn_accepts ha]
  dsimp only
  rw [hf, hh, Bool.not_true, if_neg Bool.false_ne_true, Bool.or_false, if_neg Bool.false_ne_true, State.fromPeer, ha.2.1, if_pos rfl]
  exact onlyIf_true (by rw [ha.1, ht]; rfl)

/-- Fewer than 16 credits owed wait. -/
theorem owe_few {s : State} {n : Nat} (h : (s.peer n).owed.length < 15) (hd : Hdr) (bad : Bool) :
    s.owe n hd bad = s.modPeer n (fun p => { p with owed := p.owed ++ [(hd.dstChan, hd.seq, bad)] }) := by
  have hlen : ((s.modPeer n (fun p => { p with owed := p.owed ++ [(hd.dstChan, hd.seq, bad)] })).peer n).owed.length = (s.peer n).owed.length + 1 := by
    rw [State.peer_modPeer, if_pos rfl]
    exact List.length_append
  unfold State.owe
  dsimp only
  rw [hlen, decide_eq_false (by omega)]
  rfl

theorem hear_peer (s : State) (n wm : Nat) : (s.hear n wm).peer n = { s.peer n with heard := wm } := by
  have hall : ∀ (u : State) (f : Nat → Chan → Chan), (u.allChans f).peer n = u.peer n := fun u f => by
    rw [State.allChans_rest]
    rfl
  rw [State.hear, hall, State.peer_modPeer, if_pos rfl]

theorem hear_seqr (s : State) (n wm c : Nat) : ((s.hear n wm).chan c).seqr = (s.chan c).seqr := by
  rw [State.hear]
  rcases Nat.lt_or_ge c s.channels with h | h
  · rw [State.chan_allChans (s.modPeer n _) _ h]
    rfl
  · rw [State.chan_allChans_of_le (s.modPeer n _) _ h]
    rfl

/-! ### The counterexample -/

/-- The header of an exchange message of module 0 to port 3 of channel 0, without a body. -/
def emptyMessage : BitVec 256 := 0x1010000300000000000000000000000000000000000000000000000000000000#256

theorem readHdr_emptyMessage : readHdr emptyMessage = { ver := 16, typ := 1, port := 3 } := by decide

/-- The message as port 3 receives it. -/
def emptyMsg : Msg := { bytes := [], peer := (readHdr emptyMessage).unconfirmed 0 }

/-- A port that holds one message. -/
def heldPort (big : List Byte) : XPort := { msgs := [{ bytes := big }] }

/-- The ports of a channel, not in the order of their numbers: port 3, with one message, after port 5. -/
def portsAskew (big : List Byte) : Sparse XPort := [(5, {}), (3, heldPort big)]

/-- A module with its link up and its window to module 0 open, the ports of its channel 0 listed so. -/
def askew (big : List Byte) : State :=
  { pwr := { supply := .on, boot := .booted, link := some { gen := 6, width := 4 } }
    host := { peers := [(0, { st := .open, ver := 0x10 })] }
    chans := [(0, { seqr := { ports := portsAskew big } })] }

theorem askew_accepts (big : List Byte) : Accepts (askew big) 0 (readHdr emptyMessage) [] := by
  rw [readHdr_emptyMessage]
  exact ⟨rfl, rfl, rfl, rfl, rfl, rfl⟩

/-- That module once it has accepted the message, before this reaches its port. -/
def askewHeard (big : List Byte) : State :=
  (((askew big).modPeer 0 (fun p => { p with seqIn := ((readHdr emptyMessage).seq + 1) % 65536 })).hear 0 (readHdr emptyMessage).watermark).owe 0
    (readHdr emptyMessage) false

theorem arantExchange_askew (big : List Byte) : exec (.arantExchange 0 emptyMessage []) (askew big) = .next ((askewHeard big).portArrive 0 3 emptyMsg) := by
  have h0 : (readHdr emptyMessage).dstChan = 0 := by rw [readHdr_emptyMessage]
  have h3 : (readHdr emptyMessage).port = 3 := by rw [readHdr_emptyMessage]
  refine (arantExchange_accepted (askew_accepts big) (by rw [readHdr_emptyMessage]) (by rw [h0]; rfl) (by rw [h0]; rfl)).trans ?_
  rw [h0, h3]
  rfl

theorem askewHeard_ports (big : List Byte) : ((askewHeard big).chan 0).seqr.ports = portsAskew big := by
  have howed : ((((askew big).modPeer 0 (fun p => { p with seqIn := ((readHdr emptyMessage).seq + 1) % 65536 })).hear 0
      (readHdr emptyMessage).watermark).peer 0).owed = [] := by
    rw [hear_peer, State.peer_modPeer, if_pos rfl]
    rfl
  unfold askewHeard
  rw [owe_few (by rw [howed]; decide)]
  have hm : ∀ (u : State) (g : Peer → Peer), (u.modPeer 0 g).chan 0 = u.chan 0 := fun _ _ => rfl
  rw [hm, hear_seqr, hm]
  rfl

/-- Port 3 with the message waiting for a place in it. -/
def waitingPort (big : List Byte) : XPort := { msgs := [{ bytes := big }], inbound := [emptyMsg] }

/-- The message stands before the old entry of its port, whose bytes then count twice. -/
theorem ports_waiting (big : List Byte) : smod ({} : XPort) (portsAskew big) 3 (fun x => { x with inbound := x.inbound ++ [emptyMsg] }) =
    [(3, waitingPort big), (5, {}), (3, heldPort big)] := by
  have hne : waitingPort big ≠ {} := fun h => nomatch congrArg XPort.inbound h
  change sput {} (portsAskew big) 3 (waitingPort big) = _
  rw [sput, if_neg hne]
  rfl

/-- With more than half the region's bytes in it the port has no room. -/
theorem portArrive_askew {big : List Byte} (hb : 262144 < big.length) :
    sget {} (((askewHeard big).portArrive 0 3 emptyMsg).chan 0).seqr.ports 3 = waitingPort big := by
  have hports : (((askewHeard big).modPortX 0 3 (fun x => { x with inbound := x.inbound ++ [emptyMsg] })).chan 0).seqr.ports =
      [(3, waitingPort big), (5, {}), (3, heldPort big)] := by
    rw [State.modPortX, State.chan_modChan_same]
    dsimp only
    rw [askewHeard_ports, ports_waiting]
  unfold State.portArrive
  generalize (askewHeard big).modPortX 0 3 (fun x => { x with inbound := x.inbound ++ [emptyMsg] }) = u at hports ⊢
  have hroom : (u.chan 0).portRoom 3 emptyMsg.bytes.length = false := by
    have hused : (u.chan 0).regionUsed = 2 * big.length := by
      rw [Chan.regionUsed, hports]
      simp only [waitingPort, heldPort, List.map_cons, List.map_nil, List.sum_cons, List.sum_nil]
      omega
    rw [Chan.portRoom, hused]
    refine decide_eq_false fun h => ?_
    have := h.2
    unfold regionBytes at this
    omega
  have hadmit : u.admitInbound 0 = u := by
    rw [State.admitInbound_eq, hports]
    have hfirst : admitPort 0 u (3, waitingPort big) = u := if_neg (by rw [hroom]; exact Bool.false_ne_true)
    rw [List.foldl_cons, hfirst]
    rfl
  have hserve : u.servePort 0 3 = u := by
    unfold State.servePort
    rw [hports]
    rfl
  rw [hadmit, hserve, hports]
  rfl

theorem exists_length (n : Nat) : ∃ l : List Byte, l.length = n := ⟨List.replicate n 0, List.length_replicate⟩

/-- Refutes O56: where a channel's list of ports is not in the order of their numbers, a port's entry is written before its old one, and the
port's bytes count twice against the region. The message then waits though its port had room. -/
theorem not_peerMessagesAreTaken : ¬ Obligations.PeerMessagesAreTaken := by
  rintro ⟨h, -⟩
  have hh := readHdr_emptyMessage
  obtain ⟨big, hlen⟩ := exists_length 300000
  obtain ⟨-, hx, -⟩ := h (askew big) 0 emptyMessage [] (readHdr emptyMessage) rfl
  have hroom : ((askew big).chan 0).portRoom 3 0 = true := by
    refine decide_eq_true ⟨(show 1 < 4 by decide), ?_⟩
    have hused : ((askew big).chan 0).regionUsed = big.length := by
      simp [Chan.regionUsed, askew, State.chan, sget, portsAskew, heldPort]
    rw [hused]
    unfold regionBytes
    omega
  have hempty : ∀ e ∈ ((askew big).chan 0).seqr.ports, e.2.inbound = [] := by
    intro e he
    rcases List.mem_cons.1 he with rfl | he
    · rfl
    · rw [List.mem_singleton.1 he]
      rfl
  obtain ⟨t, ht, -, -, hport⟩ := hx (by rw [hh]) (askew_accepts big) (by rw [hh]; rfl) (by rw [hh]; rfl)
    (by rw [hh]; exact hempty) (heldPort big)
    (by rw [hh]; rfl) rfl rfl (by rw [hh]; exact hroom)
  have he : t = (askewHeard big).portArrive 0 3 emptyMsg := Host.Outcome.next.inj (ht.symm.trans (arantExchange_askew big))
  rw [he, show (readHdr emptyMessage).dstChan = 0 by rw [hh], show (readHdr emptyMessage).port = 3 by rw [hh], portArrive_askew (by omega)] at hport
  exact absurd (congrArg (fun p : XPort => p.msgs.length) hport) (show ¬ (1 : Nat) = 2 by decide)

end Sys2Proof.Claims
end

section
/-! SUPPORT. What a drain leaves of the integrity state (R294 to R297), and what a scan of the context records keeps. -/

namespace Sys2Proof.Machine

/-- The clocks and the integrity state are marked. -/
def Mask.clkInteg : Mask := ⟨false, true, false, false, false, false, true, false, false, false, false⟩

/-- The integrity state at the start of a drain. -/
def State.drainBegun (s : State) (cause chan : Nat) : Integ :=
  { s.integ with
    svc := .draining, replacement := s.integ.replacement || !(cause == 0x09), thermal := cause == 0x09, cause := cause
    channel := if cause == 0x09 then 0 else chan, frame := s.frameN, scanDone := false, recordDone := false, told := s.openFns, tested := none }

theorem State.integ_startDrain (s : State) (cause chan : Nat) : (s.startDrain cause chan).integ = s.drainBegun cause chan := by
  unfold State.startDrain
  extract_lets thermal c told integ store live s0 s1 s2 s3 s4 s5 s6 s7 s8
  have h5 : Fr Mask.clkInteg s0 s5 :=
    Fr.foldl (fun _ _ h => Fr.closeFn rfl rfl rfl rfl rfl h) _ _
      (Fr.sendRetractions rfl rfl rfl rfl (Fr.event rfl (Fr.reloadDacs rfl (Fr.allChans rfl (Fr.refl _ s0)))))
  have h6 : Fr Mask.clkInteg s0 s6 := Fr.foldl (fun _ _ h => Fr.endRunning rfl rfl rfl rfl h) _ _ h5
  have h8 : Fr Mask.clkInteg s0 s8 :=
    Fr.foldl (fun _ _ h => Fr.endSample rfl rfl rfl rfl h) _ _ (Fr.abandonLoads rfl rfl rfl rfl rfl rfl h6)
  exact (Fr.allChans rfl h8).integ rfl

theorem State.integ_drain {s : State} (cause chan : Nat) (h : s.integ.svc = .inService) :
    (s.drain cause chan).integ = s.drainBegun cause chan := by
  rw [State.drain, h]
  exact s.integ_startDrain cause chan

theorem Fr.frameN {m : Mask} {s t : State} (h : Fr m s t) (q : m.clk = true) : t.frameN = s.frameN := by
  rw [State.frameN, State.frameNow, h.clk q]
  rfl

/-- What a sparse store reads otherwise than as its default stands in it. -/
theorem mem_of_sget_ne {α : Type} {d : α} {k : Nat} : ∀ {m : Sparse α}, sget d m k ≠ d → (k, sget d m k) ∈ m
  | [], h => absurd rfl h
  | (j, w) :: m, h => by
    rw [sget] at h ⊢
    split at h
    · next hj =>
      rw [if_pos hj, hj]
      exact List.mem_cons_self
    · next hj =>
      rw [if_neg hj]
      exact List.mem_cons_of_mem _ (mem_of_sget_ne h)

/-- A sparse store with every value changed, where the default stands. -/
theorem sget_map {α : Type} {d : α} {f : Nat → α → α} (hd : ∀ k, f k d = d) (k : Nat) :
    ∀ m : Sparse α, sget d (m.map (fun e => (e.1, f e.1 e.2))) k = f k (sget d m k)
  | [] => (hd k).symm
  | (j, w) :: m => by
    rw [List.map_cons, sget, sget, sget_map hd k m]
    split
    · next h => rw [h]
    · rfl

end Sys2Proof.Machine

namespace Sys2Proof.Claims

open Sys2Proof.Machine

/-- A drain of another cause than heat, from a state in service. -/
theorem drains_drain {s t : State} (h : Fr Mask.clkInteg s t) {cause : Nat} (c : Nat) (hs : s.integ.svc = .inService) (hc : cause ≠ 0x09) :
    Drains s (t.drain cause c) cause c := by
  have hi : (t.drain cause c).integ = t.drainBegun cause c := State.integ_drain cause c (by rw [h.integ rfl, hs])
  have hne : (cause == 0x09) = false := beq_eq_false_iff_ne.2 hc
  rw [Drains, hi, ← h.frameN rfl, State.drainBegun, hne]
  exact ⟨rfl, rfl, rfl, rfl, Bool.or_true _, rfl, rfl⟩

/-! ### Checks of facets (R294) -/

section
variable {s : State} {c tl k failed : Nat} {r : Req} {n : Bool}

/-- The bank freed and the check counted. -/
def checked (s : State) (c tl : Nat) : State := (s.modTile c tl (fun x => x.freeBank 0)).count c 0x70

theorem tile_checked (s : State) (c tl : Nat) : (checked s c tl).tile c tl = (s.tile c tl).freeBank 0 := by
  rw [checked, (State.count_only _ _ _ _).tile, State.tile_modTile_same]

theorem checked_frame (m : Mask) (q : m.chans = false) (s : State) (c tl : Nat) : Fr m s (checked s c tl) :=
  Fr.count q (Fr.modTile q (Fr.refl m s))

theorem failed_checked (s : State) (c tl : Nat) : (checked s c tl).failed = s.failed := by
  rw [(checked_frame Mask.butChans rfl s c tl).chansOnly]
  rfl

theorem facetCheckResult_exec (hf : s.fitted c = true) (hb : (s.tile c tl).bank0 = .full r n) (hw : r.why = .check k failed) :
    exec (.facetCheckResult c tl) s = .next (s.checkResult c tl 0 r k failed) := by
  rw [show exec (.facetCheckResult c tl) s = execFacetCheckResult c tl s from rfl, execFacetCheckResult]
  rw [hb]
  dsimp only
  rw [hw]
  exact onlyIf_true hf

/-- The blocks that a check judges. -/
def judgedBlocks (failed : Nat) : List Nat := (List.range 8).filter (fun i => failed == 0 || nfld failed i i == 1)

/-- The blocks that fail. -/
def badBlocks (s : State) (c tl : Nat) (r : Req) (k failed : Nat) : List Nat :=
  (judgedBlocks failed).filter (fun i => !blockPasses (s.facet c tl r.origin) (s.tile c tl).sums0 k i)

/-- R294: what a check leaves: a drain where blocks fail twice, a second check where they fail once. -/
theorem checkResult_eq (s : State) (c tl : Nat) (r : Req) (k failed : Nat) : s.checkResult c tl 0 r k failed =
    if failed ≠ 0 then
      if (badBlocks s c tl r k failed).isEmpty then
        (checked s c tl).countN c 0x71 ((judgedBlocks failed).length - (badBlocks s c tl r k failed).length) none
      else (((checked s c tl).countN c 0x71 ((judgedBlocks failed).length - (badBlocks s c tl r k failed).length) none).modChan c
        (fun q => { q with check := { q.check with failed := true } })).drain 0x01 c
    else if (badBlocks s c tl r k failed).isEmpty || (checked s c tl).failed then checked s c tl
    else (checked s c tl).modTile c tl (fun x =>
      { x with wantCheck := (k + 4 * ((badBlocks s c tl r k failed).map (fun i => 2 ^ i)).sum, r.lfacet) :: x.wantCheck }) := rfl

theorem checkResult_passes (h : badBlocks s c tl r k failed = []) : ∃ t, s.checkResult c tl 0 r k failed = t ∧ t = { s with chans := t.chans } ∧
    t.tile c tl = (s.tile c tl).freeBank 0 := by
  refine ⟨_, rfl, ?_⟩
  rw [checkResult_eq, h, List.isEmpty_nil, if_pos rfl, Bool.true_or, if_pos rfl]
  split
  · exact ⟨(Fr.countN rfl (checked_frame Mask.butChans rfl s c tl)).chansOnly, by rw [(State.countN_only _ _ _ _ _).tile, tile_checked]⟩
  · exact ⟨(checked_frame Mask.butChans rfl s c tl).chansOnly, tile_checked s c tl⟩

theorem checkResult_again (h : badBlocks s c tl r k 0 ≠ []) (hs : s.failed = false) : ∃ t, s.checkResult c tl 0 r k 0 = t ∧
    t = { s with chans := t.chans } ∧ t.tile c tl = { (s.tile c tl).freeBank 0 with
      wantCheck := (k + 4 * ((badBlocks s c tl r k 0).map (fun i => 2 ^ i)).sum, r.lfacet) :: ((s.tile c tl).freeBank 0).wantCheck } := by
  refine ⟨_, rfl, ?_⟩
  rw [checkResult_eq, if_neg (fun e => e rfl), failed_checked, hs, List.isEmpty_eq_false_iff.2 h, Bool.or_false, if_neg Bool.false_ne_true]
  refine ⟨(Fr.modTile rfl (checked_frame Mask.butChans rfl s c tl)).chansOnly, ?_⟩
  rw [State.tile_modTile_same, tile_checked]

theorem checkResult_drains (h : badBlocks s c tl r k failed ≠ []) (hn : failed ≠ 0) (hs : s.integ.svc = .inService) :
    Drains s (s.checkResult c tl 0 r k failed) 1 c := by
  rw [checkResult_eq, if_pos hn, List.isEmpty_eq_false_iff.2 h, if_neg Bool.false_ne_true]
  exact drains_drain (Fr.modChan rfl (Fr.countN rfl (checked_frame Mask.clkInteg rfl s c tl))) c hs (by decide)

end

/-! ### Residues, tests and DAC loads (R295, R307, R346) -/

section
variable {s : State} {c : Nat}

/-- R392: a count of an occurrence in one channel. -/
theorem countedIn_count (s : State) (c code : Nat) : CountedIn s (s.count c code) c code := by
  have hc : (s.count c code).chan c = (s.chan c).count s.counters code 1 none := by
    rw [State.count, State.countN, if_neg (by decide), State.chan_modChan_same]
  refine ⟨⟨(State.count_only s c code none).rest, (State.count_only s c code none).others, ?_⟩, fun j => ?_⟩
  · rw [hc]
    exact Chan.count_cnt _ _ _ _ _
  · rw [hc, Chan.cnt_count]
    simp only [satAdd, Nat.min_comm]

theorem residueCheckPass_exec {fmt : Nat} {l : List ResidueStep} (hf : s.fitted c = true) (hh : (s.chan c).check.residue.head? = some fmt)
    (hr : (s.chan c).check.isRotation = true) (hs : s.integ.svc = .inService) {t : State}
    (ht : (if l.all (fun x => Sys2Proof.Machine.ResidueStep.agrees x)
      then (s.count c 0x73).modChan c (fun k => { k with check := { k.check with residue := k.check.residue.drop 1 } })
      else (((s.count c 0x73).modChan c (fun k => { k with check := { k.check with residue := k.check.residue.drop 1 } })).modChan c
        (fun k => { k with check := { k.check with failed := true } })).drain 0x03 c) = t) :
    exec (.residueCheckPass c fmt l) s = .next t := by
  rw [show exec (.residueCheckPass c fmt l) s = execResidueCheckPass c fmt l s from rfl, execResidueCheckPass]
  dsimp only
  rw [onlyIf_true (by rw [hf, hh, hr, State.inService, hs]; simp), ht]

theorem testVerdict_drains {x : TestFound} (hf : s.fitted c = true) (hp : (s.chan c).test.phase = .cooling)
    (hd : (s.chan c).test.heated + 1990000000 ≤ s.nowNs) (hs : s.integ.svc = .inService)
    (hx : x.scan = false ∨ x.march = false ∨ (∃ d ∈ x.dacs, d.code ≠ d.read) ∨ (s.testChecks c x).2 = true) :
    ∃ t, exec (.testVerdict c x) s = .next t ∧ Drains s t 4 c := by
  have hbad : (!x.scan || !x.march || x.dacs.any (fun d => d.code != d.read) || (s.testChecks c x).2) = true := by
    rcases hx with h | h | ⟨d, hm, h⟩ | h
    · simp [h]
    · simp [h]
    · have : x.dacs.any (fun d => d.code != d.read) = true := List.any_eq_true.2 ⟨d, hm, bne_iff_ne.2 h⟩
      simp [this]
    · simp [h]
  rw [show exec (.testVerdict c x) s = execTestVerdict c x s from rfl, execTestVerdict]
  dsimp only
  rw [onlyIf_true (by rw [hf, hp, decide_eq_true hd]; rfl), if_pos hbad]
  exact ⟨_, rfl, drains_drain (Fr.event rfl (Fr.testChecks rfl (Fr.refl _ s))) c hs (by decide)⟩

theorem pvCycleEnd_drains {tl : Nat} {v : Pv} (hf : s.fitted c = true) (hp : (s.tile c tl).st = .programming) (hv : (s.tile c tl).pv = some v)
    (hs : s.integ.svc = .inService) : ∃ t, exec (.pvCycleEnd c tl true) s = .next t ∧ Drains s t 8 c := by
  rw [show exec (.pvCycleEnd c tl true) s = execPvCycleEnd c tl true s from rfl, execPvCycleEnd]
  dsimp only
  rw [hv]
  dsimp only
  rw [onlyIf_true (by rw [hf, hp]; rfl), if_pos (by rw [Bool.true_or])]
  refine ⟨_, rfl, drains_drain (Fr.modTile rfl (Fr.modTile rfl ?_)) c hs (by decide)⟩
  split
  · split
    · exact Fr.refl _ s
    · exact Fr.modChan rfl (Fr.refl _ s)
  · exact Fr.refl _ s

end

/-! ### Heat (R346) -/

/-- What a reading changes besides the sensors, before it drains: the test of its channel may be given up. -/
structure TestLost (s t : State) : Prop where
  clk : t.clk = s.clk
  integ : t.integ = { s.integ with tested := t.integ.tested }

theorem TestLost.of_frame {s t : State} (h : Fr Mask.clkInteg s t) : TestLost s t := ⟨h.clk rfl, by rw [h.integ rfl]⟩

theorem useReading_hot {s : State} {n : Nat} {r : Int} (hl : s.reading n < 1760) (hr : 1760 ≤ r) :
    ∃ u, TestLost s u ∧ s.useReading n r = u.drain 0x09 0 := by
  unfold State.useReading
  extract_lets crossed x s1 s2 t i s3
  have h1 : Fr Mask.clkInteg s s1 := Fr.setSensor rfl (Fr.refl _ s)
  have h2 : Fr Mask.clkInteg s s2 := Fr.ite (Fr.modChan rfl h1) h1
  have ht : Fr Mask.clkInteg s t := Fr.event rfl (Fr.modChan rfl h2)
  refine ⟨s3, ?_, if_pos (decide_eq_true ⟨hl, hr⟩)⟩
  unfold s3
  split
  · exact ⟨ht.clk rfl, congrArg (fun x : Integ => { x with tested := none }) (ht.integ rfl)⟩
  · exact .of_frame h2

theorem sensorSample_drains {s : State} {n : Nat} {r : Int} (ha : s.apexUp = true) (hf : s.sensorFitted n = true) (hb : (s.sensor n).broken = false)
    (hd : s.departs n r = false) (hl : s.reading n < 1760) (hr : 1760 ≤ r) (hs : s.integ.svc = .inService) :
    ∃ t, exec (.sensorSample n r) s = .next t ∧ t.integ.svc = .draining ∧ t.integ.cause = 9 ∧ t.integ.channel = 0 ∧ t.integ.thermal = true ∧
      t.integ.replacement = s.integ.replacement ∧ t.integ.frame = s.frameN := by
  obtain ⟨u, hu, he⟩ := useReading_hot (s := s) (n := n) hl hr
  have hi : (u.drain 0x09 0).integ = u.drainBegun 0x09 0 := State.integ_drain _ _ (by rw [hu.integ]; exact hs)
  have hfr : u.frameN = s.frameN := by
    rw [State.frameN, State.frameNow, hu.clk]
    rfl
  refine ⟨_, (sensorSample_used ha hf hb hd).trans (congrArg _ he), ?_⟩
  rw [hi, ← hfr]
  refine ⟨rfl, rfl, rfl, rfl, ?_, rfl⟩
  rw [State.drainBegun, hu.integ]
  exact Bool.or_false _

/-! ### The scan of the context records (R296) -/

section
variable {s t : State} {raw e : Nat} {i : Integ} {b : Bool}

/-- The record `raw` is open and sound with the check epoch `e`, tainted where `b` says so, and the integrity state is `i` but for the entries
owed. -/
structure Scanned (raw e : Nat) (i : Integ) (b : Bool) (s : State) : Prop where
  life : (s.ctx raw).life = .open
  sound : (s.ctx raw).cacheBad = false
  epoch : (s.ctx raw).checkEpoch = e
  tainted : b = true → (s.ctx raw).tainted = true
  integ : { s.integ with retract := [] } = i

theorem ctx_setCtx_ne (s : State) {r q : Nat} (x : Ctx) (h : q ≠ r) : (s.setCtx r x).ctx q = s.ctx q := by
  rw [State.ctx, State.setCtx, State.chan_modChan]
  split
  · next e =>
    rw [State.ctx, e]
    exact sget_sput_ne _ _ _ fun k => h (by omega)
  · rfl

namespace Scanned

theorem of (h : Scanned raw e i b s) (hc : t.ctx raw = s.ctx raw) (hi : { t.integ with retract := [] } = { s.integ with retract := [] }) :
    Scanned raw e i b t :=
  ⟨by rw [hc, h.life], by rw [hc, h.sound], by rw [hc, h.epoch], by rw [hc]; exact h.tainted, hi.trans h.integ⟩

theorem counts {c : Nat} (h : Scanned raw e i b s) (hc : CountsOnly c s t) : Scanned raw e i b t :=
  h.of ((DbgOnly.of_counts hc).ctx raw) (by rw [hc.rest])

/-- A context record replaced: another, or this one by one as sound. -/
theorem setCtx (h : Scanned raw e i b s) {r : Nat} {x : Ctx} (hx : r = raw → x.life = .open ∧ x.cacheBad = false ∧ x.checkEpoch = e ∧
    (b = true → x.tainted = true)) : Scanned raw e i b (s.setCtx r x) := by
  by_cases hr : r = raw
  · subst hr
    obtain ⟨hl, hs, he, ht⟩ := hx rfl
    refine ⟨?_, ?_, ?_, ?_, h.integ⟩ <;> rw [State.ctx_setCtx]
    exacts [hl, hs, he, ht]
  · exact h.of (ctx_setCtx_ne s x fun k => hr k.symm) rfl

/-- Reading a record leaves a sound one open and sound: granules met may poison it. -/
theorem readRec (h : Scanned raw e i b s) (r : Nat) : Scanned raw e i b (s.readRec r) := by
  have hpoison : ∀ u : State, Scanned raw e i b u →
      Scanned raw e i b (u.setCtx r { u.ctx r with poisoned := true, poisonSrc := 3 }) := fun u hu =>
    hu.setCtx fun k => k ▸ ⟨hu.life, hu.sound, hu.epoch, hu.tainted⟩
  unfold State.readRec
  extract_lets x u
  have hu : Scanned raw e i b u := by
    unfold u
    split
    · next hbad =>
      have hr : r ≠ raw := fun k => absurd (k ▸ h.sound : (s.ctx r).cacheBad = false) (by rw [hbad]; exact Bool.noConfusion)
      split
      · exact h.setCtx fun k => absurd k hr
      · exact h.setCtx fun k => absurd k hr
    · exact h
  split
  · exact hpoison u hu
  · exact hu

theorem scanRecords (h : Scanned raw e i b s) (c : Nat) : Scanned raw e i b (s.scanRecords c) := by
  unfold State.scanRecords
  refine List.foldlRecOn _ _ h fun u hu x _ => ?_
  split
  · exact hu.readRec _
  · exact hu

/-- The record is marked, and counted. -/
theorem mark (h : Scanned raw e i b s) (c n : Nat) :
    Scanned raw e i b ((s.modCtx (c * 32768 + n) (fun x => { x with tainted := true })).count c 0x77 (some (c * 32768 + n))) :=
  (h.setCtx fun k => k ▸ ⟨h.life, h.sound, h.epoch, fun _ => rfl⟩).counts (State.count_only _ _ _ _)

theorem mark_same (h : Scanned raw e i b s) {c n : Nat} (hr : c * 32768 + n = raw) :
    Scanned raw e i true ((s.modCtx (c * 32768 + n) (fun x => { x with tainted := true })).count c 0x77 (some (c * 32768 + n))) := by
  have hm := h.mark c n
  refine ⟨hm.life, hm.sound, hm.epoch, fun _ => ?_, hm.integ⟩
  rw [(DbgOnly.of_counts (State.count_only _ _ _ _)).ctx, hr, State.ctx_modCtx]

theorem marks {c : Nat} (l : List Nat) (h : Scanned raw e i b s) : Scanned raw e i b
    (l.foldl (fun s n => (s.modCtx (c * 32768 + n) (fun x => { x with tainted := true })).count c 0x77 (some (c * 32768 + n))) s) :=
  List.foldlRecOn l _ h fun _ hu n _ => hu.mark c n

theorem marks_mem {c n : Nat} (hr : c * 32768 + n = raw) {l : List Nat} (hn : n ∈ l) (h : Scanned raw e i b s) : Scanned raw e i true
    (l.foldl (fun s n => (s.modCtx (c * 32768 + n) (fun x => { x with tainted := true })).count c 0x77 (some (c * 32768 + n))) s) := by
  obtain ⟨l, k, rfl⟩ := List.append_of_mem hn
  rw [List.foldl_append, List.foldl_cons]
  exact ((h.marks l).mark_same hr).marks k

theorem taint (h : Scanned raw e i b s) (c : Nat) (p : Ctx → Bool) : Scanned raw e i b (s.taint c p).1 := (h.scanRecords c).marks _

/-- A scan marks an open record that its channel holds and that was not confirmed. -/
theorem taint_own (h : Scanned raw e i b s) (p : Ctx → Bool) (hp : ∀ x : Ctx, x.checkEpoch = e → p x = true) :
    Scanned raw e i true (s.taint (raw / 32768) p).1 := by
  have hs := h.scanRecords (raw / 32768)
  refine hs.marks_mem (Nat.div_add_mod' raw 32768) (List.mem_map.2 ⟨(_, (s.scanRecords (raw / 32768)).ctx raw), List.mem_filter.2 ⟨?_, ?_⟩, rfl⟩)
  · refine mem_of_sget_ne fun k => absurd hs.life ?_
    rw [State.ctx, k]
    decide
  · rw [hs.life, hp _ hs.epoch]
    rfl

theorem scanChan (h : Scanned raw e i b s) (c : Nat) : Scanned raw e i b (s.scanChan c) := (h.taint c _).of rfl rfl

theorem scanChan_own (h : Scanned raw e i b s) (hw : older e (i.wm % 2 ^ 32) = false) : Scanned raw e i true (s.scanChan (raw / 32768)) := by
  refine (h.taint_own (fun x => !older x.checkEpoch (s.integ.wm % 2 ^ 32)) fun x hx => ?_).of rfl rfl
  rw [hx, show s.integ.wm = i.wm by rw [← h.integ], hw]
  rfl

theorem scan (h : Scanned raw e i b s) (hw : older e (i.wm % 2 ^ 32) = false) {n : Nat} (hn : raw / 32768 < n) :
    Scanned raw e i true ((List.range n).foldl State.scanChan s) := by
  obtain ⟨l, k, hl⟩ := List.append_of_mem (List.mem_range.2 hn)
  rw [hl, List.foldl_append, List.foldl_cons]
  exact List.foldlRecOn k _ ((List.foldlRecOn l _ h fun _ hu c _ => hu.scanChan c).scanChan_own hw) fun _ hu c _ => hu.scanChan c

theorem event (h : Scanned raw e i b s) (cls sub chan arg arg2 : Nat) : Scanned raw e i b (s.event cls sub chan arg arg2) :=
  h.of ((DbgOnly.event s cls sub chan arg arg2).ctx raw) (by rw [State.event_rest])

theorem writeCpl (h : Scanned raw e i b s) (x : Cpl) : Scanned raw e i b (s.writeCpl x) :=
  h.of ((Booked.writeCpl s x).toDbgOnly.ctx raw) (by rw [(Fr.writeCpl rfl rfl rfl rfl (Fr.refl Mask.clkInteg s)).integ rfl])

theorem flushRetract (h : Scanned raw e i b s) : Scanned raw e i b s.flushRetract := by
  unfold State.flushRetract
  refine List.foldlRecOn _ _ (h.of rfl rfl) fun u hu x _ => ?_
  split
  · exact hu.event _ _ _ _ _
  · extract_lets y
    split
    · exact hu.writeCpl y
    · exact hu.of rfl rfl

theorem flushWhere (h : Scanned raw e i b s) (p : Cpl → Bool) : Scanned raw e i b (s.flushWhere p) := by
  unfold State.flushWhere
  refine List.foldlRecOn _ _ (h.of rfl rfl) fun u hu x _ => ?_
  split
  · exact hu.writeCpl x
  · exact hu.of rfl rfl

end Scanned

/-- The state after the scan, before the entries owed are written. -/
def scannedAll (s : State) : State :=
  { (List.range s.channels).foldl State.scanChan s with integ := { ((List.range s.channels).foldl State.scanChan s).integ with scanDone := true } }

theorem taintScanDone_exec (hs : s.integ.svc = .draining) (hn : s.integ.scanDone = false) : exec .taintScanDone s =
    .next (if (scannedAll s).writesNow then (scannedAll s).flushRetract.flushWhere (fun e => !e.late) else scannedAll s) := by
  rw [show exec .taintScanDone s = execTaintScanDone s from rfl, execTaintScanDone]
  exact onlyIf_true (by rw [hs, hn]; rfl)

end

/-! ### What the scan leaves of the integrity state -/

/-- The integrity state is `i` but for the entries owed. -/
def OwedBut (i : Integ) (s : State) : Prop := { s.integ with retract := [] } = i

namespace OwedBut

variable {s t : State} {i : Integ}

theorem of_integ (h : OwedBut i s) (hi : t.integ = s.integ) : OwedBut i t := by rw [OwedBut, hi]; exact h

theorem scanChan (h : OwedBut i s) (c : Nat) : OwedBut i (s.scanChan c) :=
  of_integ (s := s) (t := (s.taint c (fun x => !older x.checkEpoch (s.integ.wm % 2 ^ 32))).1) h
    ((Fr.taint rfl (Fr.refl Mask.clkInteg s)).integ rfl)

theorem flushRetract (h : OwedBut i s) : OwedBut i s.flushRetract := by
  unfold State.flushRetract
  refine List.foldlRecOn _ _ (show OwedBut i { s with integ := { s.integ with retract := [] } } from h) fun u hu x _ => ?_
  split
  · exact hu.of_integ (by rw [State.event_rest])
  · extract_lets y
    split
    · exact hu.of_integ ((Fr.writeCpl rfl rfl rfl rfl (Fr.refl Mask.clkInteg u)).integ rfl)
    · exact hu

theorem flushWhere (h : OwedBut i s) (p : Cpl → Bool) : OwedBut i (s.flushWhere p) :=
  h.of_integ ((Fr.flushWhere rfl rfl rfl rfl (Fr.refl Mask.clkInteg s)).integ rfl)

end OwedBut

theorem owedBut_scannedAll (s : State) : OwedBut { s.integ with retract := [], scanDone := true } (scannedAll s) := by
  have h : OwedBut { s.integ with retract := [] } ((List.range s.channels).foldl State.scanChan s) :=
    List.foldlRecOn (List.range s.channels) _ rfl fun _ hu c _ => OwedBut.scanChan hu c
  exact congrArg (fun x : Integ => { x with scanDone := true }) h

/-- R296: the scan ends, and every open record that was not confirmed is tainted. -/
theorem taintScanDone_taints {s : State} (hs : s.integ.svc = .draining) (hn : s.integ.scanDone = false) :
    ∃ t, exec .taintScanDone s = .next t ∧ t.integ.scanDone = true ∧ t.integ.svc = .draining ∧
      ∀ raw, raw / 32768 < s.channels → (s.ctx raw).life = .open → (s.ctx raw).cacheBad = false →
        older (s.ctx raw).checkEpoch (s.integ.wm % 2 ^ 32) = false → (t.ctx raw).tainted = true := by
  refine ⟨_, taintScanDone_exec hs hn, ?_⟩
  have hi : OwedBut { s.integ with retract := [], scanDone := true } (if (scannedAll s).writesNow then
      (scannedAll s).flushRetract.flushWhere (fun e => !e.late) else scannedAll s) := by
    split
    · exact (owedBut_scannedAll s).flushRetract.flushWhere _
    · exact owedBut_scannedAll s
  refine ⟨congrArg Integ.scanDone hi, (congrArg Integ.svc hi).trans hs, fun raw hc hl hb ho => ?_⟩
  have hscan : Scanned raw (s.ctx raw).checkEpoch { s.integ with retract := [] } true ((List.range s.channels).foldl State.scanChan s) :=
    Scanned.scan (b := false) ⟨hl, hb, rfl, nofun, rfl⟩ ho hc
  have hall : Scanned raw (s.ctx raw).checkEpoch { s.integ with retract := [], scanDone := true } true (scannedAll s) :=
    ⟨hscan.life, hscan.sound, hscan.epoch, hscan.tainted, owedBut_scannedAll s⟩
  split
  · exact (hall.flushRetract.flushWhere _).tainted rfl
  · exact hall.tainted rfl

/-! ### Quiescence (R297) -/

theorem fn_becomeDrained (s : State) (n : Nat) : s.becomeDrained.fn n = if (s.fn n).st = .held then
    { s.fn n with st := .closed, openNext := true, ver := settle (s.fn n).drvMin (s.fn n).drvMax } else s.fn n := by
  refine (sget_map (f := fun _ (x : Fn) => if x.st == .held then x.proceed else x) (fun _ => rfl) n s.host.fns).trans ?_
  simp only [beq_iff_eq]
  rfl

theorem quiescence_exec {s t : State} (hs : s.integ.svc = .draining) (hd : s.integ.scanDone = true) (hr : s.integ.retract = [])
    (ht : (if s.noneRunning && s.allClosed && s.integ.recordDone then s.becomeDrained else s) = t) : exec .quiescence s = .next t := by
  rw [show exec .quiescence s = execQuiescence s from rfl, execQuiescence]
  dsimp only
  rw [onlyIf_true (by rw [hs, hd]; rfl), hr, List.isEmpty_nil, if_neg (by decide), ht]

/-- Settles O26, a clause for each failure that drains, then the scan and the end of the drain. -/
theorem detectedFailuresDrain : Obligations.DetectedFailuresDrain := by
  refine ⟨fun s c hf => ⟨fun tl r n k failed hb hw => ?_, fun fmt l hh hr hs => ?_, fun x hp hd hs hx => testVerdict_drains hf hp hd hs hx,
    fun tl v hp hv hs => pvCycleEnd_drains hf hp hv hs,
    fun n r ha hn hb hd hl hr hs => sensorSample_drains ha hn hb hd hl hr hs⟩, fun s hs => ⟨taintScanDone_taints hs, fun hd hr => ⟨?_, ?_⟩⟩⟩
  · rw [facetCheckResult_exec hf hb hw]
    refine ⟨fun h => ?_, fun h hz hs => ?_, fun h hn hs => ⟨_, rfl, checkResult_drains h hn hs⟩⟩
    · obtain ⟨t, rfl, ht⟩ := checkResult_passes (s := s) h
      exact ⟨_, rfl, ht⟩
    · subst hz
      obtain ⟨t, rfl, ht⟩ := checkResult_again (s := s) h hs
      exact ⟨_, rfl, ht⟩
  · refine ⟨fun h => ⟨_, s.count c 0x73, residueCheckPass_exec hf hh hr hs (if_pos (List.all_eq_true.2 h)), countedIn_count s c 0x73,
      inChan_modChan _ _ _⟩, fun ⟨x, hx, h⟩ => ⟨_, residueCheckPass_exec hf hh hr hs (if_neg fun k => ?_),
      drains_drain (Fr.modChan rfl (Fr.modChan rfl (Fr.count rfl (Fr.refl _ s)))) c hs (by decide)⟩⟩
    rw [List.all_eq_true.1 k x hx] at h
    exact Bool.noConfusion h
  · intro hn hc hrec
    refine ⟨_, quiescence_exec hs hd hr (if_pos (by rw [hn, hc, hrec]; rfl)), rfl, fn_becomeDrained s⟩
  · intro h
    refine quiescence_exec hs hd hr (if_neg fun k => h ?_)
    rw [Bool.and_eq_true, Bool.and_eq_true] at k
    exact ⟨k.1.1, k.1.2, k.2⟩

end Sys2Proof.Claims
end

section
/-! SUPPORT. Staging, cycles and the places of a record: what they leave of tiles, facets and packages (R184, R190, R197). -/

namespace Sys2Proof.Machine

/-- What the end of refreshes leaves of a tile that reads back or programs for one. -/
def stopTile (p : Nat → Nat → Nat → Bool) (c t : Nat) (x : Tile) : Tile :=
  match x.pv with
  | some v => (match v.why with | .refresh l => if p c t l then x.stopPv else x | .readback l => if p c t l then x.stopPv else x | _ => x)
  | none => x

def stopTiles (p : Nat → Nat → Nat → Bool) (c : Nat) (k : Chan) : Chan :=
  { k with arr := { k.arr with tiles := k.arr.tiles.map (fun e => (e.1, stopTile p c e.1 e.2)) } }

/-- With no refresh under way none is abandoned: read-backs alone may stop. -/
theorem State.dropRefreshes_none {s : State} (h : ∀ q ∈ s.host.pkgs, q.refresh = false) (p : Nat → Nat → Nat → Bool) :
    s.dropRefreshes p = s.allChans (stopTiles p) := by
  have hgone : s.host.pkgs.filter (fun g => g.refresh && !g.recorded && g.recs.any (fun r => p r.ch r.tile r.lfacet)) = [] :=
    List.filter_eq_nil_iff.2 fun q hq => by rw [h q hq, Bool.false_and, Bool.false_and]; decide
  have hkept : s.host.pkgs.filter (fun g => !(g.refresh && !g.recorded && g.recs.any (fun r => p r.ch r.tile r.lfacet))) = s.host.pkgs :=
    List.filter_eq_self.2 fun q hq => by rw [h q hq]; rfl
  unfold State.dropRefreshes
  dsimp only
  rw [hgone, hkept]
  rfl

theorem Chan.tile_stopTiles (p : Nat → Nat → Nat → Bool) (c : Nat) (k : Chan) (n : Nat) :
    (stopTiles p c k).tile n = stopTile p c n (k.tile n) := sget_map (f := stopTile p c) (fun _ => rfl) n k.arr.tiles

/-- A tile that does not program stands. -/
theorem State.tile_stopTiles_idle {s : State} {c n : Nat} (p : Nat → Nat → Nat → Bool) (h : (s.tile c n).pv = none) :
    (s.allChans (stopTiles p)).tile c n = s.tile c n := by
  rcases Nat.lt_or_ge c s.channels with hc | hc
  · rw [State.tile, State.chan_allChans s _ hc, Chan.tile_stopTiles, stopTile, ← State.tile, h]
  · rw [State.tile, State.chan_allChans_of_le s _ hc]
    rfl

/-- The place of a record: its package, its index there, and the tile and facet it programs. -/
theorem State.recOf_place {s : State} {c tl g i : Nat} {v : Pv} {r : PkgRec} (h : s.recOf c tl v = some (g, i, r)) :
    (∃ p, s.host.pkgs[g]? = some p ∧ p.recs[i]? = some r) ∧ r.ch = c ∧ r.tile = tl ∧ r.facet = v.facet := by
  obtain ⟨⟨p, g'⟩, hp, hf⟩ := List.exists_of_findSome?_eq_some h
  obtain ⟨⟨q, i'⟩, hq, hr⟩ := List.exists_of_findSome?_eq_some hf
  dsimp only at hr
  split at hr
  · next hc =>
    obtain ⟨rfl, rfl, rfl⟩ : g' = g ∧ i' = i ∧ q = r := by simpa using hr
    simp only [Bool.and_eq_true, beq_iff_eq] at hc
    obtain ⟨⟨⟨hch, htile⟩, -⟩, hfacet⟩ := hc
    exact ⟨⟨p, List.mem_zipIdx_iff_getElem?.1 hp, List.mem_zipIdx_iff_getElem?.1 hq⟩, hch, htile, hfacet⟩
  · exact absurd hr nofun

theorem getElem?_lmod {α : Type} (l : List α) (i j : Nat) (f : α → α) : (lmod l i f)[j]? = (l[j]?).map (fun a => if j = i then f a else a) := by
  rw [lmod, List.getElem?_mapIdx]

theorem State.codes_modTile (s : State) (c t : Nat) (f : Tile → Tile) : ((s.modTile c t f).chan c).arr.codes = (s.chan c).arr.codes := by
  rw [State.modTile, State.chan_modChan_same]
  rfl

/-- A cycle changes the codes in the cells alone (R190). -/
theorem Array.pvCells_rest (a : Array) (l : List (BitVec 32)) (t f n : Nat) (codes : Sparse Nat) :
    a.pvCells l t f n codes = { a with codes := (a.pvCells l t f n codes).codes } := by
  unfold Array.pvCells
  dsimp only
  repeat' split
  all_goals rfl

theorem State.facet_congr {s t : State} (h : t.store.live.chans = s.store.live.chans) (c u f : Nat) : t.facet c u f = s.facet c u f := by
  rw [State.facet, h]
  rfl

theorem State.tile_congr {s t : State} (h : t.chans = s.chans) (c n : Nat) : t.tile c n = s.tile c n := by
  rw [State.tile, State.chan, h]
  rfl

theorem State.modRec_keeps (s : State) (g i : Nat) (f : PkgRec → PkgRec) : (s.modRec g i f).chans = s.chans ∧ (s.modRec g i f).store = s.store :=
  ⟨rfl, rfl⟩

/-- What is staged changes neither channels nor the configuration in force (R187). -/
theorem State.stagedNow_keeps (s : State) (g : Nat) : (s.stagedNow g).chans = s.chans ∧ (s.stagedNow g).store.live = s.store.live := by
  have htables : ∀ p : Pkg, (s.writeTables p).chans = s.chans ∧ (s.writeTables p).store.live = s.store.live := fun p => by
    unfold State.writeTables
    refine List.foldlRecOn (motive := fun u : State => u.chans = s.chans ∧ u.store.live = s.store.live) _ _ ⟨rfl, rfl⟩ fun u hu c _ => ?_
    repeat' split
    all_goals exact hu
  unfold State.stagedNow
  split
  · exact ⟨rfl, rfl⟩
  · split
    · exact htables _
    · exact ⟨rfl, rfl⟩

end Sys2Proof.Machine
end

section
/-! Family 09_weight_programming: staging, programming, acceptance, repair and retirement (R174, R184, R187 to R196). -/

namespace Sys2Proof.Claims

open Sys2Proof.Machine

/-! ### Staging (R184) -/

/-- The oldest waiting package is staged. -/
theorem packageStagingStart_stages {s : State} {p : Pkg} {g : Nat} (ha : s.apexUp = true) (hs : s.host.staging = false)
    (hp : (s.host.pkgs.zipIdx).find? (fun e => !e.1.refresh && !e.1.staged) = some (p, g)) (hr : ∀ q ∈ s.host.pkgs, q.refresh = false)
    (hd : ∃ r ∈ p.recs, r.st ≠ .done) :
    ∃ t, exec .packageStagingStart s = .next t ∧ t.host = { s.host with staging := true } ∧ t = { s with host := t.host, chans := t.chans } := by
  have hmem : s.host.pkgs[g]? = some p := List.mem_zipIdx_iff_getElem?.1 (List.mem_of_find?_eq_some hp)
  have hwaits : (!p.refresh && !p.staged) = true := List.find?_some (p := fun e : Pkg × Nat => !e.1.refresh && !e.1.staged) hp
  have hfind : ∃ q, s.host.pkgs.find? (fun q => !q.refresh && !q.staged) = some q := by
    rw [← Option.isSome_iff_exists, List.find?_isSome]
    exact ⟨p, List.mem_of_getElem? hmem, hwaits⟩
  obtain ⟨q, hq⟩ := hfind
  rw [show exec .packageStagingStart s = execPackageStagingStart s from rfl, execPackageStagingStart, hq]
  dsimp only
  rw [State.dropRefreshes_none hr, State.allChans_rest, onlyIf_true (by rw [hs, ha]; rfl)]
  generalize (s.allChans _).chans = x
  have hat : ({ s with host := { s.host with staging := true }, chans := x } : State).stagingAt = some g := by
    rw [State.stagingAt]
    dsimp only
    rw [if_pos rfl, hp]
    rfl
  have hall : p.recs.all (fun r => decide (r.st = .done)) = false := by
    obtain ⟨r, hm, hn⟩ := hd
    exact List.all_eq_false.2 ⟨r, hm, by simp [hn]⟩
  have hstaged : ({ s with host := { s.host with staging := true }, chans := x } : State).stagedNow g =
      { s with host := { s.host with staging := true }, chans := x } := by
    rw [State.stagedNow]
    dsimp only
    rw [hmem]
    dsimp only
    rw [hall, Bool.false_and, Bool.false_and, if_neg Bool.false_ne_true]
  rw [hat]
  exact ⟨_, congrArg _ hstaged, rfl, rfl⟩

/-! ### Cycles (R190) -/

/-- The state with the codes that the next cycle of a programming leaves in the cells. -/
def cellsDone (s : State) (c tl : Nat) (v : Pv) : State :=
  match s.recOf c tl v with
  | some (_, _, r) =>
    if v.why.reads then s
    else s.modChan c (fun k => { k with arr := k.arr.pvCells (sget ({} : ChanStore) s.store.live.chans c).remap tl v.facet (v.cycle + 1) r.codes })
  | none => s

/-- A tile after a cycle. -/
def cycled (s : State) (c tl : Nat) (v : Pv) (x : Tile) : Tile :=
  { x with pv := some { v with cycle := v.cycle + 1 }, dacPv := .of (s.trim c tl).idle, st := if x.wanted then .idle else x.st }

section
variable {s : State} {c tl : Nat} {v : Pv}

theorem cellsDone_reads (h : v.why.reads = true) : cellsDone s c tl v = s := by
  unfold cellsDone
  split
  · exact if_pos h
  · rfl

theorem cellsDone_writes {g i : Nat} {r : PkgRec} (h : v.why.reads = false) (hr : s.recOf c tl v = some (g, i, r)) :
    ((cellsDone s c tl v).chan c).arr.codes =
      ((s.chan c).arr.pvCells (sget {} s.store.live.chans c).remap tl v.facet (v.cycle + 1) r.codes).codes := by
  rw [cellsDone, hr]
  dsimp only
  rw [h, if_neg Bool.false_ne_true, State.chan_modChan_same]

/-- The codes of one channel alone change. -/
theorem cellsDone_keeps (s : State) (c tl : Nat) (v : Pv) : cellsDone s c tl v = { s with chans := (cellsDone s c tl v).chans } ∧
    (∀ d, d ≠ c → (cellsDone s c tl v).chan d = s.chan d) ∧ ∀ n, (cellsDone s c tl v).tile c n = s.tile c n := by
  unfold cellsDone
  split
  · split
    · exact ⟨rfl, fun _ _ => rfl, fun _ => rfl⟩
    · refine ⟨rfl, fun d h => State.chan_modChan_ne s _ h, fun n => ?_⟩
      rw [State.tile, State.chan_modChan_same, Array.pvCells_rest]
      rfl
  · exact ⟨rfl, fun _ _ => rfl, fun _ => rfl⟩

/-- A cycle of a sound tile goes on with the next. -/
theorem pvCycleEnd_goes_on (hf : s.fitted c = true) (hp : (s.tile c tl).st = .programming) (hv : (s.tile c tl).pv = some v)
    (hd : (s.tile c tl).dacsSound = true) :
    exec (.pvCycleEnd c tl false) s = .next ((cellsDone s c tl v).modTile c tl (cycled s c tl v)) := by
  rw [show exec (.pvCycleEnd c tl false) s = execPvCycleEnd c tl false s from rfl, execPvCycleEnd]
  dsimp only
  rw [hv]
  dsimp only
  rw [onlyIf_true (by rw [hf, hp]; rfl), hd, if_neg (by decide)]
  rfl

/-- R190: a cycle of a programming ends. -/
theorem pvCycleEnd_writes (hf : s.fitted c = true) (hp : (s.tile c tl).st = .programming) (hv : (s.tile c tl).pv = some v)
    (hd : (s.tile c tl).dacsSound = true) : ∃ t, exec (.pvCycleEnd c tl false) s = .next t ∧ t = { s with chans := t.chans } ∧
      (∀ d, d ≠ c → t.chan d = s.chan d) ∧ (∀ n, n ≠ tl → t.tile c n = s.tile c n) ∧
      t.tile c tl = { s.tile c tl with
        pv := some { v with cycle := v.cycle + 1 }, dacPv := .of (s.trim c tl).idle, st := if (s.tile c tl).wanted then .idle else .programming } ∧
      (v.why.reads = true → (t.chan c).arr.codes = (s.chan c).arr.codes) ∧
      (∀ g i r, v.why.reads = false → s.recOf c tl v = some (g, i, r) → (t.chan c).arr.codes =
        ((s.chan c).arr.pvCells (sget {} s.store.live.chans c).remap tl v.facet (v.cycle + 1) r.codes).codes) := by
  obtain ⟨hrest, hothers, htiles⟩ := cellsDone_keeps s c tl v
  refine ⟨_, pvCycleEnd_goes_on hf hp hv hd, State.chans_only_trans hrest rfl, fun d h => (State.chan_modChan_ne _ _ h).trans (hothers d h),
    fun n h => ?_, ?_, fun h => ?_, fun g i r h hr => ?_⟩
  · rw [State.tile_modTile, if_neg (fun k => h k.2), htiles]
  · rw [State.tile_modTile_same, htiles, cycled, hp]
  · rw [State.codes_modTile, cellsDone_reads h]
  · rw [State.codes_modTile, cellsDone_writes h hr]

theorem sharedTablesCopyEnd_ends (hf : s.fitted c = true) (h : (s.chan c).arr.copying = true) : ∃ t, exec (.sharedTablesCopyEnd c) s = .next t ∧
    InChan s t c (fun k => { k with arr := { k.arr with copying := false } }) := by
  rw [show exec (.sharedTablesCopyEnd c) s = execSharedTablesCopyEnd c s from rfl, execSharedTablesCopyEnd, onlyIf_true (by rw [hf, h]; rfl)]
  exact ⟨_, rfl, inChan_modChan s c _⟩

end

/-! ### Acceptance (R174) -/

/-- The pairs of a facet measured anew: nothing observed in its blocks. -/
def blocksCleared (s : State) (c t f : Nat) : State := (List.range 8).foldl (fun s b => s.modBlock c t f b (fun _ => {})) s

theorem blocksCleared_keeps (s : State) (c t f : Nat) : TileKept c t s (blocksCleared s c t f) := by
  unfold blocksCleared
  exact TileKept.foldl (fun u b => TileKept.modBlock u c t t f b _) _ s

theorem facet_blocksCleared (s : State) (c t f d u h : Nat) : (blocksCleared s c t f).facet d u h = s.facet d u h :=
  State.facet_congr (by rw [(blocksCleared_keeps s c t f).rest]) _ _ _

theorem block_blocksCleared (s : State) (c t f : Nat) {b : Nat} (hb : b < 8) : ((blocksCleared s c t f).chan c).block t f b = {} := by
  have hread : ∀ (u : State) (a : Nat), ((u.modBlock c t f a (fun _ => {})).chan c).block t f b =
      if (16 * t + f) * 8 + b = (16 * t + f) * 8 + a then {} else (u.chan c).block t f b := fun u a => by
    rw [Chan.block, State.modBlock, State.chan_modChan_same]
    exact sget_smod ({} : Block8) (u.chan c).arr.blocks _ (fun _ => {}) _
  unfold blocksCleared
  exact foldl_once (fun u : State => (u.chan c).block t f b) _ (fun _ => {}) (k := b) (fun u => (hread u b).trans (if_pos rfl))
    (fun u a h => (hread u a).trans (if_neg fun k => h (by omega))) _ s List.nodup_range (List.mem_range.2 hb)

/-- A facet calibrated and accepted. -/
def calibrated (cal : List BlockCal) (codes : Sparse Nat) (x : Facet) : Facet :=
  { x with cal := cal, env := envelopes codes, age := 0, due := false, overdue := false, needsPackage := false, drift := false, stuck := [] }

/-- A record's facet accepted, before its package goes on. -/
def accepted (s : State) (r : PkgRec) (cal : List BlockCal) : State :=
  blocksCleared (s.modFacet r.ch r.tile r.facet (calibrated cal ((s.chan r.ch).arr.readCodes r.tile r.facet))) r.ch r.tile r.facet

/-- R174: an accepted facet holds what its calibration found. -/
theorem accepted_accepts (s : State) (r : PkgRec) (cal : List BlockCal) : (accepted s r cal).tile r.ch r.tile = s.tile r.ch r.tile ∧
    (accepted s r cal).facet r.ch r.tile r.facet =
      calibrated cal ((s.chan r.ch).arr.readCodes r.tile r.facet) (s.facet r.ch r.tile r.facet) ∧
    ∀ b, b < 8 → ((accepted s r cal).chan r.ch).block r.tile r.facet b = {} := by
  refine ⟨?_, ?_, fun b hb => block_blocksCleared _ _ _ _ hb⟩
  · rw [accepted, (blocksCleared_keeps _ _ _ _).tile]
    exact State.tile_congr rfl _ _
  · rw [accepted, facet_blocksCleared, State.facet_modFacet_same]

theorem acceptFacet_eq (s : State) (g i : Nat) (r : PkgRec) (cal : List BlockCal) : s.acceptFacet g i r cal =
    ((accepted s r cal).modRec g i (fun r => { r with st := .done })).stagedNow g := rfl

theorem acceptFacet_keeps (s : State) (g i : Nat) (r : PkgRec) (cal : List BlockCal) :
    (s.acceptFacet g i r cal).chans = (accepted s r cal).chans ∧ (s.acceptFacet g i r cal).store.live = (accepted s r cal).store.live := by
  rw [acceptFacet_eq]
  generalize accepted s r cal = u
  obtain ⟨hc, hs⟩ := u.modRec_keeps g i (fun r => { r with st := .done })
  obtain ⟨hchans, hlive⟩ := (u.modRec g i (fun r => { r with st := .done })).stagedNow_keeps g
  exact ⟨hchans.trans hc, hlive.trans (congrArg _ hs)⟩

/-! ### The end of a programming (R174, R192, R194) -/

/-- The tile with its programming ended. -/
def pvEnded (x : Tile) : Tile := { x with pv := none, st := .idle }

/-- What a facet's calibration is made of. -/
def calibOf (s : State) (c tl f : Nat) : Calib :=
  { codes := (s.chan c).arr.readCodes tl f, remap := (sget ({} : ChanStore) s.store.live.chans c).remap, tile := tl, facet := f }

theorem facetProgramDone_exec {s : State} {c tl g i : Nat} {v : Pv} {r : PkgRec} {o : ProgOutcome} {out : List BlockCal × Bool}
    (hf : s.fitted c = true) (hp : (s.tile c tl).st = .programming) (hv : (s.tile c tl).pv = some v) (hr : s.recOf c tl v = some (g, i, r))
    (hc : 1600 ≤ v.cycle) (ho : out = Calib.run (calibOf s c tl v.facet) o.errs (s.kappa c tl)) {t : State}
    (ht : (if o.failed.isEmpty && out.2 then (s.modTile c tl pvEnded).acceptFacet g i r out.1 else (s.modTile c tl pvEnded).reprogram g i r v o) = t) :
    exec (.facetProgramDone c tl o) s = .next t := by
  rw [show exec (.facetProgramDone c tl o) s = execFacetProgramDone c tl o s from rfl, execFacetProgramDone, hv]
  dsimp only
  rw [hr]
  dsimp only
  rw [onlyIf_true (by rw [hf, hp, decide_eq_true hc]; rfl), ← calibOf, ← ho, ← ht]
  rfl

/-- R174: a programming whose calibration is accepted. -/
theorem facetProgramDone_accepts {s : State} {c tl g i : Nat} {v : Pv} {r : PkgRec} {o : ProgOutcome} {out : List BlockCal × Bool}
    (hf : s.fitted c = true) (hp : (s.tile c tl).st = .programming) (hv : (s.tile c tl).pv = some v) (hr : s.recOf c tl v = some (g, i, r))
    (hc : 1600 ≤ v.cycle) (ho : out = Calib.run (calibOf s c tl v.facet) o.errs (s.kappa c tl)) (hn : o.failed = []) (hk : out.2 = true) :
    ∃ t, exec (.facetProgramDone c tl o) s = .next t ∧ (t.tile c tl).pv = none ∧ (t.tile c tl).st = .idle ∧
      t.facet c tl v.facet = calibrated out.1 ((s.chan c).arr.readCodes tl v.facet) (s.facet c tl v.facet) ∧
      ∀ b, b < 8 → (t.chan c).block tl v.facet b = {} := by
  obtain ⟨-, hch, htile, hfacet⟩ := State.recOf_place hr
  refine ⟨_, facetProgramDone_exec hf hp hv hr hc ho (if_pos (by rw [hn, hk]; rfl)), ?_⟩
  obtain ⟨hchans, hlive⟩ := acceptFacet_keeps (s.modTile c tl pvEnded) g i r out.1
  obtain ⟨h1, h2, h3⟩ := accepted_accepts (s.modTile c tl pvEnded) r out.1
  rw [hch, htile] at h1 h2 h3
  rw [hfacet] at h2 h3
  have hcodes : ((s.modTile c tl pvEnded).chan c).arr.readCodes tl v.facet = (s.chan c).arr.readCodes tl v.facet := by
    rw [Array.readCodes, State.codes_modTile]
    rfl
  rw [hcodes] at h2
  rw [State.tile_congr hchans, State.facet_congr (congrArg _ hlive), h1, h2, State.tile_modTile_same]
  refine ⟨rfl, rfl, congrArg _ (State.facet_congr rfl _ _ _), fun b hb => ?_⟩
  rw [State.chan, hchans]
  exact h3 b hb

/-! ### Retirement (R194) -/

/-- Facet `f` of a tile is retired and the tile's programming has ended. -/
structure Retired (c tl f : Nat) (s : State) : Prop where
  facet : (s.facet c tl f).st = .retired
  pv : (s.tile c tl).pv = none

namespace Retired

variable {c tl f : Nat} {s t : State}

theorem of (h : Retired c tl f s) (hl : t.store.live.chans = s.store.live.chans) (ht : t.tile c tl = s.tile c tl) : Retired c tl f t :=
  ⟨by rw [State.facet_congr hl]; exact h.facet, by rw [ht]; exact h.pv⟩

theorem dropRefreshes (h : Retired c tl f s) (hr : ∀ q ∈ s.host.pkgs, q.refresh = false) (p : Nat → Nat → Nat → Bool) :
    Retired c tl f (s.dropRefreshes p) := by
  rw [State.dropRefreshes_none hr]
  exact h.of (by rw [State.allChans_rest]) (State.tile_stopTiles_idle p h.pv)

/-- A tile changed only where it programs. -/
theorem modTile (h : Retired c tl f s) (d n : Nat) {g : Tile → Tile} (hg : ∀ x : Tile, x.pv = none → (g x).pv = none) :
    Retired c tl f (s.modTile d n g) := by
  refine ⟨h.facet, ?_⟩
  rw [State.tile_modTile]
  split
  · next e => exact hg _ (by rw [← e.1, ← e.2]; exact h.pv)
  · exact h.pv

/-- A facet changed only where it is staged. -/
theorem modFacet (h : Retired c tl f s) (d u n : Nat) : Retired c tl f (s.modFacet d u n (fun x => if x.st = .staging then x.release else x)) := by
  refine ⟨?_, h.pv⟩
  rw [State.facet_modFacet]
  split
  · next e =>
    have hx : s.facet d u n = s.facet c tl f := by rw [State.facet, State.facet, e.1, e.2]
    rw [hx, if_neg (by rw [h.facet]; decide)]
    exact h.facet
  · exact h.facet

theorem auditFailed (h : Retired c tl f s) (p : Pkg) (b : Bool) : Retired c tl f (s.auditFailed p b) := by
  have hl : ∀ (u : State) (a q r o : Nat), (u.audit a q r o).store.live = u.store.live := fun u a q r o => by
    unfold State.audit State.enterDropped
    dsimp only
    repeat' split
    all_goals rfl
  refine h.of (congrArg _ (hl _ _ _ _ _)) (State.tile_congr ?_ c tl)
  exact (Fr.auditFailed (m := { Mask.none with chans := true }) rfl rfl (Fr.refl _ s)).chans rfl

theorem finishHost (h : Retired c tl f s) (id status cause detail : Nat) : Retired c tl f (s.finishHost id status cause detail) := by
  have hd : DbgOnly s (s.finishHost id status cause detail) := by
    unfold State.finishHost
    split
    · exact .refl s
    · extract_lets _ e _ u
      have hu : DbgOnly s u := .of_chans rfl
      exact (hu.trans (Booked.sqDone u _ _).toDbgOnly).trans (Booked.complete _ e).toDbgOnly
  refine h.of (congrArg (fun x : Store => x.live.chans) ((Fr.finishHost (m := { Mask.none with store := true })
    rfl rfl rfl rfl (Fr.refl _ s)).store rfl)) ?_
  rw [State.tile, hd.chan]
  rfl

theorem failPkg (h : Retired c tl f s) (g : Nat) : Retired c tl f (s.failPkg g) := by
  unfold State.failPkg
  split
  · exact h
  · next p _ =>
    extract_lets u host w
    have hu : Retired c tl f u := by
      refine List.foldlRecOn _ _ h fun x hx r _ => ?_
      extract_lets y
      have hy : Retired c tl f y := hx.modTile _ _ fun t ht => by rw [ht]; exact ht
      split
      · exact hy
      · exact hy.modFacet _ _ _
    have hw : Retired c tl f w := hu.of rfl (State.tile_congr rfl c tl)
    split
    · exact hw
    · exact (hw.auditFailed p false).finishHost _ _ _ _

theorem failStaging (h : Retired c tl f s) : Retired c tl f s.failStaging := by
  unfold State.failStaging
  split
  · exact h.failPkg _
  · exact h

end Retired

theorem facet_retireFacetAt (s : State) (c t f d u h : Nat) : (s.retireFacetAt c t f).facet d u h =
    if d = c ∧ 16 * u + h = 16 * t + f then { s.facet c t f with st := .retired } else s.facet d u h := by
  rw [State.retireFacetAt, State.facet_event, (State.count_only _ _ _ _).facet, State.facet_modFacet]

theorem tile_retireFacetAt (s : State) (c t f d n : Nat) : (s.retireFacetAt c t f).tile d n = s.tile d n := by
  rw [State.retireFacetAt, State.tile_event, (State.count_only _ _ _ _).tile]
  exact State.tile_congr rfl d n

theorem host_retireFacetAt (s : State) (c t f : Nat) : (s.retireFacetAt c t f).host = s.host :=
  (Fr.retireFacetAt (m := { Mask.none with host := true }) rfl rfl rfl (Fr.refl _ s)).host rfl

/-- The facet of a record retired, and the record waiting for another. -/
def retiredRec (s : State) (g i : Nat) (r : PkgRec) : State :=
  (s.retireFacetAt r.ch r.tile r.facet).modRec g i (fun r => { r with st := .waiting, again := false })

section
variable {s : State} {g i : Nat} {r : PkgRec}

theorem retired_retiredRec (h : (s.tile r.ch r.tile).pv = none) : Retired r.ch r.tile r.facet (retiredRec s g i r) := by
  have ha : Retired r.ch r.tile r.facet (s.retireFacetAt r.ch r.tile r.facet) :=
    ⟨by rw [facet_retireFacetAt, if_pos ⟨rfl, rfl⟩], by rw [tile_retireFacetAt]; exact h⟩
  exact ha.of rfl (State.tile_congr rfl _ _)

theorem host_retiredRec : (retiredRec s g i r).host.pkgs =
    lmod s.host.pkgs g (fun p => { p with recs := lmod p.recs i (fun r => { r with st := .waiting, again := false }) }) := by
  rw [← host_retireFacetAt s r.ch r.tile r.facet]
  rfl

/-- The packages that were no refreshes are none. -/
theorem retiredRec_fresh (h : ∀ p ∈ s.host.pkgs, p.refresh = false) : ∀ p ∈ (retiredRec s g i r).host.pkgs, p.refresh = false := by
  intro p hp
  rw [host_retiredRec, lmod, List.mem_mapIdx] at hp
  obtain ⟨j, hj, rfl⟩ := hp
  have hq := h _ (List.getElem_mem hj)
  split
  · exact hq
  · exact hq

theorem retiredRec_refresh {p : Pkg} (h : s.host.pkgs[g]? = some p) :
    ∃ q, (retiredRec s g i r).host.pkgs[g]? = some q ∧ q.refresh = p.refresh := by
  rw [host_retiredRec, getElem?_lmod, h]
  exact ⟨_, rfl, by dsimp only; rw [if_pos rfl]⟩

/-- Another free facet stays free. -/
theorem freeFacets_retiredRec {n : Nat} (h : n ∈ s.freeFacets r.ch r.tile) (hn : n ≠ r.facet) :
    n ∈ (retiredRec s g i r).freeFacets r.ch r.tile := by
  obtain ⟨hr, hu⟩ := List.mem_filter.1 h
  refine List.mem_filter.2 ⟨hr, ?_⟩
  have hk : (retiredRec s g i r).facet r.ch r.tile n = s.facet r.ch r.tile n := by
    refine (State.facet_congr (s := s.retireFacetAt r.ch r.tile r.facet) rfl _ _ _).trans ?_
    rw [facet_retireFacetAt, if_neg fun k => hn (by omega)]
  rw [hk]
  exact hu

/-- R194: a facet whose programming failed is retired, where a free one is left or no refresh holds one. -/
theorem retireFacet_retires {p : Pkg} (hpv : (s.tile r.ch r.tile).pv = none) (hp : s.host.pkgs[g]? = some p)
    (h : (∃ n ∈ s.freeFacets r.ch r.tile, n ≠ r.facet) ∨ (∀ p ∈ s.host.pkgs, p.refresh = false) ∨ p.refresh = true) :
    Retired r.ch r.tile r.facet (s.retireFacet g i r) := by
  have hret : Retired r.ch r.tile r.facet (retiredRec s g i r) := retired_retiredRec hpv
  obtain ⟨q, hq, hqr⟩ := retiredRec_refresh (i := i) (r := r) hp
  unfold State.retireFacet
  rw [← retiredRec]
  extract_lets v u
  have hv : v = retiredRec s g i r := rfl
  clear_value v
  subst hv
  rw [hq]
  dsimp only
  split
  · exact hret
  · next hno =>
    have hall : ∀ q ∈ (retiredRec s g i r).host.pkgs, q.refresh = false := by
      rcases h with ⟨n, hn, hne⟩ | h | h
      · refine absurd ?_ hno
        have hne : ((retiredRec s g i r).freeFacets r.ch r.tile).isEmpty = false :=
          List.isEmpty_eq_false_iff.2 (List.ne_nil_of_mem (freeFacets_retiredRec hn hne))
        rw [hne]
        exact Bool.or_true _
      · exact retiredRec_fresh h
      · refine absurd ?_ hno
        rw [hqr, h]
        rfl
    have hdrop : Retired r.ch r.tile r.facet u := hret.dropRefreshes hall _
    split
    · exact hdrop.failStaging
    · exact hdrop

end

/-! ### Repair (R192, R193) -/

/-- The columns of a repair entered in the channel's store, and counted. -/
def repaired (s : State) (c : Nat) (y : ChanStore) : State :=
  (s.modStore c (fun x => { x with remap := y.remap, badCols := y.badCols })).countN c 0x3A
    (y.remap.length - (sget {} s.store.live.chans c).remap.length) none

theorem store_repaired (s : State) (c : Nat) (y : ChanStore) : (repaired s c y).store =
    (s.modStore c (fun x => { x with remap := y.remap, badCols := y.badCols })).store := by
  rw [repaired, (State.countN_only _ _ _ _ _).rest]

theorem chanStore_repaired (s : State) (c : Nat) (y : ChanStore) : sget {} (repaired s c y).store.live.chans c =
    { sget {} s.store.live.chans c with remap := y.remap, badCols := y.badCols } := by
  rw [store_repaired, State.modStore]
  dsimp only
  rw [sget_smod, if_pos rfl]

theorem facet_repaired (s : State) (c : Nat) (y : ChanStore) (u f : Nat) : (repaired s c y).facet c u f = s.facet c u f := by
  rw [State.facet, chanStore_repaired]
  rfl

theorem tile_repaired (s : State) (c : Nat) (y : ChanStore) (n : Nat) : (repaired s c y).tile c n = s.tile c n := by
  rw [repaired, (State.countN_only _ _ _ _ _).tile]
  exact State.tile_congr rfl _ _

theorem host_repaired (s : State) (c : Nat) (y : ChanStore) : (repaired s c y).host = s.host := by
  rw [repaired, (State.countN_only _ _ _ _ _).host]
  rfl

section
variable {s : State} {g i : Nat} {r : PkgRec} {v : Pv} {o : ProgOutcome} {y : ChanStore}

/-- A second failure, or a column that cannot be mapped, retires the facet. -/
theorem reprogram_retires (h : v.second = true ∨
    mapAllFailed r.ch r.tile v.facet (sget {} s.store.live.chans r.ch) (o.failed.map (fun e => (e.1, bnat e.2))) = none) :
    s.reprogram g i r v o = s.retireFacet g i r := by
  unfold State.reprogram
  dsimp only
  by_cases hs : v.second = true
  · exact if_pos hs
  · rw [if_neg hs, h.resolve_left hs]

theorem reprogram_repairs (hs : v.second = false)
    (hm : mapAllFailed r.ch r.tile v.facet (sget {} s.store.live.chans r.ch) (o.failed.map (fun e => (e.1, bnat e.2))) = some y) :
    s.reprogram g i r v o = (repaired s r.ch y).modRec g i (fun r => { r with st := .waiting, again := true }) := by
  unfold State.reprogram
  dsimp only
  rw [hs, if_neg Bool.false_ne_true, hm]
  rfl

theorem pkgs_modRec {u : State} {p : Pkg} {f : PkgRec → PkgRec} (hp : u.host.pkgs[g]? = some p) (hr : p.recs[i]? = some r) :
    ∃ q, (u.modRec g i f).host.pkgs[g]? = some q ∧ q.recs[i]? = some (f r) := by
  rw [State.modRec, getElem?_lmod, hp]
  refine ⟨_, rfl, ?_⟩
  dsimp only
  rw [if_pos rfl, getElem?_lmod, hr, Option.map_some, if_pos rfl]

end

section
variable {s : State} {c tl g i : Nat} {v : Pv} {r : PkgRec} {o : ProgOutcome} {out : List BlockCal × Bool} {x y : ChanStore}

/-- R192, R194: a programming that is not accepted. -/
theorem facetProgramDone_fails (hf : s.fitted c = true) (hp : (s.tile c tl).st = .programming) (hv : (s.tile c tl).pv = some v)
    (hr : s.recOf c tl v = some (g, i, r)) (hc : 1600 ≤ v.cycle) (ho : out = Calib.run (calibOf s c tl v.facet) o.errs (s.kappa c tl))
    (hn : ¬ (o.failed = [] ∧ out.2 = true)) :
    exec (.facetProgramDone c tl o) s = .next ((s.modTile c tl pvEnded).reprogram g i r v o) :=
  facetProgramDone_exec hf hp hv hr hc ho (if_neg fun h => hn (by simpa using h))

theorem reprogram_idle_retires (hr : s.recOf c tl v = some (g, i, r))
    (h : v.second = true ∨ mapAllFailed c tl v.facet (sget {} s.store.live.chans c) (o.failed.map (fun e => (e.1, bnat e.2))) = none)
    (hfree : (∃ n ∈ s.freeFacets c tl, n ≠ v.facet) ∨ (∀ p ∈ s.host.pkgs, p.refresh = false) ∨
      (∃ p, s.host.pkgs[g]? = some p ∧ p.refresh = true)) :
    Retired c tl v.facet ((s.modTile c tl pvEnded).reprogram g i r v o) := by
  obtain ⟨⟨p, hpkg, -⟩, hch, htile, hfacet⟩ := State.recOf_place hr
  rw [reprogram_retires (by rw [hch, htile]; exact h)]
  have hret := retireFacet_retires (s := s.modTile c tl pvEnded) (g := g) (i := i) (r := r) (p := p)
    (by rw [hch, htile, State.tile_modTile_same]; rfl) hpkg
  rw [hch, htile, hfacet] at hret
  refine hret ?_
  rcases hfree with hf | hf | ⟨q, hq, hf⟩
  · exact .inl hf
  · exact .inr (.inl hf)
  · rw [hpkg] at hq
    exact .inr (.inr (Option.some.inj hq ▸ hf))

theorem reprogram_idle_repairs (hr : s.recOf c tl v = some (g, i, r)) (hs : v.second = false)
    (hm : mapAllFailed c tl v.facet (sget {} s.store.live.chans c) (o.failed.map (fun e => (e.1, bnat e.2))) = some y) :
    ∃ t p, (s.modTile c tl pvEnded).reprogram g i r v o = t ∧ (t.tile c tl).pv = none ∧
      (sget {} t.store.live.chans c).remap = y.remap ∧ (sget {} t.store.live.chans c).badCols = y.badCols ∧
      t.host.pkgs[g]? = some p ∧ p.recs[i]? = some { r with st := .waiting, again := true } := by
  obtain ⟨⟨p, hpkg, hrec⟩, hch, htile, -⟩ := State.recOf_place hr
  rw [reprogram_repairs hs (by rw [hch, htile]; exact hm), hch]
  have hhost := host_repaired (s.modTile c tl pvEnded) c y
  have hstore := chanStore_repaired (s.modTile c tl pvEnded) c y
  have htile' := (tile_repaired (s.modTile c tl pvEnded) c y tl).trans (State.tile_modTile_same _ _ _ _)
  generalize repaired (s.modTile c tl pvEnded) c y = u at hhost hstore htile' ⊢
  obtain ⟨q, hq, hqr⟩ := pkgs_modRec (u := u) (f := fun r => { r with st := .waiting, again := true }) (by rw [hhost]; exact hpkg) hrec
  obtain ⟨hmc, hms⟩ := u.modRec_keeps g i (fun r => { r with st := .waiting, again := true })
  refine ⟨_, q, rfl, ?_, ?_, ?_, hq, hqr⟩
  · rw [State.tile_congr hmc, htile']
    rfl
  · rw [hms, hstore]
  · rw [hms, hstore]

end

/-! ### Facets freed (R188, R195, R196) -/

section
variable {s : State} {c tl f : Nat} {y : ChanStore}

theorem facetFreed_exec (hf : s.fitted c = true) (hm : (s.facet c tl f).st = .mapped) (hn : mapNames (s.chan c).arr.map tl f = false)
    (hr : (s.tile c tl).run = none) : exec (.facetFreed c tl f) s = .next (s.freeFacet c tl f) := by
  rw [show exec (.facetFreed c tl f) s = execFacetFreed c tl f s from rfl, execFacetFreed, hr]
  exact onlyIf_true (by rw [hf, hm, hn]; rfl)

/-- A facet that nothing uses, with no column left to map. -/
def unused (x : Facet) : Facet := { x.release with stuck := [] }

theorem remap_modFacet (s : State) (c t f : Nat) (g : Facet → Facet) :
    (sget {} (s.modFacet c t f g).store.live.chans c).remap = (sget {} s.store.live.chans c).remap := by
  rw [State.modFacet, State.modStore]
  dsimp only
  rw [sget_smod, if_pos rfl]

theorem freeFacet_repairs (h : mapAllFailed c tl f (sget {} s.store.live.chans c) ((s.facet c tl f).stuck.map (fun col => (col, 3))) = some y) :
    s.freeFacet c tl f = repaired (s.modFacet c tl f unused) c y := by
  unfold State.freeFacet
  dsimp only
  rw [h, repaired, remap_modFacet]
  rfl

theorem freeFacet_retires (h : mapAllFailed c tl f (sget {} s.store.live.chans c) ((s.facet c tl f).stuck.map (fun col => (col, 3))) = none) :
    s.freeFacet c tl f = (s.modFacet c tl f unused).retireFacetAt c tl f := by
  unfold State.freeFacet
  dsimp only
  rw [h]
  rfl

theorem repaired_rest (s : State) (c : Nat) (y : ChanStore) :
    repaired s c y = { s with store := (repaired s c y).store, chans := (repaired s c y).chans } := by
  rw [repaired, (State.countN_only _ _ _ _ _).rest]
  rfl

theorem retireFacetAt_rest (s : State) (c t f : Nat) : s.retireFacetAt c t f =
    { s with store := (s.retireFacetAt c t f).store, chans := (s.retireFacetAt c t f).chans, hub := (s.retireFacetAt c t f).hub } := by
  rw [State.retireFacetAt, State.event_rest, (State.count_only _ _ _ _).rest]
  rfl

/-- R188, R195, R196: a facet freed is free or worn, or retired where a stuck column finds no spare. -/
theorem freeFacet_frees (s : State) (c tl f : Nat) :
    s.freeFacet c tl f = { s with
      store := (s.freeFacet c tl f).store, chans := (s.freeFacet c tl f).chans, hub := (s.freeFacet c tl f).hub } ∧
    (∀ y, mapAllFailed c tl f (sget {} s.store.live.chans c) ((s.facet c tl f).stuck.map (fun col => (col, 3))) = some y →
      (sget {} (s.freeFacet c tl f).store.live.chans c).remap = y.remap ∧ (sget {} (s.freeFacet c tl f).store.live.chans c).badCols = y.badCols ∧
      (s.freeFacet c tl f).facet c tl f = unused (s.facet c tl f)) ∧
    (mapAllFailed c tl f (sget {} s.store.live.chans c) ((s.facet c tl f).stuck.map (fun col => (col, 3))) = none →
      ((s.freeFacet c tl f).facet c tl f).st = .retired) ∧
    ∀ x, x ≠ f → (s.freeFacet c tl f).facet c tl x = s.facet c tl x := by
  have hne : ∀ x, x ≠ f → ¬ (c = c ∧ 16 * tl + x = 16 * tl + f) := fun x hx k => hx (by omega)
  cases hm : mapAllFailed c tl f (sget {} s.store.live.chans c) ((s.facet c tl f).stuck.map (fun col => (col, 3))) with
  | none =>
    rw [freeFacet_retires hm]
    refine ⟨?_, nofun, fun _ => ?_, fun x hx => ?_⟩
    · rw [retireFacetAt_rest]
      rfl
    · rw [facet_retireFacetAt, if_pos ⟨rfl, rfl⟩]
    · rw [facet_retireFacetAt, if_neg (hne x hx), State.facet_modFacet, if_neg (hne x hx)]
  | some y =>
    rw [freeFacet_repairs hm]
    refine ⟨?_, fun z hz => ?_, nofun, fun x hx => ?_⟩
    · rw [repaired_rest]
      rfl
    · obtain rfl := Option.some.inj hz
      rw [chanStore_repaired, facet_repaired, State.facet_modFacet_same]
      exact ⟨rfl, rfl, rfl⟩
    · rw [facet_repaired, State.facet_modFacet, if_neg (hne x hx)]

end

/-- Settles O24, a clause for each step of a load: staging, cycles, the end of a programming, a facet freed, a shared table copied. -/
theorem facetsAreProgrammed : Obligations.FacetsAreProgrammed := by
  refine fun s c tl f hf => ⟨fun p g ha hs hp hr hd => packageStagingStart_stages ha hs hp hr hd, fun v hp hv => ⟨fun hd => pvCycleEnd_writes hf hp hv hd,
    fun g i r o hr hc x k out hx hk ho => ?_⟩, fun hm hn hrun _ m hmap => ?_, fun h => sharedTablesCopyEnd_ends hf h⟩
  · subst hx hk
    refine ⟨fun hn ht => facetProgramDone_accepts hf hp hv hr hc ho hn ht, fun hn m hm => ⟨fun h hfree => ?_, fun y hs hy => ?_⟩⟩
    · subst hm
      obtain ⟨hst, hpv⟩ := reprogram_idle_retires (g := g) (i := i) (r := r) hr h hfree
      exact ⟨_, facetProgramDone_fails hf hp hv hr hc ho hn, hst, hpv⟩
    · subst hm
      obtain ⟨t, p, rfl, ht⟩ := reprogram_idle_repairs (g := g) (i := i) (r := r) hr hs hy
      exact ⟨_, p, facetProgramDone_fails hf hp hv hr hc ho hn, ht⟩
  · subst hmap
    obtain ⟨hrest, hsome, hnone, hothers⟩ := freeFacet_frees s c tl f
    refine ⟨_, facetFreed_exec hf hm hn hrun, hrest, fun y hy => ?_, hnone, fun x _ hx => hothers x hx⟩
    obtain ⟨h1, h2, h3⟩ := hsome y hy
    exact ⟨h1, h2, h3⟩

end Sys2Proof.Claims
end
